-- ==== Sys2Proof/Word.lean ====
section
/-! DEFINITION. The word types of the SV2-256 model (R3: registers are 64 bits wide and little-endian; a line is 64 bytes). -/

namespace Sys2Proof

/-- One byte of any store. -/
abbrev Byte := BitVec 8

/-- One register (R3). -/
abbrev Word := BitVec 64

/-- An error code of Table 4-24. -/
abbrev Code := BitVec 16

/-- An FP32 or INT32 bit pattern (Table 3-1, codes 12 and 13). -/
abbrev F32 := BitVec 32

end Sys2Proof
end

