-- ==== Sys2Proof/Syntax.lean ====
section
/-! DEFINITION. The commands of the SV2-256 model: `Instr`, one constructor for each row of spec/opcode_table.json, and the
types of their operands. An operand says what the sender of the command brings: a driver's write, what memory outside the die
answers, what a detector saw, or a choice the manual leaves to the device (notes/assumptions/2.md). -/

namespace Sys2Proof

/-- The two register views (R524, R525): P is BAR0, U is BAR2. -/
inductive View | P | U
  deriving DecidableEq, Repr

/-- What a read of a protected store finds (R94, R188, R657): nothing, an error it corrects, or one it cannot. -/
inductive ReadRes | clean | corrected | uncorrectable
  deriving DecidableEq, Repr

/-- What the host, or another die, answers to a read or a write of the die's. -/
inductive HostReply
  | data (bytes : List Byte)
  | error
  deriving DecidableEq, Repr

/-- A halting detection inside a core (Table 2-12, Table 2-13), or none. -/
inductive CoreFault | none | aligner | accumulate | vector | parity | control
  deriving DecidableEq, Repr

/-- What a core's read of its commands gives, and a detection on the way. -/
structure StreamRead where
  rd : ReadRes
  fault : CoreFault
  deriving DecidableEq, Repr

/-- A core at work on rows that it reads from its accumulators, and the detection found there, if any. -/
structure CoreTurn where
  core : Fin 272
  fault : CoreFault
  deriving DecidableEq, Repr

/-- A detection in an agent outside the cores (R673, R675): a parity error on data, or a duplicated-logic disagreement. -/
inductive AgentFault | none | parity | control
  deriving DecidableEq, Repr

/-- An agent shared by the whole die whose duplicated logic is compared (R673, Table 16-10). -/
inductive DieAgent | hub | mesh | zeroing | hbmController | flashController | adapter
  deriving DecidableEq, Repr

/-- A detection on the way of a grant (R673, R675): a parity error on data, a duplicated-logic disagreement in the regulator, or one in
an agent that the row of no other command names. -/
inductive GrantFault | none | parity | control | agent (x : DieAgent)
  deriving DecidableEq, Repr

/-- The engines of Table 4-15 that hold commands. -/
inductive Engine | weight | array | drain | vector | attention | transfer
  deriving DecidableEq, Repr

/-- A disturbance of one physical column's 56-bit result (R74): vector of the issue cycle, column (64 is the checksum column, 65 the
spare column), added value. -/
structure Upset where
  vec : Fin 2
  col : Fin 66
  delta : BitVec 56
  deriving DecidableEq, Repr

/-- A spare row and column to steer into one array (Table 2-14, row 2). -/
structure Steer where
  array : Fin 4
  row : Option (Fin 64)
  col : Option (Fin 65)
  deriving DecidableEq, Repr

/-- The finding of a core's self-test (Table 2-14). -/
inductive SelfTest
  | noFault
  | steer (s : List Steer)
  | other
  deriving DecidableEq, Repr

/-- A page group's place on its channel (Table 14-2): target, LUN, block and page. A block is named by its group of page 0. -/
structure FlashGroup where
  target : Fin 8
  lun : Fin 16
  block : Fin 524288
  page : Fin 4096
  deriving DecidableEq, Repr

/-- How a page-group program ended (R584, R585). -/
inductive ProgramResult | verified | mismatch | timeout
  deriving DecidableEq, Repr

/-- What training learns of a port's other end and lanes (Table 11-2): the peer's die, port, ENC and ROUTE_EPOCH, the receiving lanes
that fail here, and the transmitting lanes that fail at the peer. -/
structure PeerInfo where
  die : BitVec 8
  port : BitVec 4
  enc : Bool
  epoch : BitVec 64
  badLanes : List (Fin 8)
  badTx : List (Fin 8)
  deriving DecidableEq, Repr

/-- An Olila frame: the header of Table 11-3, the payload bytes, and what the trailer holds (R430): GCM tag and CRC-64. -/
structure Frame where
  typ : BitVec 8
  flags : BitVec 8
  lines : BitVec 8
  hops : BitVec 8
  seq : BitVec 16
  ack : BitVec 16
  src : BitVec 8
  dst : BitVec 8
  ctx : BitVec 16
  counter : BitVec 64
  addr : BitVec 64
  tag : BitVec 64
  arg : BitVec 64
  payload : List Byte
  gcmTag : BitVec 128 := 0
  crc : BitVec 64 := 0
  deriving DecidableEq, Repr

/-- A CONTROL frame that returns credits: how many, and its ACK (Table 11-3, R435). -/
structure CreditFrame where
  n : Nat
  ack : BitVec 12
  deriving DecidableEq, Repr

/-- A symbol that a link disturbed: the lane that carried it, its codeword among the frame's and its place there (R431), and what was
added to it. -/
structure SymHit where
  lane : Fin 8
  word : Nat
  sym : Fin 272
  delta : Byte
  deriving DecidableEq, Repr

/-- A frame as it comes off the wire: what the peer sent, and the symbols disturbed on the way (R431 to R433). -/
structure RxFrame where
  frame : Frame
  hits : List SymHit := []
  deriving DecidableEq, Repr

/-- A keying message of Table 17-7: identity key, encapsulation key or ciphertext, random value, signature. -/
structure KeyMsg where
  pub : List Byte
  body : List Byte
  rand : BitVec 256
  sig : List Byte
  deriving DecidableEq, Repr

/-- What a UCIe module's training finds (R516): failing data lanes by direction and half. -/
structure LaneTest where
  txBad : Nat
  rxBad : Nat
  halfUsable : Bool
  deriving DecidableEq, Repr

/-- The header read from a parcel at step 5 of Table 14-7. -/
structure ParcelHeader where
  id : BitVec 64
  capacityMiB : BitVec 40
  deriving DecidableEq, Repr

/-- What a start step reads from outside the die (Table 15-1). -/
inductive StartData
  | plain
  | nor (a b : List Byte)
  | boardFlash (trained : BitVec 16)
  deriving DecidableEq, Repr

/-- The power meters' reading for one control period (R630, R631), in 0.25 W units: base, memory and link demand, and each
cluster's power. -/
structure PowerMeas where
  base : Nat
  memory : Nat
  links : Nat
  clusters : List Nat
  total : BitVec 12
  deriving DecidableEq, Repr

/-- A structure in hub SRAM (Table 16-7). -/
inductive HubStruct
  | context (x : Fin 1024)
  | queue (q : Fin 4096)
  | sequence (n : Fin 65536)
  | extent (x : Fin 1024)
  | proxy (x : Fin 1024)
  | savedSet (x : Fin 1024)
  | posteRestante (x : Fin 1024)
  | region (r : Fin 255)
  | fwCopy (k : Fin 4)
  | fwBlock (f : Fin 19)
  | txnShadow (t : Fin 8)
  deriving DecidableEq, Repr

/-- A line, word or object that a scrub read visits (R664). -/
inductive ScrubTarget
  | bench (c : Fin 272) (line : Fin 16384)
  | store (cl : Fin 16) (line : Fin 65536)
  | hub (h : HubStruct) (line : Fin 393216)
  | syncCluster (cl : Fin 16) (idx : Fin 4096)
  | syncHub (x : Fin 1024) (idx : Fin 196608)
  | hbm (line : Nat)
  deriving DecidableEq, Repr

/-- The clock domains that a monitor watches (R667, Table 16-6). -/
inductive ClockDom | aclk | fclk | cclk | mclk | uclk | oclk | nclk | refclk | sclk
  deriving DecidableEq, Repr

/-- What a monitor window saw (R667). -/
inductive ClockObs | good | stopped | offFrequency
  deriving DecidableEq, Repr

/-- An SRAM row that a store copies to a spare row (R678). -/
inductive SramRow
  | bench (c : Fin 272) (bank : Fin 16) (row : Nat)
  | store (cl : Fin 16) (bank : Fin 16) (row : Nat)
  | hub (bank : Fin 24) (row : Nat)
  deriving DecidableEq, Repr

/-- The commands of the block: one constructor for each row of spec/opcode_table.json, with the rule the row cites. -/
inductive Instr
  /-- A register write with no behaviour of its own changes each field as its access type defines. (R7) -/
  | registerWrite (v : View) (off len value : Nat)
  /-- A write inside the firmware aperture stores its bytes at their offsets unless loading has been released. (R755) -/
  | rstFwWindowWrite (off : Nat) (data : List Byte)
  /-- A P-view write to a register of a domain that an open transaction holds is recorded as a shadow write. (R553) -/
  | shadowWrite (off len value : Nat)
  /-- A doorbell write sets the queue's TAIL. (R535) -/
  | hifDoorbell (v : View) (win : Fin 1024) (q : Fin 4096) (tail : BitVec 32)
  /-- A fetched letter arrives from its ring and is checked for acceptance. (R759) -/
  | letterFetch (q : Fin 4096) (host : HostReply) (rd : ReadRes)
  /-- A NOP letter starts and completes at once. (R152) -/
  | nopLetter (q : Fin 4096)
  /-- A RUN letter starts, has its image admitted and begins each member's stream. (R160) -/
  | run (q : Fin 4096) (rd : ReadRes)
  /-- A SIGNAL letter starts after every earlier letter has completed and sends its signal to the object. (R148) -/
  | signalLetter (q : Fin 4096)
  /-- A WAIT letter registers a wait and holds its queue until the wait completes. (R193) -/
  | waitLetter (q : Fin 4096)
  /-- A MOVE letter runs its first descriptor and then its chain on a courier. (R233) -/
  | move (q : Fin 4096)
  /-- A GATHER letter is checked and its bags are dealt to the sorters. (R377) -/
  | gather (q : Fin 4096) (rd : ReadRes)
  /-- OPEN binds a free sequence number to the letter's context with empty tables. (R302) -/
  | seqOpen (q : Fin 4096)
  /-- STEP records L0 and PENDING, reserves frames and opens a step. (R302) -/
  | seqStep (q : Fin 4096) (frames : List Nat)
  /-- END adds PENDING to LENGTH, adopts staged edits and releases pages below the window. (R303) -/
  | seqEnd (q : Fin 4096)
  /-- CLOSE releases every frame, flash slot and table of the sequence. (R302) -/
  | seqClose (q : Fin 4096)
  /-- The last table-line write of a SEQ operation is acknowledged and the operation takes effect. (R760) -/
  | seqTableWritesDone (n : Fin 65536)
  /-- A PLACE letter starts streaming layers of a region into its slots. (R343) -/
  | place (q : Fin 4096)
  /-- A SWAP letter starts replacing layers of a region in groups under the gate. (R351) -/
  | swap (q : Fin 4096)
  /-- ROUTE reads route records, releases those of resident experts and holds the rest. (R359) -/
  | promoteRoute (q : Fin 4096) (rd : ReadRes)
  /-- FETCH promotes an expert and completes when it is resident. (R365) -/
  | promoteFetch (q : Fin 4096)
  /-- PIN promotes an expert and sets it PINNED. (R365) -/
  | promotePin (q : Fin 4096)
  /-- UNPIN clears an expert's PINNED flag. (R365) -/
  | promoteUnpin (q : Fin 4096)
  /-- A TIME letter runs rounds of stamp exchange with a peer die. (R462) -/
  | time (q : Fin 4096)
  /-- ALL_GATHER joins every member's input on every die. (R457) -/
  | collectiveAllGather (q : Fin 4096)
  /-- ALL_REDUCE sums the vector element-wise over the ring. (R458) -/
  | collectiveAllReduce (q : Fin 4096)
  /-- BROADCAST copies the root's bytes to every die of the unit. (R459) -/
  | collectiveBroadcast (q : Fin 4096)
  /-- A letter completes and COMPLETED advances over the completed prefix. (R154) -/
  | letterComplete (q : Fin 4096) (pm : BitVec 32) (hostErr : Bool)
  /-- A completion record is written in postmark order once ring space allows. (R154) -/
  | completionRecordWrite (q : Fin 4096) (hostErr : Bool)
  /-- A member begins dispatching a RUN's stream. (R163) -/
  | streamBegin (c : Fin 272)
  /-- Fetched core commands arrive in the core's command queue. (R162) -/
  | streamFetch (c : Fin 272) (n : Nat) (rd : StreamRead)
  /-- A NOP core command completes at dispatch. (R171) -/
  | nop (c : Fin 272)
  /-- END is dispatched and completes once every earlier command has completed. (R164) -/
  | endCmd (c : Fin 272)
  /-- PHASE sets the core's current phase ID. (R179) -/
  | phase (c : Fin 272)
  /-- LDT loads COUNT tiles into the shadow buffers from the lace or the bench. (R43) -/
  | ldt (c : Fin 272)
  /-- LDS loads the stationary buffers of the selected arrays from the bench. (R49) -/
  | lds (c : Fin 272)
  /-- MAC issues vectors against tiles into accumulator rows. (R57) -/
  | mac (c : Fin 272)
  /-- DRAIN reads accumulator rows, converts them and sends them to the bench, a register or the external port. (R63) -/
  | drain (c : Fin 272)
  /-- Lane-wise a + b. (R136) -/
  | vecAdd (c : Fin 272)
  /-- Lane-wise a − b. (R136) -/
  | vecSub (c : Fin 272)
  /-- Lane-wise a × b. (R136) -/
  | vecMul (c : Fin 272)
  /-- Lane-wise a × b + c with one rounding. (R136) -/
  | vecFma (c : Fin 272)
  /-- Lane-wise minimum. (R137) -/
  | vecMin (c : Fin 272)
  /-- Lane-wise maximum. (R137) -/
  | vecMax (c : Fin 272)
  /-- Lane-wise less-than mask. (R137) -/
  | vecCmplt (c : Fin 272)
  /-- Lane-wise equality mask. (R137) -/
  | vecCmpeq (c : Fin 272)
  /-- Lane-wise select of a or b by c. (R177) -/
  | vecSel (c : Fin 272)
  /-- Converts a from SFMT to DFMT. (R139) -/
  | vecCvt (c : Fin 272)
  /-- Pairwise sum across lanes into lane 0. (R83) -/
  | vecSum (c : Fin 272)
  /-- Maximum across lanes into lane 0. (R177) -/
  | vecHmax (c : Fin 272)
  /-- Lane-wise exp2 on the special lanes. (R85) -/
  | vecExp2 (c : Fin 272)
  /-- Lane-wise reciprocal. (R85) -/
  | vecRcp (c : Fin 272)
  /-- Lane-wise reciprocal square root. (R85) -/
  | vecRsq (c : Fin 272)
  /-- Reads l of 128 online-softmax state entries. (R90) -/
  | vecStateL (c : Fin 272)
  /-- Reads m of 128 online-softmax state entries. (R90) -/
  | vecStateM (c : Fin 272)
  /-- Loads vector registers from the bench. (R82) -/
  | vmemLoad (c : Fin 272) (rd : ReadRes)
  /-- Stores vector registers to the bench. (R82) -/
  | vmemStore (c : Fin 272)
  /-- A pipelined ATTN appends new KV rows and runs blocks through all four arrays. (R276) -/
  | attnPipelined (c : Fin 272)
  /-- A sequenced ATTN runs blocks on A0, A1 and the vector unit. (R284) -/
  | attnSequenced (c : Fin 272)
  /-- After the last block the output rows are normalised and written to the bench. (R282) -/
  | attnNormalise (c : CoreTurn)
  /-- XFER with DIR 0 hands a bench-to-remote descriptor to the cluster courier. (R234) -/
  | xferBenchToRemote (c : Fin 272)
  /-- XFER with DIR 1 hands a remote-to-bench descriptor to the cluster courier. (R234) -/
  | xferRemoteToBench (c : Fin 272)
  /-- A WAIT core command registers a wait and holds dispatch. (R172) -/
  | wait (c : Fin 272)
  /-- A SIGNAL core command enters the signal queue. (R173) -/
  | signal (c : Fin 272)
  /-- A core command reaches its completion point. (R171) -/
  | commandComplete (c : Fin 272) (eng : Engine) (fault : CoreFault)
  /-- A queued signal leaves once the commands its AFTER mask covers have completed. (R173) -/
  | signalQueueRelease (c : Fin 272)
  /-- A member's stream ends after END or an error. (R164) -/
  | streamEnd (c : Fin 272)
  /-- An array issue slot carries a vector or a bubble in an ACLK. (R38) -/
  | vectorIssue (c : Fin 272) (a : Fin 4) (fault : CoreFault)
  /-- A stationary load advances 128 B in a free issue slot. (R280) -/
  | stationaryLoadCycle (c : Fin 272) (a : Fin 4) (rd : ReadRes) (fault : CoreFault)
  /-- A vector reaches its accumulate stage, is checked and commits if it passes. (R38) -/
  | vectorAccumulate (c : Fin 272) (a : Fin 4) (upsets : List Upset) (fault : CoreFault)
  /-- The shadow tile is swapped into the active buffers of all four arrays. (R47) -/
  | tileSwap (c : Fin 272)
  /-- The W port accepts 256 B of tile elements into the shadow buffers. (R44) -/
  | wPortChunk (c : Fin 272) (rd : ReadRes) (fault : CoreFault)
  /-- A drain reads one accumulator row for conversion. (R63) -/
  | drainRowRead (c : Fin 272) (a : Fin 4) (fault : CoreFault)
  /-- The O port takes converted rows from the arrays. (R64) -/
  | oPortTake (c : Fin 272) (fault : CoreFault)
  /-- A bench line read by a feeder or fetch unit arrives. (R68) -/
  | feederLineArrive (c : Fin 272) (a : Fin 4) (f : Fin 2) (rd : ReadRes) (fault : CoreFault)
  /-- An expander expands one compressed block into a vector. (R408) -/
  | blockExpand (c : Fin 272) (a : Fin 4) (f : Fin 2) (fault : CoreFault)
  /-- A corrected bench line is written back in the bank's next free slot. (R95) -/
  | benchCorrectedWriteback (c : Fin 272) (line : Fin 16384)
  /-- A score row enters the online-softmax stage. (R86) -/
  | softmaxRowEnter (c : CoreTurn)
  /-- The stage delivers alpha and p and writes the state entry. (R88) -/
  | softmaxRowDeliver (c : Fin 272) (fault : CoreFault)
  /-- The control core self-tests a halted core and acts on the finding. (R100) -/
  | coreSelfTest (c : Fin 272) (finding : SelfTest)
  /-- An ADD signal is applied at the object's home and waits are re-evaluated. (R190) -/
  | syncSignalAdd (i : Nat) (rd : ReadRes)
  /-- A SUB signal is applied at the object's home and waits are re-evaluated. (R190) -/
  | syncSignalSub (i : Nat) (rd : ReadRes)
  /-- A SET signal sets COUNT and the owner at the object's home. (R190) -/
  | syncSignalSet (i : Nat) (rd : ReadRes)
  /-- A wait arrives at the home and completes at once or is registered. (R195) -/
  | syncWaitArrive (i : Nat) (rd : ReadRes)
  /-- A slab copy ends and held operations are applied to the spare. (R219) -/
  | syncSlabCopyDone (home : Fin 17) (slab : Nat)
  /-- A write to SYN_PORT_DATA clears sticky flags of the named object. (R222) -/
  | synPortDataWrite (v : View) (win : Fin 1024) (value : BitVec 64)
  /-- The filler hold ends and the level begins to step down. (R213) -/
  | fillerHoldExpiry (c : Fin 272) (a : Fin 4)
  /-- A filler step period ends and k falls by 1. (R213) -/
  | fillerStepExpiry (c : Fin 272) (a : Fin 4)
  /-- A 64-ACLK frame after a wait raises the issue cap by RISE. (R217) -/
  | fillerRiseFrame (c : Fin 272) (a : Fin 4)
  /-- A courier starts a queued descriptor after checking it. (R235) -/
  | descriptorStart (k : Fin 20)
  /-- A MOVE reads its next chained descriptor from the die window. (R233) -/
  | chainDescriptorRead (q : Fin 4096) (pm : BitVec 32) (rd : ReadRes)
  /-- A courier issues one request for an active descriptor in rotation. (R235) -/
  | courierRequestIssue (k : Fin 20) (fault : AgentFault)
  /-- Read data or a write acknowledgement returns and frees a tag. (R226) -/
  | courierResponse (k : Fin 20) (tag : Nat) (reply : HostReply) (rd : ReadRes) (fault : AgentFault)
  /-- Every line of a descriptor is written and acknowledged. (R237) -/
  | descriptorComplete (k : Fin 20) (id : Nat)
  /-- The lace entry sends a tile chunk to member 0. (R242) -/
  | laceChunkSend (cl : Fin 16) (fault : CoreFault)
  /-- A member forwards its chunk register to the next member. (R244) -/
  | laceChunkForward (cl : Fin 16) (m : Fin 16) (fault : CoreFault)
  /-- A chunk returns from member 15 to the entry, completing the feed at the last. (R246) -/
  | laceChunkReturn (cl : Fin 16)
  /-- A regulated port chooses a class and request at a grant opportunity. (R254) -/
  | regulatorGrant (p : Fin 22) (fault : GrantFault)
  /-- A port's window ends and the used counts clear. (R254) -/
  | regulatorWindowEnd (p : Fin 22)
  /-- A page-walker read returns and is staged, masked positions as +0. (R296) -/
  | walkerReadReturn (cl : Fin 16) (tag : Nat) (rd : ReadRes)
  /-- A waiting STEP receives all the frames it needs. (R309) -/
  | stepFramesGranted (n : Fin 65536) (frames : List Nat)
  /-- The scheduler core chooses a victim sequence and starts demoting its pages. (R312) -/
  | victimDemotion (x : Fin 1024) (slot : Nat) (grp : FlashGroup)
  /-- A demoted page's verified program ends and its HBM frame is freed. (R312) -/
  | pageDemoted (n : Fin 65536) (ok : Bool) (slot : Nat) (grp : FlashGroup)
  /-- A page read back from flash for a STEP arrives in its frame. (R315) -/
  | pageReadback (n : Fin 65536) (rd : ReadRes)
  /-- A streamed layer's copy is acknowledged and FULL is signalled. (R343) -/
  | placeLayerCopied (q : Fin 4096) (pm : BitVec 32)
  /-- A group's read from a flash source into staging ends. (R352) -/
  | swapGroupStaged (q : Fin 4096) (pm : BitVec 32)
  /-- The SWAP's wait on the gate completes and the group's copy begins. (R351) -/
  | swapGateTaken (q : Fin 4096) (pm : BitVec 32)
  /-- A group's copy is acknowledged and the gate is returned. (R351) -/
  | swapGroupCopied (q : Fin 4096) (pm : BitVec 32)
  /-- A ready record is written to the ring after CREDIT and READY is signalled. (R360) -/
  | routeRecordRelease (r : Fin 255) (i : Nat)
  /-- A promotion takes a slot and begins copying its expert. (R362) -/
  | promotionStart
  /-- An expert becomes resident and its held records are released. (R361) -/
  | promotionDone (r : Fin 255) (u : Nat)
  /-- The zeroing engine issues one 256 B zero write. (R368) -/
  | zeroRequestIssue
  /-- A page's last zero write is acknowledged and the page becomes free. (R488) -/
  | zeroPageComplete
  /-- A sorter starts a dealt bag. (R384) -/
  | bagStart (k : Fin 6) (rd : ReadRes)
  /-- A row of a bag arrives and is pooled in order. (R382) -/
  | bagRowArrive (k : Fin 6) (slot : Fin 16) (rd : ReadRes)
  /-- A bag's output lines are acknowledged, completing the GATHER at the last. (R386) -/
  | bagOutputAck (k : Fin 6) (slot : Fin 16)
  /-- A sorter looks up a cold line in the hot-row cache. (R390) -/
  | cacheLookup (k : Fin 6) (slot : Fin 16) (ue : Bool)
  /-- A flash sector read for a sorter returns. (R395) -/
  | sectorReadReturn (k : Fin 6) (tag : Nat) (rd : ReadRes)
  /-- INV_ALL starts invalidating every cache entry. (R398) -/
  | srtCacheInvAll
  /-- INV starts invalidating the entries of one region. (R398) -/
  | srtCacheInv (r : BitVec 8)
  /-- An invalidation reaches every set and BUSY clears. (R398) -/
  | cacheInvalidateDone
  /-- A port completes a training step. (R423) -/
  | olaTrainStepDone (p : Fin 12) (peer : PeerInfo)
  /-- A training step exceeds its limit and the port goes DOWN. (R423) -/
  | olaTrainTimeout (p : Fin 12)
  /-- A lane's corrected-symbol count exceeds LANE_ERR_MAX and the port enters REPAIR. (R425) -/
  | laneErrorLimit (p : Fin 12) (lane : Fin 8)
  /-- A lane loses lock and the port enters REPAIR. (R425) -/
  | laneLockLoss (p : Fin 12) (lane : Fin 8)
  /-- A repaired port completes step 2 again and returns to ACTIVE. (R425) -/
  | repairDone (p : Fin 12)
  /-- A DOWN port restarts training after 2^24 OCLK. (R428) -/
  | autoRetrain (p : Fin 12)
  /-- The transmit arbiter picks and sends a frame. (R436) -/
  | frameTransmit (p : Fin 12)
  /-- A received NAK makes the sender replay from the named frame. (R432) -/
  | controlNak (p : Fin 12) (expected : BitVec 12)
  /-- A received CONTROL frame returns virtual-channel credits. (R435) -/
  | controlCredit (p : Fin 12) (vc : Fin 4) (f : CreditFrame)
  /-- A received repair agreement steers the spare lane. (R425) -/
  | controlRepair (p : Fin 12) (lane : Fin 8)
  /-- A received WRITE frame writes its lines and is later acknowledged. (R446) -/
  | frameWrite (p : Fin 12) (f : RxFrame)
  /-- A received READ_REQ reads the window and answers with a RESPONSE. (R429) -/
  | frameReadReq (p : Fin 12) (f : RxFrame)
  /-- A received RESPONSE ends or completes the request at its source. (R429) -/
  | frameResponse (p : Fin 12) (f : RxFrame)
  /-- A received SIGNAL frame is applied to the remote object. (R448) -/
  | frameSignal (p : Fin 12) (f : RxFrame)
  /-- A TIME request is answered in hardware or a reply is stamped. (R461) -/
  | timeFrame (p : Fin 12) (f : RxFrame)
  /-- A COLL handshake or block arrives for a collective step. (R456) -/
  | collFrame (p : Fin 12) (f : RxFrame)
  /-- COUNTER reaching 2^40 starts new key establishment. (R434) -/
  | counterRekey (p : Fin 12)
  /-- The initiator's first keying message is received and checked. (R701) -/
  | keyingMessage1 (p : Fin 12) (m : KeyMsg)
  /-- The responder's ciphertext message is received, checked and decapsulated. (R701) -/
  | keyingMessage2 (p : Fin 12) (m : KeyMsg)
  /-- The first frame under the new keys is received and verified. (R701) -/
  | keyingMessage4 (p : Fin 12) (tagOk : Bool)
  /-- A cluster reaches an idle or wait point and the resident context is chosen. (R481) -/
  | preemptionPoint (cl : Fin 16)
  /-- A resident context's slice is used up. (R482) -/
  | sliceExpiry (cl : Fin 16)
  /-- A wait point lasts WAIT_YIELD × 64 ACLK. (R481) -/
  | waitYieldExpiry (cl : Fin 16)
  /-- A cluster switch saves or discards the outgoing state and restores or zeroes the incoming one. (R483) -/
  | contextSwitch (cl : Fin 16)
  /-- The switch ends and the cluster becomes resident. (R483) -/
  | contextSwitchDone (cl : Fin 16)
  /-- A RESET write starts resetting an ON context. (R489) -/
  | ctxCmdReset (x : Fin 1024)
  /-- A context reset completes and BUSY clears. (R490) -/
  | contextResetDone
  /-- A disabled context releases its resources and enters OFF. (R491) -/
  | contextDrainDone (x : Fin 1024)
  /-- GO starts verification of the image in the firmware window. (R495) -/
  | rstFwLoadGo (image : Fin 4) (bytes : BitVec 21)
  /-- The security core finishes verifying a firmware image. (R495) -/
  | fwVerifyDone
  /-- A firmware core's watchdog expires and it is restarted. (R497) -/
  | fwWatchdogExpiry (f : Fin 19)
  /-- A lockstep or duplicate comparison disagrees and the core restarts. (R497) -/
  | fwComparisonFail (f : Fin 19)
  /-- An unhandled exception restarts the core. (R497) -/
  | fwException (f : Fin 19)
  /-- An uncorrectable local-memory error restarts the core. (R497) -/
  | fwLocalMemoryUe (f : Fin 19)
  /-- A restart phase of a firmware core completes. (R498) -/
  | fwRestartPhaseDone (f : Fin 19)
  /-- A restarted firmware core reports ready and held events proceed. (R498) -/
  | fwReady (f : Fin 19) (cclk : BitVec 32)
  /-- A UCIe module trains, repairing lanes or narrowing. (R516) -/
  | ucieModuleTrain (m : Fin 4) (t : LaneTest)
  /-- Loss of lock or excess CRC retries retrains a module. (R517) -/
  | ucieRetrain (m : Fin 4)
  /-- A retrain exceeding 1,000,000 UCLK leaves the module down. (R517) -/
  | ucieRetrainTimeout (m : Fin 4)
  /-- A host hot reset or loss of every module ends every lease. (R519) -/
  | hostHotReset
  /-- A host snoop is answered RspIHitI. (R520) -/
  | h2dSnoop (addr : Nat)
  /-- A host MemRd of HBM is served, poisoned for the table area. (R528) -/
  | memRd (addr : Nat) (rd : ReadRes)
  /-- A host MemRdData of HBM is served. (R528) -/
  | memRdData (addr : Nat) (rd : ReadRes)
  /-- A host full-line write to HBM is served or discarded. (R528) -/
  | memWr (addr : Nat) (data : List Byte)
  /-- A host partial write to HBM is served, discarding parts on poisoned lines. (R666) -/
  | memWrPtl (addr : Nat) (be : BitVec 64) (data : List Byte)
  /-- A host MemSpecRd is accepted and ignored. (R520) -/
  | memSpecRd (addr : Nat)
  /-- A lease write claims or renews a slot. (R532) -/
  | hifLeaseClaim (slot : Fin 16) (id period : BitVec 16)
  /-- A lease write with RELEASE frees the slot. (R532) -/
  | hifLeaseRelease (slot : Fin 16) (id : BitVec 16)
  /-- A lease expires and its transactions roll back. (R533) -/
  | leaseExpiry (slot : Fin 16)
  /-- RESTART returns a halted queue to ACTIVE. (R542) -/
  | queueRestart (v : View) (win : Fin 1024) (q : Fin 4096)
  /-- PAUSE stops fetch and start on an active queue. (R542) -/
  | queuePause (v : View) (win : Fin 1024) (q : Fin 4096)
  /-- RESUME returns a paused queue to ACTIVE. (R542) -/
  | queueResume (v : View) (win : Fin 1024) (q : Fin 4096)
  /-- RESET resets the queue, orphaning objects and aborting steps. (R542) -/
  | queueReset (v : View) (win : Fin 1024) (q : Fin 4096)
  /-- Once started letters complete, HEAD and ACCEPTED wind back to COMPLETED. (R541) -/
  | queueWindback (q : Fin 4096)
  /-- A CONS write frees records and rearms the ring's interrupt. (R545) -/
  | hifRingConsWrite (v : View) (win : Fin 1024) (ring : Fin 2049) (cons : BitVec 32)
  /-- OPEN opens a transaction on its domains. (R552) -/
  | txnOpen (slot : Fin 8) (owner : Fin 16) (domains : BitVec 7)
  /-- COMMIT moves an open transaction to CHECKING. (R555) -/
  | txnCommit (slot : Fin 8) (owner : Fin 16) (domains : BitVec 7)
  /-- ABORT rolls an open transaction back. (R557) -/
  | txnAbort (slot : Fin 8) (owner : Fin 16) (domains : BitVec 7)
  /-- Checking ends and the transaction adopts or rolls back. `journal`: blocks of each flash channel that the translation layer's
  checkpoints and journal take. (R556) -/
  | txnCheckDone (slot : Fin 8) (journal : List Nat)
  /-- One domain of a transaction adopts its changes. (R556) -/
  | txnDomainAdopt (slot : Fin 8)
  /-- An open transaction times out and rolls back. (R558) -/
  | txnTimeout (slot : Fin 8)
  /-- GO with OP WRITE programs destination units. (R587) -/
  | flsReqWrite (slot : Fin 4) (units : BitVec 32) (grp : FlashGroup)
  /-- GO with OP TRIM clears units' map entries. (R589) -/
  | flsReqTrim (slot : Fin 4) (units : BitVec 32)
  /-- GO with OP CONFIG writes a configuration image to the NOR. (R598) -/
  | flsReqConfig (slot : Fin 4) (units : BitVec 32)
  /-- GO with OP FORMAT writes a new parcel header. (R587) -/
  | flsReqFormat (slot : Fin 4) (units : BitVec 32)
  /-- A page-group program completes and is verified by read-back. (R584) -/
  | flProgramDone (ch : Fin 16) (res : ProgramResult) (grp : FlashGroup)
  /-- A block erase completes and is verified blank. (R582) -/
  | flEraseDone (ch : Fin 16) (blank : Bool)
  /-- A marked block is relocated and retired. (R586) -/
  | blockRetire (ch : Fin 16) (blk : FlashGroup) (grps : List FlashGroup)
  /-- A block's read count exceeds the limit and its groups are relocated. (R591) -/
  | readDisturbRelocate (ch : Fin 16) (blk : FlashGroup) (retried : Bool) (grps : List FlashGroup)
  /-- UNLOCK compares a password digest and unlocks or counts a failure. (R595) -/
  | flsPwUnlock (slot : Fin 64) (len : BitVec 6)
  /-- RELOCK locks a slot that has a password. (R595) -/
  | flsPwRelock (slot : Fin 64) (len : BitVec 6)
  /-- SET stores a new salt and password digest. (R595) -/
  | flsPwSet (slot : Fin 64) (len : BitVec 6)
  /-- PWRWARN_N asserted stops new programs, suspends erases and flushes the journal. (R599) -/
  | pwrwarnAssert
  /-- PWRWARN_N deasserted resumes suspended erases and held work. (R599) -/
  | pwrwarnDeassert
  /-- A channel's journal flush ends and its NCLK may be gated. (R747) -/
  | journalFlushDone (ch : Fin 16)
  /-- PCL_PRSNT_N held low 50 ms starts parcel power. (R600) -/
  | parcelPresent
  /-- PCL_PGOOD arrives and channel training begins. (R600) -/
  | parcelPgood
  /-- Parcel channels finish training. (R600) -/
  | parcelTrained
  /-- The parcel header is read and the parcel turns ON. (R601) -/
  | parcelIdentified (header : Option ParcelHeader)
  /-- An insertion step exceeds its limit and the parcel is powered off. (R601) -/
  | parcelStepTimeout
  /-- The removal button held 50 ms starts draining the parcel. (R602) -/
  | parcelButton
  /-- REQUEST acts as a button press. (R616) -/
  | pclCmdRequest
  /-- RELEASE lets a DEFER-held removal proceed. (R616) -/
  | pclCmdRelease
  /-- The read drain time ends and outstanding parcel reads end. (R602) -/
  | parcelReadDrainExpiry
  /-- The latch-release pulse ends and the parcel is OFF. (R602) -/
  | parcelLatchPulseEnd
  /-- PCL_PRSNT_N rises and parcel work ends at once. (R603) -/
  | parcelRemoved
  /-- PCL_PGOOD deasserts after step 3 and is handled as a surprise removal. (R750) -/
  | pclPgoodLoss
  /-- RESET_N held low over 50 ns enters full reset. (R744) -/
  | resetNAssert
  /-- RESET_N deasserted starts the boot ROM sequence. (R618) -/
  | resetNDeassert
  /-- A start step completes and the next begins. (R618) -/
  | startStepDone (d : StartData)
  /-- A start step fails or exceeds its limit and STAGE becomes 15. (R619) -/
  | startStepTimeout (code : BitVec 16)
  /-- RECOVER verifies and programs a recovery image into slot A. (R625) -/
  | cfgCtlRecover
  /-- ENTDAA assigns the I3C dynamic address. (R629) -/
  | i3cEntdaa (addr : BitVec 7)
  /-- Command 0x01 returns PWR_STATUS. (R629) -/
  | i3cReadStatus
  /-- Command 0x02 returns the hottest sensor. (R629) -/
  | i3cReadTemp
  /-- Command 0x10 writes the I3C budget. (R628) -/
  | i3cWriteBudget (w : BitVec 16)
  /-- Command 0x11 returns the cap in force. (R629) -/
  | i3cReadCap
  /-- A 50 µs control period shares the cap and sets throttle levels. (R631) -/
  | powerControlPeriod (m : PowerMeas)
  /-- Every 1,024 FCLK the limiter compares metered power and moves its floor. (R634) -/
  | limiterCompare (power : BitVec 12) (fault : AgentFault)
  /-- A droop detector trips and its cluster throttles. (R636) -/
  | droopTrip (cl : Fin 16)
  /-- The droop hold ends and the level ramps down. (R636) -/
  | droopHoldExpiry (cl : Fin 16)
  /-- The thermal sensors convert and the cap or trip reacts. (R637) -/
  | thermalConversion (temps : List (BitVec 16))
  /-- The ageing oscillators are measured and margins raised. (R638) -/
  | ageingMeasure (need : List Nat)
  /-- COOLANT_OK deasserted starts a cold stop. (R642) -/
  | coolantOkDeassert
  /-- COOLANT_OK asserted lets a start held at step 8 continue. (R745) -/
  | coolantOkAssert
  /-- A cold-stop stage ends and the next begins. (R642) -/
  | coldStopStageDone
  /-- RESUME starts a warm resume or is refused. (R644) -/
  | pwrStateResume
  /-- A warm resume completes and STATE becomes RUN. (R645) -/
  | resumeDone
  /-- The host sets D3hot and the die stops with cause HOST. (R646) -/
  | d3hotEntry
  /-- Return to D0 resumes the die when cooling allows. (R646) -/
  | d0Return
  /-- A scrub read corrects or poisons a line. (R664) -/
  | scrubRead (t : ScrubTarget) (rd : ReadRes)
  /-- A clock monitor window ends and a fault is judged. (R667) -/
  | clockMonitorWindow (d : ClockDom) (inst : Nat) (obs : ClockObs)
  /-- A request holding its tag 2^20 FCLK stops the die. (R674) -/
  | responseTimeout (tag : Nat)
  /-- A row copy to a spare row ends and held accesses apply. (R678) -/
  | sramRowSpareDone (r : SramRow)
  /-- A hub bank copy ends and the spare bank is steered in. (R679) -/
  | hubBankCopyDone (bank : Fin 24)
  /-- Entropy health tests fail and random output is withheld. (R690) -/
  | entropyHealthFail
  /-- GO starts building an attestation report. (R698) -/
  | secAttGo
  /-- The report is signed and BUSY clears. (R698) -/
  | attestationDone
  /-- A port's bandwidth window ends and its counts are copied. (R719) -/
  | pmcBwWindowEnd (p : Fin 48)
  /-- Setting AWL_CTL.EN enables the awl. (R722) -/
  | awlEnable
  /-- Clearing AWL_CTL.EN starts draining the awl. (R722) -/
  | awlDisable
  /-- Every slot's settings have reached their agents and the awl is ON. (R722) -/
  | awlStartDone
  /-- Every delayed item is delivered and the awl is OFF. (R722) -/
  | awlDrainDone
  /-- GO injects a bit error into one stored word. (R725) -/
  | awlInjGo (store : BitVec 4) (bits : BitVec 2)
  /-- The BYPASS instruction. (R752) -/
  | tapBypass
  /-- The SAMPLE/PRELOAD instruction. (R752) -/
  | tapSamplePreload (preload : BitVec 64)
  /-- The EXTEST instruction. (R752) -/
  | tapExtest (drive : BitVec 64)
  /-- OWNER_FUSE programs the owner-key digest under its conditions. (R753) -/
  | tapOwnerFuse (digest : BitVec 256) (vpp : Bool)
  /-- A register read of bad width or alignment, or one lying partly inside RST_FW_WINDOW, returns all ones and posts REG_ACCESS_MALFORMED to the device event ring. (R4) -/
  | malformedRead (v : View) (off len : Nat)
  /-- The entropy source passes its health tests again, ENT_FAIL clears, and waiting keying, salts and signatures resume. (R690) -/
  | entropyHealthPass
  /-- A context enabled by commit finishes clearing its hub entries and allotting its slabs, and moves from STARTING to ON. (R504) -/
  | contextStartDone (x : Fin 1024)
  /-- A page walker issues one staging read or append write of up to 256 B in an FCLK, in turn among its active ATTNs, when it holds a free tag. (R289) -/
  | walkerRequestIssue (cl : Fin 16) (fault : AgentFault)
  /-- An acknowledgement of an ATTN's new K or V row write returns, and after the last one the walker may begin reading pages. (R297) -/
  | walkerAppendAck (cl : Fin 16) (tag : Nat)
  /-- A sorter issues one HBM row read, cache access or flash sector read in an FCLK, on a free tag of its own. (R375) -/
  | sorterRequestIssue (k : Fin 6) (slot : Fin 16) (fault : AgentFault)
  /-- At each 64-ACLK frame boundary, a cluster's applied throttle level moves toward its target by at most 4, or ramps down after a droop hold. (R633) -/
  | throttleRampFrame (cl : Fin 16)
  /-- A password command ends, CODE is written, BUSY clears and FLS_PW0 to FLS_PW3 are zeroed. (R612) -/
  | flsPwCommandEnd
  /-- The NOR erase, program, read-back and generation write of a CONFIG request or a RECOVER image finish, giving STATE DONE or RECOVERED. (R598) -/
  | norUpdateDone (ok : Bool)
  deriving DecidableEq, Repr

end Sys2Proof
end

