-- ==== Sys2Proof/Decode.lean ====
section
/-! DEFINITION. The words of commands. The table of commands gives no row a bit pattern, so no word spells a command
(notes/assumptions/6.md). -/

namespace Sys2Proof

/-- The command that a word spells by the table's bits: none of the table's rows has bits. -/
def decodeTableWord (nbits w : Nat) : Option Instr := if nbits = 0 ∧ w = 0 then none else none

end Sys2Proof
end

