-- ==== Sys2Proof/Config.lean ====
section
/-! DEFINITION. The free values of the SV2-256 model: what the manual bounds, names, or leaves to the implementation, without
giving a value. Each is opaque, so no proof can see which value it is (notes/assumptions/3.md to 5.md). -/

namespace Sys2Proof.Config

/-- Offset in ulps, before the clamp to R85's bound, that exp2 shows against the nearest FP32 number. -/
opaque exp2Choice : F32 → Int

/-- The same for the reciprocal (R85). -/
opaque rcpChoice : F32 → Int

/-- The same for the reciprocal square root (R85). -/
opaque rsqChoice : F32 → Int

/-- A free word: byte or number drawn at a point where the manual says the data is undefined. The argument is the number of
earlier draws that the state counts. -/
opaque freeWord : Nat → BitVec 64

/-- A byte of the core state that a switch writes to a save area: its format is private to the device (R483), by the save's number and
the byte's place. -/
opaque savedByte : Nat → Nat → Byte

/-- Bytes of table area that the state of one expert takes, and that the erased-state map takes at start (R767). -/
opaque expertBytes : Nat
opaque erasedMapBytes : Nat

/-- QUEUE_ENTRIES of the lasts of levels 1 and 2 (Table 1-2): the depth of a queue that the driver sizes. -/
opaque queueEntries : Nat → BitVec 32

/-- In-service cores of another die, as the last of a unit that holds it counts them (R444). -/
opaque dieCores : Nat → Nat

/-- Where a line of an HBM stack lies: bits [31:0] of a row-log entry (R681), by stack and by the line's place inside it (R324). -/
opaque hbmRow : Nat → Nat → BitVec 32

/-- Blocks of a flash channel outside its journal, and page groups to a block: those of the devices fitted (R572), by the parcel whose
channel it is (0 for board flash) and the channel. -/
opaque flashBlocks : Nat → Nat → Nat
opaque flashPages : Nat → Nat → Nat

/-- SHAKE256 with a 32-byte output (R595, R624, R692): the digest of a byte string. -/
opaque shake256 : List Byte → BitVec 256

/-- ML-DSA-65 verification (R692): public key, context string, message, signature. -/
opaque mldsaVerify : List Byte → List Byte → List Byte → List Byte → Bool

/-- ML-DSA-65 signing with the die's identity key (R698, R701): context string, message and the number of earlier signatures. -/
opaque mldsaSign : List Byte → List Byte → Nat → List Byte

/-- The die's ML-DSA-65 public key, derived from its fused seed (R696). -/
opaque identityKey : List Byte

/-- The fused digest of Amipogar's root public key (R689). -/
opaque rootDigest : BitVec 256

/-- ML-KEM-768 key generation from the entropy source: the encapsulation key of draw n (R701). -/
opaque mlkemKey : Nat → List Byte

/-- ML-KEM-768 encapsulation to a key at draw n: ciphertext and shared secret (R701). -/
opaque mlkemEncap : List Byte → Nat → List Byte × BitVec 256

/-- ML-KEM-768 decapsulation of a ciphertext under the key of draw n (R701); none where it fails. -/
opaque mlkemDecap : Nat → List Byte → Option (BitVec 256)

/-- SHAKE256 with an output of a given length in bytes. -/
opaque shakeBytes : Nat → List Byte → List Byte

/-- AES-256-GCM of a frame's payload (R434): key, nonce, header and payload in, ciphertext out. -/
opaque gcmSeal : BitVec 256 → BitVec 96 → List Byte → List Byte → List Byte

/-- The GCM tag over the header and the ciphertext (R430, R434): key, nonce, header, ciphertext. -/
opaque gcmTag : BitVec 256 → BitVec 96 → List Byte → List Byte → BitVec 128

/-- The inverse, for a frame whose tag verified (R434). -/
opaque gcmOpen : BitVec 256 → BitVec 96 → List Byte → List Byte → List Byte

end Sys2Proof.Config
end

