-- ==== Sys2Proof/Machine/Tab.lean ====
section
/-! DEFINITION. Sparse tables as plain data, and the little-endian byte helpers. A table is a list of key and value pairs in one
canonical form: keys strictly rising, and no entry equal to what an unlisted key reads as (`Tab.wf`). Memories are tables of
bytes. -/

namespace Sys2Proof.Machine

/-- A sparse table; a memory is a `Tab Byte` whose keys are byte addresses (`Host.Cell` pairs). -/
abbrev Tab (α : Type) := List (Nat × α)

/-- The value at a key; an unlisted key reads as `d`. -/
def tabGet {α : Type} (d : α) : Tab α → Nat → α
  | [], _ => d
  | (k', v) :: t, k => if k = k' then v else tabGet d t k

/-- Put an entry in key order, replacing the entry of that key. -/
def tabInsert {α : Type} : Tab α → Nat → α → Tab α
  | [], k, v => [(k, v)]
  | (k', v') :: t, k, v =>
    if k < k' then (k, v) :: (k', v') :: t
    else if k = k' then (k, v) :: t
    else (k', v') :: tabInsert t k v

/-- Remove a key's entry. -/
def tabErase {α : Type} (t : Tab α) (k : Nat) : Tab α := t.filter (fun e => decide (e.1 ≠ k))

/-- Write a key; writing what an unlisted key reads as removes the entry. -/
def tabSet {α : Type} [DecidableEq α] (d : α) (t : Tab α) (k : Nat) (v : α) : Tab α :=
  if v = d then tabErase t k else tabInsert t k v

/-- Change the value at a key. -/
def tabUpd {α : Type} [DecidableEq α] (d : α) (t : Tab α) (k : Nat) (f : α → α) : Tab α :=
  tabSet d t k (f (tabGet d t k))

/-- Every key of `lo ≤ k < hi` reads as unlisted afterwards. -/
def tabClear {α : Type} (t : Tab α) (lo hi : Nat) : Tab α :=
  t.filter (fun e => decide (e.1 < lo ∨ hi ≤ e.1))

/-- Keys strictly rising from a lower bound on. -/
def tabRising {α : Type} : Nat → Tab α → Bool
  | _, [] => true
  | lo, (k, _) :: t => decide (lo ≤ k) && tabRising (k + 1) t

/-- The canonical form: keys strictly rising, no entry equal to the unlisted value. -/
def tabWf {α : Type} [DecidableEq α] (d : α) (t : Tab α) : Bool :=
  tabRising 0 t && t.all (fun e => decide (e.2 ≠ d))

/-- Write consecutive keys. -/
def tabSetList {α : Type} [DecidableEq α] (d : α) (t : Tab α) (k : Nat) : List α → Tab α
  | [] => t
  | v :: vs => tabSetList d (tabSet d t k v) (k + 1) vs

/-- Read `n` consecutive keys. -/
def tabGetList {α : Type} (d : α) (t : Tab α) (k : Nat) : Nat → List α
  | 0 => []
  | n + 1 => tabGet d t k :: tabGetList d t (k + 1) n

/-- What an unlisted byte of any memory reads as (notes/assumptions/1.md). -/
def memDefault : Byte := 0

/-- Read one byte. -/
def memGet (m : Tab Byte) (a : Nat) : Byte := tabGet memDefault m a

/-- Read `n` bytes upward from `a`. -/
def memRead (m : Tab Byte) (a n : Nat) : List Byte := tabGetList memDefault m a n

/-- Write bytes upward from `a`. -/
def memWrite (m : Tab Byte) (a : Nat) (bs : List Byte) : Tab Byte := tabSetList memDefault m a bs

/-- A memory's canonical form. -/
def memWf (m : Tab Byte) : Bool := tabWf memDefault m

/-- The number that bytes spell, least significant first (R3, R145). -/
def leNat : List Byte → Nat
  | [] => 0
  | b :: bs => b.toNat + 256 * leNat bs

/-- The `n` bytes of a number, least significant first. -/
def leBytes : Nat → Nat → List Byte
  | 0, _ => []
  | n + 1, v => BitVec.ofNat 8 v :: leBytes n (v / 256)

/-- Bytes `off` to `off + n − 1` of a byte list, as a number; bytes beyond the end read 0. -/
def leField (bs : List Byte) (off n : Nat) : Nat := leNat ((bs.drop off).take n)

/-- Bits `[hi:lo]` of a number. -/
def natBits (v hi lo : Nat) : Nat := (v >>> lo) % 2 ^ (hi + 1 - lo)

/-- Exactly `n` bytes: cut, or filled up with zeros. -/
def padBytes (n : Nat) (bs : List Byte) : List Byte := (bs ++ List.replicate n 0).take n

/-- Consecutive numbers `lo`, `lo + 1`, …, `n` of them. -/
def rangeFrom (lo n : Nat) : List Nat := (List.range n).map (lo + ·)

/-- Remove the first element that a predicate picks. -/
def removeFirst {α : Type} (p : α → Bool) : List α → List α
  | [] => []
  | x :: xs => if p x then xs else x :: removeFirst p xs

/-- Change the first element that a predicate picks. -/
def updFirst {α : Type} (p : α → Bool) (f : α → α) : List α → List α
  | [] => []
  | x :: xs => if p x then f x :: xs else x :: updFirst p f xs

/-- A set of numbers, kept as a strictly rising list. -/
def setInsert (k : Nat) : List Nat → List Nat
  | [] => [k]
  | x :: xs => if k < x then k :: x :: xs else if k = x then x :: xs else x :: setInsert k xs

/-- Remove a number from a set. -/
def setErase (k : Nat) (l : List Nat) : List Nat := l.filter (fun x => decide (x ≠ k))

/-- The smallest of a list of numbers, or `d`. -/
def minList (d : Nat) : List Nat → Nat
  | [] => d
  | [x] => x
  | x :: y :: xs => min x (minList d (y :: xs))

end Sys2Proof.Machine
end

