-- ==== Sys2Proof/Machine/Operands.lean ====
section
/-! DEFINITION. Number formats (chapter 03): what an element's bits mean, the exact value an operand stands for, the one
rounding, and the conversions of Table 3-6. Exact values are a sign, a magnitude and a power of two. -/

namespace Sys2Proof.Machine

/-- What an element holds: a finite number (−1)^neg × m × 2^e, keeping the sign of a zero, an infinity, or a NaN. -/
inductive Num
  | fin (neg : Bool) (m : Nat) (e : Int)
  | inf (neg : Bool)
  | nan
  deriving DecidableEq, Repr

/-- An exact dyadic number m × 2^e. -/
structure Dy where
  m : Int
  e : Int
  deriving DecidableEq, Repr

/-- An exact sum. -/
def Dy.add (a b : Dy) : Dy :=
  let e := min a.e b.e
  ⟨a.m * 2 ^ (a.e - e).toNat + b.m * 2 ^ (b.e - e).toNat, e⟩

/-- An exact product. -/
def Dy.mul (a b : Dy) : Dy := ⟨a.m * b.m, a.e + b.e⟩

/-- a < b, exactly. -/
def Dy.lt (a b : Dy) : Bool :=
  let e := min a.e b.e
  decide (a.m * 2 ^ (a.e - e).toNat < b.m * 2 ^ (b.e - e).toNat)

/-- a = b as numbers. -/
def Dy.eqv (a b : Dy) : Bool := !(a.lt b) && !(b.lt a)

/-- The signed value of a finite number. -/
def signed (neg : Bool) (m : Nat) (e : Int) : Dy := ⟨if neg then -(m : Int) else m, e⟩

/-- Number of bits of a natural number. -/
def bitLen (m : Nat) : Nat := if m = 0 then 0 else Nat.log2 m + 1

/-- m / 2^k rounded to nearest, ties to even. -/
def rneShift (m k : Nat) : Nat :=
  let q := m >>> k
  let r := m - q * 2 ^ k
  if k = 0 then m
  else if 2 ^ k < 2 * r then q + 1
  else if 2 * r < 2 ^ k then q
  else q + q % 2

/-- m × 2^s rounded to an integer, to nearest, ties to even. -/
def rneScale (m : Nat) (s : Int) : Nat :=
  if 0 ≤ s then m * 2 ^ s.toNat else rneShift m (-s).toNat

/-- A floating-point layout (R107): mantissa bits, bias, largest finite pattern without the sign, total bits, and the patterns
for infinity (none in E4M3) and the canonical NaN (Table 3-2). -/
structure FpFmt where
  p : Nat
  bias : Int
  maxFin : Nat
  bits : Nat
  inf : Option Nat
  nan : Nat
  deriving DecidableEq, Repr

/-- The FP32 layout (Table 3-1, Table 3-2); the next seven likewise. -/
def fmtFp32 : FpFmt := ⟨23, 127, 0x7F7FFFFF, 32, some 0x7F800000, 0x7FC00000⟩
def fmtBf16 : FpFmt := ⟨7, 127, 0x7F7F, 16, some 0x7F80, 0x7FC0⟩
def fmtFp16 : FpFmt := ⟨10, 15, 0x7BFF, 16, some 0x7C00, 0x7E00⟩
def fmtE5m2 : FpFmt := ⟨2, 15, 0x7B, 8, some 0x7C, 0x7E⟩
def fmtE4m3 : FpFmt := ⟨3, 7, 0x7E, 8, none, 0x7F⟩
def fmtE2m1 : FpFmt := ⟨1, 1, 7, 4, none, 0⟩
def fmtE2m3 : FpFmt := ⟨3, 1, 31, 6, none, 0⟩
def fmtE3m2 : FpFmt := ⟨2, 3, 31, 6, none, 0⟩

/-- The value of a pattern (R107, Table 3-2): patterns above the largest finite one are the infinity or NaNs. -/
def FpFmt.decode (f : FpFmt) (v : Nat) : Num :=
  let neg := decide (2 ^ (f.bits - 1) ≤ v % 2 ^ f.bits)
  let a := v % 2 ^ (f.bits - 1)
  let e := a / 2 ^ f.p
  let m := a % 2 ^ f.p
  if f.maxFin < a then (if f.inf = some a then .inf neg else .nan)
  else if e = 0 then .fin neg m (1 - f.bias - f.p)
  else .fin neg (2 ^ f.p + m) ((e : Int) - f.bias - f.p)

/-- The pattern, without sign, of m × 2^e rounded to nearest, ties to even, as if the exponent range were unbounded above
(R129, R133): subnormal results are produced without flushing. -/
def FpFmt.roundMag (f : FpFmt) (m : Nat) (e : Int) : Nat :=
  if m = 0 then 0
  else
    let lo := 1 - f.bias - f.p
    let u := max (e + (bitLen m : Int) - 1 - f.p) lo
    (u - lo).toNat * 2 ^ f.p + rneScale m (e - u)

/-- A pattern with its sign. -/
def FpFmt.withSign (f : FpFmt) (neg : Bool) (a : Nat) : Nat := if neg then 2 ^ (f.bits - 1) + a else a

/-- Table 3-6 for a floating-point output: one rounding, overflow by SAT (R133). E4M3 without SAT gives S.1111.111. -/
def FpFmt.encode (f : FpFmt) (sat : Bool) (x : Num) : Nat :=
  match x with
  | .nan => f.nan
  | .inf neg => f.withSign neg (if sat then f.maxFin else f.inf.getD f.nan)
  | .fin neg m e =>
    let a := f.roundMag m e
    f.withSign neg (if f.maxFin < a then (if sat then f.maxFin else f.inf.getD f.nan) else a)

/-- An FP32 pattern's value. -/
def f32Num (x : F32) : Num := fmtFp32.decode x.toNat

/-- The FP32 pattern of a number: RNE, infinity on overflow, the canonical NaN (R129, R136). -/
def numF32 (x : Num) : F32 := BitVec.ofNat 32 (fmtFp32.encode false x)

/-- The canonical FP32 NaN (Table 3-2). -/
def f32Nan : F32 := 0x7FC00000

/-- +∞, −∞ and 1.0 in FP32. -/
def f32Inf : F32 := 0x7F800000
def f32NegInf : F32 := 0xFF800000
def f32One : F32 := 0x3F800000

/-- A dyadic number, rounded once to FP32; a zero takes the sign given. -/
def dyF32 (zneg : Bool) (d : Dy) : F32 :=
  numF32 (.fin (if d.m = 0 then zneg else decide (d.m < 0)) d.m.natAbs d.e)

/-- Sign of a number. -/
def Num.neg : Num → Bool
  | .fin n _ _ => n
  | .inf n => n
  | .nan => false

/-- Exact sum under IEEE 754: NaN for ∞ − ∞; an exact zero sum of unlike signs is +0 (R130, R136). -/
def numAdd (a b : Num) : Num :=
  match a, b with
  | .nan, _ | _, .nan => .nan
  | .inf x, .inf y => if x = y then .inf x else .nan
  | .inf x, _ => .inf x
  | _, .inf y => .inf y
  | .fin x m e, .fin y n g =>
    let d := (signed x m e).add (signed y n g)
    .fin (if d.m = 0 then x && y else decide (d.m < 0)) d.m.natAbs d.e

/-- Exact product under IEEE 754: NaN for 0 × ∞. -/
def numMul (a b : Num) : Num :=
  match a, b with
  | .nan, _ | _, .nan => .nan
  | .inf x, .inf y => .inf (x != y)
  | .inf x, .fin y m _ => if m = 0 then .nan else .inf (x != y)
  | .fin x m _, .inf y => if m = 0 then .nan else .inf (x != y)
  | .fin x m e, .fin y n g => .fin (x != y) (m * n) (e + g)

/-- −a. -/
def numNeg : Num → Num
  | .nan => .nan
  | .inf x => .inf (!x)
  | .fin x m e => .fin (!x) m e

/-- The vector unit's FP32 operations (R136): each rounds once. -/
def f32Add (a b : F32) : F32 := numF32 (numAdd (f32Num a) (f32Num b))
def f32Sub (a b : F32) : F32 := numF32 (numAdd (f32Num a) (numNeg (f32Num b)))
def f32Mul (a b : F32) : F32 := numF32 (numMul (f32Num a) (f32Num b))
def f32Fma (a b c : F32) : F32 := numF32 (numAdd (numMul (f32Num a) (f32Num b)) (f32Num c))

/-- a < b on numbers; false with a NaN (R137); −0 and +0 are equal here. -/
def numLt (a b : Num) : Bool :=
  match a, b with
  | .nan, _ | _, .nan => false
  | .inf x, .inf y => x && !y
  | .inf x, .fin _ _ _ => x
  | .fin _ _ _, .inf y => !y
  | .fin x m e, .fin y n g => (signed x m e).lt (signed y n g)

/-- a = b on numbers; false with a NaN. -/
def numEq (a b : Num) : Bool :=
  match a, b with
  | .nan, _ | _, .nan => false
  | a, b => !(numLt a b) && !(numLt b a)

/-- min and max order −0 below +0 and return NaN with a NaN operand (R137). -/
def f32Min (a b : F32) : F32 :=
  if f32Num a = .nan ∨ f32Num b = .nan then f32Nan
  else if numLt (f32Num a) (f32Num b) then a
  else if numLt (f32Num b) (f32Num a) then b
  else if (f32Num a).neg then a else b
def f32Max (a b : F32) : F32 :=
  if f32Num a = .nan ∨ f32Num b = .nan then f32Nan
  else if numLt (f32Num a) (f32Num b) then b
  else if numLt (f32Num b) (f32Num a) then a
  else if (f32Num a).neg then b else a

/-- Comparison masks (Table 4-22, R137). -/
def f32Cmplt (a b : F32) : F32 := if numLt (f32Num a) (f32Num b) then 0xFFFFFFFF else 0
def f32Cmpeq (a b : F32) : F32 := if numEq (f32Num a) (f32Num b) then 0xFFFFFFFF else 0

/-- One level of a pairwise reduction: 2k with 2k + 1. -/
def pairUp (f : F32 → F32 → F32) : List F32 → List F32
  | a :: b :: t => f a b :: pairUp f t
  | t => t

/-- `n` levels of a pairwise reduction; the first lane left (R83). -/
def pairwise (f : F32 → F32 → F32) : Nat → List F32 → F32
  | 0, l => l.headD 0
  | n + 1, l => pairwise f n (pairUp f l)

/-- The sum across 128 lanes: seven levels, rounding after each addition (R83). -/
def f32Sum (l : List F32) : F32 := pairwise f32Add 7 l

/-- The maximum across 128 lanes (Table 4-22). -/
def f32Hmax (l : List F32) : F32 := pairwise f32Max 7 l

/-! The special functions (R85, R138). The manual bounds the error and gives no value: the result is a candidate offset from
the nearest number by `Config`'s choice, taken only where it stays inside the bound (notes/assumptions/3.md). -/

/-- The integer square root of n by `k` steps of bisection over `k` bits. -/
def isqrtBits : Nat → Nat → Nat → Nat
  | 0, _, acc => acc
  | k + 1, n, acc => if (acc + 2 ^ k) * (acc + 2 ^ k) ≤ n then isqrtBits k n (acc + 2 ^ k) else isqrtBits k n acc

/-- 2^f × 2^96 for f = num / 2^bits below 1, by one square root of 2 per fraction bit, most significant bit first. -/
def exp2Frac : Nat → Nat → Nat → Nat → Nat
  | 0, _, _, acc => acc
  | k + 1, num, root, acc =>
    let r := isqrtBits 98 (root * 2 ^ 96) 0
    exp2Frac k num r (if num.testBit k then acc * r / 2 ^ 96 else acc)

/-- A magnitude pattern moved by a signed number of ulps, kept between 0 and infinity. -/
def moveUlps (a : Nat) (d : Int) : Nat := min ((a : Int) + d).toNat 0x7F800000

/-- The offset in −n to n that a free choice picks. -/
def boundChoice (n : Nat) (c : Int) : Int := c % (2 * n + 1) - n

/-- exp2 of a finite number a = ± m × 2^e as (magnitude, exponent), to 96 bits: 2^(⌊a⌋) × 2^(a − ⌊a⌋). The argument is cut to
64 fraction bits, far below the bound of R85. -/
def exp2Approx (d : Dy) : Nat × Int :=
  let fx : Int := if 0 ≤ d.e + 64 then d.m * 2 ^ (d.e + 64).toNat else d.m / 2 ^ (-(d.e + 64)).toNat
  let fl : Int := fx / 2 ^ 64
  let fr : Nat := (fx - fl * 2 ^ 64).toNat
  (exp2Frac 64 fr (2 ^ 97) (2 ^ 96), fl - 96)

/-- |y − x| ≤ n ulp, where y is the FP32 magnitude pattern `a`, x = m × 2^e, and the ulp is that of y. -/
def withinUlps (n : Nat) (a m : Nat) (e : Int) : Bool :=
  match fmtFp32.decode a with
  | .fin _ ym ye =>
    let y : Dy := ⟨ym, ye⟩
    let x : Dy := ⟨m, e⟩
    !(Dy.lt ⟨n, ye⟩ (y.add ⟨-x.m, x.e⟩)) && !(Dy.lt ⟨n, ye⟩ (x.add ⟨-y.m, y.e⟩))
  | _ => false

/-- exp2 (R85, R138). -/
def f32Exp2 (a : F32) : F32 :=
  match f32Num a with
  | .nan => f32Nan
  | .inf true => 0
  | .inf false => f32Inf
  | .fin neg m e =>
    if m = 0 then f32One
    else if 256 ≤ (e + bitLen m) ∧ neg then 0
    else if 256 ≤ (e + bitLen m) then f32Inf
    else
      let (xm, xe) := exp2Approx (signed neg m e)
      let r := fmtFp32.roundMag xm xe
      if 0x7F7FFFFF < r then f32Inf
      else
        let c := moveUlps r (boundChoice 2 (Config.exp2Choice a))
        BitVec.ofNat 32 (if withinUlps 2 c xm xe then c else r)

/-- The reciprocal (R85, R138): 1 / (m × 2^e) is checked exactly against each candidate. -/
def f32Rcp (a : F32) : F32 :=
  match f32Num a with
  | .nan => f32Nan
  | .inf neg => if neg then 0x80000000 else 0
  | .fin neg m e =>
    let s : Nat := if neg then 0x80000000 else 0
    if m = 0 then BitVec.ofNat 32 (s + 0x7F800000)
    else
      let r := fmtFp32.roundMag ((2 ^ 200) / m * 2 + (if (2 ^ 200) % m = 0 then 0 else 1)) (-201 - e)
      if 0x7F7FFFFF < r then BitVec.ofNat 32 (s + 0x7F800000)
      else
        let c := moveUlps r (boundChoice 1 (Config.rcpChoice a))
        let ok := match fmtFp32.decode c with
          | .fin _ ym ye =>
            !(Dy.lt (Dy.mul ⟨1, ye⟩ ⟨m, e⟩) ((Dy.mul ⟨ym, ye⟩ ⟨m, e⟩).add ⟨-1, 0⟩)) &&
            !(Dy.lt (Dy.mul ⟨1, ye⟩ ⟨m, e⟩) ((Dy.mul ⟨-(ym : Int), ye⟩ ⟨m, e⟩).add ⟨1, 0⟩))
          | _ => false
        BitVec.ofNat 32 (s + (if ok then c else r))

/-- The reciprocal square root (R85, R138): a candidate y with ulp u stands when (y − u)² a ≤ 1 ≤ (y + u)² a. -/
def f32Rsq (a : F32) : F32 :=
  match f32Num a with
  | .nan => f32Nan
  | .inf neg => if neg then f32Nan else 0
  | .fin neg m e =>
    if m = 0 then (if neg then f32NegInf else f32Inf)
    else if neg then f32Nan
    else
      let (mm, ee) := if e % 2 = 0 then (m, e) else (2 * m, e - 1)
      let q := isqrtBits 130 (2 ^ 258 / mm) 0
      let r := fmtFp32.roundMag (2 * q + 1) (-130 - ee / 2)
      let c := moveUlps r (boundChoice 1 (Config.rsqChoice a))
      let ok := match fmtFp32.decode c with
        | .fin _ ym ye =>
          let lo : Dy := ⟨(ym : Int) - 1, ye⟩
          let hi : Dy := ⟨(ym : Int) + 1, ye⟩
          !(Dy.lt ⟨1, 0⟩ ((lo.mul lo).mul ⟨m, e⟩)) && !(Dy.lt ((hi.mul hi).mul ⟨m, e⟩) ⟨1, 0⟩)
        | _ => false
      BitVec.ofNat 32 (if ok then c else r)

/-! Formats by code (Table 3-1). -/

/-- Storage bits of an element (Table 3-1); 0 for the codes no format has. -/
def elemBits (f : Nat) : Nat :=
  match f with
  | 0 | 4 => 4
  | 5 | 6 => 6
  | 1 | 2 | 3 | 7 | 8 | 9 => 8
  | 10 | 11 => 16
  | 12 | 13 => 32
  | _ => 0

/-- A format with E8M0 block scales (Table 3-1). -/
def isMx (f : Nat) : Bool := decide (4 ≤ f ∧ f ≤ 9)

/-- A two's complement number of w bits. -/
def signedNat (w v : Nat) : Int := if 2 ^ (w - 1) ≤ v % 2 ^ w then (v % 2 ^ w : Int) - 2 ^ w else (v % 2 ^ w : Int)

/-- The number an integer value stands for, scaled by 2^e. -/
def intNum (v : Int) (e : Int) : Num := .fin (decide (v < 0)) v.natAbs e

/-- The value of an element of format code f, without its block scale (R107, R109, R117). -/
def elemNum (f v : Nat) : Num :=
  match f with
  | 0 => intNum (signedNat 4 v) 0
  | 1 => intNum (signedNat 8 v) 0
  | 2 | 7 => fmtE4m3.decode v
  | 3 | 8 => fmtE5m2.decode v
  | 4 => fmtE2m1.decode v
  | 5 => fmtE2m3.decode v
  | 6 => fmtE3m2.decode v
  | 9 => intNum (signedNat 8 v) (-6)
  | 10 => fmtBf16.decode v
  | 11 => fmtFp16.decode v
  | 12 => fmtFp32.decode v
  | 13 => intNum (signedNat 32 v) 0
  | _ => .nan

/-- L of Table 3-4: the bit length of the largest significand. -/
def sigBits (f : Nat) : Nat :=
  match f with
  | 0 => 4 | 1 => 8 | 9 => 8 | 4 => 2 | 5 => 4 | 6 => 3 | 2 => 4 | 7 => 4 | 3 => 3 | 8 => 3 | 10 => 8 | 11 => 11
  | _ => 0

/-- The fixed exponent of Table 3-4; none for a floating-kind format. -/
def fixedExp (f : Nat) : Option Int :=
  match f with
  | 0 | 1 => some 0
  | 9 => some (-6)
  | 4 => some (-1)
  | 5 => some (-3)
  | 6 => some (-4)
  | 2 | 7 => some (-9)
  | _ => none

/-- The value of a scale byte (R108): its exponent, or none for NaN. -/
def scaleExp (b : Byte) : Option Int := if b = 0xFF then none else some ((b.toNat : Int) - 127)

/-- Trunc of m × 2^s toward zero, signed (R118). -/
def truncScale (neg : Bool) (m : Nat) (s : Int) : Int :=
  let a : Nat := if 0 ≤ s then m * 2 ^ s.toNat else m / 2 ^ (-s).toNat
  if neg then -(a : Int) else a

/-- Nonzero bits lost by that truncation (R128). -/
def truncLoses (m : Nat) (s : Int) : Bool := if 0 ≤ s then false else decide (m % 2 ^ (-s).toNat ≠ 0)

/-! Conversions to the output formats (Table 3-6, R132 to R135, R139). -/

/-- RNE of a number × 2^−shift to an integer, clamped to lo..hi; NaN gives 0 and an infinity the limit of its sign. -/
def toInt (lo hi : Int) (shift : Nat) (x : Num) : Int :=
  match x with
  | .nan => 0
  | .inf neg => if neg then lo else hi
  | .fin neg m e =>
    let a : Int := rneScale m (e - shift)
    max lo (min hi (if neg then -a else a))

/-- The bits of an integer in w bits. -/
def intBits (w : Nat) (v : Int) : Nat := (BitVec.ofInt w v).toNat

/-- Table 3-6 for the formats that are not MX; `f` is the output format code. -/
def convOut (f : Nat) (sat : Bool) (shift : Nat) (x : Num) : Nat :=
  match f with
  | 12 => fmtFp32.encode false x
  | 13 => intBits 32 (toInt (-2147483648) 2147483647 0 x)
  | 10 => fmtBf16.encode sat x
  | 11 => fmtFp16.encode sat x
  | 3 => fmtE5m2.encode sat x
  | 2 => fmtE4m3.encode sat x
  | 1 => intBits 8 (toInt (-128) 127 shift x)
  | _ => 0

/-- A conversion to a format without scales overflows or saturates (R133, counted under R128): an infinity saturates where it becomes a
finite value. -/
def convOverflows (f : Nat) (sat : Bool) (shift : Nat) (x : Num) : Bool :=
  match x with
  | .nan => false
  | .inf _ => f == 13 || f == 1 || (sat && [10, 11, 2, 3].contains f)
  | .fin neg m e =>
    match f with
    | 13 => let a : Int := rneScale m e; decide ((if neg then a > 2147483648 else a > 2147483647))
    | 1 => let a : Int := rneScale m (e - shift); decide ((if neg then a > 128 else a > 127))
    | 10 => decide (fmtBf16.maxFin < fmtBf16.roundMag m e)
    | 11 => decide (fmtFp16.maxFin < fmtFp16.roundMag m e)
    | 3 => decide (fmtE5m2.maxFin < fmtE5m2.roundMag m e)
    | 2 => decide (fmtE4m3.maxFin < fmtE4m3.roundMag m e)
    | _ => false

/-- ⌊log₂ |x|⌋ of a nonzero finite number; none otherwise. -/
def numLog2 : Num → Option Int
  | .fin _ m e => if m = 0 then none else some (e + (bitLen m : Int) - 1)
  | _ => none

/-- emax of R134 for the MX output codes 7, 8 and 9. -/
def mxEmax (f : Nat) : Int := if f = 7 then 8 else if f = 8 then 15 else 0

/-- One element of an MX block (R134, R135): RNE of x × 2^−E, clamped. -/
def mxElem (f : Nat) (E : Int) (x : Num) : Byte :=
  match x with
  | .fin neg m e =>
    if f = 7 then BitVec.ofNat 8 (fmtE4m3.encode true (.fin neg m (e - E)))
    else if f = 8 then BitVec.ofNat 8 (fmtE5m2.encode true (.fin neg m (e - E)))
    else BitVec.ofInt 8 (toInt (-127) 127 0 (.fin neg m (e - E + 6)))
  | _ => 0

/-- A block of R134: its scale byte and its element bytes. -/
def mxBlock (f : Nat) (xs : List Num) : Byte × List Byte :=
  if xs.any (fun x => match x with | .fin _ _ _ => false | _ => true) then (0xFF, xs.map (fun _ => 0))
  else
    match (xs.filterMap numLog2).max? with
    | none => (0x7F, xs.map (fun x => if f ≠ 9 ∧ x.neg then 0x80 else 0))
    | some l =>
      let E : Int := max (-127) (min 127 (l - mxEmax f))
      (BitVec.ofInt 8 (E + 127), xs.map (mxElem f E))

/-- The clamp of R134 acts on an element. -/
def mxClamps (f : Nat) (E : Int) (x : Num) : Bool :=
  match x with
  | .fin _ m e =>
    if f = 7 then decide (fmtE4m3.maxFin < fmtE4m3.roundMag m (e - E))
    else if f = 8 then decide (fmtE5m2.maxFin < fmtE5m2.roundMag m (e - E))
    else decide ((127 : Int) < rneScale m (e - E + 6))
  | _ => false

/-- Elements of a block that the clamp of R134 acts on. -/
def mxExcess (f : Nat) (xs : List Num) : Nat :=
  if xs.any (fun x => match x with | .fin _ _ _ => false | _ => true) then 0
  else
    match (xs.filterMap numLog2).max? with
    | none => 0
    | some l => xs.countP (mxClamps f (max (-127) (min 127 (l - mxEmax f))))

/-- Overflows and saturations of a conversion of up to 128 numbers, in blocks of 32 for an MX format (R128). -/
def convExcess (f : Nat) (sat : Bool) (shift : Nat) (xs : List Num) : Nat :=
  if isMx f then ((List.range 4).map (fun i => mxExcess f ((xs.drop (32 * i)).take 32))).sum
  else xs.countP (convOverflows f sat shift)

/-- Bytes of one row of 64 entries in an output format (Table 2-7). -/
def rowBytes (f : Nat) : Nat := 8 * elemBits f

/-- A converted row: its bytes, and the two scale bytes of an MX format (R132, R134). -/
def convRow (f : Nat) (sat : Bool) (shift : Nat) (xs : List Num) : List Byte × List Byte :=
  if isMx f then
    let b0 := mxBlock f (xs.take 32)
    let b1 := mxBlock f (xs.drop 32)
    (b0.2 ++ b1.2, [b0.1, b1.1])
  else ((xs.map (fun x => leBytes (elemBits f / 8) (convOut f sat shift x))).flatten, [])

/-- Output formats of Table 2-7. -/
def isOutFmt (f : Nat) : Bool := [12, 13, 10, 11, 1, 2, 3, 7, 8, 9].contains f

/-- Cell-resident formats by mode (Table 2-2). -/
def cellFmtOk (mode f : Nat) : Bool :=
  match mode with
  | 0 => [0, 4].contains f
  | 1 => [1, 2, 3, 9, 7, 8, 5, 6].contains f
  | 2 => [10, 11].contains f
  | _ => false

/-- Broadcast formats by mode (Table 2-2). -/
def bcastFmtOk (mode f : Nat) : Bool :=
  match mode with
  | 0 | 1 => [1, 2, 3, 9, 7, 8].contains f
  | 2 => [10, 11].contains f
  | _ => false

/-- Integer formats without scales, which alone may update INT32 entries (R54). -/
def isPlainInt (f : Nat) : Bool := f == 0 || f == 1

/-- Any cell-resident format of Table 2-2. -/
def isCellFmt (f : Nat) : Bool := cellFmtOk 0 f || cellFmtOk 1 f || cellFmtOk 2 f

/-- Element bytes of a cell-resident tile (Table 2-2). -/
def tileBytes (f : Nat) : Nat :=
  match elemBits f with
  | 4 => 2048
  | 6 => 3072
  | 8 => 4096
  | 16 => 2048
  | _ => 0

/-- Rows (and columns) of a tile (Table 2-2). -/
def tileDim (f : Nat) : Nat := if elemBits f = 16 then 32 else 64

/-- Element (i, j) of a tile held as bytes (Table 3-3). -/
def tileElem (f : Nat) (bs : List Byte) (i j : Nat) : Nat :=
  match elemBits f with
  | 4 => let b := (bs.getD (32 * i + j / 2) 0).toNat; if j % 2 = 0 then b % 16 else b / 16
  | 6 => natBits (leField bs (48 * i) 48) (6 * j + 5) (6 * j)
  | 8 => (bs.getD (64 * i + j) 0).toNat
  | 16 => leField bs (64 * i + 2 * j) 2
  | _ => 0

/-- Element i of a broadcast vector held as bytes (R115). -/
def vecElem (f : Nat) (bs : List Byte) (i : Nat) : Nat :=
  if elemBits f = 16 then leField bs (2 * i) 2 else (bs.getD i 0).toNat

end Sys2Proof.Machine
end

