-- ==== Sys2Proof/Machine/Codes.lean ====
section
/-! DEFINITION. The device-wide error codes of Table 4-24 (R182). Every other value is reserved (R183). -/

namespace Sys2Proof.Machine

/-- OK: success. Reported C. -/
def codeOk : Code := 0x0000
/-- ORPHAN: wait completed because its object was orphaned. Reported C. -/
def codeOrphan : Code := 0x0001
/-- RUN_ABORTED: ended by an earlier failure in the queue (R153). Reported C. -/
def codeRunAborted : Code := 0x0002
/-- LETTER_INVALID: malformed letter (R146). Reported C. -/
def codeLetterInvalid : Code := 0x0101
/-- POSTMARK_OUT_OF_ORDER: postmark not the expected successor. Reported C. -/
def codePostmarkOutOfOrder : Code := 0x0102
/-- QUEUE_OVERRUN: TAIL beyond the ring (R151). Reported E. -/
def codeQueueOverrun : Code := 0x0103
/-- UNIT_INVALID: UNIT names no unit. Reported C. -/
def codeUnitInvalid : Code := 0x0104
/-- UNIT_OUT_OF_SERVICE: unit or member left service. Reported C. -/
def codeUnitOutOfService : Code := 0x0105
/-- ADDRESS_INVALID: address outside the context's window; as an event, a failed host-memory letter fetch (R531) or a record lost in host memory (R757). Reported C, E. -/
def codeAddressInvalid : Code := 0x0106
/-- LAST_MISMATCH: image's last differs (R14). Reported C. -/
def codeLastMismatch : Code := 0x0201
/-- IMAGE_INVALID: malformed image (Table 4-14). Reported C. -/
def codeImageInvalid : Code := 0x0202
/-- COMMAND_INVALID: unknown opcode, reserved field or missing END. Reported C. -/
def codeCommandInvalid : Code := 0x0203
/-- OPERAND_INVALID: excluded operand value. Reported C. -/
def codeOperandInvalid : Code := 0x0204
/-- ARRAY_CHECK_FAIL: hard array or accumulate fault. Reported C, E. -/
def codeArrayCheckFail : Code := 0x0301
/-- VECTOR_FAULT: vector unit fault. Reported C, E. -/
def codeVectorFault : Code := 0x0302
/-- PORT_PARITY: port or lace parity. Reported C, E. -/
def codePortParity : Code := 0x0303
/-- CORE_CONTROL_FAULT: duplicated state machine disagreement. Reported C, E. -/
def codeCoreControlFault : Code := 0x0304
/-- BENCH_UNCORRECTABLE: uncorrectable bench read. Reported C, E. -/
def codeBenchUncorrectable : Code := 0x0305
/-- SYNC_INVALID: invalid sync reference (R148). Reported C. -/
def codeSyncInvalid : Code := 0x0401
/-- SYNC_SATURATED: counter reached a limit; sticky flag set. Reported E. -/
def codeSyncSaturated : Code := 0x0402
/-- HBM_UNCORRECTABLE: uncorrectable HBM read. Reported C, E. -/
def codeHbmUncorrectable : Code := 0x0501
/-- SRAM_UNCORRECTABLE: uncorrectable cluster-store or hub read. Reported C, E. -/
def codeSramUncorrectable : Code := 0x0502
/-- SEQ_INVALID: sequence not of this context (R178). Reported C. -/
def codeSeqInvalid : Code := 0x0503
/-- KV_PAGES_EXHAUSTED: sequence failed by page-hunger policy. Reported C, E. -/
def codeKvPagesExhausted : Code := 0x0504
/-- KV_LENGTH_EXCEEDED: append beyond 2²⁴ positions. Reported C. -/
def codeKvLengthExceeded : Code := 0x0505
/-- EXPERT_UNAVAILABLE: expert promotion failed. Reported C, E. -/
def codeExpertUnavailable : Code := 0x0506
/-- SWAP_ROLLED_BACK: in-place weight swap rolled back. Reported C, E. -/
def codeSwapRolledBack : Code := 0x0507
/-- BLOCK_OVERSIZE: compressed block larger than declared. Reported E. -/
def codeBlockOversize : Code := 0x0601
/-- GATHER_ROW_INVALID: row index outside its table. Reported C. -/
def codeGatherRowInvalid : Code := 0x0602
/-- FLASH_PROGRAM_FAIL: program failed after retries. Reported C, E. -/
def codeFlashProgramFail : Code := 0x0701
/-- FLASH_NOT_ERASED: program to an unerased location refused. Reported C. -/
def codeFlashNotErased : Code := 0x0702
/-- FLASH_UNCORRECTABLE: uncorrectable flash read. Reported C, E. -/
def codeFlashUncorrectable : Code := 0x0703
/-- REGION_LOCKED: protected region not unlocked; as an event, a host write into a locked HBM home (R528). Reported C, E. -/
def codeRegionLocked : Code := 0x0704
/-- PASSWORD_LOCKOUT: eight failed attempts. Reported C, E. -/
def codePasswordLockout : Code := 0x0705
/-- PARCEL_REMOVED: parcel removed during use. Reported C, E. -/
def codeParcelRemoved : Code := 0x0706
/-- PARCEL_ABSENT: no parcel present. Reported C. -/
def codeParcelAbsent : Code := 0x0707
/-- LINK_DOWN: Olila port lost. Reported C, E. -/
def codeLinkDown : Code := 0x0801
/-- LINK_AUTH_FAIL: link key establishment failed. Reported E. -/
def codeLinkAuthFail : Code := 0x0802
/-- ROUTE_INVALID: destination absent from routing tables; as an event, an undeliverable SIGNAL frame (R441, R452). Reported C, E. -/
def codeRouteInvalid : Code := 0x0803
/-- REG_ACCESS_MALFORMED: register access of bad width or alignment, posted to the device event ring (R4). Reported E. -/
def codeRegAccessMalformed : Code := 0x0901
/-- TXN_FULL: more than 256 shadow writes. Reported S. -/
def codeTxnFull : Code := 0x0902
/-- TXN_TIMEOUT: transaction timed out and rolled back. Reported S, E. -/
def codeTxnTimeout : Code := 0x0903
/-- TXN_ABORTED: transaction aborted. Reported S. -/
def codeTxnAborted : Code := 0x0904
/-- TXN_OWNER_LOST: owning driver instance lost. Reported S, E. -/
def codeTxnOwnerLost : Code := 0x0905
/-- TXN_BUSY: domain already has an open transaction. Reported S. -/
def codeTxnBusy : Code := 0x0906
/-- FIRMWARE_RESTART: firmware core restarted. Reported E. -/
def codeFirmwareRestart : Code := 0x0A01
/-- COOLANT_STOP: cold stop on COOLANT_OK. Reported E. -/
def codeCoolantStop : Code := 0x0A02
/-- POWER_WARNING: power-warning input asserted. Reported E. -/
def codePowerWarning : Code := 0x0A03
/-- THERMAL_TRIP: thermal-trip output asserted. Reported E. -/
def codeThermalTrip : Code := 0x0A04
/-- SIGNATURE_INVALID: image signature failed. Reported S, E. -/
def codeSignatureInvalid : Code := 0x0A05
/-- CLOCK_FAULT: clock monitor detection. Reported E. -/
def codeClockFault : Code := 0x0A06
/-- SPARE_SWITCHED: spare brought into use. Reported E. -/
def codeSpareSwitched : Code := 0x0A07
/-- TEST_DENIED: awl access without TEST_ENABLE. Reported S. -/
def codeTestDenied : Code := 0x0A08

/-- Every code of Table 4-24. -/
def codeTable : List Code :=
  [codeOk, codeOrphan, codeRunAborted, codeLetterInvalid, codePostmarkOutOfOrder, codeQueueOverrun, codeUnitInvalid,
    codeUnitOutOfService, codeAddressInvalid, codeLastMismatch, codeImageInvalid, codeCommandInvalid,
    codeOperandInvalid, codeArrayCheckFail, codeVectorFault, codePortParity, codeCoreControlFault,
    codeBenchUncorrectable, codeSyncInvalid, codeSyncSaturated, codeHbmUncorrectable, codeSramUncorrectable,
    codeSeqInvalid, codeKvPagesExhausted, codeKvLengthExceeded, codeExpertUnavailable, codeSwapRolledBack,
    codeBlockOversize, codeGatherRowInvalid, codeFlashProgramFail, codeFlashNotErased, codeFlashUncorrectable,
    codeRegionLocked, codePasswordLockout, codeParcelRemoved, codeParcelAbsent, codeLinkDown, codeLinkAuthFail,
    codeRouteInvalid, codeRegAccessMalformed, codeTxnFull, codeTxnTimeout, codeTxnAborted, codeTxnOwnerLost,
    codeTxnBusy, codeFirmwareRestart, codeCoolantStop, codePowerWarning, codeThermalTrip, codeSignatureInvalid,
    codeClockFault, codeSpareSwitched, codeTestDenied]

end Sys2Proof.Machine
end

