-- ==== Sys2Proof/Machine/RegMap.lean ====
section
/-! DEFINITION. The register map: Table 19-1 (base, count, stride, words, views, reset) and the field tables of every chapter
(bits, access type and view of each field that is not reserved). A register is a `RegName` and an instance number; a register
with several words per instance has a word number as well (R734). -/

namespace Sys2Proof.Machine

/-- The access types of Table 0-4 that occur. -/
inductive Acc | ro | rw | w1c | wo
  deriving DecidableEq, Repr

/-- A field of a register: its bits, its access type, and whether the U-view lists it (R9). -/
structure Fl where
  hi : Nat
  lo : Nat
  acc : Acc
  u : Bool
  deriving DecidableEq, Repr

/-- The registers of Table 19-1 by name; RST_FW_WINDOW is an aperture and no register (R755). -/
inductive RegName
  | cfgStatus
  | cfgCtl
  | cfgDigest
  | cfgLastCore
  | cfgLastCluster
  | cfgLastDie
  | cfgLastUnit
  | clkStatus
  | rstFwCfg
  | rstFwLoad
  | rstFwStatus
  | pwrCapCfg
  | pwrThermCfg
  | pwrBudget
  | pwrStatus
  | pwrState
  | pwrCtxEnergy
  | fltDieStatus
  | fltScrubCfg
  | fltCeCfg
  | fltCoreStatus
  | fltArraySteer
  | fltCoreCtl
  | fltSramSpare
  | fltHbmRowlog
  | secStatus
  | secDeviceId
  | secNonce
  | secPubIdx
  | secPubData
  | secAttIdx
  | secAttData
  | secAttCtl
  | secPeerLo
  | secPeerHi
  | flsCfg
  | flsPw
  | flsPwCtl
  | flsChStatus
  | flsReqSrc
  | flsReqDst
  | flsReqCtl
  | flsReqStatus
  | flsProt
  | pclCfg
  | pclStatus
  | pclId
  | pclCmd
  | hifLinkStatus
  | hifLease
  | hifQportRef
  | hifQportD
  | hifQdesc
  | hifDoorbell
  | hifRingCfg
  | hifRingCons
  | hifHostWin
  | txnCfg
  | txnCtl
  | txnStatus
  | synPortRef
  | synPortData
  | synFillerCfg
  | synSpareStatus
  | crrPool
  | crrStatus
  | crrBwSplit
  | crrBwActive
  | laceStatus
  | srtCacheCfg
  | srtCacheCtl
  | srtStatus
  | cmpFeedStatus
  | cmpLinkStatus
  | pmcRef
  | pmcData
  | pmcBwCfg
  | pmcBw
  | awlCtl
  | awlStatus
  | awlInjAddr
  | awlInjCtl
  | awlXdelay
  | awlBp
  | awlSync
  | awlArb
  | kvpEdit
  | kvpGeom
  | kvpPool
  | kvpPoolBase
  | seqPortRef
  | seqPortData
  | ctxHbmInfo
  | ctxZeroStatus
  | ctxPrStatus
  | ctxCmd
  | ctxSchedCfg
  | ctxResident
  | ctxEntry
  | ctxSaveBase
  | ctxRegion
  | ctxExtent
  | olaSystem
  | olaRouteEpoch
  | olaFclkNow
  | olaPortCfg
  | olaPortStatus
  | olaRoute
  | olaUnit
  | olaProxy
  deriving DecidableEq, Repr

/-- One row of Table 19-1: base, instances, bytes between instances, words per instance, whether the U-view lists it. -/
structure RegRow where
  base : Nat
  count : Nat
  stride : Nat
  words : Nat
  u : Bool
  deriving DecidableEq, Repr

/-- Table 19-1 (R734). -/
def regRow : RegName → RegRow
  | .cfgStatus => ⟨0x0, 1, 8, 1, false⟩
  | .cfgCtl => ⟨0x8, 1, 8, 1, false⟩
  | .cfgDigest => ⟨0x10, 4, 8, 1, false⟩
  | .cfgLastCore => ⟨0x100, 1, 64, 8, false⟩
  | .cfgLastCluster => ⟨0x140, 1, 64, 8, false⟩
  | .cfgLastDie => ⟨0x180, 1, 64, 8, false⟩
  | .cfgLastUnit => ⟨0x1000, 64, 64, 8, false⟩
  | .clkStatus => ⟨0x10000, 1, 8, 1, false⟩
  | .rstFwCfg => ⟨0x20000, 1, 8, 1, false⟩
  | .rstFwLoad => ⟨0x20008, 1, 8, 1, false⟩
  | .rstFwStatus => ⟨0x20100, 19, 8, 1, false⟩
  | .pwrCapCfg => ⟨0x30000, 1, 8, 1, false⟩
  | .pwrThermCfg => ⟨0x30008, 1, 8, 1, false⟩
  | .pwrBudget => ⟨0x30010, 1, 8, 1, false⟩
  | .pwrStatus => ⟨0x30018, 1, 8, 1, false⟩
  | .pwrState => ⟨0x30020, 1, 8, 1, false⟩
  | .pwrCtxEnergy => ⟨0x32000, 1025, 8, 1, true⟩
  | .fltDieStatus => ⟨0x40000, 1, 8, 1, false⟩
  | .fltScrubCfg => ⟨0x40008, 1, 8, 1, false⟩
  | .fltCeCfg => ⟨0x40010, 1, 8, 1, false⟩
  | .fltCoreStatus => ⟨0x41000, 272, 8, 1, false⟩
  | .fltArraySteer => ⟨0x42000, 272, 8, 1, false⟩
  | .fltCoreCtl => ⟨0x43000, 272, 8, 1, false⟩
  | .fltSramSpare => ⟨0x44000, 17, 8, 1, false⟩
  | .fltHbmRowlog => ⟨0x44100, 96, 8, 1, false⟩
  | .secStatus => ⟨0x50000, 1, 8, 1, false⟩
  | .secDeviceId => ⟨0x50008, 2, 8, 1, false⟩
  | .secNonce => ⟨0x50020, 4, 8, 1, false⟩
  | .secPubIdx => ⟨0x50040, 1, 8, 1, false⟩
  | .secPubData => ⟨0x50048, 1, 8, 1, false⟩
  | .secAttIdx => ⟨0x50050, 1, 8, 1, false⟩
  | .secAttData => ⟨0x50058, 1, 8, 1, false⟩
  | .secAttCtl => ⟨0x50060, 1, 8, 1, false⟩
  | .secPeerLo => ⟨0x51000, 256, 8, 1, false⟩
  | .secPeerHi => ⟨0x51800, 256, 8, 1, false⟩
  | .flsCfg => ⟨0x60000, 1, 8, 1, false⟩
  | .flsPw => ⟨0x60020, 4, 8, 1, false⟩
  | .flsPwCtl => ⟨0x60040, 1, 8, 1, false⟩
  | .flsChStatus => ⟨0x60100, 16, 8, 1, false⟩
  | .flsReqSrc => ⟨0x60200, 4, 32, 1, false⟩
  | .flsReqDst => ⟨0x60208, 4, 32, 1, false⟩
  | .flsReqCtl => ⟨0x60210, 4, 32, 1, false⟩
  | .flsReqStatus => ⟨0x60218, 4, 32, 1, false⟩
  | .flsProt => ⟨0x60400, 64, 8, 1, false⟩
  | .pclCfg => ⟨0x70000, 1, 8, 1, false⟩
  | .pclStatus => ⟨0x70008, 1, 8, 1, false⟩
  | .pclId => ⟨0x70010, 1, 8, 1, false⟩
  | .pclCmd => ⟨0x70018, 1, 8, 1, false⟩
  | .hifLinkStatus => ⟨0x80000, 4, 8, 1, false⟩
  | .hifLease => ⟨0x80100, 16, 8, 1, false⟩
  | .hifQportRef => ⟨0x80200, 1, 8, 1, true⟩
  | .hifQportD => ⟨0x80208, 4, 8, 1, true⟩
  | .hifQdesc => ⟨0x90000, 4096, 32, 4, false⟩
  | .hifDoorbell => ⟨0xB0000, 4096, 8, 1, true⟩
  | .hifRingCfg => ⟨0xC0000, 2049, 8, 1, true⟩
  | .hifRingCons => ⟨0xD0000, 2049, 8, 1, true⟩
  | .hifHostWin => ⟨0xE0000, 1024, 8, 1, true⟩
  | .txnCfg => ⟨0x100000, 1, 8, 1, false⟩
  | .txnCtl => ⟨0x100100, 8, 8, 1, false⟩
  | .txnStatus => ⟨0x100200, 8, 8, 1, false⟩
  | .synPortRef => ⟨0x110000, 1, 8, 1, true⟩
  | .synPortData => ⟨0x110008, 1, 8, 1, true⟩
  | .synFillerCfg => ⟨0x110010, 1, 8, 1, false⟩
  | .synSpareStatus => ⟨0x110018, 1, 8, 1, false⟩
  | .crrPool => ⟨0x120000, 1, 8, 1, false⟩
  | .crrStatus => ⟨0x120100, 20, 8, 1, false⟩
  | .crrBwSplit => ⟨0x120200, 22, 8, 1, false⟩
  | .crrBwActive => ⟨0x120300, 22, 8, 1, false⟩
  | .laceStatus => ⟨0x130000, 16, 8, 1, false⟩
  | .srtCacheCfg => ⟨0x140000, 1, 8, 1, false⟩
  | .srtCacheCtl => ⟨0x140008, 1, 8, 1, false⟩
  | .srtStatus => ⟨0x140100, 6, 8, 1, false⟩
  | .cmpFeedStatus => ⟨0x150000, 272, 8, 1, false⟩
  | .cmpLinkStatus => ⟨0x151000, 12, 8, 1, false⟩
  | .pmcRef => ⟨0x160000, 1, 8, 1, true⟩
  | .pmcData => ⟨0x160008, 1, 8, 1, true⟩
  | .pmcBwCfg => ⟨0x160100, 48, 8, 1, false⟩
  | .pmcBw => ⟨0x160400, 48, 8, 1, false⟩
  | .awlCtl => ⟨0x170000, 1, 8, 1, false⟩
  | .awlStatus => ⟨0x170008, 1, 8, 1, false⟩
  | .awlInjAddr => ⟨0x170010, 1, 8, 1, false⟩
  | .awlInjCtl => ⟨0x170018, 1, 8, 1, false⟩
  | .awlXdelay => ⟨0x170100, 64, 8, 1, false⟩
  | .awlBp => ⟨0x170300, 16, 8, 1, false⟩
  | .awlSync => ⟨0x170400, 17, 8, 1, false⟩
  | .awlArb => ⟨0x170500, 8, 8, 1, false⟩
  | .kvpEdit => ⟨0x180000, 1, 8, 1, false⟩
  | .kvpGeom => ⟨0x181000, 1024, 32, 1, true⟩
  | .kvpPool => ⟨0x181008, 1024, 32, 1, true⟩
  | .kvpPoolBase => ⟨0x181010, 1024, 32, 1, true⟩
  | .seqPortRef => ⟨0x190000, 1, 8, 1, true⟩
  | .seqPortData => ⟨0x190008, 1, 8, 1, true⟩
  | .ctxHbmInfo => ⟨0x200000, 1, 8, 1, false⟩
  | .ctxZeroStatus => ⟨0x200008, 1, 8, 1, false⟩
  | .ctxPrStatus => ⟨0x200010, 1, 8, 1, false⟩
  | .ctxCmd => ⟨0x200018, 1, 8, 1, false⟩
  | .ctxSchedCfg => ⟨0x200020, 1, 8, 1, false⟩
  | .ctxResident => ⟨0x200100, 16, 8, 1, false⟩
  | .ctxEntry => ⟨0x210000, 1024, 16, 1, true⟩
  | .ctxSaveBase => ⟨0x210008, 1024, 16, 1, true⟩
  | .ctxRegion => ⟨0x220000, 255, 64, 8, true⟩
  | .ctxExtent => ⟨0x300000, 65536, 8, 1, true⟩
  | .olaSystem => ⟨0x400000, 1, 8, 1, false⟩
  | .olaRouteEpoch => ⟨0x400008, 1, 8, 1, false⟩
  | .olaFclkNow => ⟨0x400010, 1, 8, 1, false⟩
  | .olaPortCfg => ⟨0x400100, 12, 8, 1, false⟩
  | .olaPortStatus => ⟨0x400200, 12, 8, 1, false⟩
  | .olaRoute => ⟨0x401000, 256, 8, 1, false⟩
  | .olaUnit => ⟨0x402000, 64, 8, 1, false⟩
  | .olaProxy => ⟨0x480000, 65536, 8, 1, true⟩

/-- The reset value of instance `i` after a full restart (R6, the Reset column of Table 19-1). -/
def regReset (r : RegName) (i : Nat) : Word :=
  match r with
  | .rstFwCfg => 0x4000C0000
  | .pwrCapCfg => 0x200860C85008C0
  | .pwrThermCfg => 0x1C201900140
  | .fltScrubCfg => 0x1518000000064
  | .fltCeCfg => 0x80404
  | .fltCoreStatus => 0x1F
  | .fltSramSpare => 0xFF0000000000
  | .flsCfg => 0x37074000100000
  | .flsReqSrc => 0xFF000000000000
  | .flsReqDst => 0xFF000000000000
  | .flsProt => 0xFF
  | .pclCfg => 0xAC
  | .hifRingCfg => 0x4000000000000000
  | .txnCfg => 0x400
  | .synPortData => 0xFFF0000000000000
  | .synFillerCfg => 0x10400040010
  | .crrPool => 0x2000
  | .crrBwSplit => if i < 6 then 0x0000002040A00400 else 0x0000002040A00000
  | .crrBwActive => if i < 6 then 0x0000002040A00400 else 0x0000002040A00000
  | .laceStatus => 0x1000
  | .pmcBwCfg => 0x10
  | .awlInjCtl => 0x1000
  | .kvpPool => 0x3FC00000000000
  | .ctxHbmInfo => 0x19254
  | .ctxSchedCfg => 0x100
  | .olaPortCfg => 0x1040000000000
  | .olaPortStatus => 0xFF00000000
  | _ => 0

/-- CFG_STATUS.CODE, RO. -/
def fCfgStatusCode : Fl := ⟨63, 48, .ro, false⟩
/-- CFG_STATUS.FAIL_STEP, RO. -/
def fCfgStatusFailStep : Fl := ⟨47, 44, .ro, false⟩
/-- CFG_STATUS.SLOT, RO. -/
def fCfgStatusSlot : Fl := ⟨43, 40, .ro, false⟩
/-- CFG_STATUS.FLAGS, RO. -/
def fCfgStatusFlags : Fl := ⟨35, 32, .ro, false⟩
/-- CFG_STATUS.RECOVERED, RO. -/
def fCfgStatusRecovered : Fl := ⟨4, 4, .ro, false⟩
/-- CFG_STATUS.STAGE, RO. -/
def fCfgStatusStage : Fl := ⟨3, 0, .ro, false⟩
/-- CFG_CTL.RECOVER, WO. -/
def fCfgCtlRecover : Fl := ⟨0, 0, .wo, false⟩
/-- CFG_DIGEST.DIGEST, RO. -/
def fCfgDigestDigest : Fl := ⟨63, 0, .ro, false⟩
/-- CFG_LAST_CORE.WORD, RO. -/
def fCfgLastCoreWord : Fl := ⟨63, 0, .ro, false⟩
/-- CFG_LAST_CLUSTER.WORD, RO. -/
def fCfgLastClusterWord : Fl := ⟨63, 0, .ro, false⟩
/-- CFG_LAST_DIE.WORD, RO. -/
def fCfgLastDieWord : Fl := ⟨63, 0, .ro, false⟩
/-- CFG_LAST_UNIT.WORD, RO. -/
def fCfgLastUnitWord : Fl := ⟨63, 0, .ro, false⟩
/-- CLK_STATUS.NCLK_LOCK, RO. -/
def fClkStatusNclkLock : Fl := ⟨25, 10, .ro, false⟩
/-- CLK_STATUS.MCLK_LOCK, RO. -/
def fClkStatusMclkLock : Fl := ⟨9, 4, .ro, false⟩
/-- CLK_STATUS.UCLK_LOCK, RO. -/
def fClkStatusUclkLock : Fl := ⟨3, 3, .ro, false⟩
/-- CLK_STATUS.CCLK_LOCK, RO. -/
def fClkStatusCclkLock : Fl := ⟨2, 2, .ro, false⟩
/-- CLK_STATUS.FCLK_LOCK, RO. -/
def fClkStatusFclkLock : Fl := ⟨1, 1, .ro, false⟩
/-- CLK_STATUS.ACLK_LOCK, RO. -/
def fClkStatusAclkLock : Fl := ⟨0, 0, .ro, false⟩
/-- RST_FW_CFG.RESTART_MAX, RO. -/
def fRstFwCfgRestartMax : Fl := ⟨39, 32, .ro, false⟩
/-- RST_FW_CFG.WDT, RO. -/
def fRstFwCfgWdt : Fl := ⟨31, 0, .ro, false⟩
/-- RST_FW_LOAD.VERIFIED, RO. -/
def fRstFwLoadVerified : Fl := ⟨39, 36, .ro, false⟩
/-- RST_FW_LOAD.STATUS, RO. -/
def fRstFwLoadStatus : Fl := ⟨34, 32, .ro, false⟩
/-- RST_FW_LOAD.GO, WO. -/
def fRstFwLoadGo : Fl := ⟨31, 31, .wo, false⟩
/-- RST_FW_LOAD.IMAGE, RW. -/
def fRstFwLoadImage : Fl := ⟨29, 28, .rw, false⟩
/-- RST_FW_LOAD.BYTES, RW. -/
def fRstFwLoadBytes : Fl := ⟨20, 0, .rw, false⟩
/-- RST_FW_STATUS.RESTARTS, RO. -/
def fRstFwStatusRestarts : Fl := ⟨47, 32, .ro, false⟩
/-- RST_FW_STATUS.LAST_CAUSE, RO. -/
def fRstFwStatusLastCause : Fl := ⟨23, 16, .ro, false⟩
/-- RST_FW_STATUS.GIVEN_UP, RO. -/
def fRstFwStatusGivenUp : Fl := ⟨7, 7, .ro, false⟩
/-- RST_FW_STATUS.DIGEST_FAIL, RO. -/
def fRstFwStatusDigestFail : Fl := ⟨6, 6, .ro, false⟩
/-- RST_FW_STATUS.PENDING, RO. -/
def fRstFwStatusPending : Fl := ⟨2, 2, .ro, false⟩
/-- RST_FW_STATUS.STATE, RO. -/
def fRstFwStatusState : Fl := ⟨1, 0, .ro, false⟩
/-- PWR_CAP_CFG.I3C_SA, RO. -/
def fPwrCapCfgI3cSa : Fl := ⟨63, 57, .ro, false⟩
/-- PWR_CAP_CFG.PRIO, RO. -/
def fPwrCapCfgPrio : Fl := ⟨56, 54, .ro, false⟩
/-- PWR_CAP_CFG.DROOP_T, RO. -/
def fPwrCapCfgDroopT : Fl := ⟨53, 48, .ro, false⟩
/-- PWR_CAP_CFG.DROOP_HOLD, RO. -/
def fPwrCapCfgDroopHold : Fl := ⟨47, 40, .ro, false⟩
/-- PWR_CAP_CFG.DROOP_MV, RO. -/
def fPwrCapCfgDroopMv : Fl := ⟨39, 36, .ro, false⟩
/-- PWR_CAP_CFG.PHASE0_W, RO. -/
def fPwrCapCfgPhase0W : Fl := ⟨35, 24, .ro, false⟩
/-- PWR_CAP_CFG.SAFE_CAP, RO. -/
def fPwrCapCfgSafeCap : Fl := ⟨23, 12, .ro, false⟩
/-- PWR_CAP_CFG.CAP_MAX, RO. -/
def fPwrCapCfgCapMax : Fl := ⟨11, 0, .ro, false⟩
/-- PWR_THERM_CFG.THERM_TRIP, RO. -/
def fPwrThermCfgThermTrip : Fl := ⟨47, 32, .ro, false⟩
/-- PWR_THERM_CFG.THERM_WARN, RO. -/
def fPwrThermCfgThermWarn : Fl := ⟨31, 16, .ro, false⟩
/-- PWR_THERM_CFG.THERM_RESUME, RO. -/
def fPwrThermCfgThermResume : Fl := ⟨15, 0, .ro, false⟩
/-- PWR_BUDGET.I3C_W, RO. -/
def fPwrBudgetI3cW : Fl := ⟨27, 16, .ro, false⟩
/-- PWR_BUDGET.HOST_W, RW. -/
def fPwrBudgetHostW : Fl := ⟨11, 0, .rw, false⟩
/-- PWR_STATUS.AGE_LIMIT, RO. -/
def fPwrStatusAgeLimit : Fl := ⟨63, 63, .ro, false⟩
/-- PWR_STATUS.LIMITER, RO. -/
def fPwrStatusLimiter : Fl := ⟨62, 62, .ro, false⟩
/-- PWR_STATUS.DROOPS, RO. -/
def fPwrStatusDroops : Fl := ⟨55, 40, .ro, false⟩
/-- PWR_STATUS.CAP, RO. -/
def fPwrStatusCap : Fl := ⟨35, 24, .ro, false⟩
/-- PWR_STATUS.POWER, RO. -/
def fPwrStatusPower : Fl := ⟨11, 0, .ro, false⟩
/-- PWR_STATE.REFUSED, W1C. -/
def fPwrStateRefused : Fl := ⟨7, 7, .w1c, false⟩
/-- PWR_STATE.CAUSE, RO. -/
def fPwrStateCause : Fl := ⟨6, 5, .ro, false⟩
/-- PWR_STATE.STATE, RO. -/
def fPwrStateState : Fl := ⟨4, 2, .ro, false⟩
/-- PWR_STATE.CMD, WO. -/
def fPwrStateCmd : Fl := ⟨1, 0, .wo, false⟩
/-- PWR_CTX_ENERGY.UJ, RO. -/
def fPwrCtxEnergyUj : Fl := ⟨63, 0, .ro, true⟩
/-- FLT_DIE_STATUS.FATAL, RO. -/
def fFltDieStatusFatal : Fl := ⟨63, 63, .ro, false⟩
/-- FLT_DIE_STATUS.AGENT, RO. -/
def fFltDieStatusAgent : Fl := ⟨55, 48, .ro, false⟩
/-- FLT_DIE_STATUS.CLK_FAULT, RO. -/
def fFltDieStatusClkFault : Fl := ⟨39, 32, .ro, false⟩
/-- FLT_DIE_STATUS.GUARD, RO. -/
def fFltDieStatusGuard : Fl := ⟨0, 0, .ro, false⟩
/-- FLT_SCRUB_CFG.HBM_PERIOD, RO. -/
def fFltScrubCfgHbmPeriod : Fl := ⟨48, 32, .ro, false⟩
/-- FLT_SCRUB_CFG.SRAM_PERIOD, RO. -/
def fFltScrubCfgSramPeriod : Fl := ⟨15, 0, .ro, false⟩
/-- FLT_CE_CFG.HBM_ROW_CE, RO. -/
def fFltCeCfgHbmRowCe : Fl := ⟨23, 16, .ro, false⟩
/-- FLT_CE_CFG.SLAB_CE, RO. -/
def fFltCeCfgSlabCe : Fl := ⟨15, 8, .ro, false⟩
/-- FLT_CE_CFG.ROW_CE, RO. -/
def fFltCeCfgRowCe : Fl := ⟨7, 0, .ro, false⟩
/-- FLT_CORE_STATUS.REPLAYS, RW. -/
def fFltCoreStatusReplays : Fl := ⟨39, 24, .rw, false⟩
/-- FLT_CORE_STATUS.HARD_ARRAY, W1C. -/
def fFltCoreStatusHardArray : Fl := ⟨23, 20, .w1c, false⟩
/-- FLT_CORE_STATUS.SEQ_FAULT, W1C. -/
def fFltCoreStatusSeqFault : Fl := ⟨12, 12, .w1c, false⟩
/-- FLT_CORE_STATUS.VEC_FAULT, W1C. -/
def fFltCoreStatusVecFault : Fl := ⟨11, 11, .w1c, false⟩
/-- FLT_CORE_STATUS.ACC_FAULT, W1C. -/
def fFltCoreStatusAccFault : Fl := ⟨10, 10, .w1c, false⟩
/-- FLT_CORE_STATUS.BENCH_UE, W1C. -/
def fFltCoreStatusBenchUe : Fl := ⟨9, 9, .w1c, false⟩
/-- FLT_CORE_STATUS.PORT_PARITY, W1C. -/
def fFltCoreStatusPortParity : Fl := ⟨8, 8, .w1c, false⟩
/-- FLT_CORE_STATUS.FAILED, RO. -/
def fFltCoreStatusFailed : Fl := ⟨6, 6, .ro, false⟩
/-- FLT_CORE_STATUS.HALTED, RO. -/
def fFltCoreStatusHalted : Fl := ⟨5, 5, .ro, false⟩
/-- FLT_CORE_STATUS.MEMBER, RO. -/
def fFltCoreStatusMember : Fl := ⟨4, 0, .ro, false⟩
/-- FLT_ARRAY_STEER.A3_ROW_EN, RO. -/
def fFltArraySteerA3RowEn : Fl := ⟨63, 63, .ro, false⟩
/-- FLT_ARRAY_STEER.A3_ROW, RO. -/
def fFltArraySteerA3Row : Fl := ⟨61, 56, .ro, false⟩
/-- FLT_ARRAY_STEER.A3_COL_EN, RO. -/
def fFltArraySteerA3ColEn : Fl := ⟨55, 55, .ro, false⟩
/-- FLT_ARRAY_STEER.A3_COL, RO. -/
def fFltArraySteerA3Col : Fl := ⟨54, 48, .ro, false⟩
/-- FLT_ARRAY_STEER.A2_ROW_EN, RO. -/
def fFltArraySteerA2RowEn : Fl := ⟨47, 47, .ro, false⟩
/-- FLT_ARRAY_STEER.A2_ROW, RO. -/
def fFltArraySteerA2Row : Fl := ⟨45, 40, .ro, false⟩
/-- FLT_ARRAY_STEER.A2_COL_EN, RO. -/
def fFltArraySteerA2ColEn : Fl := ⟨39, 39, .ro, false⟩
/-- FLT_ARRAY_STEER.A2_COL, RO. -/
def fFltArraySteerA2Col : Fl := ⟨38, 32, .ro, false⟩
/-- FLT_ARRAY_STEER.A1_ROW_EN, RO. -/
def fFltArraySteerA1RowEn : Fl := ⟨31, 31, .ro, false⟩
/-- FLT_ARRAY_STEER.A1_ROW, RO. -/
def fFltArraySteerA1Row : Fl := ⟨29, 24, .ro, false⟩
/-- FLT_ARRAY_STEER.A1_COL_EN, RO. -/
def fFltArraySteerA1ColEn : Fl := ⟨23, 23, .ro, false⟩
/-- FLT_ARRAY_STEER.A1_COL, RO. -/
def fFltArraySteerA1Col : Fl := ⟨22, 16, .ro, false⟩
/-- FLT_ARRAY_STEER.A0_ROW_EN, RO. -/
def fFltArraySteerA0RowEn : Fl := ⟨15, 15, .ro, false⟩
/-- FLT_ARRAY_STEER.A0_ROW, RO. -/
def fFltArraySteerA0Row : Fl := ⟨13, 8, .ro, false⟩
/-- FLT_ARRAY_STEER.A0_COL_EN, RO. -/
def fFltArraySteerA0ColEn : Fl := ⟨7, 7, .ro, false⟩
/-- FLT_ARRAY_STEER.A0_COL, RO. -/
def fFltArraySteerA0Col : Fl := ⟨6, 0, .ro, false⟩
/-- FLT_CORE_CTL.RESTORE, WO. -/
def fFltCoreCtlRestore : Fl := ⟨1, 1, .wo, false⟩
/-- FLT_CORE_CTL.RETIRE, WO. -/
def fFltCoreCtlRetire : Fl := ⟨0, 0, .wo, false⟩
/-- FLT_SRAM_SPARE.HUB_BANK, RO. -/
def fFltSramSpareHubBank : Fl := ⟨47, 40, .ro, false⟩
/-- FLT_SRAM_SPARE.STORE_ROWS, RO. -/
def fFltSramSpareStoreRows : Fl := ⟨31, 16, .ro, false⟩
/-- FLT_SRAM_SPARE.BENCH_ROWS, RO. -/
def fFltSramSpareBenchRows : Fl := ⟨15, 0, .ro, false⟩
/-- FLT_HBM_ROWLOG.VALID, RO. -/
def fFltHbmRowlogValid : Fl := ⟨63, 63, .ro, false⟩
/-- FLT_HBM_ROWLOG.UE, RO. -/
def fFltHbmRowlogUe : Fl := ⟨62, 62, .ro, false⟩
/-- FLT_HBM_ROWLOG.COUNT, RO. -/
def fFltHbmRowlogCount : Fl := ⟨39, 32, .ro, false⟩
/-- FLT_HBM_ROWLOG.CHANNEL, RO. -/
def fFltHbmRowlogChannel : Fl := ⟨31, 28, .ro, false⟩
/-- FLT_HBM_ROWLOG.PC, RO. -/
def fFltHbmRowlogPc : Fl := ⟨27, 27, .ro, false⟩
/-- FLT_HBM_ROWLOG.BANK, RO. -/
def fFltHbmRowlogBank : Fl := ⟨26, 21, .ro, false⟩
/-- FLT_HBM_ROWLOG.ROW, RO. -/
def fFltHbmRowlogRow : Fl := ⟨20, 0, .ro, false⟩
/-- SEC_STATUS.ENT_FAIL, RO. -/
def fSecStatusEntFail : Fl := ⟨7, 7, .ro, false⟩
/-- SEC_STATUS.OWNER_FUSED, RO. -/
def fSecStatusOwnerFused : Fl := ⟨6, 6, .ro, false⟩
/-- SEC_STATUS.ID_READY, RO. -/
def fSecStatusIdReady : Fl := ⟨5, 5, .ro, false⟩
/-- SEC_DEVICE_ID.ID, RO. -/
def fSecDeviceIdId : Fl := ⟨63, 0, .ro, false⟩
/-- SEC_NONCE.NONCE, RW. -/
def fSecNonceNonce : Fl := ⟨63, 0, .rw, false⟩
/-- SEC_PUB_IDX.IDX, RW. -/
def fSecPubIdxIdx : Fl := ⟨8, 0, .rw, false⟩
/-- SEC_PUB_DATA.DATA, RO. -/
def fSecPubDataData : Fl := ⟨63, 0, .ro, false⟩
/-- SEC_ATT_IDX.IDX, RW. -/
def fSecAttIdxIdx : Fl := ⟨8, 0, .rw, false⟩
/-- SEC_ATT_DATA.DATA, RO. -/
def fSecAttDataData : Fl := ⟨63, 0, .ro, false⟩
/-- SEC_ATT_CTL.CODE, RO. -/
def fSecAttCtlCode : Fl := ⟨47, 32, .ro, false⟩
/-- SEC_ATT_CTL.BUSY, RO. -/
def fSecAttCtlBusy : Fl := ⟨1, 1, .ro, false⟩
/-- SEC_ATT_CTL.GO, WO. -/
def fSecAttCtlGo : Fl := ⟨0, 0, .wo, false⟩
/-- SEC_PEER_LO.ID, RO. -/
def fSecPeerLoId : Fl := ⟨63, 0, .ro, false⟩
/-- SEC_PEER_HI.ID, RO. -/
def fSecPeerHiId : Fl := ⟨63, 0, .ro, false⟩
/-- FLS_CFG.RETRY, RO. -/
def fFlsCfgRetry : Fl := ⟨55, 52, .ro, false⟩
/-- FLS_CFG.READ_RETRY, RO. -/
def fFlsCfgReadRetry : Fl := ⟨51, 48, .ro, false⟩
/-- FLS_CFG.SPARE_PCT, RO. -/
def fFlsCfgSparePct : Fl := ⟨47, 40, .ro, false⟩
/-- FLS_CFG.WEAR_GAP, RO. -/
def fFlsCfgWearGap : Fl := ⟨39, 32, .ro, false⟩
/-- FLS_CFG.DISTURB_READS, RO. -/
def fFlsCfgDisturbReads : Fl := ⟨31, 0, .ro, false⟩
/-- FLS_PW.PW, WO. -/
def fFlsPwPw : Fl := ⟨63, 0, .wo, false⟩
/-- FLS_PW_CTL.CODE, RO. -/
def fFlsPwCtlCode : Fl := ⟨47, 32, .ro, false⟩
/-- FLS_PW_CTL.BUSY, RO. -/
def fFlsPwCtlBusy : Fl := ⟨24, 24, .ro, false⟩
/-- FLS_PW_CTL.LEN, RW. -/
def fFlsPwCtlLen : Fl := ⟨21, 16, .rw, false⟩
/-- FLS_PW_CTL.SLOT, RW. -/
def fFlsPwCtlSlot : Fl := ⟨13, 8, .rw, false⟩
/-- FLS_PW_CTL.CMD, WO. -/
def fFlsPwCtlCmd : Fl := ⟨1, 0, .wo, false⟩
/-- FLS_CH_STATUS.PROG_FAIL, W1C. -/
def fFlsChStatusProgFail : Fl := ⟨49, 49, .w1c, false⟩
/-- FLS_CH_STATUS.TRAINED, RO. -/
def fFlsChStatusTrained : Fl := ⟨48, 48, .ro, false⟩
/-- FLS_CH_STATUS.RETIRED, RO. -/
def fFlsChStatusRetired : Fl := ⟨47, 32, .ro, false⟩
/-- FLS_CH_STATUS.FREE_BLOCKS, RO. -/
def fFlsChStatusFreeBlocks : Fl := ⟨31, 0, .ro, false⟩
/-- FLS_REQ_SRC.REGION, RW. -/
def fFlsReqSrcRegion : Fl := ⟨55, 48, .rw, false⟩
/-- FLS_REQ_SRC.OFFSET, RW. -/
def fFlsReqSrcOffset : Fl := ⟨47, 0, .rw, false⟩
/-- FLS_REQ_DST.REGION, RW. -/
def fFlsReqDstRegion : Fl := ⟨55, 48, .rw, false⟩
/-- FLS_REQ_DST.OFFSET, RW. -/
def fFlsReqDstOffset : Fl := ⟨47, 0, .rw, false⟩
/-- FLS_REQ_CTL.GO, WO. -/
def fFlsReqCtlGo : Fl := ⟨63, 63, .wo, false⟩
/-- FLS_REQ_CTL.OP, RW. -/
def fFlsReqCtlOp : Fl := ⟨58, 56, .rw, false⟩
/-- FLS_REQ_CTL.UNITS, RW. -/
def fFlsReqCtlUnits : Fl := ⟨31, 0, .rw, false⟩
/-- FLS_REQ_STATUS.STATE, RO. -/
def fFlsReqStatusState : Fl := ⟨50, 48, .ro, false⟩
/-- FLS_REQ_STATUS.CODE, RO. -/
def fFlsReqStatusCode : Fl := ⟨47, 32, .ro, false⟩
/-- FLS_REQ_STATUS.DONE_UNITS, RO. -/
def fFlsReqStatusDoneUnits : Fl := ⟨31, 0, .ro, false⟩
/-- FLS_PROT.VALID, RO. -/
def fFlsProtValid : Fl := ⟨63, 63, .ro, false⟩
/-- FLS_PROT.LOCKOUT, RO. -/
def fFlsProtLockout : Fl := ⟨23, 23, .ro, false⟩
/-- FLS_PROT.FAILS, RO. -/
def fFlsProtFails : Fl := ⟨22, 19, .ro, false⟩
/-- FLS_PROT.HAS_PW, RO. -/
def fFlsProtHasPw : Fl := ⟨18, 18, .ro, false⟩
/-- FLS_PROT.LOCKED, RO. -/
def fFlsProtLocked : Fl := ⟨17, 17, .ro, false⟩
/-- FLS_PROT.REGION, RO. -/
def fFlsProtRegion : Fl := ⟨7, 0, .ro, false⟩
/-- PCL_CFG.IRQ_EN, RW. -/
def fPclCfgIrqEn : Fl := ⟨33, 33, .rw, false⟩
/-- PCL_CFG.DEFER, RW. -/
def fPclCfgDefer : Fl := ⟨32, 32, .rw, false⟩
/-- PCL_CFG.READ_DRAIN, RW. -/
def fPclCfgReadDrain : Fl := ⟨15, 0, .rw, false⟩
/-- PCL_STATUS.CAPACITY, RO. -/
def fPclStatusCapacity : Fl := ⟨47, 8, .ro, false⟩
/-- PCL_STATUS.CHANGE, W1C. -/
def fPclStatusChange : Fl := ⟨7, 7, .w1c, false⟩
/-- PCL_STATUS.SURPRISE, W1C. -/
def fPclStatusSurprise : Fl := ⟨6, 6, .w1c, false⟩
/-- PCL_STATUS.STEP_FAIL, W1C. -/
def fPclStatusStepFail : Fl := ⟨5, 5, .w1c, false⟩
/-- PCL_STATUS.BLANK, RO. -/
def fPclStatusBlank : Fl := ⟨4, 4, .ro, false⟩
/-- PCL_STATUS.PRESENT, RO. -/
def fPclStatusPresent : Fl := ⟨3, 3, .ro, false⟩
/-- PCL_STATUS.PENDING, RO. -/
def fPclStatusPending : Fl := ⟨2, 2, .ro, false⟩
/-- PCL_STATUS.STATE, RO. -/
def fPclStatusState : Fl := ⟨1, 0, .ro, false⟩
/-- PCL_ID.PARCEL_ID, RO. -/
def fPclIdParcelId : Fl := ⟨63, 0, .ro, false⟩
/-- PCL_CMD.REQUEST, WO. -/
def fPclCmdRequest : Fl := ⟨1, 1, .wo, false⟩
/-- PCL_CMD.RELEASE, WO. -/
def fPclCmdRelease : Fl := ⟨0, 0, .wo, false⟩
/-- HIF_LINK_STATUS.REPAIRS, RO. -/
def fHifLinkStatusRepairs : Fl := ⟨47, 40, .ro, false⟩
/-- HIF_LINK_STATUS.TX_RED, RO. -/
def fHifLinkStatusTxRed : Fl := ⟨34, 32, .ro, false⟩
/-- HIF_LINK_STATUS.RX_RED, RO. -/
def fHifLinkStatusRxRed : Fl := ⟨30, 28, .ro, false⟩
/-- HIF_LINK_STATUS.WIDTH, RO. -/
def fHifLinkStatusWidth : Fl := ⟨17, 16, .ro, false⟩
/-- HIF_LINK_STATUS.RETRAINS, RO. -/
def fHifLinkStatusRetrains : Fl := ⟨15, 0, .ro, false⟩
/-- HIF_LEASE.PERIOD, RW. -/
def fHifLeasePeriod : Fl := ⟨47, 32, .rw, false⟩
/-- HIF_LEASE.RELEASE, WO. -/
def fHifLeaseRelease : Fl := ⟨16, 16, .wo, false⟩
/-- HIF_LEASE.ID, RW. -/
def fHifLeaseId : Fl := ⟨15, 0, .rw, false⟩
/-- HIF_QPORT_REF.CMD, WO. -/
def fHifQportRefCmd : Fl := ⟨18, 16, .wo, true⟩
/-- HIF_QPORT_REF.QUEUE, RW. -/
def fHifQportRefQueue : Fl := ⟨11, 0, .rw, true⟩
/-- HIF_QPORT_D.DESC, RO. -/
def fHifQportDDesc : Fl := ⟨63, 0, .ro, true⟩
/-- HIF_QDESC.DESC, RO. -/
def fHifQdescDesc : Fl := ⟨63, 0, .ro, false⟩
/-- HIF_DOORBELL.TAIL, WO. -/
def fHifDoorbellTail : Fl := ⟨31, 0, .wo, true⟩
/-- HIF_RING_CFG.IRQ_EN, RO. -/
def fHifRingCfgIrqEn : Fl := ⟨63, 63, .ro, true⟩
/-- HIF_RING_CFG.ARMED, RO. -/
def fHifRingCfgArmed : Fl := ⟨62, 62, .ro, true⟩
/-- HIF_RING_CFG.LOC, RO. -/
def fHifRingCfgLoc : Fl := ⟨60, 60, .ro, true⟩
/-- HIF_RING_CFG.LOG2_ENTRIES, RO. -/
def fHifRingCfgLog2Entries : Fl := ⟨52, 48, .ro, true⟩
/-- HIF_RING_CFG.RING_BASE, RO. -/
def fHifRingCfgRingBase : Fl := ⟨47, 0, .ro, true⟩
/-- HIF_RING_CONS.PROD, RO. -/
def fHifRingConsProd : Fl := ⟨63, 32, .ro, true⟩
/-- HIF_RING_CONS.CONS, RW. -/
def fHifRingConsCons : Fl := ⟨31, 0, .rw, true⟩
/-- HIF_HOST_WIN.VALID, RO. -/
def fHifHostWinValid : Fl := ⟨63, 63, .ro, true⟩
/-- HIF_HOST_WIN.LOG2_PAGES, RO. -/
def fHifHostWinLog2Pages : Fl := ⟨57, 52, .ro, true⟩
/-- HIF_HOST_WIN.BASE, RO. -/
def fHifHostWinBase : Fl := ⟨51, 12, .ro, true⟩
/-- TXN_CFG.TIMEOUT, RO. -/
def fTxnCfgTimeout : Fl := ⟨15, 0, .ro, false⟩
/-- TXN_CTL.OWNER, RW. -/
def fTxnCtlOwner : Fl := ⟨27, 24, .rw, false⟩
/-- TXN_CTL.DOMAINS, RW. -/
def fTxnCtlDomains : Fl := ⟨22, 16, .rw, false⟩
/-- TXN_CTL.CMD, WO. -/
def fTxnCtlCmd : Fl := ⟨1, 0, .wo, false⟩
/-- TXN_STATUS.SEQ, RO. -/
def fTxnStatusSeq : Fl := ⟨63, 48, .ro, false⟩
/-- TXN_STATUS.ADOPTED, RO. -/
def fTxnStatusAdopted : Fl := ⟨38, 32, .ro, false⟩
/-- TXN_STATUS.CODE, RO. -/
def fTxnStatusCode : Fl := ⟨31, 16, .ro, false⟩
/-- TXN_STATUS.STATE, RO. -/
def fTxnStatusState : Fl := ⟨11, 9, .ro, false⟩
/-- TXN_STATUS.WRITES, RO. -/
def fTxnStatusWrites : Fl := ⟨8, 0, .ro, false⟩
/-- SYN_PORT_REF.CONTEXT, RW. -/
def fSynPortRefContext : Fl := ⟨41, 32, .rw, true⟩
/-- SYN_PORT_REF.CLUSTER, RW. -/
def fSynPortRefCluster : Fl := ⟨27, 24, .rw, true⟩
/-- SYN_PORT_REF.MEMBER, RW. -/
def fSynPortRefMember : Fl := ⟨23, 20, .rw, true⟩
/-- SYN_PORT_REF.REF, RW. -/
def fSynPortRefRef : Fl := ⟨19, 0, .rw, true⟩
/-- SYN_PORT_DATA.OWNER, RO. -/
def fSynPortDataOwner : Fl := ⟨63, 52, .ro, true⟩
/-- SYN_PORT_DATA.CONTEXT, RO. -/
def fSynPortDataContext : Fl := ⟨51, 42, .ro, true⟩
/-- SYN_PORT_DATA.OWNED, RO. -/
def fSynPortDataOwned : Fl := ⟨36, 36, .ro, true⟩
/-- SYN_PORT_DATA.WAITERS, RO. -/
def fSynPortDataWaiters : Fl := ⟨35, 35, .ro, true⟩
/-- SYN_PORT_DATA.ORPHANED, RO. -/
def fSynPortDataOrphaned : Fl := ⟨34, 34, .ro, true⟩
/-- SYN_PORT_DATA.SAT_LO, W1C. -/
def fSynPortDataSatLo : Fl := ⟨33, 33, .w1c, true⟩
/-- SYN_PORT_DATA.SAT_HI, W1C. -/
def fSynPortDataSatHi : Fl := ⟨32, 32, .w1c, true⟩
/-- SYN_PORT_DATA.COUNT, RO. -/
def fSynPortDataCount : Fl := ⟨31, 0, .ro, true⟩
/-- SYN_FILLER_CFG.EN, RO. -/
def fSynFillerCfgEn : Fl := ⟨40, 40, .ro, false⟩
/-- SYN_FILLER_CFG.RISE, RO. -/
def fSynFillerCfgRise : Fl := ⟨35, 32, .ro, false⟩
/-- SYN_FILLER_CFG.FLOOR, RO. -/
def fSynFillerCfgFloor : Fl := ⟨29, 24, .ro, false⟩
/-- SYN_FILLER_CFG.STEP, RO. -/
def fSynFillerCfgStep : Fl := ⟨23, 16, .ro, false⟩
/-- SYN_FILLER_CFG.HOLD, RO. -/
def fSynFillerCfgHold : Fl := ⟨15, 0, .ro, false⟩
/-- SYN_SPARE_STATUS.HUB_USED, RO. -/
def fSynSpareStatusHubUsed : Fl := ⟨19, 16, .ro, false⟩
/-- SYN_SPARE_STATUS.CLUSTER_USED, RO. -/
def fSynSpareStatusClusterUsed : Fl := ⟨15, 0, .ro, false⟩
/-- CRR_POOL.FREE, RO. -/
def fCrrPoolFree : Fl := ⟨13, 0, .ro, false⟩
/-- CRR_STATUS.OUTSTANDING, RO. -/
def fCrrStatusOutstanding : Fl := ⟨43, 32, .ro, false⟩
/-- CRR_STATUS.ACTIVE, RO. -/
def fCrrStatusActive : Fl := ⟨26, 22, .ro, false⟩
/-- CRR_STATUS.POOL_WAIT, RO. -/
def fCrrStatusPoolWait : Fl := ⟨17, 17, .ro, false⟩
/-- CRR_STATUS.BUSY, RO. -/
def fCrrStatusBusy : Fl := ⟨16, 16, .ro, false⟩
/-- CRR_STATUS.LAST_ERROR, RO. -/
def fCrrStatusLastError : Fl := ⟨15, 0, .ro, false⟩
/-- CRR_BW_SPLIT.EPOCH, RO. -/
def fCrrBwSplitEpoch : Fl := ⟨63, 48, .ro, false⟩
/-- CRR_BW_SPLIT.MODE, RO. -/
def fCrrBwSplitMode : Fl := ⟨41, 40, .ro, false⟩
/-- CRR_BW_SPLIT.REMOTE, RO. -/
def fCrrBwSplitRemote : Fl := ⟨39, 32, .ro, false⟩
/-- CRR_BW_SPLIT.WRITE, RO. -/
def fCrrBwSplitWrite : Fl := ⟨31, 24, .ro, false⟩
/-- CRR_BW_SPLIT.READ, RO. -/
def fCrrBwSplitRead : Fl := ⟨23, 16, .ro, false⟩
/-- CRR_BW_SPLIT.WINDOW, RO. -/
def fCrrBwSplitWindow : Fl := ⟨15, 0, .ro, false⟩
/-- CRR_BW_ACTIVE.EPOCH, RO. -/
def fCrrBwActiveEpoch : Fl := ⟨63, 48, .ro, false⟩
/-- CRR_BW_ACTIVE.MODE, RO. -/
def fCrrBwActiveMode : Fl := ⟨41, 40, .ro, false⟩
/-- CRR_BW_ACTIVE.REMOTE, RO. -/
def fCrrBwActiveRemote : Fl := ⟨39, 32, .ro, false⟩
/-- CRR_BW_ACTIVE.WRITE, RO. -/
def fCrrBwActiveWrite : Fl := ⟨31, 24, .ro, false⟩
/-- CRR_BW_ACTIVE.READ, RO. -/
def fCrrBwActiveRead : Fl := ⟨23, 16, .ro, false⟩
/-- CRR_BW_ACTIVE.WINDOW, RO. -/
def fCrrBwActiveWindow : Fl := ⟨15, 0, .ro, false⟩
/-- LACE_STATUS.TILES_RETURNED, RO. -/
def fLaceStatusTilesReturned : Fl := ⟨63, 32, .ro, false⟩
/-- LACE_STATUS.OFF_POS, RO. -/
def fLaceStatusOffPos : Fl := ⟨12, 8, .ro, false⟩
/-- LACE_STATUS.STATE, RO. -/
def fLaceStatusState : Fl := ⟨1, 0, .ro, false⟩
/-- SRT_CACHE_CFG.SIZE, RO. -/
def fSrtCacheCfgSize : Fl := ⟨35, 32, .ro, false⟩
/-- SRT_CACHE_CFG.SETS, RO. -/
def fSrtCacheCfgSets : Fl := ⟨16, 0, .ro, false⟩
/-- SRT_CACHE_CTL.BUSY, RO. -/
def fSrtCacheCtlBusy : Fl := ⟨16, 16, .ro, false⟩
/-- SRT_CACHE_CTL.INV_ALL, WO. -/
def fSrtCacheCtlInvAll : Fl := ⟨9, 9, .wo, false⟩
/-- SRT_CACHE_CTL.INV, WO. -/
def fSrtCacheCtlInv : Fl := ⟨8, 8, .wo, false⟩
/-- SRT_CACHE_CTL.REGION, WO. -/
def fSrtCacheCtlRegion : Fl := ⟨7, 0, .wo, false⟩
/-- SRT_STATUS.MEM_OUT, RO. -/
def fSrtStatusMemOut : Fl := ⟨55, 47, .ro, false⟩
/-- SRT_STATUS.FLASH_OUT, RO. -/
def fSrtStatusFlashOut : Fl := ⟨46, 40, .ro, false⟩
/-- SRT_STATUS.BAGS_ACTIVE, RO. -/
def fSrtStatusBagsActive : Fl := ⟨39, 35, .ro, false⟩
/-- SRT_STATUS.BUSY, RO. -/
def fSrtStatusBusy : Fl := ⟨16, 16, .ro, false⟩
/-- SRT_STATUS.LAST_ERROR, RO. -/
def fSrtStatusLastError : Fl := ⟨15, 0, .ro, false⟩
/-- CMP_FEED_STATUS.UNDERSIZE, RW. -/
def fCmpFeedStatusUndersize : Fl := ⟨47, 24, .rw, false⟩
/-- CMP_FEED_STATUS.OVERSIZE, RW. -/
def fCmpFeedStatusOversize : Fl := ⟨23, 0, .rw, false⟩
/-- CMP_LINK_STATUS.ACTIVE, RO. -/
def fCmpLinkStatusActive : Fl := ⟨48, 48, .ro, false⟩
/-- CMP_LINK_STATUS.UNDERSIZE, RW. -/
def fCmpLinkStatusUndersize : Fl := ⟨47, 24, .rw, false⟩
/-- CMP_LINK_STATUS.OVERSIZE, RW. -/
def fCmpLinkStatusOversize : Fl := ⟨23, 0, .rw, false⟩
/-- PMC_REF.CTX, RW. -/
def fPmcRefCtx : Fl := ⟨63, 63, .rw, true⟩
/-- PMC_REF.CONTEXT, RW. -/
def fPmcRefContext : Fl := ⟨41, 32, .rw, true⟩
/-- PMC_REF.KIND, RW. -/
def fPmcRefKind : Fl := ⟨27, 24, .rw, false⟩
/-- PMC_REF.INSTANCE, RW. -/
def fPmcRefInstance : Fl := ⟨19, 8, .rw, false⟩
/-- PMC_REF.EVENT, RW. -/
def fPmcRefEvent : Fl := ⟨7, 0, .rw, true⟩
/-- PMC_DATA.WRAP, W1C. -/
def fPmcDataWrap : Fl := ⟨63, 63, .w1c, true⟩
/-- PMC_DATA.COUNT, RO. -/
def fPmcDataCount : Fl := ⟨47, 0, .ro, true⟩
/-- PMC_BW_CFG.LOG2_WINDOW, RW. -/
def fPmcBwCfgLog2Window : Fl := ⟨4, 0, .rw, false⟩
/-- PMC_BW.SEQ, RO. -/
def fPmcBwSeq : Fl := ⟨63, 56, .ro, false⟩
/-- PMC_BW.A_UNITS, RO. -/
def fPmcBwAUnits : Fl := ⟨51, 26, .ro, false⟩
/-- PMC_BW.B_UNITS, RO. -/
def fPmcBwBUnits : Fl := ⟨25, 0, .ro, false⟩
/-- AWL_CTL.EN, RW. -/
def fAwlCtlEn : Fl := ⟨3, 3, .rw, false⟩
/-- AWL_CTL.PENDING, RO. -/
def fAwlCtlPending : Fl := ⟨2, 2, .ro, false⟩
/-- AWL_CTL.STATE, RO. -/
def fAwlCtlState : Fl := ⟨1, 0, .ro, false⟩
/-- AWL_STATUS.CODE, RO. -/
def fAwlStatusCode : Fl := ⟨63, 48, .ro, false⟩
/-- AWL_STATUS.INJECTED, RO. -/
def fAwlStatusInjected : Fl := ⟨31, 0, .ro, false⟩
/-- AWL_INJ_ADDR.INSTANCE, RW. -/
def fAwlInjAddrInstance : Fl := ⟨54, 46, .rw, false⟩
/-- AWL_INJ_ADDR.BIT, RW. -/
def fAwlInjAddrBit : Fl := ⟨45, 36, .rw, false⟩
/-- AWL_INJ_ADDR.WORD, RW. -/
def fAwlInjAddrWord : Fl := ⟨35, 0, .rw, false⟩
/-- AWL_INJ_CTL.GO, WO. -/
def fAwlInjCtlGo : Fl := ⟨63, 63, .wo, false⟩
/-- AWL_INJ_CTL.BUSY, RO. -/
def fAwlInjCtlBusy : Fl := ⟨62, 62, .ro, false⟩
/-- AWL_INJ_CTL.STORE, RW. -/
def fAwlInjCtlStore : Fl := ⟨19, 16, .rw, false⟩
/-- AWL_INJ_CTL.BITS, RW. -/
def fAwlInjCtlBits : Fl := ⟨13, 12, .rw, false⟩
/-- AWL_XDELAY.VALID, RW. -/
def fAwlXdelayValid : Fl := ⟨63, 63, .rw, false⟩
/-- AWL_XDELAY.RANDOM, RW. -/
def fAwlXdelayRandom : Fl := ⟨62, 62, .rw, false⟩
/-- AWL_XDELAY.CLASS, RW. -/
def fAwlXdelayClass : Fl := ⟨55, 52, .rw, false⟩
/-- AWL_XDELAY.INSTANCE, RW. -/
def fAwlXdelayInstance : Fl := ⟨47, 32, .rw, false⟩
/-- AWL_XDELAY.DELAY, RW. -/
def fAwlXdelayDelay : Fl := ⟨7, 0, .rw, false⟩
/-- AWL_BP.VALID, RW. -/
def fAwlBpValid : Fl := ⟨63, 63, .rw, false⟩
/-- AWL_BP.PORT, RW. -/
def fAwlBpPort : Fl := ⟨55, 52, .rw, false⟩
/-- AWL_BP.INSTANCE, RW. -/
def fAwlBpInstance : Fl := ⟨47, 32, .rw, false⟩
/-- AWL_BP.DUTY, RW. -/
def fAwlBpDuty : Fl := ⟨13, 8, .rw, false⟩
/-- AWL_SYNC.DELAY, RW. -/
def fAwlSyncDelay : Fl := ⟨7, 0, .rw, false⟩
/-- AWL_ARB.VALID, RW. -/
def fAwlArbValid : Fl := ⟨63, 63, .rw, false⟩
/-- AWL_ARB.TARGET, RW. -/
def fAwlArbTarget : Fl := ⟨62, 60, .rw, false⟩
/-- AWL_ARB.INSTANCE, RW. -/
def fAwlArbInstance : Fl := ⟨47, 32, .rw, false⟩
/-- AWL_ARB.FAVOUR, RW. -/
def fAwlArbFavour : Fl := ⟨31, 24, .rw, false⟩
/-- AWL_ARB.SKEW, RW. -/
def fAwlArbSkew : Fl := ⟨13, 8, .rw, false⟩
/-- KVP_EDIT.OP, WO. -/
def fKvpEditOp : Fl := ⟨63, 61, .wo, false⟩
/-- KVP_EDIT.ALL_LAYERS, WO. -/
def fKvpEditAllLayers : Fl := ⟨60, 60, .wo, false⟩
/-- KVP_EDIT.LAYER, WO. -/
def fKvpEditLayer : Fl := ⟨59, 50, .wo, false⟩
/-- KVP_EDIT.SLOT, WO. -/
def fKvpEditSlot : Fl := ⟨49, 42, .wo, false⟩
/-- KVP_EDIT.ARG, WO. -/
def fKvpEditArg : Fl := ⟨41, 18, .wo, false⟩
/-- KVP_EDIT.SEQ, WO. -/
def fKvpEditSeq : Fl := ⟨15, 0, .wo, false⟩
/-- KVP_GEOM.HEAD_BASE, RO. -/
def fKvpGeomHeadBase : Fl := ⟨56, 53, .ro, true⟩
/-- KVP_GEOM.PIN_MAX, RO. -/
def fKvpGeomPinMax : Fl := ⟨52, 44, .ro, true⟩
/-- KVP_GEOM.WINDOW, RO. -/
def fKvpGeomWindow : Fl := ⟨43, 28, .ro, true⟩
/-- KVP_GEOM.LAYERS, RO. -/
def fKvpGeomLayers : Fl := ⟨27, 18, .ro, true⟩
/-- KVP_GEOM.GROUP, RO. -/
def fKvpGeomGroup : Fl := ⟨17, 10, .ro, true⟩
/-- KVP_GEOM.KVFMT, RO. -/
def fKvpGeomKvfmt : Fl := ⟨9, 6, .ro, true⟩
/-- KVP_GEOM.HEAD_DIM, RO. -/
def fKvpGeomHeadDim : Fl := ⟨5, 4, .ro, true⟩
/-- KVP_GEOM.KV_HEADS, RO. -/
def fKvpGeomKvHeads : Fl := ⟨3, 0, .ro, true⟩
/-- KVP_POOL.POLICY, RO. -/
def fKvpPoolPolicy : Fl := ⟨63, 63, .ro, true⟩
/-- KVP_POOL.PIN_AUTO, RO. -/
def fKvpPoolPinAuto : Fl := ⟨62, 54, .ro, true⟩
/-- KVP_POOL.FLASH_REGION, RO. -/
def fKvpPoolFlashRegion : Fl := ⟨53, 46, .ro, true⟩
/-- KVP_POOL.FREE_PAGES, RO. -/
def fKvpPoolFreePages : Fl := ⟨45, 23, .ro, true⟩
/-- KVP_POOL.POOL_PAGES, RO. -/
def fKvpPoolPoolPages : Fl := ⟨22, 0, .ro, true⟩
/-- KVP_POOL_BASE.BASE, RO. -/
def fKvpPoolBaseBase : Fl := ⟨47, 0, .ro, true⟩
/-- SEQ_PORT_REF.SEQ, RW. -/
def fSeqPortRefSeq : Fl := ⟨15, 0, .rw, true⟩
/-- SEQ_PORT_DATA.STATE, RO. -/
def fSeqPortDataState : Fl := ⟨63, 61, .ro, true⟩
/-- SEQ_PORT_DATA.HUNGRY, RO. -/
def fSeqPortDataHungry : Fl := ⟨60, 60, .ro, true⟩
/-- SEQ_PORT_DATA.CONTEXT, RO. -/
def fSeqPortDataContext : Fl := ⟨59, 50, .ro, true⟩
/-- SEQ_PORT_DATA.EPOCH, RO. -/
def fSeqPortDataEpoch : Fl := ⟨49, 34, .ro, true⟩
/-- SEQ_PORT_DATA.PENDING, RO. -/
def fSeqPortDataPending : Fl := ⟨33, 25, .ro, true⟩
/-- SEQ_PORT_DATA.LENGTH, RO. -/
def fSeqPortDataLength : Fl := ⟨24, 0, .ro, true⟩
/-- CTX_HBM_INFO.TABLE_PAGES, RO. -/
def fCtxHbmInfoTablePages : Fl := ⟨50, 34, .ro, false⟩
/-- CTX_HBM_INFO.FREE_PAGES, RO. -/
def fCtxHbmInfoFreePages : Fl := ⟨33, 17, .ro, false⟩
/-- CTX_HBM_INFO.TOTAL_PAGES, RO. -/
def fCtxHbmInfoTotalPages : Fl := ⟨16, 0, .ro, false⟩
/-- CTX_ZERO_STATUS.QUEUED, RO. -/
def fCtxZeroStatusQueued : Fl := ⟨48, 32, .ro, false⟩
/-- CTX_ZERO_STATUS.ZEROED, RO. -/
def fCtxZeroStatusZeroed : Fl := ⟨31, 0, .ro, false⟩
/-- CTX_PR_STATUS.PROMOTIONS, RO. -/
def fCtxPrStatusPromotions : Fl := ⟨36, 32, .ro, false⟩
/-- CTX_PR_STATUS.HELD, RO. -/
def fCtxPrStatusHeld : Fl := ⟨16, 0, .ro, false⟩
/-- CTX_CMD.BUSY, RO. -/
def fCtxCmdBusy : Fl := ⟨17, 17, .ro, false⟩
/-- CTX_CMD.RESET, WO. -/
def fCtxCmdReset : Fl := ⟨16, 16, .wo, false⟩
/-- CTX_CMD.CONTEXT, RW. -/
def fCtxCmdContext : Fl := ⟨9, 0, .rw, false⟩
/-- CTX_SCHED_CFG.WAIT_YIELD, RO. -/
def fCtxSchedCfgWaitYield : Fl := ⟨15, 0, .ro, false⟩
/-- CTX_RESIDENT.STATE, RO. -/
def fCtxResidentState : Fl := ⟨43, 42, .ro, false⟩
/-- CTX_RESIDENT.CONTEXT, RO. -/
def fCtxResidentContext : Fl := ⟨41, 32, .ro, false⟩
/-- CTX_RESIDENT.SWITCHES, RO. -/
def fCtxResidentSwitches : Fl := ⟨31, 0, .ro, false⟩
/-- CTX_ENTRY.PENDING, RO. -/
def fCtxEntryPending : Fl := ⟨60, 60, .ro, true⟩
/-- CTX_ENTRY.STATE, RO. -/
def fCtxEntryState : Fl := ⟨59, 58, .ro, true⟩
/-- CTX_ENTRY.EN, RO. -/
def fCtxEntryEn : Fl := ⟨57, 57, .ro, true⟩
/-- CTX_ENTRY.SAVE, RO. -/
def fCtxEntrySave : Fl := ⟨56, 56, .ro, true⟩
/-- CTX_ENTRY.PRIO, RO. -/
def fCtxEntryPrio : Fl := ⟨55, 54, .ro, true⟩
/-- CTX_ENTRY.SLICE, RO. -/
def fCtxEntrySlice : Fl := ⟨47, 32, .ro, true⟩
/-- CTX_ENTRY.SYNC_SLABS, RO. -/
def fCtxEntrySyncSlabs : Fl := ⟨24, 16, .ro, true⟩
/-- CTX_ENTRY.CLUSTERS, RO. -/
def fCtxEntryClusters : Fl := ⟨15, 0, .ro, true⟩
/-- CTX_SAVE_BASE.BASE, RO. -/
def fCtxSaveBaseBase : Fl := ⟨47, 0, .ro, true⟩
/-- CTX_REGION.DESC, RO. -/
def fCtxRegionDesc : Fl := ⟨63, 0, .ro, true⟩
/-- CTX_EXTENT.VALID, RO. -/
def fCtxExtentValid : Fl := ⟨63, 63, .ro, true⟩
/-- CTX_EXTENT.HPAGE, RO. -/
def fCtxExtentHpage : Fl := ⟨50, 34, .ro, true⟩
/-- CTX_EXTENT.WPAGE, RO. -/
def fCtxExtentWpage : Fl := ⟨33, 17, .ro, true⟩
/-- CTX_EXTENT.PAGES, RO. -/
def fCtxExtentPages : Fl := ⟨16, 0, .ro, true⟩
/-- OLA_SYSTEM.DIE, RO. -/
def fOlaSystemDie : Fl := ⟨7, 0, .ro, false⟩
/-- OLA_ROUTE_EPOCH.EPOCH, RO. -/
def fOlaRouteEpochEpoch : Fl := ⟨63, 0, .ro, false⟩
/-- OLA_FCLK_NOW.COUNT, RO. -/
def fOlaFclkNowCount : Fl := ⟨63, 0, .ro, false⟩
/-- OLA_PORT_CFG.AUTO_RETRAIN, RO. -/
def fOlaPortCfgAutoRetrain : Fl := ⟨48, 48, .ro, false⟩
/-- OLA_PORT_CFG.LANE_ERR_MAX, RO. -/
def fOlaPortCfgLaneErrMax : Fl := ⟨47, 32, .ro, false⟩
/-- OLA_PORT_CFG.ENC, RO. -/
def fOlaPortCfgEnc : Fl := ⟨1, 1, .ro, false⟩
/-- OLA_PORT_CFG.EN, RO. -/
def fOlaPortCfgEn : Fl := ⟨0, 0, .ro, false⟩
/-- OLA_PORT_STATUS.STATE, RO. -/
def fOlaPortStatusState : Fl := ⟨63, 61, .ro, false⟩
/-- OLA_PORT_STATUS.SPARE_TX, RO. -/
def fOlaPortStatusSpareTx : Fl := ⟨55, 55, .ro, false⟩
/-- OLA_PORT_STATUS.SPARE_TX_LANE, RO. -/
def fOlaPortStatusSpareTxLane : Fl := ⟨54, 52, .ro, false⟩
/-- OLA_PORT_STATUS.SPARE_RX, RO. -/
def fOlaPortStatusSpareRx : Fl := ⟨51, 51, .ro, false⟩
/-- OLA_PORT_STATUS.SPARE_RX_LANE, RO. -/
def fOlaPortStatusSpareRxLane : Fl := ⟨50, 48, .ro, false⟩
/-- OLA_PORT_STATUS.PEER_PORT, RO. -/
def fOlaPortStatusPeerPort : Fl := ⟨43, 40, .ro, false⟩
/-- OLA_PORT_STATUS.PEER_DIE, RO. -/
def fOlaPortStatusPeerDie : Fl := ⟨39, 32, .ro, false⟩
/-- OLA_PORT_STATUS.LAST_ERROR, RO. -/
def fOlaPortStatusLastError : Fl := ⟨15, 0, .ro, false⟩
/-- OLA_ROUTE.VALID, RO. -/
def fOlaRouteValid : Fl := ⟨15, 15, .ro, false⟩
/-- OLA_ROUTE.ALT_VALID, RO. -/
def fOlaRouteAltValid : Fl := ⟨14, 14, .ro, false⟩
/-- OLA_ROUTE.ALT_PORT, RO. -/
def fOlaRouteAltPort : Fl := ⟨11, 8, .ro, false⟩
/-- OLA_ROUTE.PORT, RO. -/
def fOlaRoutePort : Fl := ⟨7, 4, .ro, false⟩
/-- OLA_UNIT.VALID, RO. -/
def fOlaUnitValid : Fl := ⟨63, 63, .ro, false⟩
/-- OLA_UNIT.LEVEL, RO. -/
def fOlaUnitLevel : Fl := ⟨62, 60, .ro, false⟩
/-- OLA_UNIT.ROOT_DIE, RO. -/
def fOlaUnitRootDie : Fl := ⟨55, 48, .ro, false⟩
/-- OLA_UNIT.FIRST_DIE, RO. -/
def fOlaUnitFirstDie : Fl := ⟨47, 40, .ro, false⟩
/-- OLA_UNIT.DIES, RO. -/
def fOlaUnitDies : Fl := ⟨39, 31, .ro, false⟩
/-- OLA_UNIT.MEMBERS, RO. -/
def fOlaUnitMembers : Fl := ⟨6, 0, .ro, false⟩
/-- OLA_PROXY.VALID, RO. -/
def fOlaProxyValid : Fl := ⟨63, 63, .ro, true⟩
/-- OLA_PROXY.FANOUT, RO. -/
def fOlaProxyFanout : Fl := ⟨62, 62, .ro, true⟩
/-- OLA_PROXY.TARGET, RO. -/
def fOlaProxyTarget : Fl := ⟨61, 49, .ro, true⟩
/-- OLA_PROXY.LOCAL, RO. -/
def fOlaProxyLocal : Fl := ⟨35, 18, .ro, true⟩
/-- OLA_PROXY.REMOTE, RO. -/
def fOlaProxyRemote : Fl := ⟨17, 0, .ro, true⟩

/-- The fields of a register, from the most significant down; every other bit is reserved (R5). -/
def regFields : RegName → List Fl
  | .cfgStatus => [fCfgStatusCode, fCfgStatusFailStep, fCfgStatusSlot, fCfgStatusFlags, fCfgStatusRecovered, fCfgStatusStage]
  | .cfgCtl => [fCfgCtlRecover]
  | .cfgDigest => [fCfgDigestDigest]
  | .cfgLastCore => [fCfgLastCoreWord]
  | .cfgLastCluster => [fCfgLastClusterWord]
  | .cfgLastDie => [fCfgLastDieWord]
  | .cfgLastUnit => [fCfgLastUnitWord]
  | .clkStatus => [fClkStatusNclkLock, fClkStatusMclkLock, fClkStatusUclkLock, fClkStatusCclkLock, fClkStatusFclkLock, fClkStatusAclkLock]
  | .rstFwCfg => [fRstFwCfgRestartMax, fRstFwCfgWdt]
  | .rstFwLoad => [fRstFwLoadVerified, fRstFwLoadStatus, fRstFwLoadGo, fRstFwLoadImage, fRstFwLoadBytes]
  | .rstFwStatus => [fRstFwStatusRestarts, fRstFwStatusLastCause, fRstFwStatusGivenUp, fRstFwStatusDigestFail, fRstFwStatusPending, fRstFwStatusState]
  | .pwrCapCfg => [fPwrCapCfgI3cSa, fPwrCapCfgPrio, fPwrCapCfgDroopT, fPwrCapCfgDroopHold, fPwrCapCfgDroopMv, fPwrCapCfgPhase0W, fPwrCapCfgSafeCap, fPwrCapCfgCapMax]
  | .pwrThermCfg => [fPwrThermCfgThermTrip, fPwrThermCfgThermWarn, fPwrThermCfgThermResume]
  | .pwrBudget => [fPwrBudgetI3cW, fPwrBudgetHostW]
  | .pwrStatus => [fPwrStatusAgeLimit, fPwrStatusLimiter, fPwrStatusDroops, fPwrStatusCap, fPwrStatusPower]
  | .pwrState => [fPwrStateRefused, fPwrStateCause, fPwrStateState, fPwrStateCmd]
  | .pwrCtxEnergy => [fPwrCtxEnergyUj]
  | .fltDieStatus => [fFltDieStatusFatal, fFltDieStatusAgent, fFltDieStatusClkFault, fFltDieStatusGuard]
  | .fltScrubCfg => [fFltScrubCfgHbmPeriod, fFltScrubCfgSramPeriod]
  | .fltCeCfg => [fFltCeCfgHbmRowCe, fFltCeCfgSlabCe, fFltCeCfgRowCe]
  | .fltCoreStatus => [fFltCoreStatusReplays, fFltCoreStatusHardArray, fFltCoreStatusSeqFault, fFltCoreStatusVecFault, fFltCoreStatusAccFault, fFltCoreStatusBenchUe, fFltCoreStatusPortParity, fFltCoreStatusFailed, fFltCoreStatusHalted, fFltCoreStatusMember]
  | .fltArraySteer => [fFltArraySteerA3RowEn, fFltArraySteerA3Row, fFltArraySteerA3ColEn, fFltArraySteerA3Col, fFltArraySteerA2RowEn, fFltArraySteerA2Row, fFltArraySteerA2ColEn, fFltArraySteerA2Col, fFltArraySteerA1RowEn, fFltArraySteerA1Row, fFltArraySteerA1ColEn, fFltArraySteerA1Col, fFltArraySteerA0RowEn, fFltArraySteerA0Row, fFltArraySteerA0ColEn, fFltArraySteerA0Col]
  | .fltCoreCtl => [fFltCoreCtlRestore, fFltCoreCtlRetire]
  | .fltSramSpare => [fFltSramSpareHubBank, fFltSramSpareStoreRows, fFltSramSpareBenchRows]
  | .fltHbmRowlog => [fFltHbmRowlogValid, fFltHbmRowlogUe, fFltHbmRowlogCount, fFltHbmRowlogChannel, fFltHbmRowlogPc, fFltHbmRowlogBank, fFltHbmRowlogRow]
  | .secStatus => [fSecStatusEntFail, fSecStatusOwnerFused, fSecStatusIdReady]
  | .secDeviceId => [fSecDeviceIdId]
  | .secNonce => [fSecNonceNonce]
  | .secPubIdx => [fSecPubIdxIdx]
  | .secPubData => [fSecPubDataData]
  | .secAttIdx => [fSecAttIdxIdx]
  | .secAttData => [fSecAttDataData]
  | .secAttCtl => [fSecAttCtlCode, fSecAttCtlBusy, fSecAttCtlGo]
  | .secPeerLo => [fSecPeerLoId]
  | .secPeerHi => [fSecPeerHiId]
  | .flsCfg => [fFlsCfgRetry, fFlsCfgReadRetry, fFlsCfgSparePct, fFlsCfgWearGap, fFlsCfgDisturbReads]
  | .flsPw => [fFlsPwPw]
  | .flsPwCtl => [fFlsPwCtlCode, fFlsPwCtlBusy, fFlsPwCtlLen, fFlsPwCtlSlot, fFlsPwCtlCmd]
  | .flsChStatus => [fFlsChStatusProgFail, fFlsChStatusTrained, fFlsChStatusRetired, fFlsChStatusFreeBlocks]
  | .flsReqSrc => [fFlsReqSrcRegion, fFlsReqSrcOffset]
  | .flsReqDst => [fFlsReqDstRegion, fFlsReqDstOffset]
  | .flsReqCtl => [fFlsReqCtlGo, fFlsReqCtlOp, fFlsReqCtlUnits]
  | .flsReqStatus => [fFlsReqStatusState, fFlsReqStatusCode, fFlsReqStatusDoneUnits]
  | .flsProt => [fFlsProtValid, fFlsProtLockout, fFlsProtFails, fFlsProtHasPw, fFlsProtLocked, fFlsProtRegion]
  | .pclCfg => [fPclCfgIrqEn, fPclCfgDefer, fPclCfgReadDrain]
  | .pclStatus => [fPclStatusCapacity, fPclStatusChange, fPclStatusSurprise, fPclStatusStepFail, fPclStatusBlank, fPclStatusPresent, fPclStatusPending, fPclStatusState]
  | .pclId => [fPclIdParcelId]
  | .pclCmd => [fPclCmdRequest, fPclCmdRelease]
  | .hifLinkStatus => [fHifLinkStatusRepairs, fHifLinkStatusTxRed, fHifLinkStatusRxRed, fHifLinkStatusWidth, fHifLinkStatusRetrains]
  | .hifLease => [fHifLeasePeriod, fHifLeaseRelease, fHifLeaseId]
  | .hifQportRef => [fHifQportRefCmd, fHifQportRefQueue]
  | .hifQportD => [fHifQportDDesc]
  | .hifQdesc => [fHifQdescDesc]
  | .hifDoorbell => [fHifDoorbellTail]
  | .hifRingCfg => [fHifRingCfgIrqEn, fHifRingCfgArmed, fHifRingCfgLoc, fHifRingCfgLog2Entries, fHifRingCfgRingBase]
  | .hifRingCons => [fHifRingConsProd, fHifRingConsCons]
  | .hifHostWin => [fHifHostWinValid, fHifHostWinLog2Pages, fHifHostWinBase]
  | .txnCfg => [fTxnCfgTimeout]
  | .txnCtl => [fTxnCtlOwner, fTxnCtlDomains, fTxnCtlCmd]
  | .txnStatus => [fTxnStatusSeq, fTxnStatusAdopted, fTxnStatusCode, fTxnStatusState, fTxnStatusWrites]
  | .synPortRef => [fSynPortRefContext, fSynPortRefCluster, fSynPortRefMember, fSynPortRefRef]
  | .synPortData => [fSynPortDataOwner, fSynPortDataContext, fSynPortDataOwned, fSynPortDataWaiters, fSynPortDataOrphaned, fSynPortDataSatLo, fSynPortDataSatHi, fSynPortDataCount]
  | .synFillerCfg => [fSynFillerCfgEn, fSynFillerCfgRise, fSynFillerCfgFloor, fSynFillerCfgStep, fSynFillerCfgHold]
  | .synSpareStatus => [fSynSpareStatusHubUsed, fSynSpareStatusClusterUsed]
  | .crrPool => [fCrrPoolFree]
  | .crrStatus => [fCrrStatusOutstanding, fCrrStatusActive, fCrrStatusPoolWait, fCrrStatusBusy, fCrrStatusLastError]
  | .crrBwSplit => [fCrrBwSplitEpoch, fCrrBwSplitMode, fCrrBwSplitRemote, fCrrBwSplitWrite, fCrrBwSplitRead, fCrrBwSplitWindow]
  | .crrBwActive => [fCrrBwActiveEpoch, fCrrBwActiveMode, fCrrBwActiveRemote, fCrrBwActiveWrite, fCrrBwActiveRead, fCrrBwActiveWindow]
  | .laceStatus => [fLaceStatusTilesReturned, fLaceStatusOffPos, fLaceStatusState]
  | .srtCacheCfg => [fSrtCacheCfgSize, fSrtCacheCfgSets]
  | .srtCacheCtl => [fSrtCacheCtlBusy, fSrtCacheCtlInvAll, fSrtCacheCtlInv, fSrtCacheCtlRegion]
  | .srtStatus => [fSrtStatusMemOut, fSrtStatusFlashOut, fSrtStatusBagsActive, fSrtStatusBusy, fSrtStatusLastError]
  | .cmpFeedStatus => [fCmpFeedStatusUndersize, fCmpFeedStatusOversize]
  | .cmpLinkStatus => [fCmpLinkStatusActive, fCmpLinkStatusUndersize, fCmpLinkStatusOversize]
  | .pmcRef => [fPmcRefCtx, fPmcRefContext, fPmcRefKind, fPmcRefInstance, fPmcRefEvent]
  | .pmcData => [fPmcDataWrap, fPmcDataCount]
  | .pmcBwCfg => [fPmcBwCfgLog2Window]
  | .pmcBw => [fPmcBwSeq, fPmcBwAUnits, fPmcBwBUnits]
  | .awlCtl => [fAwlCtlEn, fAwlCtlPending, fAwlCtlState]
  | .awlStatus => [fAwlStatusCode, fAwlStatusInjected]
  | .awlInjAddr => [fAwlInjAddrInstance, fAwlInjAddrBit, fAwlInjAddrWord]
  | .awlInjCtl => [fAwlInjCtlGo, fAwlInjCtlBusy, fAwlInjCtlStore, fAwlInjCtlBits]
  | .awlXdelay => [fAwlXdelayValid, fAwlXdelayRandom, fAwlXdelayClass, fAwlXdelayInstance, fAwlXdelayDelay]
  | .awlBp => [fAwlBpValid, fAwlBpPort, fAwlBpInstance, fAwlBpDuty]
  | .awlSync => [fAwlSyncDelay]
  | .awlArb => [fAwlArbValid, fAwlArbTarget, fAwlArbInstance, fAwlArbFavour, fAwlArbSkew]
  | .kvpEdit => [fKvpEditOp, fKvpEditAllLayers, fKvpEditLayer, fKvpEditSlot, fKvpEditArg, fKvpEditSeq]
  | .kvpGeom => [fKvpGeomHeadBase, fKvpGeomPinMax, fKvpGeomWindow, fKvpGeomLayers, fKvpGeomGroup, fKvpGeomKvfmt, fKvpGeomHeadDim, fKvpGeomKvHeads]
  | .kvpPool => [fKvpPoolPolicy, fKvpPoolPinAuto, fKvpPoolFlashRegion, fKvpPoolFreePages, fKvpPoolPoolPages]
  | .kvpPoolBase => [fKvpPoolBaseBase]
  | .seqPortRef => [fSeqPortRefSeq]
  | .seqPortData => [fSeqPortDataState, fSeqPortDataHungry, fSeqPortDataContext, fSeqPortDataEpoch, fSeqPortDataPending, fSeqPortDataLength]
  | .ctxHbmInfo => [fCtxHbmInfoTablePages, fCtxHbmInfoFreePages, fCtxHbmInfoTotalPages]
  | .ctxZeroStatus => [fCtxZeroStatusQueued, fCtxZeroStatusZeroed]
  | .ctxPrStatus => [fCtxPrStatusPromotions, fCtxPrStatusHeld]
  | .ctxCmd => [fCtxCmdBusy, fCtxCmdReset, fCtxCmdContext]
  | .ctxSchedCfg => [fCtxSchedCfgWaitYield]
  | .ctxResident => [fCtxResidentState, fCtxResidentContext, fCtxResidentSwitches]
  | .ctxEntry => [fCtxEntryPending, fCtxEntryState, fCtxEntryEn, fCtxEntrySave, fCtxEntryPrio, fCtxEntrySlice, fCtxEntrySyncSlabs, fCtxEntryClusters]
  | .ctxSaveBase => [fCtxSaveBaseBase]
  | .ctxRegion => [fCtxRegionDesc]
  | .ctxExtent => [fCtxExtentValid, fCtxExtentHpage, fCtxExtentWpage, fCtxExtentPages]
  | .olaSystem => [fOlaSystemDie]
  | .olaRouteEpoch => [fOlaRouteEpochEpoch]
  | .olaFclkNow => [fOlaFclkNowCount]
  | .olaPortCfg => [fOlaPortCfgAutoRetrain, fOlaPortCfgLaneErrMax, fOlaPortCfgEnc, fOlaPortCfgEn]
  | .olaPortStatus => [fOlaPortStatusState, fOlaPortStatusSpareTx, fOlaPortStatusSpareTxLane, fOlaPortStatusSpareRx, fOlaPortStatusSpareRxLane, fOlaPortStatusPeerPort, fOlaPortStatusPeerDie, fOlaPortStatusLastError]
  | .olaRoute => [fOlaRouteValid, fOlaRouteAltValid, fOlaRouteAltPort, fOlaRoutePort]
  | .olaUnit => [fOlaUnitValid, fOlaUnitLevel, fOlaUnitRootDie, fOlaUnitFirstDie, fOlaUnitDies, fOlaUnitMembers]
  | .olaProxy => [fOlaProxyValid, fOlaProxyFanout, fOlaProxyTarget, fOlaProxyLocal, fOlaProxyRemote]

/-- Every register, in the order of Table 19-1. -/
def allRegs : List RegName :=
  [.cfgStatus, .cfgCtl, .cfgDigest, .cfgLastCore, .cfgLastCluster, .cfgLastDie,
   .cfgLastUnit, .clkStatus, .rstFwCfg, .rstFwLoad, .rstFwStatus, .pwrCapCfg,
   .pwrThermCfg, .pwrBudget, .pwrStatus, .pwrState, .pwrCtxEnergy, .fltDieStatus,
   .fltScrubCfg, .fltCeCfg, .fltCoreStatus, .fltArraySteer, .fltCoreCtl, .fltSramSpare,
   .fltHbmRowlog, .secStatus, .secDeviceId, .secNonce, .secPubIdx, .secPubData,
   .secAttIdx, .secAttData, .secAttCtl, .secPeerLo, .secPeerHi, .flsCfg,
   .flsPw, .flsPwCtl, .flsChStatus, .flsReqSrc, .flsReqDst, .flsReqCtl,
   .flsReqStatus, .flsProt, .pclCfg, .pclStatus, .pclId, .pclCmd,
   .hifLinkStatus, .hifLease, .hifQportRef, .hifQportD, .hifQdesc, .hifDoorbell,
   .hifRingCfg, .hifRingCons, .hifHostWin, .txnCfg, .txnCtl, .txnStatus,
   .synPortRef, .synPortData, .synFillerCfg, .synSpareStatus, .crrPool, .crrStatus,
   .crrBwSplit, .crrBwActive, .laceStatus, .srtCacheCfg, .srtCacheCtl, .srtStatus,
   .cmpFeedStatus, .cmpLinkStatus, .pmcRef, .pmcData, .pmcBwCfg, .pmcBw,
   .awlCtl, .awlStatus, .awlInjAddr, .awlInjCtl, .awlXdelay, .awlBp,
   .awlSync, .awlArb, .kvpEdit, .kvpGeom, .kvpPool, .kvpPoolBase,
   .seqPortRef, .seqPortData, .ctxHbmInfo, .ctxZeroStatus, .ctxPrStatus, .ctxCmd,
   .ctxSchedCfg, .ctxResident, .ctxEntry, .ctxSaveBase, .ctxRegion, .ctxExtent,
   .olaSystem, .olaRouteEpoch, .olaFclkNow, .olaPortCfg, .olaPortStatus, .olaRoute,
   .olaUnit, .olaProxy]

end Sys2Proof.Machine
end

