-- ==== Sys2Proof/Machine/Types.lean ====
section
/-! DEFINITION. The pieces of state that the queue, sync, courier and regulator chapters give the die: letters and queues
(chapter 04), sync objects and operations in flight (chapter 05), courier descriptors and requests (chapter 06). -/

namespace Sys2Proof.Machine

/-- A letter of a queue: its queue number and its postmark. -/
structure LetterId where
  q : Nat
  pm : BitVec 32
  deriving DecidableEq, Repr

/-- Who holds a wait, or who sent a signal (R190, R193): a letter, a core (its context, and 16 × cluster + member), a PLACE's wait on EMPTY for
its layer i (R343), a SWAP's wait on its gate (R351), a ready record's wait on CREDIT (R360), or an engine's signal. -/
inductive Party
  | letter (l : LetterId)
  | core (x cm : Nat)
  | placeEmpty (l : LetterId) (i : Nat)
  | swapGate (l : LetterId)
  | credit (r : Nat) (id : Nat)
  | engine (k : Nat)
  | frame
  deriving DecidableEq, Repr

/-- The signal operations of Table 5-3. -/
inductive Sop | add | sub | set
  deriving DecidableEq, Repr

/-- A wait's condition (R193). -/
inductive Cond | ge | eq
  deriving DecidableEq, Repr

/-- A registered or arriving wait (R193 to R195). -/
structure Wait where
  who : Party
  cond : Cond
  consume : Bool
  value : BitVec 32
  deriving DecidableEq, Repr

/-- A sync object (Table 5-1) with its registered waits, oldest first. `owner` is `some q` while OWNED is 1. -/
structure SyncObj where
  count : BitVec 32 := 0
  satHi : Bool := false
  satLo : Bool := false
  orphaned : Bool := false
  owner : Option (BitVec 12) := none
  waits : List Wait := []
  deriving DecidableEq, Repr

/-- The home of an object (R185): a cluster's fast-path store, or the hub. `slot` is the index in the store; `ctx` the context. -/
structure ObjKey where
  hub : Bool
  cl : Nat
  ctx : Nat
  idx : Nat
  deriving DecidableEq, Repr

/-- What an operation on its way to a home does. -/
inductive SyncAct
  | signal (sop : Sop)
  | wait (cond : Cond) (consume : Bool)
  deriving DecidableEq, Repr

/-- A sync operation on its way to its object's home, or held there by a slab copy (R190, R195, R219). `ref`, `cl` and `mem` are
the reference as issued; `q` is the issuing queue (R190). -/
structure SyncOp where
  who : Party
  act : SyncAct
  key : ObjKey
  ref : BitVec 20
  cl : Nat
  mem : Nat
  value : BitVec 32
  q : Nat
  deriving DecidableEq, Repr

/-- A slab copy in progress (R219): home (16 is the hub), slab, the object that failed (none for a corrected-error switch of
R682), and the operations held, oldest first. -/
structure SlabCopy where
  home : Nat
  slab : Nat
  held : List SyncOp
  deriving DecidableEq, Repr

/-- What a courier descriptor works for (R231, R234, R343, R351, R362), and the two halves of a switch's own traffic (R485). -/
inductive Origin
  | move (l : LetterId) (n : Nat)
  | xfer (cm : Nat) (id : Nat)
  | drain (cm : Nat) (id : Nat)
  | place (l : LetterId) (i : Nat)
  | swapStage (l : LetterId) (g : Nat)
  | swapCopy (l : LetterId) (g : Nat)
  | promote (r : Nat) (u : Nat)
  | coll (l : LetterId)
  | switchSave (cl : Nat)
  | switchLoad (cl : Nat)
  deriving DecidableEq, Repr

/-- A courier descriptor (Table 6-2): SRC and DST as 64-bit words, rows, and strides in lines. A drain of several arrays (R234)
has its rows in groups of `perGroup`, `groupStride` lines apart. `srcCtx` is the owner of a shared region that is read from its
HBM home, and `fan` the other dies that a broadcast writes each line to (R346, R447). -/
structure Desc where
  src : BitVec 64
  dst : BitVec 64
  rowLines : BitVec 32
  rows : BitVec 32
  srcStride : BitVec 32
  dstStride : BitVec 32
  perGroup : Nat := 0
  groupStride : Nat := 0
  srcCtx : Option Nat := none
  fan : List Nat := []
  deriving DecidableEq, Repr

/-- A line of a descriptor whose read data has returned and whose write has not been issued. -/
structure BufLine where
  line : Nat
  data : List Byte
  deriving DecidableEq, Repr

/-- A descriptor queued or active on a courier (R235): lines read so far, lines waiting to be written, lines acknowledged, and
the failure it will end with (R239). A drain's rows arrive with their data, so it reads nothing. -/
structure CDesc where
  id : Nat
  origin : Origin
  desc : Desc
  ctx : Nat
  queue : Nat
  phase : BitVec 8
  hint : BitVec 8
  stamp : Option (BitVec 32)
  active : Bool
  nextRead : Nat
  buf : List BufLine
  acked : Nat
  fail : Option Code
  failLine : Nat
  fanNext : Nat := 0
  acks : Tab Nat := []
  deriving DecidableEq, Repr

/-- A courier (Table 6-1): its descriptors, oldest first, the rotation of R235, and the rows a drain has handed over. -/
structure Courier where
  descs : List CDesc := []
  lastId : Nat := 0
  deriving DecidableEq, Repr

/-- The agents that send requests to memory (R254): a courier, a page walker, a sorter, the zeroing engine in the hub, an Olila port or
the host interface (by their source numbers). -/
inductive Agent
  | courier (k : Nat)
  | walker (cl : Nat)
  | sorter (k : Nat)
  | zero
  | outside (src : Nat)
  deriving DecidableEq, Repr

/-- The classes of R252. -/
inductive ReqClass | read | write | remote
  deriving DecidableEq, Repr

/-- A request that an agent has issued and whose answer has not returned (R226). `port` is the regulated port at whose queue it
waits, until it is granted (R254); `item` names the agent's piece of work and `line` the first line of it that the request
covers; `data` is what a write writes. -/
structure Req where
  tag : Nat
  agent : Agent
  item : Nat
  line : Nat
  lines : Nat
  cls : ReqClass
  port : Option Nat
  units : Nat
  stamp : BitVec 32
  addr : Nat
  data : List Byte
  deriving DecidableEq, Repr

/-- What a request from outside the die asks of HBM (R446, R527, R528): a host read of a line, a host write under byte enables, a WRITE
frame's lines, a READ_REQ frame with the lines read so far and whether one could not be read. -/
inductive OutsideOp
  | hostRead (rd : ReadRes)
  | hostWrite (be : BitVec 64) (data : List Byte)
  | frameWrite (f : Frame) (bytes : List Byte)
  | frameRead (f : Frame) (got : List (Nat × List Byte)) (bad : Bool)
  deriving DecidableEq, Repr

/-- Such a request, by its number; its parts wait at the regulated ports. -/
structure OutsideWork where
  id : Nat
  op : OutsideOp
  deriving DecidableEq, Repr

/-- A regulated port's counts in the current window, and the source served last in each class (R254). -/
structure Port where
  usedRead : Nat := 0
  usedWrite : Nat := 0
  usedRemote : Nat := 0
  lastRead : Nat := 0
  lastWrite : Nat := 0
  lastRemote : Nat := 0
  deriving DecidableEq, Repr

/-- A member's part of a RUN: not begun, running, or ended with a code (`none` when R165 ended it and it reports none). -/
inductive StreamEnd
  | waiting
  | running
  | ended (code : Option Code)
  deriving DecidableEq, Repr

/-- A collective's progress (R454 to R460): steps received and worked in, steps sent, dies whose handshake for the step at hand
has come, the bytes of the block arriving and the Olila port that they came by, and the partial sum to be sent next. -/
structure CollWork where
  recv : Nat := 0
  sent : Nat := 0
  shakes : List Nat := []
  inb : List Byte := []
  port : Nat := 0
  part : List Byte := []
  deriving DecidableEq, Repr

/-- A TIME letter's rounds done, and the request on its way: t1, tag and port (R461, R462). -/
structure TimeWork where
  round : Nat := 0
  t1 : BitVec 64 := 0
  tag : Nat := 0
  port : Nat := 0
  deriving DecidableEq, Repr

/-- One layer that a PLACE holds between steps 1 and 3 of R343: waiting on EMPTY, copying, copied, or failed with a code (R345).
`told` are the dies on which its FULL has been signalled (R346). -/
structure PlaceLayer where
  i : Nat
  granted : Bool := false
  started : Bool := false
  copied : Bool := false
  fail : Option Code := none
  told : List Nat := []
  deriving DecidableEq, Repr

/-- A SWAP's progress (R351 to R355): the group at hand, groups staged so far, whether one is being staged, the code with which
staging the next group failed, whether the gate has been asked for and taken, whether the group is being copied and the
couriers' shares still to come. -/
structure SwapWork where
  group : Nat := 0
  staged : Nat := 0
  staging : Bool := false
  stageFail : Option Code := none
  asked : Bool := false
  gate : Bool := false
  copying : Bool := false
  shares : Nat := 0
  deriving DecidableEq, Repr

/-- What a started letter has under way. -/
inductive Work
  | none
  | run (base : Nat) (streams : List (Nat × StreamEnd))
  | wait
  | move (next : Nat) (waitingChain : Bool) (stamp : Option (BitVec 32))
  | gather (done : Nat) (failed : Option (Nat × Code))
  | seq
  | place (next : Nat) (layers : List PlaceLayer) (full : Nat)
  | swap (w : SwapWork)
  | route (next : Nat) (serial : Nat)
  | fetch (pin : Bool)
  | coll (w : CollWork)
  | time (w : TimeWork)
  deriving DecidableEq, Repr

/-- How a letter ended: its code, the failing member path and the RESULT of its record (Table 4-11). -/
structure LetterEnd where
  code : Code
  member : BitVec 32 := 0
  result : BitVec 32 := 0
  deriving DecidableEq, Repr

/-- A letter that the device has accepted and whose COMPLETED is yet to come: its 64 bytes, whether it has started, what it has
under way, how its work ended, whether LETTER_COMPLETE has taken that end, and the events R166 still owes. -/
structure Letter where
  pm : BitVec 32
  raw : List Byte
  started : Bool := false
  work : Work := .none
  ended : Option LetterEnd := none
  completed : Bool := false
  recorded : Bool := false
  events : List (BitVec 32 × Code) := []
  deriving DecidableEq, Repr

/-- The states of a queue (Table 4-9). -/
inductive QState | disabled | active | halted | paused
  deriving DecidableEq, Repr

/-- A submission queue: its descriptor (Table 4-9), its letters, the refusal record of R539 and the RESTART of R758. -/
structure Queue where
  ringBase : BitVec 64 := 0
  log2 : BitVec 8 := 0
  loc : BitVec 8 := 0
  ctx : BitVec 16 := 0
  unit : BitVec 16 := 0
  state : QState := .disabled
  head : BitVec 32 := 0
  tail : BitVec 32 := 0
  accepted : BitVec 32 := 0
  completed : BitVec 32 := 0
  letters : List Letter := []
  refusal : Option (BitVec 32 × BitVec 32) := none
  windback : Bool := false
  heldRestart : Bool := false
  deriving DecidableEq, Repr

end Sys2Proof.Machine
end

