-- ==== Sys2Proof/Machine/TypesFlash.lean ====
section
/-! DEFINITION. The state of the flash subsystem and the parcel port (chapter 14). A page group has a key: its place on its
channel, and for a parcel channel the identity of the parcel, so that a parcel keeps its contents while it is away. -/

namespace Sys2Proof.Machine

/-- What a page group's metadata records (R576): region, unit index, program sequence number; and whether the map still names it. -/
structure GroupMeta where
  region : Nat
  unit : Nat
  seq : Nat
  live : Bool := true
  deriving DecidableEq, Repr

/-- Who asked for a page-group program: a slot of the request port, or the demotion of a sequence's page (layer and slot). -/
inductive ProgFor
  | request (slot : Nat)
  | demote (n layer kslot : Nat)
  | header (slot : Nat)
  deriving DecidableEq, Repr

/-- A page-group program on a channel (R583 to R585): group key, region and unit, the bytes, who asked, programs that failed, and whether the
program at hand has been issued to the channel; `stamp` is the FCLK count when it joined its port (R258), `seq` the tag that a request
would have had then. -/
structure ProgJob where
  ch : Nat
  grp : Nat
  region : Nat
  unit : Nat
  data : List Byte
  who : ProgFor
  tries : Nat
  issued : Bool
  stamp : BitVec 32 := 0
  seq : Nat := 0
  deriving DecidableEq, Repr

/-- What a trained channel's devices hold (R592): blocks, and page groups to a block. -/
structure FlashGeom where
  blocks : Nat := 0
  pages : Nat := 0
  deriving DecidableEq, Repr

/-- A block erase on a channel: the block's key, the reads that it waits for (R589), and whether it has been issued; a power
warning or a cold stop suspends an issued one (R599). -/
structure EraseJob where
  ch : Nat
  blk : Nat
  waits : List Nat
  issued : Bool
  stamp : BitVec 32 := 0
  seq : Nat := 0
  deriving DecidableEq, Repr

/-- A request of the request port (R587 to R590): operation, source, destination, units, units durable, the next unit is on its
channel, and an abort has been asked for. -/
structure FlReq where
  op : Nat
  srcRegion : Nat
  srcOff : Nat
  dstRegion : Nat
  dstOff : Nat
  units : Nat
  done : Nat
  busy : Bool
  abort : Bool
  deriving DecidableEq, Repr

/-- A configuration image on its way into the NOR (R598, R625): slot, bytes, and the request slot that asked (none for RECOVER). -/
structure NorJob where
  slot : Nat
  image : List Byte
  req : Option Nat
  deriving DecidableEq, Repr

/-- A stored password (R595): salt and digest. -/
structure Password where
  salt : BitVec 128
  digest : BitVec 256
  deriving DecidableEq, Repr

/-- A password command in progress (R595, R612): command, slot, LEN, and the password bytes. -/
structure PwJob where
  cmd : Nat
  slot : Nat
  len : Nat
  bytes : List Byte
  deriving DecidableEq, Repr

/-- The flash subsystem: page-group bytes by 65,536 × group + byte; map entries by 2^33 × region + unit; metadata by group;
groups whose erased-state bit is clear; programs so far; reads since the last erase and erases, per block; blocks marked for retirement, and retired; programs,
erases, requests, the NOR update; the protection block's slot table as a restart finds it (R596); whether a power warning holds, and channels whose journal flush has not
ended; channels out of service; what each trained channel's devices hold; the parcel each parcel region is bound to; whether parcel regions may be read; passwords. -/
structure FlashState where
  data : Tab Byte := []
  map : Tab (BitVec 64) := []
  metas : Tab (Option GroupMeta) := []
  notErased : Tab Bool := []
  programs : Nat := 0
  reads : Tab Nat := []
  eraseCnt : Tab Nat := []
  marked : List Nat := []
  retired : List Nat := []
  progs : List ProgJob := []
  erases : List EraseJob := []
  reqs : Tab (Option FlReq) := []
  nor : Option NorJob := none
  prot : Tab Word := []
  warn : Bool := false
  flushing : List Nat := []
  chOut : List Nat := []
  geom : Tab FlashGeom := []
  regionParcel : Tab (BitVec 64) := []
  parcelOpen : Bool := false
  parcelStep : Nat := 0
  drainStep : Nat := 0
  pw : Tab (Option Password) := []
  pwJob : Option PwJob := none
  lamp : Nat := 0
  deriving DecidableEq, Repr

end Sys2Proof.Machine
end

