-- ==== Sys2Proof/Machine/TypesKv.lean ====
section
/-! DEFINITION. The state of sequences and their tables (chapter 07), of the lace (chapter 06), of region streaming, promotion
and zeroing (chapter 08). -/

namespace Sys2Proof.Machine

/-- The states of a sequence (Table 7-7). -/
inductive SeqState | free | idle | stepping | parking | parked | failed
  deriving DecidableEq, Repr

/-- A staged edit (Table 7-10), as KVP_EDIT carries it. -/
structure Edit where
  op : Nat
  allLayers : Bool
  layer : Nat
  slot : Nat
  arg : Nat
  deriving DecidableEq, Repr

/-- A sequence (R298 to R305): state, context, LENGTH, PENDING, EPOCH, L0, HUNGRY, the queue that opened its step, the order of
its last END, whether R313 keeps it from being chosen, staged edits, the pages (layer and number) the open STEP created, the page
in transit (layer, number and flash slot), the byte offset of its level-1 table in the table area (R291) with the bytes of its tables,
and an abort of its step that waits for ATTNs. -/
structure Sequence where
  state : SeqState := .free
  ctx : Nat := 0
  length : Nat := 0
  pending : Nat := 0
  epoch : BitVec 16 := 0
  l0 : Nat := 0
  hungry : Bool := false
  opener : Nat := 0
  lastEnd : Nat := 0
  noVictim : Bool := false
  edits : List Edit := []
  newFrames : List (Nat × Nat) := []
  transit : Option (Nat × Nat × Nat) := none
  l1 : Option Nat := none
  tableBytes : Nat := 0
  abort : Bool := false
  deriving DecidableEq, Repr

/-- A SEQ operation that has started and waits for frames or for its table writes (R309, R760). `frames` holds the frames taken:
first those for the pages (layer and number) to be read back from flash, then those of the new pages; `table` is the space that an
OPEN has taken for its tables. -/
structure SeqOp where
  letter : LetterId
  seq : Nat
  op : Nat
  count : Nat
  frames : List Nat
  need : Nat
  readback : List (Nat × Nat)
  granted : Bool
  table : Nat := 0
  deriving DecidableEq, Repr

/-- A tile in a lace's entry queue: the feeding descriptor, the format and the bytes (R242). -/
structure LaceTile where
  id : Nat
  fmt : Nat
  bytes : List Byte
  scales : List Byte
  deriving DecidableEq, Repr

/-- A cluster's lace (R240 to R247): tiles in the entry queue (at most four), chunks of the first tile already sent, tiles in the
ring by feeding descriptor and format, chunks returned of the first of them, the feeding descriptor with its tiles fed and
returned, and whether the lace is frozen. -/
structure Lace where
  tiles : List LaceTile := []
  sent : Nat := 0
  inRing : List (Nat × Nat) := []
  returnedChunks : Nat := 0
  desc : Option Nat := none
  fed : Nat := 0
  returnedTiles : Nat := 0
  frozen : Bool := false
  deriving DecidableEq, Repr

/-- The residency of an expert (R357). -/
inductive ExpertState | absent | inTransit (slot : Nat) | resident (slot : Nat)
  deriving DecidableEq, Repr

/-- An expert's state and its PINNED flag (R357). -/
structure Expert where
  state : ExpertState := .absent
  pinned : Bool := false
  deriving DecidableEq, Repr

/-- A slot of an EXPERTS region: the mark set at a release and the order in which it was set (R360, R362). -/
structure SlotMark where
  mark : BitVec 32 := 0
  order : Nat := 0
  deriving DecidableEq, Repr

/-- A promotion that waits for a slot or runs (R362, R363): region, expert's unit, starting letter, and its slot once taken. -/
structure Promotion where
  r : Nat
  u : Nat
  letter : LetterId
  slot : Option Nat
  copied : Bool
  fail : Option Code
  deriving DecidableEq, Repr

/-- A FETCH or PIN that waits for its expert (R365). -/
structure PromWait where
  letter : LetterId
  r : Nat
  u : Nat
  pin : Bool
  deriving DecidableEq, Repr

/-- A route record of a ROUTE (R359 to R361): its number among the device's records, region, unit, TAG and expert, its letter,
context, ring and references; the slot it is released with, and whether its CREDIT has been taken. -/
structure RouteRec where
  id : Nat
  r : Nat
  u : Nat
  tag : BitVec 32
  expert : BitVec 16
  letter : LetterId
  serial : Nat
  ctx : Nat
  ring : Nat
  log2 : Nat
  ready : BitVec 20
  creditRef : BitVec 20
  slot : BitVec 16
  credit : Bool
  deriving DecidableEq, Repr

/-- A page in the zeroing engine's queue (R368): the page, the writes issued and acknowledged, and the context it leaves. -/
structure ZeroPage where
  page : Nat
  issued : Nat
  acked : Nat
  ctx : Nat
  deriving DecidableEq, Repr

/-- The state of chapter 08 beyond the registers: experts by 2^22 × region + unit, slots' marks by 2^16 × region + slot and the
order of the last mark, promotions in starting order, waiting FETCHes and PINs, the poste restante in arrival order, records
being released, records numbered so far, ready records that each ROUTE, by its number, has written, pages for the zeroing engine, and the SWAPs
waiting for an earlier one on their target. -/
structure TierState where
  experts : Tab Expert := []
  marks : Tab SlotMark := []
  marked : Nat := 0
  promos : List Promotion := []
  promWaits : List PromWait := []
  held : List RouteRec := []
  ready : List RouteRec := []
  records : Nat := 0
  written : Tab Nat := []
  zero : List ZeroPage := []
  deriving DecidableEq, Repr

end Sys2Proof.Machine
end

