-- ==== Sys2Proof/Machine/TypesOla.lean ====
section
/-! DEFINITION. The state of the Olila ports (chapter 11) and of what waits for another die. -/

namespace Sys2Proof.Machine

/-- A frame waiting at a port and its source (R436): 0 to 3 the die-level couriers, 4 to 19 the cluster couriers, 20 the hub,
21 the sorters, 22 the zeroing engine, 32 + p the forwarding input port p. `prot` marks lines of a PROTECTED region (R415). -/
structure TxItem where
  src : Nat
  frame : Frame
  prot : Bool := false
  deriving DecidableEq, Repr

/-- Where keying with the peer stands (R701): none under way, message 2 awaited, message 4 awaited. -/
inductive KeyStep | idle | wait2 | wait4
  deriving DecidableEq, Repr

/-- A port: frames waiting to be sent, oldest first; the source served last in each virtual channel; credits (R435); frames of
other channels sent while channel 3 waits (R436); next sequence number, replay buffer of frames sent and not acknowledged, and
frames to be resent (R432); next number expected, whether later frames are being discarded, the number that the last NAK from the
peer named and how many in a row named it; COUNTER and key phase of either direction (R434); the lane whose repair this end has
asked for and whether a repair is agreed; training step; keying: its message 1, the draw behind its ML-KEM key; keys and salts in
use, those that will follow, and
whether frames under the next receiving key may come; symbols corrected on each receiving lane among the codewords counted
(R425); and the peer's ROUTE_EPOCH. -/
structure OlaPort where
  tx : List TxItem := []
  last : List Nat := [0, 0, 0, 0]
  credits : List Nat := [16, 16, 16, 16]
  passed3 : Nat := 0
  nextSeq : Nat := 0
  replay : List Frame := []
  again : List Frame := []
  expected : Nat := 0
  discarding : Bool := false
  nakSeq : Nat := 0
  naks : Nat := 0
  counter : Nat := 0
  rxCounter : Nat := 0
  keyPhase : Bool := false
  rxPhase : Bool := false
  repairLane : Option Nat := none
  agreed : Bool := false
  step : Nat := 0
  keying : KeyStep := .idle
  msg1 : List Byte := []
  kemDraw : Nat := 0
  txKey : BitVec 256 := 0
  rxKey : BitVec 256 := 0
  txSalt : BitVec 32 := 0
  rxSalt : BitVec 32 := 0
  newTx : BitVec 256 := 0
  newRx : BitVec 256 := 0
  newTxSalt : BitVec 32 := 0
  newRxSalt : BitVec 32 := 0
  pendingRx : Bool := false
  laneErrs : List Nat := [0, 0, 0, 0, 0, 0, 0, 0]
  words : Nat := 0
  peerEpoch : Word := 0
  deriving DecidableEq, Repr

/-- A request sent to another die and not yet answered: its tag, the agent that issued it (a courier, or a letter's work), the
die, and the port it left by. -/
structure RemoteReq where
  tag : Nat
  agent : Agent
  die : Nat
  port : Nat
  deriving DecidableEq, Repr

/-- A COLL handshake that came before this die's letter had started (R456). -/
structure Shake where
  ctx : Nat
  id : Nat
  step : Nat
  die : Nat
  deriving DecidableEq, Repr

/-- The state of chapter 11: the twelve ports, requests without an answer, early handshakes, collectives that failed, by context
and COLL_ID (R460), and, while a links commit waits for what the ports hold, the frames that came since (R444). -/
structure OlaState where
  ports : Tab OlaPort := []
  remote : List RemoteReq := []
  shakes : List Shake := []
  failedColl : List (Nat × Nat) := []
  hold : Bool := false
  held : List TxItem := []
  deriving DecidableEq, Repr

end Sys2Proof.Machine
end

