-- ==== Sys2Proof/Machine/TypesSys.lean ====
section
/-! DEFINITION. The state of transactions and the host link (chapter 13), of the start sequence and power (chapter 15), of the
security core (chapter 17), of the awl (chapter 18) and of the test port (chapter 20). -/

namespace Sys2Proof.Machine

/-- A shadow write (R553): its P-view offset, its width in bytes, its value. -/
structure Shadow where
  off : Nat
  len : Nat
  value : Nat
  deriving DecidableEq, Repr

/-- A transaction slot (R547 to R559): domains held, lease slot of the owner, shadow writes in order, domains that are still to
adopt in the order of Table 13-5, whether the first of them has begun, what its end waits for (contexts that are to drain, or
sequences whose edits are owed), and the control periods that had passed when it came to hand. -/
structure Txn where
  domains : Nat := 0
  owner : Nat := 0
  shadow : List Shadow := []
  todo : List Nat := []
  begun : Bool := false
  waits : List Nat := []
  mark : Nat := 0
  deriving DecidableEq, Repr

/-- The state of chapter 13 beyond the registers: the eight transaction slots, and the modules that are retraining. -/
structure HostState where
  txns : Tab Txn := []
  retraining : List Nat := []
  deriving DecidableEq, Repr

/-- The start sequence (R618 to R625): the step at work (0 while RESET_N is low, 11 after the last), the COOLANT_OK pin, the
candidates read from the NOR in the order of R623 with their slots, the selected image, the highest valid GENERATION found; each HBM
stack's RATE and row repairs once they are applied (R622, R626); the
thermal sensors' last readings and those above THERM_TRIP; whether THERMTRIP_N is driven (R751); whether the function is in D3hot;
and the I3C dynamic address. -/
structure StartState where
  step : Nat := 0
  coolant : Bool := true
  cands : List (Nat × List Byte) := []
  image : List Byte := []
  maxGen : Nat := 0
  rates : List Nat := []
  rowRepairs : List (List Nat) := []
  sensors : List (BitVec 16) := []
  hotOnce : List Nat := []
  tripped : Bool := false
  d3hot : Bool := false
  i3cAddr : Nat := 0
  deriving DecidableEq, Repr

/-- The security core (chapter 17): the owner-key digest once it is fused, the last finished report, the fields of the report
being built, reports built so far and signatures made so far. -/
structure SecState where
  ownerDigest : Option (BitVec 256) := none
  report : List Byte := []
  building : Option (List Byte) := none
  reports : Nat := 0
  signs : Nat := 0
  deriving DecidableEq, Repr

/-- A bit that an injection has inverted in a stored word (R725): store (0 bench, 1 cluster store, 2 hub, 3 sync store, 4 HBM), line,
word of the line and bit. -/
structure Flip where
  store : Nat
  line : Nat
  word : Nat
  bit : Nat
  deriving DecidableEq, Repr

/-- The awl's injections and the test port: inverted bits that no read has corrected and no write has overwritten, lines that an
injection made fail and no scrub has visited (store, line), the boundary register and the instruction in force (0 BYPASS,
1 SAMPLE/PRELOAD, 2 EXTEST, 3 OWNER_FUSE). -/
structure TestState where
  flips : List Flip := []
  fresh : List (Nat × Nat) := []
  boundary : BitVec 64 := 0
  instruction : Nat := 0
  deriving DecidableEq, Repr

end Sys2Proof.Machine
end

