-- ==== Sys2Proof/Machine/TypesCore.lean ====
section
/-! DEFINITION. The state of a core (chapter 02), of its command stream (chapter 04), of an attention command (chapter 07) and
of its feeders (chapters 02 and 10). -/

namespace Sys2Proof.Machine

/-- A cell-resident tile as loaded: format code, element bytes and, for an MX format, the 128 scale bytes (Table 3-3, R113). -/
structure Tile where
  fmt : Nat
  bytes : List Byte
  scales : List Byte
  deriving DecidableEq, Repr

/-- Where a vector came from: a MAC's vector `v` of tile `t`, an ATTN's query row or p row, or filler work (R72). -/
inductive VecSrc
  | mac (cmd t v : Nat)
  | attn (cmd blk half r : Nat)
  | filler
  deriving DecidableEq, Repr

/-- One vector of an issue cycle, as the replay buffer holds it (R75): elements and scales, formats, mode (0 M4, 1 M8, 2 M16),
buffer selection, target row, update mode (0 SET, 1 ADD, 2 SCALE_ADD with `f`), entry type, and where it came from. -/
structure VecIn where
  bytes : List Byte
  scales : List Byte
  afmt : Nat
  mode : Nat
  stat : Bool
  row : Nat
  upd : Nat
  int : Bool
  f : F32
  src : VecSrc
  deriving DecidableEq, Repr

/-- What an issue cycle computes for one vector (R119 to R123, R126): the vector exponent, each column's sums over the lower and
the upper rows, the checksum column, the NaN marks, and the scales of the tile used. -/
structure VecRes where
  X : Int
  lo : List Int
  hi : List Int
  chk : Int
  nanVec : Bool
  nanCols : List Bool
  slo : List Int
  shi : List Int
  mx : Bool
  deriving DecidableEq, Repr

/-- An issue cycle in the pipeline (R38, R40): its vectors (none is a bubble), whether one of them has failed its check
before (R77) and whether it was squashed. -/
structure Slot where
  vecs : List (VecIn × VecRes) := []
  suspect : Bool := false
  squashed : Bool := false
  deriving DecidableEq, Repr

/-- A vector held complete in a feeder's queue (R68): the MAC it belongs to, tile and vector number, elements and scales. -/
structure FeedVec where
  cmd : Nat
  t : Nat
  v : Nat
  bytes : List Byte
  scales : List Byte
  deriving DecidableEq, Repr

/-- A feeder (R68): its queue of complete vectors, how many vectors of the command it is fetching it has fetched, and the lines
of the uncompressed vector on its way. -/
structure Feeder where
  queue : List FeedVec := []
  cmd : Nat := 0
  fetched : Nat := 0
  lines : List (Nat × List Byte) := []
  deriving DecidableEq, Repr

/-- An array's fetch unit for compressed vectors (R407): the command it fetches for, its current index line and up to four block
lines, the oldest first. -/
structure FetchUnit where
  cmd : Nat := 0
  index : Option (Nat × List Byte) := none
  blocks : List (Nat × List Byte) := []
  deriving DecidableEq, Repr

/-- A row that a drain has read and converted and the O port has not taken (R63, R67). -/
structure ORow where
  cmd : Nat
  pos : Nat
  r : Nat
  bytes : List Byte
  scales : List Byte
  deriving DecidableEq, Repr

/-- The filler work of one array during a wait (R213 to R217): level, its period, replay vectors in turn, issue cap after it, and
SYN_FILLER_CFG as the core held it when the WAIT reached the head (Table 13-5). -/
structure Filler where
  on : Bool := false
  k : Nat := 0
  hold : Bool := false
  start : Nat := 0
  vecs : List VecIn := []
  turn : Nat := 0
  cap : Option Nat := none
  cfg : BitVec 64 := 0
  deriving DecidableEq, Repr

/-- One array of a core (Table 2-1): active tile, stationary tile and the command that loaded it, pipeline (oldest first, at
most 5 issue cycles), replay buffer (the last 5 issue cycles, oldest first), cycles to reissue, bytes of a stationary load in
progress, feeders and their fetch unit, converted rows waiting for the O port and whether the O port has refused the first of them
(R67), issue slots so far, the issue history of R212 and the filler work. -/
structure Arr where
  active : Option Tile := none
  stat : Option Tile := none
  statLoad : Option (Nat × List Byte) := none
  pipe : List Slot := []
  replay : List Slot := []
  again : List Slot := []
  feed0 : Feeder := {}
  feed1 : Feeder := {}
  fetch : FetchUnit := {}
  orows : List ORow := []
  refused : Bool := false
  slots : Nat := 0
  hist : BitVec 4096 := 0
  filler : Filler := {}
  deriving DecidableEq, Repr

/-- Results of a vector command that are not yet visible (R82): registers and their 512 bytes. -/
structure VecOut where
  regs : List (Nat × List Byte)
  deriving DecidableEq, Repr

/-- A core command that has been dispatched and has not completed (R169 to R171): its number, its 128 bits, its engine, the
letter of its stream, and its progress: `tile` counts tiles loaded or swapped in, `issued` and `committed` count vectors or rows
per array, `out` holds a vector command's results; `handed` says that its engine has given the courier its descriptor (R234), and
`reads` and `writes` are the bench lines (first, number) of an ATTN's operands and results (R271). -/
structure Cmd where
  id : Nat
  raw : BitVec 128
  eng : Engine
  letter : LetterId
  tile : Nat := 0
  issued : List Nat := [0, 0, 0, 0]
  committed : List Nat := [0, 0, 0, 0]
  out : Option VecOut := none
  rd : ReadRes := .clean
  done : Bool := false
  fail : Option Code := none
  reported : Bool := false
  handed : Bool := false
  reads : Nat × Nat := (0, 0)
  writes : Nat × Nat := (0, 0)
  deriving DecidableEq, Repr

/-- A signal in the core's signal queue (R173): the signal and the numbers of the commands it waits for. -/
structure QSig where
  op : SyncOp
  after : List Nat
  deriving DecidableEq, Repr

/-- A page in an ATTN's visit list (R295): its number and its frame, or none for an absent page (R294). -/
structure VisitPage where
  page : Nat
  frame : Option Nat
  deriving DecidableEq, Repr

/-- A row of the p buffer (R278): block, row, the factor α, and p in the command's format for both halves. -/
structure PRow where
  blk : Nat
  r : Nat
  alpha : F32
  p : List Byte
  deriving DecidableEq, Repr

/-- One array's part of an ATTN (R277): the block it works on, the tile of that block it holds, bytes loaded, vectors issued and
committed against that tile. -/
structure AttnArr where
  blk : Nat := 0
  half : Nat := 0
  loaded : Nat := 0
  issued : Nat := 0
  committed : Nat := 0
  deriving DecidableEq, Repr

/-- An ATTN under way (chapter 07): what it took from the geometry at dispatch, the appends still to issue and to be
acknowledged (R297), the pages to visit, pieces of the block being staged, blocks staged, and the arrays' and the stage's
progress. -/
structure Attn where
  cmd : Nat
  ctx : Nat
  seq : Nat
  layer : Nat
  head : Nat
  impl : Nat
  qfmt : Nat
  kvfmt : Nat
  D : Nat
  T : Nat
  G : Nat
  W : Nat
  L0 : Nat
  qbase : Nat
  qn : Nat
  qline : Nat
  oline : Nat
  kscale : F32
  pool : Nat
  pageBytes : Nat
  pages : List VisitPage
  pinned : List Nat
  appendNext : Nat := 0
  appendAcked : Nat := 0
  blk : Nat := 0
  piece : Nat := 0
  pieceDone : Nat := 0
  staged : Nat := 0
  arr : List AttnArr := [{}, {}, {}, {}]
  entered : Nat := 0
  delivered : Nat := 0
  pbuf : List PRow := []
  normDone : Bool := false
  outRow : Nat := 0
  deriving DecidableEq, Repr

/-- A member's stream of one RUN (R162 to R168): its letter and window offsets, commands fetched and dispatched, the commands in
the queue, whether it has begun, dispatched END, or failed. -/
structure Stream where
  letter : LetterId
  ctx : Nat
  offset : Nat
  commands : Nat
  path : BitVec 32
  fetched : Nat := 0
  dispatched : Nat := 0
  queue : List (BitVec 128) := []
  begun : Bool := false
  ended : Bool := false
  fail : Option Code := none
  abort : Bool := false
  deriving DecidableEq, Repr

/-- A member's sequencer (R169 to R174): streams in order, the ORPHAN_HALT of the WAIT that holds dispatch, the completion of a
WAIT until the next dispatch, and the signal queue. -/
structure Seqr where
  streams : List Stream := []
  waiting : Option Bool := none
  waitDone : Option (Code × BitVec 32) := none
  sigq : List QSig := []
  phase : BitVec 8 := 0
  deriving DecidableEq, Repr

/-- A row in flight in the online-softmax stage, or in the vector unit for a sequenced ATTN, with its scores (R86, R88). -/
structure SmRow where
  blk : Nat
  r : Nat
  scores : List F32
  deriving DecidableEq, Repr

/-- A physical core (Table 2-1): the four arrays, the shadow tile being loaded and whether it is complete, the LDT bytes taken so
far, dispatched commands oldest first, the ATTN, the stage's rows in flight, the lace forwarding register (R244), lines to be
written back corrected (R95), the format that each array's latest LDS named (R768), the MACs that have reported a malformed block
(R414), the halting codes in ascending order with FLT_CORE_STATUS[31:0] at the halt (R669, R670), and the next command number. -/
structure Core where
  arrs : List Arr := [{}, {}, {}, {}]
  shadow : Option Tile := none
  load : List Byte := []
  loadScales : List Byte := []
  cmds : List Cmd := []
  nextCmd : Nat := 1
  attn : Option Attn := none
  smRows : List SmRow := []
  fwd : Option (Nat × List Byte × List Byte) := none
  writeback : List Nat := []
  ldsFmt : List (Option Nat) := [none, none, none, none]
  oversize : List Nat := []
  halt : Option (List Code × Nat) := none
  deriving DecidableEq, Repr

end Sys2Proof.Machine
end

