-- ==== Sys2Proof/Machine/TypesWork.lean ====
section
/-! DEFINITION. The state of the sorters and their cache (chapter 09), and of contexts and firmware cores (chapter 12). -/

namespace Sys2Proof.Machine

/-- A GATHER whose bags a sorter has yet to start (R384): the letter, the sorter's next bag, and the step to the one after. -/
structure GatherJob where
  letter : LetterId
  next : Nat
  step : Nat
  deriving DecidableEq, Repr

/-- A row of a bag (R379, R382): its index, weight, lines requested, lines present, and its bytes once it has arrived. -/
structure BagRow where
  idx : Nat
  wgt : F32
  issued : Nat := 0
  got : List (Nat × List Byte) := []
  data : Option (List Byte) := none
  deriving DecidableEq, Repr

/-- A bag in progress on a sorter (R384, R385): its slot of the sixteen, letter, number, rows, rows pooled so far, the sum, output
lines requested, and its failure. -/
structure Bag where
  k : Nat
  slot : Nat
  letter : LetterId
  bag : Nat
  rows : List BagRow
  pooled : Nat := 0
  acc : List F32
  outIssued : Nat := 0
  fail : Option Code := none
  deriving DecidableEq, Repr

/-- A cold line that a sorter looks up, or that waits for its sector: sorter, slot, row of the bag, line of the row. -/
structure Lookup where
  k : Nat
  slot : Nat
  row : Nat
  line : Nat
  deriving DecidableEq, Repr

/-- A valid tag entry of a cache set (R389): the region, the line in it, and which of the seven ways holds the line. -/
structure CacheWay where
  region : Nat
  line : Nat
  way : Nat
  deriving DecidableEq, Repr

/-- A sector that a sorter has read and whose lines its bags in progress may still want (R395); `stale`: an invalidation of its
region came after the read began (R393). -/
structure HeldSector where
  k : Nat
  region : Nat
  sector : Nat
  data : List Byte
  stale : Bool := false
  deriving DecidableEq, Repr

/-- The state of chapter 09: letters dealt to each sorter, bags in progress, the tag lines of the cache's sets (entries in order of use, the
latest last; the lines themselves lie in the cluster stores), lookups on their way, lines that missed, sectors held, flash tags whose sector must not be inserted (R393), and the
regions of an invalidation under way (255 stands for all). -/
structure SorterState where
  jobs : Tab (List GatherJob) := []
  bags : List Bag := []
  cache : Tab (List CacheWay) := []
  lookups : List Lookup := []
  misses : List Lookup := []
  held : List HeldSector := []
  stale : List Nat := []
  inv : List Nat := []
  deriving DecidableEq, Repr

/-- What a context's saved image holds of a cluster (R483): per member its core, bench, vector registers, accumulators and
softmax entries, each table keyed from 0 for the member, and the poisoned bench lines. -/
structure CoreImage where
  core : Core
  bench : Tab Byte
  benchBad : List Nat
  vreg : Tab Byte
  acc : Tab F32
  smM : Tab F32
  smL : Tab F32
  deriving DecidableEq, Repr

/-- A saved image: the members' cores, the poisoned lines of the cluster store, whose bytes lie in the save area, the number of the save
that wrote it, and whether part of it did not reach the save area or has been changed there. -/
structure ClImage where
  cores : List CoreImage
  storeBad : List Nat
  serial : Nat := 0
  lost : Bool := false
  deriving DecidableEq, Repr, Inhabited

/-- What is restored from an image that is lost: undefined (R484), by the number of the save. -/
opaque Config.lostImage : Nat → ClImage

/-- How far steps 1 to 4 of a switch have come (R483). -/
inductive SwitchPhase | ordered | saving | saved | loading | loaded | moved
  deriving DecidableEq, Repr

/-- A switch under way on a cluster (R483): the outgoing and the incoming context, and how far it has come. -/
structure Switch where
  out : Option Nat
  inn : Nat
  phase : SwitchPhase := .ordered
  deriving DecidableEq, Repr

/-- What asks for residency on several clusters (R476): a letter at its queue's head, or a chained descriptor of a courier. -/
inductive Want
  | letter (l : LetterId)
  | desc (k id : Nat)
  deriving DecidableEq, Repr

/-- The set of clusters that the scheduler core is building residency for (R476). -/
structure ResSet where
  want : Want
  ctx : Nat
  clusters : List Nat
  deriving DecidableEq, Repr

/-- The state of chapter 12's contexts: saved images by 16 × context + cluster, the turn at which each context was last resident
on each cluster, clusters whose slice or whose wait-yield time is used up, switches under way, what waits for residency on several
clusters in order of arrival, the set being built, contexts being reset, and instances of CTX_EXTENT that a commit is about to remove
or change (R548). -/
structure CtxState where
  images : Tab (Option ClImage) := []
  lastOn : Tab Nat := []
  turns : Nat := 0
  used : List Nat := []
  yielded : List Nat := []
  switch : Tab (Option Switch) := []
  wants : List Want := []
  build : Option ResSet := none
  resetting : List Nat := []
  heldExt : List Nat := []
  deriving DecidableEq, Repr

/-- A firmware core's restart (R498): its phase (0 is none), its cause (0 at its first start), the restarts since a full restart. -/
structure FwCore where
  phase : Nat := 0
  cause : Nat := 0
  restarts : Nat := 0
  deriving DecidableEq, Repr

/-- The state of firmware loading (R494 to R496): the bytes of the aperture, the image being verified (kind and bytes), the verified
copies with their digests, and the 19 cores. -/
structure FwState where
  window : Tab Byte := []
  verifying : Option (Nat × List Byte) := none
  copies : Tab (Option (List Byte × BitVec 256)) := []
  cores : Tab FwCore := []
  deriving DecidableEq, Repr

end Sys2Proof.Machine
end

