-- ==== Sys2Proof/Machine/State.lean ====
section
/-! DEFINITION. The state of the SV2-256, the reasons a step can stop, and the state after a full restart. Registers are one
table of 64-bit words; everything else a chapter gives the die is a field of its own. State is plain data. -/

namespace Sys2Proof.Machine

/-- No command of this block stops the model with a fault: what the die detects is an effect on its state. -/
inductive Fault
  /-- Raised by nobody (safe): the type has to have a constructor. -/
  | none
  deriving DecidableEq, Repr

/-- Why a command has no meaning. -/
inductive Refusal
  /-- Raised by an arm of `exec` whose row has no meaning yet (safe: the model stops). -/
  | notModelled (mnemonic : String)
  deriving DecidableEq, Repr

/-- What the die sends out: bytes to host memory, a read of host memory, an MSI-X message, the answer to a host read of HBM (with its poison), to a
register read, to a snoop, or a completion; an I3C answer; a frame on an Olila port; a NOR program; test data out. -/
inductive Out
  | hostWrite (addr : Nat) (bytes : List Byte)
  | hostRead (addr n : Nat)
  | msix (vector : Nat)
  | memData (addr : Nat) (bytes : List Byte) (poison : Bool)
  | memDone (addr : Nat)
  | regData (bytes : List Byte)
  | snoopRsp (addr : Nat)
  | i3c (bytes : List Byte)
  | frame (port : Nat) (f : Frame) (words : List (List Byte))
  | train (port : Nat) (die : Nat) (enc : Bool) (epoch : Word)
  | control (port : Nat) (kind : Nat) (a b ack : Nat)
  | keyMsg (port : Nat) (kind : Nat) (m : KeyMsg)
  | nor (slot : Nat) (bytes : List Byte)
  | tap (bits : BitVec 64)
  deriving DecidableEq, Repr

/-- The stores (Table 8-1): HBM by physical byte address, cluster stores by 4 MiB × cluster + byte, benches by 1 MiB × physical
core + byte, vector registers by 16 KiB × physical core + 512 × register + byte; and the 64 B lines that are poisoned. -/
structure Stores where
  hbm : Tab Byte := []
  store : Tab Byte := []
  bench : Tab Byte := []
  vreg : Tab Byte := []
  hbmBad : List Nat := []
  storeBad : List Nat := []
  benchBad : List Nat := []
  hubBad : List Nat := []
  deriving DecidableEq, Repr

/-- The sync homes (chapter 05): objects of every context, operations on their way, slab copies, slabs marked failed, slabs that
a context holds in the hub, and corrected errors per slab. -/
structure SyncState where
  objs : Tab SyncObj := []
  ops : List SyncOp := []
  copies : List SlabCopy := []
  failed : List Nat := []
  slabsOf : Tab (List Nat) := []
  ce : Tab Nat := []
  deriving DecidableEq, Repr

/-- Couriers, requests in flight, regulated ports, and the work of requests from outside the die (chapter 06). `spent` counts tags used so far, so that every tag is fresh;
`walkLast` is the core that each cluster's page walker served last (R289). -/
structure MoveState where
  couriers : Tab Courier := []
  reqs : List Req := []
  spent : Nat := 0
  ports : Tab Port := []
  adopt : List Nat := []
  outside : List OutsideWork := []
  laces : Tab Lace := []
  walkLast : Tab Nat := []
  deriving DecidableEq, Repr

/-- Cores, member sequencers (key 256 × context + 16 × cluster + member, so that a context that is not resident keeps its own),
accumulators (key ((4 × core + array) × 256 + row) × 64 + column) and the online-softmax table
(key 256 × core + entry). -/
structure CoreState where
  cores : Tab Core := []
  seqrs : Tab Seqr := []
  acc : Tab F32 := []
  smM : Tab F32 := []
  smL : Tab F32 := []
  deriving DecidableEq, Repr

/-- Sequences (chapter 07), whose page tables lie in HBM's table area: frames in use by
2^23 × context + frame, flash slots in use likewise, SEQ operations under way oldest first, bytes of the table area taken. -/
structure KvState where
  seqs : Tab Sequence := []
  used : Tab Bool := []
  slots : Tab Bool := []
  ops : List SeqOp := []
  tableUsed : Nat := 0
  ends : Nat := 0
  deriving DecidableEq, Repr

/-- The power state beyond the registers (chapter 15): the stage of a cold stop under way (0 is none); each cluster's applied
throttle level and the power core's level for it; the limiter's floor; clusters holding a droop response; learned needs by phase; phases that each cluster ran in the
control period at hand and the last of them; how far the cap is lowered for heat; 64ths of grants left idle by the memory class and
of frames by the links; each cluster's regulator margin in steps of 5 mV, and as the trim block's last record holds it; and the control
periods that the power core has carried out. -/
structure PowerState where
  stopStage : Nat := 0
  levels : Tab Nat := []
  targets : Tab Nat := []
  floor : Nat := 0
  droops : List Nat := []
  need : Tab (Option Nat) := []
  ran : Tab (List Nat) := []
  throttled : List Nat := []
  cur : Tab Nat := []
  drop : Nat := 0
  memIdle : Nat := 0
  linkIdle : Nat := 0
  margin : Tab Nat := []
  trim : Tab Nat := []
  periods : Nat := 0
  deriving DecidableEq, Repr

/-- Error bookkeeping beyond the registers (chapter 16): corrected reads per HBM row and per SRAM row in the period, spare rows used
per SRAM bank, the next
entry of each stack's row log, HBM controllers out of service, clock-monitor windows failed in a row, SRAM rows and hub banks
being copied, poisoned firmware blocks, and the codes that DIE detections have posted (R669). -/
structure FaultState where
  hbmRows : Tab Nat := []
  sramRows : Tab Nat := []
  rowsUsed : Tab Nat := []
  rowNext : Tab Nat := []
  hbmOut : List Nat := []
  windows : Tab Nat := []
  rowCopies : List SramRow := []
  bankCopies : List Nat := []
  fwPoison : List Nat := []
  dieCodes : List Code := []
  deriving DecidableEq, Repr

/-- The state of the die. `toSend` is what the adapter holds for the host while the link is not up (R517, R519). -/
structure State where
  pending : List Instr := []
  regs : Tab Word := []
  uregs : Tab Word := []
  out : List Out := []
  toSend : List Out := []
  mem : Stores := {}
  queues : Tab Queue := []
  lost : Tab Nat := []
  sync : SyncState := {}
  mv : MoveState := {}
  cs : CoreState := {}
  kv : KvState := {}
  tier : TierState := {}
  srt : SorterState := {}
  cx : CtxState := {}
  fw : FwState := {}
  ola : OlaState := {}
  pw : PowerState := {}
  fl : FlashState := {}
  host : HostState := {}
  start : StartState := {}
  sec : SecState := {}
  test : TestState := {}
  flt : FaultState := {}
  pmc : Tab (BitVec 49) := []
  bwc : Tab Nat := []
  drawn : Nat := 0
  deriving DecidableEq, Repr

/-- The die after a full restart (R617), before the start sequence: every register at its reset value, every store and every
table empty, no command waiting. -/
def State.reset : State := {}

end Sys2Proof.Machine
end

