-- ==== Sys2Proof/Machine/Ops.lean ====
section
/-! DEFINITION. The named operations that every family shares: registers and their fields, counters, the die window and the
stores, queues and letters, signals on their way, events and completion records. -/

namespace Sys2Proof.Machine

/-- What a meaning answers. -/
abbrev Res := Host.Outcome State Fault Refusal

/-! ## Registers -/

/-- The P-view offset of word `w` of instance `i` (R734): the register's one home. -/
def regKey (r : RegName) (i w : Nat) : Nat := (regRow r).base + i * (regRow r).stride + 8 * w

/-- What a register holds. -/
def State.reg (s : State) (r : RegName) (i : Nat := 0) (w : Nat := 0) : Word :=
  tabGet (regReset r i) s.regs (regKey r i w)

/-- The device, or an accepted write, sets a register. -/
def State.setReg (s : State) (r : RegName) (i w : Nat) (v : Word) : State :=
  { s with regs := tabSet (regReset r i) s.regs (regKey r i w) v }

/-- The bits of a field in a word. -/
def getFl (f : Fl) (v : Word) : Nat := natBits v.toNat f.hi f.lo

/-- A word with a field set; bits above the field's width are dropped. -/
def putFl (f : Fl) (v : Word) (x : Nat) : Word :=
  BitVec.ofNat 64 (v.toNat - getFl f v * 2 ^ f.lo + x % 2 ^ (f.hi + 1 - f.lo) * 2 ^ f.lo)

/-- A field of a register. -/
def State.fld (s : State) (r : RegName) (f : Fl) (i : Nat := 0) : Nat := getFl f (s.reg r i)

/-- Set a field of a register. -/
def State.setFld (s : State) (r : RegName) (f : Fl) (i x : Nat) : State :=
  s.setReg r i 0 (putFl f (s.reg r i) x)

/-- Add to a counting field, wrapping at its width. -/
def State.bump (s : State) (r : RegName) (f : Fl) (i : Nat) (n : Nat := 1) : State :=
  s.setFld r f i (s.fld r f i + n)

/-- Add to a counting field, saturating at its width. -/
def State.bumpSat (s : State) (r : RegName) (f : Fl) (i : Nat) (n : Nat := 1) : State :=
  s.setFld r f i (min (s.fld r f i + n) (2 ^ (f.hi + 1 - f.lo) - 1))

/-! ## Counters (R712, R714, R715) -/

/-- The key of an agent counter (Table 18-1). -/
def pmcAgent (kind inst ev : Nat) : Nat := (kind * 512 + inst) * 32 + ev

/-- The key of a context counter (Table 18-2). -/
def pmcCtx (ctx ev : Nat) : Nat := 0x1000000 + ctx * 16 + ev

/-- Advance a 48-bit counter, wrapping with its WRAP flag, bit 48 (R712). -/
def pmcAdd (c : BitVec 49) (n : Nat) : BitVec 49 :=
  let v := (c.toNat % 2 ^ 48) + n
  BitVec.ofNat 49 (v % 2 ^ 48 + (if 2 ^ 48 ≤ c.toNat ∨ 2 ^ 48 ≤ v then 2 ^ 48 else 0))

/-- Count `n` events of an agent. -/
def State.count (s : State) (kind inst ev : Nat) (n : Nat := 1) : State :=
  { s with pmc := tabUpd 0 s.pmc (pmcAgent kind inst ev) (fun c => pmcAdd c n) }

/-- Count `n` events of a context. -/
def State.countCtx (s : State) (ctx ev : Nat) (n : Nat := 1) : State :=
  { s with pmc := tabUpd 0 s.pmc (pmcCtx ctx ev) (fun c => pmcAdd c n) }

/-- Count units at a port of Table 18-3: side 0 is A_UNITS, side 1 is B_UNITS (R719). -/
def State.countBw (s : State) (port side n : Nat) : State := { s with bwc := tabUpd 0 s.bwc (2 * port + side) (· + n) }

/-! ## Regulated ports (R251 to R256) -/

/-- The stack of an HBM address, whose controller is its regulated port (R324). -/
def hbmStack (a : Nat) : Nat := a / 256 % 6

/-- The place inside its stack of an HBM address: stacks take 256 B in turn (R324). -/
def hbmPlace (a : Nat) : Nat := a / 1536 * 256 + a % 256

/-- The regulated port of an HBM address. -/
def hbmPort (a : Nat) : Nat := hbmStack a

/-- A regulated port. -/
def State.regPort (s : State) (p : Nat) : Port := tabGet {} s.mv.ports p

/-- The port's counts after a grant. -/
def Port.granted (x : Port) (c : ReqClass) (src units : Nat) : Port :=
  match c with
  | .read => { x with usedRead := x.usedRead + units, lastRead := src }
  | .write => { x with usedWrite := x.usedWrite + units, lastWrite := src }
  | .remote => { x with usedRemote := x.usedRemote + units, lastRemote := src }

/-- Charge units of a class at a port (R253, R719, Tables 18-1 and 18-3). -/
def State.charge (s : State) (p : Nat) (c : ReqClass) (write : Bool) (src units : Nat) : State :=
  let s := { s with mv := { s.mv with ports := tabUpd {} s.mv.ports p (fun x => x.granted c src units) } }
  let s := s.countBw p (if write then 1 else 0) units
  if p < 6 then s.count 5 p (match c with
    | .read => 0
    | .write => 1
    | .remote => 2) units
  else s

/-- Source numbers at the ports (R254) beyond those of `agentSrc`: the hub, the Olila ports, the host, the scrubber (R664) and a core. -/
def srcHub : Nat := 42
def srcOlila (p : Nat) : Nat := 43 + p
def srcHost : Nat := 55
def srcScrub : Nat := 56
def srcCore (c : Nat) : Nat := 64 + c

/-- The hub's, a core's or the scrubber's own access to HBM, of class READ or WRITE (R252): DESIGN CHOICE, its port grants it as it is
made (notes/assumptions/51.md). Its units count for the context that it serves, if any (Table 18-2). -/
def State.hbmAccess (s : State) (ctx : Option Nat) (a : Nat) (write : Bool) (src units : Nat) : State :=
  let s := s.charge (hbmPort a) (if write then .write else .read) write src units
  match ctx with
  | some x => s.countCtx x 6 units
  | none => s

/-- Do something when a condition holds. -/
def State.when (s : State) (c : Bool) (f : State → State) : State := if c then f s else s

/-- Fold an effect over a list. -/
def State.each {α : Type} (s : State) (l : List α) (f : State → α → State) : State := l.foldl f s

/-- Send something out. -/
def State.emit (s : State) (o : Out) : State := { s with out := s.out ++ [o] }

/-- The width of a module of the host link (Table 13-7): 0 down, 1 x32, 2 x64. -/
def State.ucieWidth (s : State) (m : Nat) : Nat := s.fld .hifLinkStatus fHifLinkStatusWidth m

/-- The host link is up and sends: some module is up and none is retraining (R517, R519). -/
def State.hostUp (s : State) : Bool := (List.range 4).any (fun m => s.ucieWidth m != 0) && s.host.retraining.isEmpty

/-- Send something to the host; it waits in order while the link is not up (R517, R519). -/
def State.toHost (s : State) (o : Out) : State := if s.hostUp then s.emit o else { s with toSend := s.toSend ++ [o] }

/-- What waits for the host goes out once the link is up. -/
def State.hostFlush (s : State) : State := if s.hostUp then { s with out := s.out ++ s.toSend, toSend := [] } else s

/-- A free word, fresh at each draw (notes/assumptions/5.md). -/
def State.draw (s : State) : BitVec 64 × State := (Config.freeWord s.drawn, { s with drawn := s.drawn + 1 })

/-- A code of Table 4-24 where the manual states none (R183). -/
def State.drawCode (s : State) : Code × State :=
  let d := s.draw
  (codeTable.getD (d.1.toNat % codeTable.length) codeOk, d.2)

/-- Words of bytes that nothing defines (notes/assumptions/5.md). -/
def State.freeBytes (s : State) : Nat → List Byte × State
  | 0 => ([], s)
  | n + 1 =>
    let (w, s) := s.draw
    let (bs, s) := s.freeBytes n
    (leBytes 8 w.toNat ++ bs, s)

/-! ## Running and service -/

/-- PWR_STATE.STATE is RUN (Table 15-13): the engines take new work. -/
def State.run (s : State) : Bool := s.fld .pwrState fPwrStateState == 1

/-- The engines' clocks run: not STOPPED (R643). -/
def State.clocked (s : State) : Bool := s.fld .pwrState fPwrStateState != 3

/-- A cluster is in service: LACE_STATUS.OFF_POS is not 0x1F (Table 6-11, R16). -/
def State.clusterIn (s : State) (cl : Nat) : Bool := s.fld .laceStatus fLaceStatusOffPos cl != 0x1F

/-- The physical core that holds member `m` of cluster `cl` (R19), if one does. -/
def State.coreOf (s : State) (cl m : Nat) : Option Nat :=
  (List.range 17).map (17 * cl + ·) |>.find? (fun c =>
    s.fld .fltCoreStatus fFltCoreStatusMember c == m && s.fld .fltCoreStatus fFltCoreStatusFailed c == 0)

/-- A core's member number, if it holds one. -/
def State.memberOf (s : State) (c : Nat) : Option Nat :=
  let m := s.fld .fltCoreStatus fFltCoreStatusMember c
  if m < 16 then some m else none

/-- A core is halted after a detection (Table 2-15). -/
def State.halted (s : State) (c : Nat) : Bool := s.fld .fltCoreStatus fFltCoreStatusHalted c == 1

/-- Context `x` is resident on cluster `cl` (Table 12-12). -/
def State.residentOn (s : State) (cl x : Nat) : Bool :=
  s.fld .ctxResident fCtxResidentState cl == 1 && s.fld .ctxResident fCtxResidentContext cl == x

/-- A context's state (Table 12-9): 0 OFF, 1 STARTING, 2 ON, 3 DRAINING. -/
def State.ctxState (s : State) (x : Nat) : Nat := s.fld .ctxEntry fCtxEntryState x

/-- A firmware core is ON (Table 12-15). -/
def State.fwOn (s : State) (f : Nat) : Bool := s.fld .rstFwStatus fRstFwStatusState f == 2

/-- One FCLK passes: OLA_FCLK_NOW counts, but not while STOPPED (Table 11-14, R643; notes/assumptions/7.md). -/
def State.fclkTick (s : State) : State := if s.clocked then s.bump .olaFclkNow fOlaFclkNowCount 0 else s

/-! ## The die window (R327, R328) -/

/-- Inverted bits of lines of a store are gone: corrected and written back, or overwritten (R725). -/
def State.mend (s : State) (store : Nat) (p : Nat → Bool) : State :=
  { s with test := { s.test with flips := s.test.flips.filter (fun f => !(f.store == store && p f.line)) } }

/-- What a read of a line finds, inverted bits included: one in a word is corrected, more are not (R188, R657). -/
def State.flipSees (s : State) (store line : Nat) (rd : ReadRes) : ReadRes :=
  let fs := s.test.flips.filter (fun f => f.store == store && f.line == line)
  let bad := fs.any (fun f => fs.any (fun g => g.word == f.word && g.bit != f.bit && (store != 4 || f.bit / 8 != g.bit / 8)))
  match rd with
  | .uncorrectable => .uncorrectable
  | r => if bad then .uncorrectable else if fs.isEmpty then r else .corrected

/-- The HBM address of a window offset, through the context's extents; none where no extent maps it. -/
def State.translate (s : State) (ctx off : Nat) : Option Nat :=
  if 2 ^ 38 ≤ off then none
  else
    let w := off / 2 ^ 21
    (List.range 64).findSome? (fun e =>
      let i := 64 * ctx + e
      let lo := s.fld .ctxExtent fCtxExtentWpage i
      let n := s.fld .ctxExtent fCtxExtentPages i
      if s.fld .ctxExtent fCtxExtentValid i = 1 ∧ lo ≤ w ∧ w < lo + n then
        some ((s.fld .ctxExtent fCtxExtentHpage i + (w - lo)) * 2 ^ 21 + off % 2 ^ 21)
      else none)

/-- Translation of a window offset is held: a commit is about to remove or change its extent (R548). -/
def State.heldAt (s : State) (ctx off : Nat) : Bool :=
  s.cx.heldExt.any (fun i =>
    let lo := s.fld .ctxExtent fCtxExtentWpage i
    i / 64 == ctx && decide (lo ≤ off / 2 ^ 21 ∧ off / 2 ^ 21 < lo + s.fld .ctxExtent fCtxExtentPages i))

/-- Every byte of a window range is mapped. -/
def State.mapped (s : State) (ctx off n : Nat) : Bool :=
  (List.range ((off + n - 1) / 2 ^ 21 - off / 2 ^ 21 + 1)).all (fun k =>
    n == 0 || (s.translate ctx (max off ((off / 2 ^ 21 + k) * 2 ^ 21))).isSome)

/-- Bytes of a window range, page by page; unmapped bytes read 0. -/
def State.winRead (s : State) (ctx off n : Nat) : List Byte :=
  (rangeFrom off n).map (fun o => match s.translate ctx o with
    | some a => memGet s.mem.hbm a
    | none => 0)

/-- An agent reads or writes a range of a context's window line by line: each line is charged at its own port (R252, R253). -/
def State.winAccess (s : State) (ctx off n : Nat) (write : Bool) (src : Nat) : State :=
  if n = 0 then s
  else s.each (rangeFrom (off / 64) ((off + n + 63) / 64 - off / 64)) (fun s l => match s.translate ctx (l * 64) with
    | some a => s.hbmAccess (some ctx) a write src 1
    | none => s)

/-- A line of HBM is poisoned (R665). -/
def State.hbmPoisoned (s : State) (line : Nat) : Bool := s.mem.hbmBad.contains line

/-- A line of HBM cannot be read: it is poisoned, or its controller has left service (R666, Table 16-6). -/
def State.hbmLost (s : State) (a : Nat) : Bool := s.hbmPoisoned (a / 64) || s.flt.hbmOut.contains (hbmStack a)

/-- The first line of a window range that cannot be read. -/
def State.winLost (s : State) (ctx off n : Nat) : Option Nat :=
  if n = 0 then none
  else ((List.range ((off + n - 1) / 64 - off / 64 + 1)).filterMap (fun k => s.translate ctx ((off / 64 + k) * 64))).find? s.hbmLost

/-- Some line of a window range cannot be read. -/
def State.winPoisoned (s : State) (ctx off n : Nat) : Bool := (s.winLost ctx off n).isSome

/-- Write bytes of one HBM line: a whole line clears its poison, a part of a poisoned line is discarded (R666), and so is any write to
a controller that has left service (Table 16-6). The flag tells that it was discarded. -/
def State.hbmWrite (s : State) (a : Nat) (bs : List Byte) : State × Bool :=
  if s.flt.hbmOut.contains (hbmStack a) ∨ (s.hbmPoisoned (a / 64) ∧ ¬(a % 64 = 0 ∧ bs.length = 64)) then (s, true)
  else (({ s with mem := { s.mem with
            hbm := memWrite s.mem.hbm a bs
            hbmBad := if a % 64 = 0 ∧ bs.length = 64 then setErase (a / 64) s.mem.hbmBad else s.mem.hbmBad } }).mend 4
          (fun l => l == a / 64), false)

/-- The host physical address of a host-window range (R530, Table 13-14), if the window is VALID and holds it. -/
def State.hostAddr (s : State) (ctx off n : Nat) : Option Nat :=
  let size := 2 ^ (s.fld .hifHostWin fHifHostWinLog2Pages ctx) * 4096
  if s.fld .hifHostWin fHifHostWinValid ctx = 1 ∧ off + n ≤ size then
    some (s.fld .hifHostWin fHifHostWinBase ctx * 4096 + off)
  else none

/-! ## Events (Table 4-12, R155 to R158, R545, R546, R551, R757) -/

/-- An event record before its ring gives it a place. `queue` is none where the event names no queue (NO_QUEUE). -/
structure Event where
  code : Code
  pm : BitVec 32 := 0
  queue : Option Nat := none
  ctx : Nat := 0xFFFF
  unit : Nat := 0
  member : BitVec 32 := 0
  detail : List Byte := []
  deriving DecidableEq, Repr

/-- The device event ring's instance (R544). -/
def devRing : Nat := 2048

/-- The MSI-X vector of a ring (R546). -/
def ringVector (i : Nat) : Nat := if i = devRing then 1024 else i % 1024

/-- After a record is written: PROD moves on, and an armed ring with IRQ_EN sends one message and disarms (R546). -/
def State.ringAdvance (s : State) (i : Nat) : State :=
  let s := s.bump .hifRingCons fHifRingConsProd i
  if s.fld .hifRingCfg fHifRingCfgIrqEn i = 1 ∧ s.fld .hifRingCfg fHifRingCfgArmed i = 1 then
    ((s.setFld .hifRingCfg fHifRingCfgArmed i 0).toHost (.msix (ringVector i))).count 8 0 3
  else s

/-- PHASE_TAG of the next record (R155): 1 in the first pass and inverted in each later one. -/
def State.phaseTag (s : State) (i : Nat) : Nat :=
  let k := s.fld .hifRingCfg fHifRingCfgLog2Entries i
  if (s.fld .hifRingCons fHifRingConsProd i / 2 ^ k) % 2 = 0 then 1 else 0

/-- The ring has a place free (R545). -/
def State.ringHasSpace (s : State) (i : Nat) : Bool :=
  let k := s.fld .hifRingCfg fHifRingCfgLog2Entries i
  let used := (s.fld .hifRingCons fHifRingConsProd i + 2 ^ 32 - s.fld .hifRingCons fHifRingConsCons i) % 2 ^ 32
  decide (used < 2 ^ k)

/-- How the write of a record ended: written, or lost with the cause of R757 (the HBM address where a line was poisoned). -/
inductive RingWrite
  | ok
  | lostHost (cause : Nat)
  | lostHbm (addr : Nat)
  deriving DecidableEq, Repr

/-- Write a record of `sz` bytes at the ring's PROD (R544, R530, R757). -/
def State.ringWrite (s : State) (i sz : Nat) (bs : List Byte) (hostErr : Bool) : State × RingWrite :=
  let k := s.fld .hifRingCfg fHifRingCfgLog2Entries i
  let off := s.fld .hifRingCfg fHifRingCfgRingBase i + (s.fld .hifRingCons fHifRingConsProd i % 2 ^ k) * sz
  let ctx := i % 1024
  if i = devRing then
    if hostErr then (s, .lostHost 1) else (s.toHost (.hostWrite off bs), .ok)
  else if s.fld .hifRingCfg fHifRingCfgLoc i = 1 then
    match s.hostAddr ctx off sz with
    | none => (s, .lostHost 0)
    | some a => if hostErr then (s, .lostHost 1) else (s.toHost (.hostWrite a bs), .ok)
  else
    match s.translate ctx off with
    | none => (s, .lostHbm 0)
    | some a => let r := s.hbmWrite a bs; if r.2 then (s, .lostHbm a) else (r.1.hbmAccess (some ctx) a true srcHub 1, .ok)

/-- The 32 bytes of an event record (Table 4-12) at its ring's PROD, with the count of discarded events (R158). -/
def State.eventBytes (s : State) (i : Nat) (e : Event) : List Byte :=
  let lost := tabGet 0 s.lost i
  let d := padBytes 16 e.detail
  let d := if lost = 0 then d else d.take 8 ++ leBytes 4 lost ++ d.drop 12
  let pm := match e.queue with
    | some _ => e.pm.toNat
    | none => s.fld .hifRingCons fHifRingConsProd i
  let fq := s.phaseTag i * 2 ^ 15 + (if lost = 0 then 0 else 2 ^ 14) + (match e.queue with | some q => q % 4096 | none => 2 ^ 13)
  leBytes 4 pm ++ leBytes 2 e.code.toNat ++ leBytes 2 fq ++ leBytes 2 e.ctx ++ leBytes 2 e.unit ++
    leBytes 4 e.member.toNat ++ d

/-- Count an event that its ring discards (R158, R551). -/
def State.loseEvent (s : State) (i : Nat) : State := { s with lost := tabUpd 0 s.lost i (· + 1) }

/-- Post an event to a ring, or discard and count it (R158, R551); report how a failed write was lost (R757). -/
def State.postTo (s : State) (i : Nat) (e : Event) (hostErr : Bool := false) : State × RingWrite :=
  if s.fld .hifRingCfg fHifRingCfgLog2Entries i = 0 ∨ s.ringHasSpace i = false then (s.loseEvent i, .ok)
  else
    let r := s.ringWrite i 32 (s.eventBytes i e) hostErr
    match r.2 with
    | .ok => (({ r.1 with lost := tabSet 0 r.1.lost i 0 }).ringAdvance i, .ok)
    | w => (r.1.loseEvent i, w)

/-- Post an event to the device event ring. -/
def State.postDev (s : State) (e : Event) : State := (s.postTo devRing e).1

/-- DETAIL of HBM_UNCORRECTABLE (Table 16-5): line address, source, stack. -/
def hbmDetail (addr src : Nat) : List Byte :=
  leBytes 8 (addr / 64 * 64) ++ leBytes 4 0 ++ [BitVec.ofNat 8 src, BitVec.ofNat 8 (addr / 256 % 6), 0, 0]

/-- DETAIL of HBM_UNCORRECTABLE for the first line that cannot be read of some window ranges, or that of the first range where an
agent's read of it detected the error. -/
def State.winDetail (s : State) (ctx : Nat) (rs : List (Nat × Nat)) : List Byte :=
  hbmDetail (((rs.findSome? (fun r => s.winLost ctx r.1 r.2)).or ((rs.head?).bind (fun r => s.translate ctx r.1))).getD 0) 0

/-- DETAIL of SRAM_UNCORRECTABLE for a cluster store (kind 0) or the hub (kind 1) (Table 16-5). -/
def sramDetail (kind cl line src : Nat) : List Byte :=
  leBytes 4 (if kind = 0 then cl * 2 ^ 24 + line else line) ++ leBytes 8 0 ++ [BitVec.ofNat 8 kind, BitVec.ofNat 8 src, 0, 0]

/-- The event that tells of a lost record (R757). -/
def State.reportLost (s : State) (i : Nat) (w : RingWrite) : State :=
  match w with
  | .ok => s
  | .lostHost cause => s.postDev
    { code := codeAddressInvalid, ctx := i % 1024
      detail := leBytes 4 i ++ leBytes 4 (s.fld .hifRingCons fHifRingConsProd i) ++ leBytes 4 0 ++ [BitVec.ofNat 8 cause] }
  | .lostHbm a => s.postDev { code := codeHbmUncorrectable, ctx := i % 1024, detail := hbmDetail a 4 }

/-- Post an event to a context's event ring (R544, instance 1,024 + c). -/
def State.postCtx (s : State) (x : Nat) (e : Event) (hostErr : Bool := false) : State :=
  let r := s.postTo (1024 + x % 1024) { e with ctx := x } hostErr
  r.1.reportLost (1024 + x % 1024) r.2

/-! ## Queues and letters -/

/-- A queue. -/
def State.queue (s : State) (q : Nat) : Queue := tabGet {} s.queues q

/-- Change a queue. -/
def State.updQ (s : State) (q : Nat) (f : Queue → Queue) : State := { s with queues := tabUpd {} s.queues q f }

/-- A letter that has been accepted. -/
def State.letter (s : State) (l : LetterId) : Option Letter := (s.queue l.q).letters.find? (fun x => x.pm == l.pm)

/-- Change a letter. -/
def State.updLetter (s : State) (l : LetterId) (f : Letter → Letter) : State :=
  s.updQ l.q (fun q => { q with letters := updFirst (fun x => x.pm == l.pm) f q.letters })

/-- A letter has started and its work has not ended. -/
def State.letterLive (s : State) (l : LetterId) : Bool :=
  match s.letter l with
  | some x => x.started && x.ended.isNone
  | none => false

/-- A letter's work ends with a code; a letter that has already ended keeps its end. -/
def State.endLetter (s : State) (l : LetterId) (e : LetterEnd) : State :=
  s.updLetter l (fun x => if x.ended.isNone then { x with ended := some e } else x)

/-- Change what a letter has under way. -/
def State.setWork (s : State) (l : LetterId) (w : Work) : State := s.updLetter l (fun x => { x with work := w })

/-- A field of a letter's 64 bytes. -/
def Letter.field (x : Letter) (off n : Nat) : Nat := leField x.raw off n

/-- The envelope (Table 4-2). -/
def Letter.opcode (x : Letter) : Nat := x.field 4 1
def Letter.fence (x : Letter) : Bool := (x.field 5 1).testBit 0
def Letter.notify (x : Letter) : Bool := (x.field 5 1).testBit 1
def Letter.phase (x : Letter) : Nat := x.field 6 1
def Letter.hint (x : Letter) : Nat := x.field 12 1

/-- A unit's level and index (Table 4-2). -/
def unitLevel (u : BitVec 16) : Nat := u.toNat / 2 ^ 13
def unitIndex (u : BitVec 16) : Nat := u.toNat % 2 ^ 13

/-- The context of a letter's queue. -/
def State.letterCtx (s : State) (l : LetterId) : Nat := (s.queue l.q).ctx.toNat

/-- An event about a letter. -/
def State.letterEvent (s : State) (l : LetterId) (code : Code) (member : BitVec 32) (detail : List Byte) : Event :=
  { code := code, pm := l.pm, queue := some l.q, ctx := s.letterCtx l, unit := (s.queue l.q).unit.toNat
    member := member, detail := detail }

/-! ## Sync references and operations on their way (R147, R186, R190) -/

/-- Objects allotted to a context in the hub (R187). -/
def State.hubObjects (s : State) (x : Nat) : Nat := s.fld .ctxEntry fCtxEntrySyncSlabs x * 512

/-- The object that a reference names, for context `x`, cluster `cl` and member `m`; none where R147 calls it invalid. -/
def State.resolveRef (s : State) (x cl m : Nat) (ref : BitVec 20) : Option ObjKey :=
  let sp := ref.toNat / 2 ^ 18
  let idx := ref.toNat % 2 ^ 18
  if sp = 0 ∧ idx < 64 then some { hub := false, cl := cl, ctx := x, idx := 64 * m + idx }
  else if sp = 1 ∧ idx < 4096 then some { hub := false, cl := cl, ctx := x, idx := idx }
  else if sp = 2 ∧ idx < s.hubObjects x then some { hub := true, cl := 0, ctx := x, idx := idx }
  else none

/-- The cluster that a unit lies in: a core's or a cluster's own (Table 4-5), for level 0 and 1. -/
def unitCluster (u : BitVec 16) : Nat := if unitLevel u = 0 then unitIndex u / 16 else unitIndex u

/-- A reference in a letter (Table 4-5): SPACE 1 for a letter to a cluster or to its cores, SPACE 2 for any. -/
def State.letterRef (s : State) (l : LetterId) (ref : BitVec 20) : Option ObjKey :=
  let u := (s.queue l.q).unit
  let sp := ref.toNat / 2 ^ 18
  if sp = 2 ∨ (sp = 1 ∧ unitLevel u ≤ 1) then s.resolveRef (s.letterCtx l) (unitCluster u) 0 ref else none

/-- Send an operation to its home (R190, R197): operations of one source to one home stay in order. -/
def State.sendSync (s : State) (op : SyncOp) : State := { s with sync := { s.sync with ops := s.sync.ops ++ [op] } }

/-- An engine's signal for a letter (a DONE, FULL, READY or gate return): ADD of a value to the object named. -/
def State.doneSignal (s : State) (l : LetterId) (ref : BitVec 20) (value : BitVec 32) (eng : Nat) : State :=
  match s.letterRef l ref with
  | some k => s.sendSync { who := .engine eng, act := .signal .add, key := k, ref := ref, cl := k.cl, mem := 0, value := value, q := l.q }
  | none => s

/-- Numbers of the engines that signal for themselves (R197): couriers have 0 to 19; then the sorters, the placing of layers, the hub,
and the expert records. -/
def engSorter : Nat := 32
def engPlace : Nat := 33
def engHub : Nat := 34
def engRecord : Nat := 35

/-- The DONE word of a payload: signalled with ADD 1 when DONE_EN, bit 20, is set. -/
def State.letterDone (s : State) (l : LetterId) (done : Nat) (eng : Nat) : State :=
  if done.testBit 20 then s.doneSignal l (BitVec.ofNat 20 done) 1 eng else s

/-! ## Cores -/

/-- A physical core. -/
def State.core (s : State) (c : Nat) : Core := tabGet {} s.cs.cores c

/-- Change a physical core. -/
def State.updCore (s : State) (c : Nat) (f : Core → Core) : State :=
  { s with cs := { s.cs with cores := tabUpd {} s.cs.cores c f } }

/-- The sequencer that context `x` has on member `cm` = 16 × cluster + member. -/
def State.seqr (s : State) (x cm : Nat) : Seqr := tabGet {} s.cs.seqrs (x * 256 + cm)

/-- Change a context's sequencer on a member. -/
def State.updSeqr (s : State) (x cm : Nat) (f : Seqr → Seqr) : State :=
  { s with cs := { s.cs with seqrs := tabUpd {} s.cs.seqrs (x * 256 + cm) f } }

/-- The context resident on a cluster. -/
def State.resident (s : State) (cl : Nat) : Option Nat :=
  if s.fld .ctxResident fCtxResidentState cl = 1 then some (s.fld .ctxResident fCtxResidentContext cl) else none

/-- Filler work ends, and the issue cap starts at the last level where RISE is not 0 (R217); an array without filler work is left as it
is. -/
def Arr.endFiller (a : Arr) : Arr :=
  if a.filler.on then
    { a with filler := { a.filler with
        on := false
        cap := if getFl fSynFillerCfgRise a.filler.cfg ≠ 0 then some a.filler.k else none } }
  else a

/-- A wait of a core's ends (R217). -/
def State.endFiller (s : State) (c : Nat) : State :=
  s.updCore c (fun k => { k with arrs := k.arrs.map Arr.endFiller })

/-- A core of cluster `cl` begins to run a phase (R179, R630). -/
def State.notePhase (s : State) (cl ph : Nat) : State :=
  { s with pw := { s.pw with ran := tabUpd [] s.pw.ran cl (setInsert ph), cur := tabSet 0 s.pw.cur cl ph } }

/-- The phases that a cluster runs: those of its resident context's streams (R179), and those of the letters whose descriptors are
active on its courier (R180). -/
def State.phasesNow (s : State) (cl : Nat) : List Nat :=
  let moves := (((tabGet {} s.mv.couriers cl).descs.filter (·.active)).map (fun d => d.phase.toNat)).foldl (fun l p => setInsert p l) []
  match s.resident cl with
  | none => moves
  | some x => (List.range 16).foldl (fun l m =>
      let q := s.seqr x (16 * cl + m)
      if q.streams.any (·.begun) then setInsert q.phase.toNat l else l) moves

/-- One array of a core. -/
def Core.arr (k : Core) (a : Nat) : Arr := k.arrs.getD a {}

/-- Change one array of a core. -/
def Core.updArr (k : Core) (a : Nat) (f : Arr → Arr) : Core := { k with arrs := k.arrs.modify a f }

/-- The key of accumulator entry (row, col) of an array. -/
def accKey (c a row col : Nat) : Nat := ((4 * c + a) * 256 + row) * 64 + col

/-- An accumulator entry. -/
def State.accGet (s : State) (c a row col : Nat) : F32 := tabGet 0 s.cs.acc (accKey c a row col)

/-- Write an accumulator entry. -/
def State.accSet (s : State) (c a row col : Nat) (v : F32) : State :=
  { s with cs := { s.cs with acc := tabSet 0 s.cs.acc (accKey c a row col) v } }

/-- Byte address of a bench line of a physical core. -/
def benchAddr (c line : Nat) : Nat := c * 2 ^ 20 + line * 64

/-- The 64 bytes of a bench line. -/
def State.benchLine (s : State) (c line : Nat) : List Byte := memRead s.mem.bench (benchAddr c line) 64

/-- Key of a bench line in the list of poisoned lines. -/
def benchKey (c line : Nat) : Nat := c * 16384 + line

/-- Write bytes within one bench line (R666). The flag tells that a poisoned line refused a part. -/
def State.benchWrite (s : State) (c byte : Nat) (bs : List Byte) : State × Bool :=
  let key := benchKey c (byte / 64)
  let whole := decide (byte % 64 = 0 ∧ bs.length = 64)
  if s.mem.benchBad.contains key ∧ whole = false then (s, true)
  else (({ s with mem := { s.mem with
            bench := memWrite s.mem.bench (c * 2 ^ 20 + byte) bs
            benchBad := if whole then setErase key s.mem.benchBad else s.mem.benchBad } }).mend 0 (fun l => l == key), false)

/-- Write bytes across bench lines, each line on its own. -/
def State.benchWriteAll (s : State) (c byte : Nat) (bs : List Byte) : Nat → State
  | 0 => s
  | n + 1 =>
    if bs.isEmpty then s
    else
      let k := min bs.length (64 - byte % 64)
      (s.benchWrite c byte (bs.take k)).1.benchWriteAll c (byte + k) (bs.drop k) n

/-- A vector register's 512 bytes. -/
def State.vreg (s : State) (c r : Nat) : List Byte := memRead s.mem.vreg (c * 16384 + r * 512) 512

/-- Write a vector register from byte `off`. -/
def State.setVreg (s : State) (c r off : Nat) (bs : List Byte) : State :=
  { s with mem := { s.mem with vreg := memWrite s.mem.vreg (c * 16384 + r * 512 + off) bs } }

/-- FP32 lanes of register bytes (R140). -/
def lanes : List Byte → List F32
  | a :: b :: c :: d :: t => BitVec.ofNat 32 (leNat [a, b, c, d]) :: lanes t
  | _ => []

/-- Register bytes of FP32 lanes. -/
def lanesBytes (l : List F32) : List Byte := (l.map (fun x => leBytes 4 x.toNat)).flatten

/-- The cluster and member of a member key, and the path of R177. -/
def cmCl (cm : Nat) : Nat := cm / 16
def cmMem (cm : Nat) : Nat := cm % 16

/-- The running stream of a member: its oldest. -/
def Seqr.cur (q : Seqr) : Option Stream := q.streams.head?

end Sys2Proof.Machine
end

