-- ==== Sys2Proof/Machine/Fabric.lean ====
section
/-! DEFINITION. What several families share: a detection that stops the die, events about spares, routes and frames to other
dies (chapters 11 and 16). -/

namespace Sys2Proof.Machine

/-! ## Die detections (R672, R673) -/

/-- Agents of FLT_DIE_STATUS.AGENT (Table 16-10). -/
def agentHub : Nat := 1
def agentMesh : Nat := 2
def agentDieCourier : Nat := 3
def agentSorter : Nat := 4
def agentZero : Nat := 5
def agentRegulator : Nat := 6
def agentHbm : Nat := 7
def agentFlash : Nat := 8
def agentAdapter : Nat := 9
def agentTimeout : Nat := 10
def agentPower : Nat := 11
def agentClock : Nat := 12

/-- Post a DIE detection's event, one for each distinct code (R669). -/
def State.dieEvent (s : State) (ev : Event) : State :=
  if s.flt.dieCodes.contains ev.code then s
  else { s.postDev ev with flt := { (s.postDev ev).flt with dieCodes := (s.postDev ev).flt.dieCodes ++ [ev.code] } }

/-- A DIE detection: FATAL and AGENT are set, the event is posted and the die begins stage 2 of a cold stop (R672). A further one posts
its event where its code is another; AGENT keeps the first (R669, notes/assumptions/52.md). -/
def State.dieDetect (s : State) (agent : Nat) (ev : Event) : State :=
  if s.fld .fltDieStatus fFltDieStatusFatal = 1 then s.dieEvent ev
  else
    let s := s.setFld .fltDieStatus fFltDieStatusFatal 0 1
    let s := s.setFld .fltDieStatus fFltDieStatusAgent 0 agent
    let s := s.dieEvent ev
    let s := (s.setFld .pwrState fPwrStateState 0 2).setFld .pwrState fPwrStateCause 0 0
    { s with pw := { s.pw with stopStage := 2 } }

/-- A duplicated-logic disagreement in an agent that stops the die (R673). -/
def State.controlDetect (s : State) (agent : Nat) : State :=
  s.dieDetect agent { code := codeCoreControlFault, detail := List.replicate 12 0 ++ [BitVec.ofNat 8 agent] }

/-- SPARE_SWITCHED (R677): kind byte, position replaced, spares still free. -/
def State.spareSwitched (s : State) (kind pos left : Nat) : State :=
  s.postDev { code := codeSpareSwitched
              detail := [BitVec.ofNat 8 kind, BitVec.ofNat 8 pos, BitVec.ofNat 8 left, BitVec.ofNat 8 (pos / 256)] }

/-! ## Dies and routes (R437, R438) -/

/-- This die's number. -/
def State.die (s : State) : Nat := s.fld .olaSystem fOlaSystemDie

/-- A port that carries frames: ACTIVE or in REPAIR. -/
def State.portUsable (s : State) (p : Nat) : Bool :=
  let st := s.fld .olaPortStatus fOlaPortStatusState p
  st == 3 || st == 4

/-- The port by which a frame for die `d` leaves (R438), or why it cannot. -/
def State.route (s : State) (d : Nat) : Except Code Nat :=
  let p := s.fld .olaRoute fOlaRoutePort d
  let a := s.fld .olaRoute fOlaRouteAltPort d
  if 256 ≤ d ∨ s.fld .olaRoute fOlaRouteValid d = 0 then .error codeRouteInvalid
  else if s.portUsable p then .ok p
  else if s.fld .olaRoute fOlaRouteAltValid d = 1 ∧ s.portUsable a then .ok a
  else .error codeLinkDown

/-- A port's state. -/
def State.port (s : State) (p : Nat) : OlaPort := tabGet {} s.ola.ports p

/-- Change a port's state. -/
def State.updPort (s : State) (p : Nat) (f : OlaPort → OlaPort) : State :=
  { s with ola := { s.ola with ports := tabUpd {} s.ola.ports p f } }

/-- A frame for another die waits at the port of its route; the code tells why it could not. While a links commit is at hand it is held
(R444). -/
def State.sendFrame (s : State) (src : Nat) (f : Frame) (prot : Bool := false) : State × Option Code :=
  if s.ola.hold then ({ s with ola := { s.ola with held := s.ola.held ++ [⟨src, f, prot⟩] } }, none)
  else match s.route f.dst.toNat with
  | .ok p => (s.updPort p (fun x => { x with tx := x.tx ++ [⟨src, f, prot⟩] }), none)
  | .error c => (s, some c)

/-- The port that a frame for die `d` waits at: none of the twelve while it is held. -/
def State.portFor (s : State) (d : Nat) : Nat :=
  if s.ola.hold then 12
  else match s.route d with
    | .ok p => p
    | .error _ => 12

/-- A frame of this die before a port gives it its place in the link (Table 11-3). HOPS starts at 15, its largest value. -/
def State.mkFrame (s : State) (typ dst ctx : Nat) (addr tag arg : BitVec 64) (payload : List Byte) : Frame :=
  { typ := BitVec.ofNat 8 typ, flags := 0, lines := BitVec.ofNat 8 ((payload.length + 63) / 64), hops := 15, seq := 0, ack := 0
    src := BitVec.ofNat 8 s.die, dst := BitVec.ofNat 8 dst, ctx := BitVec.ofNat 16 ctx, counter := 0
    addr := addr, tag := tag, arg := arg, payload := payload }

/-- The dies of a declared unit in ascending order (R442). -/
def State.unitDies (s : State) (u : Nat) : List Nat :=
  rangeFrom (s.fld .olaUnit fOlaUnitFirstDie u) (s.fld .olaUnit fOlaUnitDies u)

/-- The proxy that binds a LOCAL index of a context (R448), as an instance of OLA_PROXY. -/
def State.proxyOf (s : State) (ctx idx : Nat) : Option Nat :=
  (rangeFrom (64 * ctx) 64).find? (fun i =>
    s.fld .olaProxy fOlaProxyValid i == 1 && s.fld .olaProxy fOlaProxyLocal i == idx)

/-- A SIGNAL frame that cannot be delivered (R452): its event in the context's ring. -/
def State.signalLost (s : State) (ctx ref die : Nat) (code : Code) : State :=
  s.postCtx ctx { code := code, detail := leBytes 4 ref ++ [BitVec.ofNat 8 die] }

end Sys2Proof.Machine
end

