-- ==== Sys2Proof/Machine/Memory.lean ====
section
/-! DEFINITION. Regions, flash placement and reads (chapters 08 and 14), cluster stores, and what an error of a store does
(chapter 16). -/

namespace Sys2Proof.Machine

/-! ## Regions (Table 8-2, R333 to R338) -/

/-- A region's descriptor, its fields read from CTX_REGION_D0 to D7. -/
structure Region where
  kind : Nat
  home : Nat
  valid : Bool
  shared : Bool
  lock : Bool
  protected_ : Bool
  hint : Nat
  owner : Nat
  bytes : Nat
  base : Nat
  layers : Nat
  unitBytes : Nat
  experts : Nat
  slots : Nat
  slotBase : Nat
  slotStride : Nat
  syncBase : Nat
  deriving DecidableEq, Repr

/-- The 64 bytes of a region's descriptor. -/
def State.regionRaw (s : State) (r : Nat) : List Byte :=
  ((List.range 8).map (fun w => leBytes 8 (s.reg .ctxRegion r w).toNat)).flatten

/-- A descriptor from its 64 bytes. -/
def parseRegion (b : List Byte) : Region :=
  let fl := leField b 2 1
  { kind := leField b 0 1, home := leField b 1 1
    valid := fl.testBit 0, shared := fl.testBit 1, lock := fl.testBit 2, protected_ := fl.testBit 3
    hint := leField b 3 1, owner := leField b 4 2 % 1024, bytes := leField b 8 8, base := leField b 0x10 8
    layers := leField b 0x18 4, unitBytes := leField b 0x1C 4, experts := leField b 0x20 4, slots := leField b 0x24 4
    slotBase := leField b 0x28 8, slotStride := leField b 0x30 4, syncBase := leField b 0x34 4 }

/-- A region by number. -/
def State.region (s : State) (r : Nat) : Region := parseRegion (s.regionRaw r)

/-- A region that exists and that a context may read (R335). -/
def State.regionFor (s : State) (r x : Nat) : Option Region :=
  let g := s.region r
  if r < 255 ∧ g.valid ∧ (g.owner = x ∨ g.shared) then some g else none

/-- The window offset of a context that an extent maps to an HBM address. -/
def State.windowOf (s : State) (ctx a : Nat) : Option Nat :=
  let h := a / 2 ^ 21
  (List.range 64).findSome? (fun e =>
    let i := 64 * ctx + e
    let lo := s.fld .ctxExtent fCtxExtentHpage i
    let n := s.fld .ctxExtent fCtxExtentPages i
    if s.fld .ctxExtent fCtxExtentValid i = 1 ∧ lo ≤ h ∧ h < lo + n then
      some ((s.fld .ctxExtent fCtxExtentWpage i + (h - lo)) * 2 ^ 21 + a % 2 ^ 21)
    else none)

/-- An HBM address lies in the HBM home of a region with LOCK set (R336). -/
def State.lockedAt (s : State) (a : Nat) : Bool :=
  (List.range 255).any (fun r =>
    let g := s.region r
    g.valid && g.lock && g.home == 0 &&
      (match s.windowOf g.owner a with
       | some o => decide (g.base ≤ o ∧ o < g.base + g.bytes)
       | none => false))

/-- A window line of a context lies in the HBM home of a PROTECTED region (R337, R415). -/
def State.protectedAt (s : State) (ctx off : Nat) : Bool :=
  match s.translate ctx off with
  | none => false
  | some a => (List.range 255).any (fun r =>
      let g := s.region r
      g.valid && g.protected_ && g.home == 0 &&
        (match s.windowOf g.owner a with
         | some o => decide (g.base ≤ o ∧ o < g.base + g.bytes)
         | none => false))

/-- Some line of a window range lies in a locked home. -/
def State.winLocked (s : State) (ctx off n : Nat) : Bool :=
  (List.range 255).any (fun r => let g := s.region r; g.valid && g.lock && g.home == 0) &&
    (List.range ((off + n + 63) / 64 - off / 64)).any (fun k =>
      match s.translate ctx ((off / 64 + k) * 64) with
      | some a => s.lockedAt a
      | none => false)

/-! ## Flash (R331, R574 to R578, R594, R602, R603) -/

/-- The channel of a unit of a flash region (R331). -/
def unitChannel (home u : Nat) : Nat := if home = 1 then u % 12 else 12 + u % 4

/-- The parcel whose contents a channel shows: none for board flash. -/
def State.channelParcel (s : State) (ch : Nat) : Nat := if ch < 12 then 0 else (s.reg .pclId).toNat + 1

/-- A page group's key: parcel, channel and place. -/
def groupKey (parcel ch target lun block page : Nat) : Nat :=
  ((((parcel * 16 + ch) * 8 + target) * 16 + lun) * 2 ^ 19 + block) * 2 ^ 12 + page

/-- A block's key: that of its groups without the page. -/
def blockKey (grp : Nat) : Nat := grp / 2 ^ 12

/-- The map entry of a unit (Table 14-2). -/
def State.mapEntry (s : State) (r u : Nat) : BitVec 64 := tabGet 0 s.fl.map (r * 2 ^ 33 + u)

/-- Write a map entry: one indivisible write (R579). -/
def State.setMap (s : State) (r u : Nat) (e : BitVec 64) : State :=
  { s with fl := { s.fl with map := tabSet 0 s.fl.map (r * 2 ^ 33 + u) e } }

/-- The entry for a group. -/
def mapWord (grp : Nat) : BitVec 64 :=
  BitVec.ofNat 64 (2 ^ 63 + (grp / 2 ^ 35 % 8) * 2 ^ 59 + (grp / 2 ^ 31 % 16) * 2 ^ 55 + (grp / 2 ^ 12 % 2 ^ 19) * 2 ^ 36 +
    (grp % 2 ^ 12) * 2 ^ 24)

/-- The group that an entry names on a channel; none where VALID is 0. -/
def entryGroup (parcel ch : Nat) (e : BitVec 64) : Option Nat :=
  let n := e.toNat
  if n.testBit 63 then
    some (groupKey parcel ch (natBits n 61 59) (natBits n 58 55) (natBits n 54 36) (natBits n 35 24))
  else none

/-- The group that holds a unit of a region. -/
def State.unitGroup (s : State) (r u : Nat) : Option Nat :=
  let ch := unitChannel (s.region r).home u
  entryGroup (s.channelParcel ch) ch (s.mapEntry r u)

/-- Bytes of a flash region; a unit that holds no data reads as zeros (R578). -/
def State.flashRead (s : State) (r off n : Nat) : List Byte :=
  (rangeFrom off n).map (fun o => match s.unitGroup r (o / 65536) with
    | some g => memGet s.fl.data (g * 65536 + o % 65536)
    | none => 0)

/-- The protection slot of a region, if one names it. -/
def State.protSlot (s : State) (r : Nat) : Option Nat :=
  (List.range 64).find? (fun i => s.fld .flsProt fFlsProtValid i == 1 && s.fld .flsProt fFlsProtRegion i == r)

/-- A region whose slot is LOCKED (R594). -/
def State.pwLocked (s : State) (r : Nat) : Bool :=
  match s.protSlot r with
  | some i => s.fld .flsProt fFlsProtLocked i == 1
  | none => false

/-- The parcel that a region belongs to is present and its reads are taken (R338, R602). -/
def State.parcelHere (s : State) (r : Nat) : Bool :=
  s.fl.parcelOpen && tabGet 0 s.fl.regionParcel r == s.reg .pclId

/-- Why a flash region cannot be read now (R338, R594). -/
def State.flashBar (s : State) (r : Nat) : Option Code :=
  if s.pwLocked r then some codeRegionLocked
  else if (s.region r).home = 2 ∧ s.parcelHere r = false then some codeParcelAbsent
  else none

/-- Why the data of a flash read under way is not taken: the region has been locked, or its parcel is gone; a drain lets it finish
(R594, R602). -/
def State.lateBar (s : State) (r : Nat) : Option Code :=
  match s.flashBar r with
  | some c => if c = codeParcelAbsent then (if s.fl.drainStep = 2 then none else some codeParcelRemoved) else some c
  | none => none

/-- Count a sector read of a channel and of its block (R591, Table 18-1). -/
def State.flashTouch (s : State) (r off : Nat) : State :=
  let u := off / 65536
  let s := s.count 6 (unitChannel (s.region r).home u) 0
  match s.unitGroup r u with
  | some g => { s with fl := { s.fl with reads := tabUpd 0 s.fl.reads (blockKey g) (· + 1) } }
  | none => s

/-- Reads of `n` whole sectors of a region from a byte offset on: each is a sector read of its channel, charged at its port and
to the owner of the region (R253, R715). -/
def State.sectorReads (s : State) (r off n src : Nat) : State :=
  (s.countCtx (s.region r).owner 7 n).each (List.range n) (fun s i =>
    (s.flashTouch r (off + 4096 * i)).charge (6 + unitChannel (s.region r).home ((off + 4096 * i) / 65536)) .read false src 64)

/-! ## Cluster stores -/

/-- Byte address of a cluster store. -/
def storeAddr (cl byte : Nat) : Nat := cl * 2 ^ 22 + byte

/-- Bytes of a cluster store. -/
def State.storeRead (s : State) (cl byte n : Nat) : List Byte := memRead s.mem.store (storeAddr cl byte) n

/-- Bytes of every cluster store that the hot-row cache takes (R388). -/
def State.carveOut (s : State) : Nat :=
  let z := s.fld .srtCacheCfg fSrtCacheCfgSize
  if z = 0 then 0 else 2 ^ (z + 5) * 1024

/-- The cluster store window offered to programs (R388). -/
def State.storeWindow (s : State) : Nat := 2 ^ 22 - s.carveOut

/-- A poisoned line of a cluster store. -/
def State.storePoisoned (s : State) (cl line : Nat) : Bool := s.mem.storeBad.contains (cl * 65536 + line)

/-- Write one whole line of a cluster store; it clears the line's poison (R666). -/
def State.storeWrite (s : State) (cl byte : Nat) (bs : List Byte) : State :=
  ({ s with mem := { s.mem with
      store := memWrite s.mem.store (storeAddr cl byte) bs
      storeBad := setErase (cl * 65536 + byte / 64) s.mem.storeBad } }).mend 1 (fun l => l == cl * 65536 + byte / 64)

/-! ## Errors of the stores (R665 to R671, R681) -/

/-- Codes that Table 4-24 marks E among those that end one piece of work. -/
def codeIsEvent (c : Code) : Bool :=
  [codeAddressInvalid, codeArrayCheckFail, codeVectorFault, codePortParity, codeCoreControlFault, codeBenchUncorrectable,
    codeHbmUncorrectable, codeSramUncorrectable, codeKvPagesExhausted, codeExpertUnavailable, codeSwapRolledBack,
    codeFlashProgramFail, codeFlashUncorrectable, codeRegionLocked, codePasswordLockout, codeParcelRemoved, codeLinkDown,
    codeRouteInvalid].contains c

/-- Codes of R668's CONTAINED failures that are posted to the owning context's ring as well as recorded: the storage and parity
codes. The other codes marked E are events only where their own chapter posts them. -/
def containedCode (c : Code) : Bool :=
  [codePortParity, codeBenchUncorrectable, codeHbmUncorrectable, codeSramUncorrectable, codeFlashUncorrectable].contains c

/-- Report a contained failure to the owning context's ring (R668). -/
def State.contained (s : State) (ctx : Nat) (l : Option LetterId) (code : Code) (detail : List Byte) : State :=
  if containedCode code then
    match l with
    | some l => s.postCtx ctx (s.letterEvent l code 0 detail)
    | none => s.postCtx ctx { code := code, detail := detail }
  else s

/-- Log an HBM row (R681): the row's own entry if it has one, else the next entry, the oldest overwritten. -/
def State.logRow (s : State) (a : Nat) (ue : Bool) (n : Nat) : State :=
  let k := hbmStack a
  let row := (Config.hbmRow k (hbmPlace a / 64)).toNat
  let idx := (rangeFrom (16 * k) 16).find? (fun i =>
    s.fld .fltHbmRowlog fFltHbmRowlogValid i == 1 && (s.reg .fltHbmRowlog i).toNat % 2 ^ 32 == row)
  let i := idx.getD (16 * k + tabGet 0 s.flt.rowNext k % 16)
  let oldUe := idx.isSome && s.fld .fltHbmRowlog fFltHbmRowlogUe i == 1
  let w : Word := BitVec.ofNat 64 (2 ^ 63 + (if ue || oldUe then 2 ^ 62 else 0) + min n 255 * 2 ^ 32 + row)
  let s := s.setReg .fltHbmRowlog i 0 w
  if idx.isSome then s
  else { s with flt := { s.flt with rowNext := tabUpd 0 s.flt.rowNext k (fun x => (x + 1) % 16) } }

/-- Key of the row that holds an HBM line. -/
def hbmRowKey (a : Nat) : Nat := hbmStack a * 2 ^ 32 + (Config.hbmRow (hbmStack a) (hbmPlace a / 64)).toNat

/-- An HBM read corrected an error: counted, and logged once its row reaches HBM_ROW_CE in the period (R681). -/
def State.hbmCorrected (s : State) (a : Nat) : State :=
  let n := tabGet 0 s.flt.hbmRows (hbmRowKey a) + 1
  let s := ({ s with flt := { s.flt with hbmRows := tabSet 0 s.flt.hbmRows (hbmRowKey a) n } }).count 5 (hbmStack a) 4
  if s.fld .fltCeCfg fFltCeCfgHbmRowCe ≤ n then s.logRow a false n else s

/-- What reading an HBM line by an agent finds: a poisoned line, or a line whose controller has left service, reads as
uncorrectable (R666, Table 16-6). -/
def State.hbmSees (s : State) (a : Nat) (rd : ReadRes) : ReadRes :=
  if s.hbmLost a then .uncorrectable else s.flipSees 4 (a / 64) rd

/-- The bookkeeping of an agent's HBM read: corrected reads counted, rows logged. -/
def State.hbmNote (s : State) (a : Nat) (rd : ReadRes) : State :=
  match s.hbmSees a rd with
  | .clean => s
  | .corrected => s.hbmCorrected a
  | .uncorrectable => s.logRow a true (tabGet 0 s.flt.hbmRows (hbmRowKey a))

/-- The addresses of `n` lines from `a` on. -/
def lineAddrs (a n : Nat) : List Nat := (List.range n).map (fun i => a + 64 * i)

/-- Read lines of HBM, `rd` being what the sender's read of the first finds beside the errors held in the state: corrected reads are
counted and rows logged (R681); the flag tells that a line cannot be read. -/
def State.hbmReads (s : State) : List Nat → ReadRes → State × Bool
  | [], _ => (s, false)
  | a :: as, rd =>
    let t := (s.hbmNote a rd).hbmReads as .clean
    (t.1, s.hbmSees a rd == .uncorrectable || t.2)

/-! ## SRAM rows (R678, R679) -/

/-- A bank's number among all: benches, then cluster stores, then the hub. -/
def sramBank : SramRow → Nat
  | .bench c b _ => c.val * 16 + b.val
  | .store cl b _ => 5000 + cl.val * 16 + b.val
  | .hub b _ => 6000 + b.val

/-- A row's number in its bank. -/
def sramRowNo : SramRow → Nat
  | .bench _ _ r => r
  | .store _ _ r => r
  | .hub _ r => r

/-- A row's key. -/
def sramKey (r : SramRow) : Nat := sramBank r * 2 ^ 16 + sramRowNo r

/-- Spare rows of a row's bank (Table 16-8). -/
def sramSpares : SramRow → Nat
  | .bench _ _ _ => 4
  | _ => 8

/-- The row of a bench line: bank by line mod 16, 16 of the bank's lines to the 1 KiB row (notes/assumptions/9.md). -/
def benchRow (c line : Nat) : SramRow :=
  .bench (Fin.ofNat 272 c) (Fin.ofNat 16 line) (line / 256)

/-- The row of a cluster-store line, likewise. -/
def storeRow (cl line : Nat) : SramRow := .store (Fin.ofNat 16 cl) (Fin.ofNat 16 line) (line / 256)

/-- The row of a hub line: 16,384 lines to a bank of 1 MiB. -/
def hubRow (line : Nat) : SramRow := .hub (Fin.ofNat 24 (line / 16384)) (line % 16384 / 16)

/-- A read corrected an error in a row: counted, and at ROW_CE the row, or for the hub its bank, is copied to a spare. -/
def State.sramCorrected (s : State) (r : SramRow) : State :=
  let n := tabGet 0 s.flt.sramRows (sramKey r) + 1
  let s := { s with flt := { s.flt with sramRows := tabSet 0 s.flt.sramRows (sramKey r) n } }
  if n < s.fld .fltCeCfg fFltCeCfgRowCe ∨ s.flt.rowCopies.contains r then s
  else if tabGet 0 s.flt.rowsUsed (sramBank r) + (s.flt.rowCopies.filter (fun x => sramBank x == sramBank r)).length < sramSpares r then
    { s with flt := { s.flt with rowCopies := s.flt.rowCopies ++ [r] } }
  else
    match r with
    | .hub b _ =>
      if s.fld .fltSramSpare fFltSramSpareHubBank 16 = 0xFF ∧ s.flt.bankCopies = [] then
        { s with flt := { s.flt with bankCopies := [b.val] } }
      else s
    | _ => s

/-- A cluster-store read corrected an error (Table 18-1, KIND 9). -/
def State.storeCorrected (s : State) (cl line : Nat) : State := (s.count 9 cl 0).sramCorrected (storeRow cl line)

/-- A bench read corrected an error (Table 18-1, KIND 0): the line is to be written back (R95). -/
def State.benchCorrected (s : State) (c line : Nat) : State :=
  (((s.count 0 c 17).mend 0 (fun l => l == benchKey c line)).sramCorrected (benchRow c line)).updCore c (fun k =>
    { k with writeback := if k.writeback.contains line then k.writeback else k.writeback ++ [line] })

/-- What reading a bench line finds: a poisoned line reads as uncorrectable (R666). -/
def State.benchSees (s : State) (c line : Nat) (rd : ReadRes) : ReadRes :=
  if s.mem.benchBad.contains (benchKey c line) then .uncorrectable else s.flipSees 0 (benchKey c line) rd

/-- An uncorrectable bench read sets BENCH_UE (R96). -/
def State.benchUe (s : State) (c : Nat) : State := s.setFld .fltCoreStatus fFltCoreStatusBenchUe c 1

/-- Read one bench line: a corrected error is noted for its write-back (R95); the flag tells that the line cannot be read (R96). -/
def State.benchRead (s : State) (c line : Nat) (rd : ReadRes) : State × Bool :=
  match s.benchSees c line rd with
  | .clean => (s, false)
  | .corrected => (s.benchCorrected c line, false)
  | .uncorrectable => (s, true)

/-- Read bench lines, `rd` being what the sender's read of the first finds beside the errors held in the state (R95, R96). -/
def State.benchReads (s : State) (c : Nat) : List Nat → ReadRes → State × Bool
  | [], _ => (s, false)
  | l :: ls, rd =>
    let r := s.benchRead c l rd
    let t := r.1.benchReads c ls .clean
    (t.1, r.2 || t.2)

/-- What reading a cluster-store line finds (R666). -/
def State.storeSees (s : State) (cl line : Nat) (rd : ReadRes) : ReadRes :=
  if s.storePoisoned cl line then .uncorrectable else s.flipSees 1 (cl * 65536 + line) rd

/-- Read lines of a cluster store: corrected errors are counted; the flag tells that a line cannot be read. -/
def State.storeReads (s : State) (cl : Nat) : List Nat → ReadRes → State × Bool
  | [], _ => (s, false)
  | l :: ls, rd =>
    let r : State × Bool := match s.storeSees cl l rd with
      | .clean => (s, false)
      | .corrected => (s.storeCorrected cl l, false)
      | .uncorrectable => (s, true)
    let t := r.1.storeReads cl ls .clean
    (t.1, r.2 || t.2)

end Sys2Proof.Machine
end

