-- ==== Sys2Proof/Machine/Sync.lean ====
section
/-! DEFINITION. Sync objects, signals, waits, orphaning and slabs (chapter 05), and signals to other dies (chapter 11). -/

namespace Sys2Proof.Machine

/-! ## Objects and their homes -/

/-- The key of an object: a context keeps its fast-path objects under its own number, so that a saved copy and the home are one
place (R208). -/
def syncKey (k : ObjKey) : Nat := if k.hub then 2 ^ 32 + k.ctx * 2 ^ 18 + k.idx else (k.ctx * 16 + k.cl) * 4096 + k.idx

/-- The object at a key of a home. -/
def State.obj (s : State) (k : ObjKey) : SyncObj := tabGet {} s.sync.objs (syncKey k)

/-- Write an object. -/
def State.setObj (s : State) (k : ObjKey) (o : SyncObj) : State :=
  { s with sync := { s.sync with objs := tabSet {} s.sync.objs (syncKey k) o } }

/-- The slab that holds an object: home (a cluster, or 16 for the hub) and slab. An object of a context that is not resident on
its cluster is held in the hub's copy and in no slab. -/
def State.slabOf (s : State) (k : ObjKey) : Option (Nat × Nat) :=
  if k.hub then ((tabGet [] s.sync.slabsOf k.ctx)[k.idx / 512]?).map (fun p => (16, p))
  else if s.residentOn k.cl k.ctx then some (k.cl, k.idx / 512)
  else none

/-- A slab's number among all homes. -/
def slabKey (home slab : Nat) : Nat := home * 1024 + slab

/-- Spare slabs of a home that are neither in use nor being filled (R218, Table 5-12). -/
def State.sparesFree (s : State) (home : Nat) : Nat :=
  let busy := (s.sync.copies.filter (fun c => c.home == home)).length
  if home = 16 then 4 - s.fld .synSpareStatus fSynSpareStatusHubUsed - busy
  else 1 - (s.fld .synSpareStatus fSynSpareStatusClusterUsed / 2 ^ home) % 2 - busy

/-- The image of Table 5-1. -/
def objImage (k : ObjKey) (o : SyncObj) : Word :=
  let own := match o.owner with
    | some q => (q.toNat, 1)
    | none => (0xFFF, 0)
  let bit (b : Bool) (n : Nat) : Nat := if b then 2 ^ n else 0
  BitVec.ofNat 64 (own.1 * 2 ^ 52 + k.ctx * 2 ^ 42 + own.2 * 2 ^ 36 + bit (!o.waits.isEmpty) 35 + bit o.orphaned 34 +
    bit o.satLo 33 + bit o.satHi 32 + o.count.toNat)

/-- Bytes 0 to 3 of Table 5-4. -/
def refDetail (cl mem ref : Nat) : List Byte :=
  let sp := ref / 2 ^ 18
  leBytes 4 ((if sp ≤ 1 then cl * 2 ^ 24 else 0) + (if sp = 0 then mem * 2 ^ 20 else 0) + ref % 2 ^ 20)

/-- DETAIL of SRAM_UNCORRECTABLE for a sync object (R220, Table 16-5): kind 2 in byte 12. -/
def slabDetail (cl mem ref value sop src : Nat) : List Byte :=
  refDetail cl mem ref ++ leBytes 4 value ++ leBytes 4 0 ++ [2, BitVec.ofNat 8 src, BitVec.ofNat 8 sop, 0]

/-- A reference that names a key by its own space: SPACE 1 or 2. -/
def ObjKey.ref (k : ObjKey) : Nat := (if k.hub then 2 * 2 ^ 18 else 2 ^ 18) + k.idx

/-! ## Waits -/

/-- The wait's condition (R193). -/
def Wait.holds (w : Wait) (c : BitVec 32) : Bool :=
  match w.cond with
  | .ge => decide (w.value.toNat ≤ c.toNat)
  | .eq => decide (w.value = c)

/-- The first layer of group `g` of a SWAP (R351). -/
def swapFirst (x : Letter) (g : Nat) : Nat := x.field 0x14 2 + g * x.field 0x12 1

/-- Tell the waiter: a letter's work ends, a core's WAIT completes, or the device's own wait is granted. A wait of the device's
that ends with another code than OK ends its letter with that code (notes/assumptions/8.md). -/
def State.tellWaiter (s : State) (who : Party) (code : Code) (result : BitVec 32) : State :=
  match who with
  | .letter l =>
    let s := if code = codeOrphan then s.countCtx (s.letterCtx l) 9 else s
    s.endLetter l { code := code, result := result }
  | .core x cm =>
    let s := s.updSeqr x cm (fun q =>
      let stop := code = codeSramUncorrectable ∨ (code = codeOrphan ∧ q.waiting = some true)
      { q with
        waiting := none
        waitDone := some (code, result)
        streams := if stop then updFirst (fun t => !t.ended) (fun t => { t with fail := some code }) q.streams else q.streams })
    let s := if code = codeOrphan then s.countCtx x 9 else s
    match s.coreOf (cmCl cm) (cmMem cm) with
    | some c => if s.residentOn (cmCl cm) x then s.endFiller c else s
    | none => s
  | .placeEmpty l i =>
    if code = codeOk then
      s.updLetter l (fun x => match x.work with
        | .place n ls full => { x with work := .place n (updFirst (fun y => y.i == i) (fun y => { y with granted := true }) ls) full }
        | _ => x)
    else s.endLetter l { code := code, result := BitVec.ofNat 32 i }
  | .swapGate l =>
    s.updLetter l (fun x => match x.work with
      | .swap w =>
        if code = codeOk then { x with work := .swap { w with gate := true } }
        else if x.ended.isNone then { x with ended := some { code := code, result := BitVec.ofNat 32 (swapFirst x w.group) } }
        else x
      | _ => x)
  | .credit _ id =>
    if code = codeOk then
      { s with tier := { s.tier with ready := updFirst (fun x => x.id == id) (fun x => { x with credit := true }) s.tier.ready } }
    else
      match s.tier.ready.find? (fun x => x.id == id) with
      | some x => ({ s with tier := { s.tier with ready := removeFirst (fun y => y.id == id) s.tier.ready } }).endLetter x.letter
          { code := code }
      | none => s
  | .engine _ => s
  | .frame => s

/-- Evaluate the registered waits in order of registration: one that holds completes and may consume. Every completion is an update
after which the waits are evaluated again from the oldest, so that an EQ wait sees every value (R194 to R196). -/
def evalWaits : Nat → List Wait → BitVec 32 → List Wait × BitVec 32 × List (Party × BitVec 32)
  | 0, ws, c => (ws, c, [])
  | n + 1, ws, c =>
    match ws.find? (fun w => w.holds c) with
    | none => (ws, c, [])
    | some w =>
      let r := evalWaits n (removeFirst (fun w => w.holds c) ws) (if w.consume then c - w.value else c)
      (r.1, r.2.1, (w.who, c) :: r.2.2)

/-- Write an updated object after its registered waits are evaluated. -/
def State.settle (s : State) (k : ObjKey) (o : SyncObj) : State :=
  let r := evalWaits o.waits.length o.waits o.count
  (s.setObj k { o with waits := r.1, count := r.2.1 }).each r.2.2 (fun s p => s.tellWaiter p.1 codeOk p.2)

/-! ## Signals (R190, R191) -/

/-- COUNT after a signal, and whether it stopped at the upper or at the lower limit (Table 5-3). -/
def sopApply (sop : Sop) (c v : BitVec 32) : BitVec 32 × Bool × Bool :=
  match sop with
  | .add => if 2 ^ 32 ≤ c.toNat + v.toNat then (0xFFFFFFFF, true, false) else (c + v, false, false)
  | .sub => if c.toNat < v.toNat then (0, false, true) else (c - v, false, false)
  | .set => (v, false, false)

/-- The code of a signal operation (Table 4-7). -/
def Sop.code : Sop → Nat
  | .add => 0
  | .sub => 1
  | .set => 2

/-- Apply a signal to an object at its home: one indivisible update, then the waits; a sticky flag newly set posts an event. -/
def State.applySignal (s : State) (op : SyncOp) (sop : Sop) : State :=
  let o := s.obj op.key
  let r := sopApply sop o.count op.value
  let o' : SyncObj := { o with
    count := r.1
    satHi := o.satHi || r.2.1
    satLo := o.satLo || r.2.2
    owner := if sop = .set then some (BitVec.ofNat 12 op.q) else o.owner
    orphaned := if sop = .set then false else o.orphaned }
  let s := s.settle op.key o'
  let s := if (r.2.1 && !o.satHi) || (r.2.2 && !o.satLo) then
      s.postCtx op.key.ctx
        { code := codeSyncSaturated
          detail := refDetail op.cl op.mem op.ref.toNat ++ leBytes 4 op.value.toNat ++ leBytes 4 0 ++
            [BitVec.ofNat 8 sop.code, if r.2.1 then 1 else 2] }
    else s
  match op.who with
  | .letter l => s.endLetter l { code := codeOk }
  | _ => s

/-- A wait arrives: it completes at once, or is registered (R195, R205). -/
def State.applyWait (s : State) (op : SyncOp) (cond : Cond) (consume : Bool) : State :=
  let o := s.obj op.key
  let w : Wait := { who := op.who, cond := cond, consume := consume, value := op.value }
  if o.orphaned then s.tellWaiter op.who codeOrphan o.count
  else if w.holds o.count then
    let s := s.tellWaiter op.who codeOk o.count
    if consume then s.settle op.key { o with count := o.count - op.value } else s
  else s.setObj op.key { o with waits := o.waits ++ [w] }

/-! ## Orphaning (R203, R204) -/

/-- An object orphaned; `clearAll` also writes COUNT 0 first (R219). -/
def State.orphanObj (s : State) (k : ObjKey) (zero : Bool) : State :=
  let o := s.obj k
  let c := if zero then 0 else o.count
  (s.setObj k { o with count := c, orphaned := true, owner := none, waits := [] }).each o.waits
    (fun s w => s.tellWaiter w.who codeOrphan c)

/-- The object key that a table key stands for. -/
def keySync (n : Nat) : ObjKey :=
  if 2 ^ 32 ≤ n then { hub := true, cl := 0, ctx := (n - 2 ^ 32) / 2 ^ 18, idx := n % 2 ^ 18 }
  else { hub := false, cl := n / 4096 % 16, ctx := n / 65536, idx := n % 4096 }

/-- Orphan every object that a queue owns (R203). -/
def State.orphanQueue (s : State) (q : Nat) : State :=
  s.each (s.sync.objs.filter (fun e => e.2.owner == some (BitVec.ofNat 12 q))) (fun s e => s.orphanObj (keySync e.1) false)

/-- End every wait registered on an object with ORPHAN, the object itself left as it is (R220). -/
def State.dropWaits (s : State) (k : ObjKey) : State :=
  let o := s.obj k
  (s.setObj k { o with waits := [] }).each o.waits (fun s w => s.tellWaiter w.who codeOrphan o.count)

/-- The objects of a slab that hold anything. -/
def State.slabObjects (s : State) (home slab : Nat) : List ObjKey :=
  (s.sync.objs.map (fun e => keySync e.1)).filter (fun k => s.slabOf k == some (home, slab))

/-! ## Slabs (R219, R220, R682) -/

/-- An operation on an object of a failed slab ends with SRAM_UNCORRECTABLE (R220). -/
def State.failOp (s : State) (op : SyncOp) : State :=
  match op.act with
  | .wait _ _ => s.tellWaiter op.who codeSramUncorrectable 0
  | .signal sop =>
    match op.who with
    | .letter l => s.endLetter l { code := codeSramUncorrectable }
    | _ => s.postCtx op.key.ctx
        { code := codeSramUncorrectable, detail := slabDetail op.cl op.mem op.ref.toNat op.value.toNat sop.code 0 }

/-- A read of an object found an error that its code cannot correct (R219, R220). `cl`, `mem` and `ref` are the reference that the
reading operation was issued with (Table 5-4); `src` is 1 for a scrub read. -/
def State.objFails (s : State) (k : ObjKey) (home slab cl mem ref src : Nat) : State :=
  let d := slabDetail cl mem ref 0 0 src
  if 0 < s.sparesFree home then
    let s := s.orphanObj k true
    let s := s.postCtx k.ctx { code := codeSramUncorrectable, detail := d }
    { s with sync := { s.sync with copies := s.sync.copies ++ [{ home := home, slab := slab, held := [] }] } }
  else
    let s := s.orphanObj k false
    let s := s.each (s.slabObjects home slab) (fun s k => s.dropWaits k)
    let s := { s with sync := { s.sync with failed := setInsert (slabKey home slab) s.sync.failed } }
    s.postDev { code := codeSramUncorrectable, detail := d }

/-- A read of an object found an error that its code corrected: the image is written back, and the slab moves to a spare when
its count reaches SLAB_CE (R188, R682). -/
def State.objCorrected (s : State) (home slab : Nat) : State :=
  let s := s.count 9 home 1
  let n := tabGet 0 s.sync.ce (slabKey home slab) + 1
  let s := { s with sync := { s.sync with ce := tabSet 0 s.sync.ce (slabKey home slab) n } }
  if s.fld .fltCeCfg fFltCeCfgSlabCe ≤ n ∧ 0 < s.sparesFree home then
    { s with sync := { s.sync with
        copies := s.sync.copies ++ [{ home := home, slab := slab, held := [] }]
        ce := tabSet 0 s.sync.ce (slabKey home slab) 0 } }
  else s

/-- A sync object's place among all: home and its number there. -/
def syncLine (home slab idx : Nat) : Nat := home * 2 ^ 18 + slab * 512 + idx % 512

/-- A slab copy holds the operations on its slab. -/
def State.copying (s : State) (home slab : Nat) : Bool := s.sync.copies.any (fun c => c.home == home && c.slab == slab)

/-- Hold an operation until its slab's copy ends (R219). -/
def State.holdOp (s : State) (home slab : Nat) (op : SyncOp) : State :=
  { s with sync := { s.sync with
      copies := updFirst (fun c => c.home == home && c.slab == slab) (fun c => { c with held := c.held ++ [op] }) s.sync.copies } }

/-- Do what an operation asks of its object. -/
def State.applyOp (s : State) (op : SyncOp) : State :=
  match op.act with
  | .signal sop => s.applySignal op sop
  | .wait cond consume => s.applyWait op cond consume

/-- An operation reaches an index of the hub that a commit has removed meanwhile (R187): DESIGN CHOICE (notes/assumptions/56.md), a wait
completes with ORPHAN, a SIGNAL letter with SYNC_INVALID, and any other signal touches nothing. -/
def State.goneOp (s : State) (op : SyncOp) : State :=
  match op.act with
  | .wait _ _ => s.tellWaiter op.who codeOrphan 0
  | .signal _ =>
    match op.who with
    | .letter l => s.endLetter l { code := codeSyncInvalid }
    | _ => s

/-- An operation reaches its home: held, ended, or applied to the object that the home reads. -/
def State.serveOp (s : State) (op : SyncOp) (rd : ReadRes) : State :=
  match s.slabOf op.key with
  | none => if op.key.hub then s.goneOp op else s.applyOp op
  | some (home, slab) =>
    if s.copying home slab then s.holdOp home slab op
    else if s.sync.failed.contains (slabKey home slab) then s.failOp op
    else
      let at_ := syncLine home slab op.key.idx
      match s.flipSees 3 at_ rd with
      | .clean => s.applyOp op
      | .corrected => ((s.mend 3 (fun l => l == at_)).objCorrected home slab).applyOp op
      | .uncorrectable =>
        let s := s.mend 3 (fun l => l == at_)
        let s := s.objFails op.key home slab op.cl op.mem op.ref.toNat 0
        if s.copying home slab then s.holdOp home slab op else s.failOp op

/-! ## Signals to other dies (R448 to R452) -/

/-- Send a bound signal to one die: a SIGNAL frame, or the remote object itself where the target is this die. -/
def State.signalDie (s : State) (op : SyncOp) (sop : Sop) (die remote : Nat) : State :=
  if die = s.die then
    s.serveOp { op with key := { hub := true, cl := 0, ctx := op.key.ctx, idx := remote }
                        who := .engine 0 } .clean
  else
    let f := s.mkFrame 4 die op.key.ctx (BitVec.ofNat 64 (2 * 2 ^ 18 + remote + sop.code * 2 ^ 20)) 0 (BitVec.ofNat 64 op.value.toNat) []
    match s.sendFrame 20 f with
    | (s, none) => s
    | (s, some c) => s.signalLost op.key.ctx op.ref.toNat die c

/-- A signal to a bound LOCAL index (R448, R449): the local object is left unchanged. -/
def State.proxySignal (s : State) (op : SyncOp) (sop : Sop) (i : Nat) : State :=
  let target := s.fld .olaProxy fOlaProxyTarget i
  let remote := s.fld .olaProxy fOlaProxyRemote i
  let dies := if s.fld .olaProxy fOlaProxyFanout i = 1 then s.unitDies target else [target]
  let s := s.each dies (fun s d => s.signalDie op sop d remote)
  match op.who with
  | .letter l => s.endLetter l { code := codeOk }
  | _ => s

/-! ## The commands -/

/-- The operations on their way, the i-th removed. -/
def State.takeOp (s : State) (i : Nat) : State := { s with sync := { s.sync with ops := s.sync.ops.eraseIdx i } }

/-- Two operations of one source to one home keep their order (R197). -/
def sameWay (a b : SyncOp) : Bool :=
  decide (a.key.hub = b.key.hub ∧ (a.key.hub ∨ a.key.cl = b.key.cl)) &&
    (match a.who, b.who with
     | .letter l, .letter m => l.q == m.q
     | x, y => x == y)

/-- The i-th operation may reach its home now. -/
def State.opReady (s : State) (i : Nat) : Option SyncOp :=
  match s.sync.ops[i]? with
  | some op => if s.clocked && !((s.sync.ops.take i).any (fun e => sameWay e op)) then some op else none
  | none => none

/-- A signal of the given operation reaches the object's home. -/
def State.doSignal (s : State) (sop : Sop) (i : Nat) (rd : ReadRes) : State :=
  match s.opReady i with
  | some op =>
    if op.act = .signal sop then
      match (if op.key.hub then s.proxyOf op.key.ctx op.key.idx else none) with
      | some p => (s.takeOp i).proxySignal op sop p
      | none => (s.takeOp i).serveOp op rd
    else s
  | none => s

/-- SYNC_SIGNAL_ADD (R190). -/
def execSyncSignalAdd (i : Nat) (rd : ReadRes) (s : State) : Res := .next (s.doSignal .add i rd)

/-- SYNC_SIGNAL_SUB (R190). -/
def execSyncSignalSub (i : Nat) (rd : ReadRes) (s : State) : Res := .next (s.doSignal .sub i rd)

/-- SYNC_SIGNAL_SET (R190). -/
def execSyncSignalSet (i : Nat) (rd : ReadRes) (s : State) : Res := .next (s.doSignal .set i rd)

/-- SYNC_WAIT_ARRIVE (R195). -/
def execSyncWaitArrive (i : Nat) (rd : ReadRes) (s : State) : Res :=
  .next (match s.opReady i with
    | some op => match op.act with
      | .wait _ _ => (s.takeOp i).serveOp op rd
      | .signal _ => s
    | none => s)

/-- SYNC_SLAB_COPY_DONE (R219, R224, R677): the spare serves the slab, and the operations held apply to it in arrival order. -/
def State.doSlabCopyDone (s : State) (home slab : Nat) : State :=
  match s.sync.copies.find? (fun c => c.home == home && c.slab == slab) with
  | none => s
  | some c =>
    let s := { s with sync := { s.sync with
      copies := removeFirst (fun x => x.home == home && x.slab == slab) s.sync.copies } }
    let s := if home = 16 then s.bump .synSpareStatus fSynSpareStatusHubUsed 0
      else s.setFld .synSpareStatus fSynSpareStatusClusterUsed 0
        (s.fld .synSpareStatus fSynSpareStatusClusterUsed ||| 2 ^ home)
    let s := s.spareSwitched (if home = 16 then 0x51 else 0x60 + home) slab (s.sparesFree home)
    s.each c.held (fun s op => s.serveOp op .clean)

/-- SYNC_SLAB_COPY_DONE. -/
def execSyncSlabCopyDone (home : Fin 17) (slab : Nat) (s : State) : Res :=
  .next (if s.clocked then s.doSlabCopyDone home slab else s)

/-- The object that SYN_PORT_REF names, in the P-view or in the window of a context (R221, R222). A context that is OFF has no objects, and
none lie in a cluster out of service. -/
def State.portObj (s : State) (v : View) (win : Nat) : Option ObjKey :=
  let r := match v with
    | .P => s.reg .synPortRef
    | .U => tabGet 0 s.uregs (win * 8)
  let ctx := match v with
    | .P => getFl fSynPortRefContext r
    | .U => win
  let cl := getFl fSynPortRefCluster r
  match s.resolveRef ctx cl (getFl fSynPortRefMember r) (BitVec.ofNat 20 (getFl fSynPortRefRef r)) with
  | some k => if s.ctxState ctx = 0 ∨ (!k.hub ∧ !s.clusterIn cl) then none else some k
  | none => none

/-- SYN_PORT_DATA_WRITE (R192, R222): ones written clear the sticky flags of the object named. -/
def execSynPortDataWrite (v : View) (win : Fin 1024) (value : BitVec 64) (s : State) : Res :=
  .next (if s.clocked then
    match s.portObj v win with
    | some k =>
      let o := s.obj k
      s.setObj k { o with
        satHi := o.satHi && getFl fSynPortDataSatHi value == 0
        satLo := o.satLo && getFl fSynPortDataSatLo value == 0 }
    | none => s
  else s)

end Sys2Proof.Machine
end

