-- ==== Sys2Proof/Machine/CourierOps.lean ====
section
/-! DEFINITION. Operations on couriers, descriptors, tags and regulated ports (chapter 06). -/

namespace Sys2Proof.Machine

/-! ## Couriers and tags (R225 to R227) -/

/-- Outstanding limit and reserve of a courier (Table 6-1). -/
def courierLimit (k : Nat) : Nat := if k < 16 then 512 else 1024
def courierReserve (k : Nat) : Nat := if k < 16 then 128 else 256

/-- A courier. -/
def State.courier (s : State) (k : Nat) : Courier := tabGet {} s.mv.couriers k

/-- Change a courier. -/
def State.updCourier (s : State) (k : Nat) (f : Courier → Courier) : State :=
  { s with mv := { s.mv with couriers := tabUpd {} s.mv.couriers k f } }

/-- Change a descriptor of a courier. -/
def State.updDesc (s : State) (k id : Nat) (f : CDesc → CDesc) : State :=
  s.updCourier k (fun c => { c with descs := updFirst (fun d => d.id == id) f c.descs })

/-- A descriptor of a courier. -/
def State.desc (s : State) (k id : Nat) : Option CDesc := (s.courier k).descs.find? (fun d => d.id == id)

/-- Tags that an agent holds. -/
def State.tagsOf (s : State) (a : Agent) : Nat := (s.mv.reqs.filter (fun r => r.agent == a)).length

/-- Tags that a descriptor holds. -/
def State.tagsOfDesc (s : State) (k id : Nat) : Nat :=
  (s.mv.reqs.filter (fun r => r.agent == .courier k && r.item == id)).length

/-- Tags taken from the shared remainder of the pool (R227). -/
def State.sharedTags (s : State) : Nat :=
  ((List.range 20).map (fun k => s.tagsOf (.courier k) - courierReserve k)).sum

/-- A courier can take a tag (R227). -/
def State.canTag (s : State) (k : Nat) : Bool :=
  let n := s.tagsOf (.courier k)
  decide (n < courierLimit k) && (decide (n < courierReserve k) || decide (s.sharedTags < 5120))

/-- The traffic of a switch itself, which is no descriptor of CRR_STATUS (R485). -/
def Origin.isSwitch : Origin → Bool
  | .switchSave _ => true
  | .switchLoad _ => true
  | _ => false

/-- The cluster whose switch it is. -/
def Origin.switchOf : Origin → Option Nat
  | .switchSave cl => some cl
  | .switchLoad cl => some cl
  | _ => none

/-- Bring CRR_STATUS and CRR_POOL up to date after a change to a courier (Tables 6-8 and 6-9). -/
def State.crrNote (s : State) (k : Nat) : State :=
  let c := s.courier k
  let s := s.setFld .crrStatus fCrrStatusOutstanding k (s.tagsOf (.courier k))
  let descs := c.descs.filter (fun d => !d.origin.isSwitch)
  let s := s.setFld .crrStatus fCrrStatusActive k ((descs.filter (fun d => d.active)).length)
  let s := s.setFld .crrStatus fCrrStatusBusy k (if descs.isEmpty then 0 else 1)
  let s := if s.canTag k then s.setFld .crrStatus fCrrStatusPoolWait k 0 else s
  s.setFld .crrPool fCrrPoolFree 0 (8192 - ((List.range 20).map (fun k => s.tagsOf (.courier k))).sum)

/-- A fresh tag, or number. -/
def State.fresh (s : State) : Nat × State := (s.mv.spent, { s with mv := { s.mv with spent := s.mv.spent + 1 } })

/-- A request is issued. -/
def State.addReq (s : State) (r : Req) : State := { s with mv := { s.mv with reqs := s.mv.reqs ++ [r] } }

/-- A request has its answer, and its tag is free. -/
def State.dropReq (s : State) (tag : Nat) : State :=
  { s with mv := { s.mv with reqs := removeFirst (fun r => r.tag == tag) s.mv.reqs } }

/-- The low 32 bits of the FCLK count (R257). -/
def State.stampNow (s : State) : BitVec 32 := BitVec.ofNat 32 (s.reg .olaFclkNow).toNat

/-! ## Descriptors (Table 6-2) -/

/-- A side of a descriptor: space, select, byte offset. -/
def sideSpace (w : BitVec 64) : Nat := natBits w.toNat 63 60
def sideSel (w : BitVec 64) : Nat := natBits w.toNat 59 52
def sideOff (w : BitVec 64) : Nat := natBits w.toNat 51 0

/-- SRC or DST from its parts. -/
def sideWord (space sel off : Nat) : BitVec 64 := BitVec.ofNat 64 (space * 2 ^ 60 + sel % 256 * 2 ^ 52 + off % 2 ^ 52)

/-- A descriptor from its 32 bytes. -/
def parseDesc (b : List Byte) : Desc :=
  { src := BitVec.ofNat 64 (leField b 0 8), dst := BitVec.ofNat 64 (leField b 8 8)
    rowLines := BitVec.ofNat 32 (leField b 16 4), rows := BitVec.ofNat 32 (leField b 20 4)
    srcStride := BitVec.ofNat 32 (leField b 24 4), dstStride := BitVec.ofNat 32 (leField b 28 4) }

/-- Lines that a descriptor moves. -/
def Desc.total (d : Desc) : Nat := d.rows.toNat * d.rowLines.toNat

/-- Byte offset of line `n` on the source or the destination side. -/
def Desc.srcLine (d : Desc) (n : Nat) : Nat :=
  sideOff d.src + (n / d.rowLines.toNat * d.srcStride.toNat + n % d.rowLines.toNat) * 64
def Desc.dstLine (d : Desc) (n : Nat) : Nat :=
  let row := n / d.rowLines.toNat
  let at_ := if d.perGroup = 0 then row * d.dstStride.toNat
    else row / d.perGroup * d.groupStride + row % d.perGroup * d.dstStride.toNat
  sideOff d.dst + (at_ + n % d.rowLines.toNat) * 64

/-- Lines left in the row from line `n` on. -/
def Desc.rowLeft (d : Desc) (n : Nat) : Nat := d.rowLines.toNat - n % d.rowLines.toNat

/-- The clusters whose store or bench a descriptor names (R230, R474). -/
def Desc.clusters (d : Desc) : List Nat :=
  let f (w : BitVec 64) : List Nat := if sideSpace w = 1 ∨ sideSpace w = 2 then [sideSel w % 16] else []
  (f d.src ++ f d.dst).eraseDups

/-- The members whose bench a descriptor names, as 16 × cluster + member. -/
def Desc.members (d : Desc) : List Nat :=
  let f (w : BitVec 64) : List Nat := if sideSpace w = 2 then [sideSel w % 16 * 16 + sideOff w / 2 ^ 20 % 16] else []
  (f d.src ++ f d.dst).eraseDups

/-- A descriptor that comes from a core command or a letter is checked against Table 6-2; the device's own are not. -/
def Origin.checked : Origin → Bool
  | .move _ _ => true
  | .xfer _ _ => true
  | .drain _ _ => true
  | _ => false

/-- Whether the origin is a MOVE (R229, order 1). -/
def Origin.isMove : Origin → Bool
  | .move _ _ => true
  | _ => false

/-- Lines of a tile on the lace (Table 6-4, order 2). -/
def laceLines (f : Nat) : Nat := tileBytes f / 64 + (if isMx f then 2 else 0)

/-- The SPACE is allowed where it stands (Table 6-3). -/
def spaceOk (isSrc : Bool) (sp : Nat) : Bool :=
  if isSrc then [0, 1, 2, 4, 5, 6].contains sp else [0, 1, 2, 3, 5, 6].contains sp

/-- The form of one side: reserved bits 0 and SEL in its column of Table 6-3. -/
def sideForm (isSrc : Bool) (w : BitVec 64) : Bool :=
  let sp := sideSpace w
  let off := sideOff w
  spaceOk isSrc sp &&
    (match sp with
     | 0 | 6 => sideSel w == 0 && off % 64 == 0
     | 1 | 2 => decide (sideSel w < 16) && off % 64 == 0
     | 3 => decide (sideSel w < 16) && decide (off < 16) && isCellFmt (off % 16)
     | _ => off % 64 == 0)

/-- Line `n` of a side lies inside its window, region or store (Table 6-4, order 3). Mapping by extents is checked as each
request issues (R328, R330). -/
def State.lineInside (s : State) (ctx : Nat) (w : BitVec 64) (off : Nat) : Bool :=
  match sideSpace w with
  | 0 | 5 => decide (off + 64 ≤ 2 ^ 38)
  | 1 => decide (off + 64 ≤ s.storeWindow)
  | 2 => decide (off / 2 ^ 20 = sideOff w / 2 ^ 20 ∧ off / 2 ^ 20 < 16)
  | 3 | 7 => true
  | 4 => match s.regionFor (sideSel w) ctx with
    | some g => g.home != 0 && decide (off + 64 ≤ g.bytes)
    | none => false
  | 6 => (s.hostAddr ctx off 64).isSome
  | _ => false

/-- The physical line of a side's line, as one number among all stores (R771); none where it can be shared with no other. -/
def State.physLine (s : State) (ctx : Nat) (w : BitVec 64) (off : Nat) : Option Nat :=
  match sideSpace w with
  | 0 => (s.translate ctx off).map (· / 64)
  | 1 => some (2 ^ 60 + sideSel w * 65536 + off / 64)
  | 2 => some (2 * 2 ^ 60 + sideSel w * 2 ^ 20 + off / 64)
  | 5 => if sideSel w = s.die then (s.translate ctx off).map (· / 64)
         else some (5 * 2 ^ 60 + sideSel w * 2 ^ 40 + off / 64)
  | _ => none

/-- The checks of Table 6-4 in their order; none when all pass. A locked home is checked here too (R336). -/
def State.checkDesc (s : State) (o : Origin) (ctx : Nat) (d : Desc) : Option Code :=
  let form := if o.isMove then codeLetterInvalid else codeCommandInvalid
  let ns := List.range d.total
  let srcs := if (match o with | .drain _ _ => true | _ => false) then [] else ns
  if o.checked && !(sideForm true d.src && sideForm false d.dst && decide (1 ≤ d.rowLines.toNat ∧ d.rowLines.toNat < 2 ^ 20) &&
      decide (1 ≤ d.rows.toNat ∧ d.rows.toNat < 2 ^ 20)) then some form
  else if o.checked && sideSpace d.dst == 3 && d.rowLines.toNat != laceLines (sideOff d.dst % 16) then some form
  else if !(srcs.all (fun n => s.lineInside (d.srcCtx.getD ctx) d.src (d.srcLine n)) && ns.all (fun n => s.lineInside ctx d.dst (d.dstLine n))) then
    some codeAddressInvalid
  else
    let dl := if sideSpace d.dst = 3 then [] else ns.filterMap (fun n => s.physLine ctx d.dst (d.dstLine n))
    let sl := srcs.filterMap (fun n => s.physLine (d.srcCtx.getD ctx) d.src (d.srcLine n))
    let coll := match o with
      | .coll _ => true
      | _ => false
    if !coll && sl.any (fun x => dl.contains x) then some codeAddressInvalid
    else if (sideSpace d.src = 5 ∧ s.fld .olaRoute fOlaRouteValid (sideSel d.src) = 0) ∨
        (sideSpace d.dst = 5 ∧ s.fld .olaRoute fOlaRouteValid (sideSel d.dst) = 0) then some codeRouteInvalid
    else
      let swap := match o with
        | .swapCopy _ _ | .swapStage _ _ => true
        | _ => false
      if !swap && (sideSpace d.dst == 0 || (sideSpace d.dst == 5 && sideSel d.dst == s.die)) &&
          ns.any (fun n => s.winLocked ctx (d.dstLine n) 64) then some codeRegionLocked
      else none

/-- Queue a descriptor on a courier (R235); a SWAP's copies go behind the active descriptors and ahead of the queued (R353). -/
def State.queueDesc (s : State) (k : Nat) (o : Origin) (d : Desc) (ctx q ph hint : Nat) (stamp : Option (BitVec 32)) : State :=
  let (id, s) := s.fresh
  let drain := match o with
    | .drain _ _ => true
    | _ => false
  let x : CDesc := { id := id, origin := o, desc := d, ctx := ctx, queue := q, phase := BitVec.ofNat 8 ph, hint := BitVec.ofNat 8 hint
                     stamp := stamp, active := false, nextRead := if drain then d.total else 0, buf := [], acked := 0
                     fail := none, failLine := 0 }
  let ahead := match o with
    | .swapCopy _ _ => true
    | _ => false
  (s.updCourier k (fun c => if ahead then { c with descs := c.descs.filter (·.active) ++ x :: c.descs.filter (fun d => !d.active) }
    else { c with descs := c.descs ++ [x] })).crrNote k

/-- The cluster whose lace a descriptor feeds. -/
def Desc.feedCluster (d : Desc) : Option Nat := if sideSpace d.dst = 3 then some (sideSel d.dst % 16) else none

/-- Every cluster whose resident context a descriptor needs (R230; a lace belongs to the cluster's resident context too). -/
def Desc.residence (d : Desc) : List Nat := d.clusters ++ d.feedCluster.toList

/-- A descriptor that has not started waits for its context to become resident: it holds no slot of its courier (R230). -/
def State.awaitsResidence (s : State) (d : CDesc) : Bool :=
  !d.active && d.desc.residence.all s.clusterIn && d.desc.residence.any (fun c => !s.residentOn c d.ctx)

/-- The courier's queue of 64 has room (R235). -/
def State.courierRoom (s : State) (k : Nat) : Bool :=
  decide (((s.courier k).descs.filter (fun d => !d.active && !s.awaitsResidence d)).length < 64)

/-! ## How a descriptor's work ends -/

/-- The letter that a descriptor's failure is reported for. -/
def State.originLetter (s : State) (o : Origin) : Option LetterId :=
  match o with
  | .move l _ | .place l _ | .swapStage l _ | .swapCopy l _ | .coll l => some l
  | .xfer cm _ | .drain cm _ => (s.resident (cmCl cm)).bind (fun x => ((s.seqr x cm).cur).map (·.letter))
  | .promote _ _ | .switchSave _ | .switchLoad _ => none

/-- A core command's transfer has ended: the command may complete, or fails with a code (Table 4-16). -/
def State.cmdEnds (s : State) (cm id : Nat) (code : Code) : State :=
  match s.coreOf (cmCl cm) (cmMem cm) with
  | some c =>
    let f (x : Cmd) : Cmd := if code = codeOk then { x with done := true } else { x with done := true, fail := some code }
    s.updCore c (fun k => { k with cmds := updFirst (fun x => x.id == id) f k.cmds })
  | none => s

/-- A SWAP whose next group could not be staged ends, once no earlier group waits or copies: rolled back and posted when a read
from flash failed (R355, Table 8-6), else with the code itself. -/
def State.swapFails (s : State) (l : LetterId) : State :=
  match s.letter l with
  | none => s
  | some x => match x.work with
    | .swap w => match w.stageFail with
      | none => s
      | some c =>
        if x.ended.isSome ∨ w.staged ≠ w.group then s
        else
          let first := swapFirst x w.group
          let s := s.setWork l (.swap { w with stageFail := none })
          if c = codeFlashUncorrectable ∨ c = codeParcelAbsent ∨ c = codeParcelRemoved then
            let s := s.postCtx (s.letterCtx l) (s.letterEvent l codeSwapRolledBack 0
              ([BitVec.ofNat 8 (x.field 0x10 1), BitVec.ofNat 8 (x.field 0x11 1)] ++ leBytes 2 c.toNat ++ leBytes 4 first ++
                leBytes 4 0 ++ leBytes 4 (first - x.field 0x14 2)))
            s.endLetter l { code := codeSwapRolledBack, result := BitVec.ofNat 32 first }
          else s.endLetter l { code := c, result := BitVec.ofNat 32 first }
    | _ => s

/-- The courier of a letter at a unit (R232): the cluster's own, or die-level courier 16 + CRR. -/
def letterCourier (u : BitVec 16) (crr : Nat) : Nat := if unitLevel u = 1 then unitIndex u else 16 + crr % 4

/-- A MOVE completes, by its last descriptor or by an error (R233), and signals DONE from its courier (Table 6-5); one that R153 or a
reset stops signals nothing. -/
def State.moveEnds (s : State) (l : LetterId) (e : LetterEnd) : State :=
  match s.letter l with
  | none => s
  | some x =>
    let done := x.field 0x38 4
    if x.ended.isSome then s
    else if e.code = codeRunAborted then s.endLetter l e
    else (s.letterDone l done (letterCourier (s.queue l.q).unit (natBits done 22 21))).endLetter l e

/-- A PLACE whose oldest layer has failed completes, with that layer's i (R345). -/
def State.placeEnds (s : State) (l : LetterId) : State :=
  match s.letter l with
  | some x => match x.work with
    | .place _ (y :: _) _ => match y.fail with
      | some c => s.endLetter l { code := c, result := BitVec.ofNat 32 y.i }
      | none => s
    | _ => s
  | none => s

/-- A layer of a PLACE fails: the PLACE completes once the layers before it have been signalled (R345, notes/assumptions/69.md). -/
def State.placeFails (s : State) (l : LetterId) (i : Nat) (c : Code) : State :=
  (s.updLetter l (fun x => match x.work with
    | .place n ls full => { x with work := .place n (updFirst (fun y => y.i == i) (fun y => if y.fail.isNone then { y with fail := some c } else y) ls) full }
    | _ => x)).placeEnds l

/-- The traffic of a switch's step has ended; an image that it moved only in part is lost. -/
def State.switchEnds (s : State) (cl : Nat) (from_ to_ : SwitchPhase) (x : Switch → Option Nat) (code : Code) : State :=
  match tabGet none s.cx.switch cl with
  | none => s
  | some w =>
    if w.phase ≠ from_ then s
    else
      let lose (i : Option ClImage) : Option ClImage := i.map (fun (i : ClImage) => { i with lost := i.lost || decide (code ≠ codeOk) })
      { s with cx := { s.cx with
          switch := tabSet none s.cx.switch cl (some { w with phase := to_ })
          images := match x w with
            | some o => tabUpd none s.cx.images (16 * o + cl) lose
            | none => s.cx.images } }

/-- What a descriptor worked for learns that it has ended. -/
def State.originEnds (s : State) (o : Origin) (code : Code) : State :=
  match o with
  | .move l n =>
    if code ≠ codeOk then s.moveEnds l { code := code }
    else
      match s.letter l with
      | none => s
      | some x =>
        if n < x.field 0x3C 2 then
          match x.work with
          | .move _ _ stamp => s.setWork l (.move (n + 1) true stamp)
          | _ => s
        else s.moveEnds l { code := codeOk }
  | .xfer cm id => s.cmdEnds cm id code
  | .drain cm id => s.cmdEnds cm id code
  | .place l i =>
    if code ≠ codeOk then s.placeFails l i code
    else s.updLetter l (fun x => match x.work with
      | .place n ls full => { x with work := .place n (updFirst (fun y => y.i == i) (fun y => { y with copied := true }) ls) full }
      | _ => x)
  | .swapStage l g =>
    s.updLetter l (fun x => match x.work with
      | .swap w => { x with work := .swap (if code = codeOk then { w with staged := g + 1, staging := false }
          else { w with staging := false, stageFail := some code }) }
      | _ => x) |>.swapFails l
  | .swapCopy l g =>
    s.updLetter l (fun x => match x.work with
      | .swap w =>
        if code = codeOk then { x with work := .swap { w with shares := w.shares - 1 } }
        else if x.ended.isNone then { x with ended := some { code := code, result := BitVec.ofNat 32 (swapFirst x g) } }
        else x
      | _ => x)
  | .coll l =>
    if code ≠ codeOk then s.endLetter l { code := code }
    else
      match s.letter l with
      | none => s
      | some x =>
        let others := (s.unitDies (unitIndex (s.queue l.q).unit)).filter (fun d => d != s.die)
        let s := s.each others (fun s d =>
          (s.sendFrame 20 (s.mkFrame 6 d (s.letterCtx l) (BitVec.ofNat 64 (x.field 0x14 4 + 2 ^ 32)) 0 0 [])).1)
        (s.letterDone l (x.field 0x30 4) engHub).endLetter l { code := codeOk }
  | .switchSave cl => s.switchEnds cl .saving .saved (fun w => w.out) code
  | .switchLoad cl => s.switchEnds cl .loading .loaded (fun w => some w.inn) code
  | .promote r u =>
    let f (p : Promotion) : Promotion := if code = codeOk then { p with copied := true } else { p with copied := true, fail := some code }
    { s with tier := { s.tier with promos := updFirst (fun p => p.r == r && p.u == u) f s.tier.promos } }

/-- A lace. -/
def State.lace (s : State) (cl : Nat) : Lace := tabGet {} s.mv.laces cl

/-- Change a lace. -/
def State.updLace (s : State) (cl : Nat) (f : Lace → Lace) : State :=
  { s with mv := { s.mv with laces := tabUpd {} s.mv.laces cl f } }

/-- A lace is no longer fed by a descriptor. -/
def State.laceIdle (s : State) (cl id : Nat) : State :=
  if (s.lace cl).desc = some id then
    let s := s.updLace cl (fun e => { e with desc := none, fed := 0, returnedTiles := 0 })
    if s.fld .laceStatus fLaceStatusState cl = 1 then s.setFld .laceStatus fLaceStatusState cl 0 else s
  else s

/-- A courier's descriptor ends with a code: it leaves the courier, and what it worked for learns of it. -/
def State.endDesc (s : State) (k id : Nat) (code : Code) (detail : List Byte) : State :=
  match s.desc k id with
  | none => s
  | some d =>
    let s := s.updCourier k (fun c => { c with descs := removeFirst (fun x => x.id == id) c.descs })
    let s := if code = codeOk then s.count (if k < 16 then 1 else 2) (if k < 16 then k else k - 16) 2 (if d.origin.isSwitch then 0 else 1)
      else s.setFld .crrStatus fCrrStatusLastError k code.toNat
    let s := if sideSpace d.desc.dst = 3 ∧ d.active then s.laceIdle (sideSel d.desc.dst % 16) id else s
    let s := if code = codeOk then s else s.contained d.ctx (s.originLetter d.origin) code detail
    (s.originEnds d.origin code).crrNote k

/-- A failed descriptor ends once its last outstanding request has finished (R239). -/
def State.settleDesc (s : State) (k id : Nat) (detail : List Byte) : State :=
  match s.desc k id with
  | some d => match d.fail with
    | some c => if s.tagsOfDesc k id = 0 then s.endDesc k id c detail else s
    | none => s
  | none => s

/-- A descriptor fails: it issues nothing further (R239, R766). A second failure leaves the first. -/
def State.failDesc (s : State) (k id : Nat) (code : Code) (line : Nat) (detail : List Byte) : State :=
  (s.updDesc k id (fun d => if d.fail.isNone then { d with fail := some code, failLine := line, buf := [] } else d)).settleDesc k id detail |>.crrNote k

/-- Descriptors of every courier that a predicate picks fail with a code: a halted member (R766), a cluster that leaves service,
a context that is reset. -/
def State.failDescs (s : State) (p : CDesc → Bool) (code : Code) : State :=
  s.each (List.range 20) (fun s k =>
    s.each ((s.courier k).descs.filter p) (fun s d => s.failDesc k d.id code 0 []))

/-- The space on the side of a courier that a request of it goes to. -/
def State.reqSpace (s : State) (r : Req) : Option Nat :=
  match r.agent with
  | .courier k => (s.desc k r.item).map (fun (d : CDesc) => sideSpace (if r.cls = .read then d.desc.src else d.desc.dst))
  | _ => none

/-- A courier's request to host memory. -/
def State.hostReq (s : State) (r : Req) : Bool := s.reqSpace r == some 6

/-! ## Regulated ports (R251 to R262) -/

/-- The source number of an agent that queues requests at the ports (R254): couriers, walkers, sorters, the hub. -/
def agentSrc : Agent → Nat
  | .courier k => k
  | .walker cl => 20 + cl
  | .sorter k => 36 + k
  | .zero => srcHub
  | .outside src => src

/-- A port takes over the split that a commit has sent it, with every used count at 0 (R260, R262). -/
def State.adoptShare (s : State) (p : Nat) : State :=
  let clear (x : Port) : Port := { x with usedRead := 0, usedWrite := 0, usedRemote := 0 }
  let s := { s with mv := { s.mv with ports := tabUpd {} s.mv.ports p clear } }
  if s.mv.adopt.contains p then
    ({ s with mv := { s.mv with adopt := setErase p s.mv.adopt } }).setReg .crrBwActive p 0 (s.reg .crrBwSplit p)
  else s

/-- Requests of a class queued at a port, oldest first. -/
def State.backlog (s : State) (p : Nat) (c : ReqClass) : List Req :=
  s.mv.reqs.filter (fun r => r.port == some p && r.cls == c)

/-- The class that native mode serves next (R254): the least used share, in the order read, write, remote. -/
def nativeClass (l : List (ReqClass × Bool × Nat × Nat)) : Option ReqClass :=
  let pick := l.foldl (fun (best : Option (ReqClass × Nat × Nat)) e =>
    let (k, has, share, used) := e
    if has && decide (0 < share) then
      match best with
      | none => some (k, share, used)
      | some (_, bs, bu) => if used * bs < bu * share then some (k, share, used) else best
    else best) none
  match pick with
  | some (k, _, _) => some k
  | none => (l.find? (fun e => e.2.1)).map (·.1)

/-- The next source after the one served last, in rotation, among those with requests. -/
def nextInTurn (last : Nat) (l : List Nat) : Option Nat :=
  match (l.filter (fun x => decide (last < x))).min? with
  | some x => some x
  | none => l.min?

/-- Stamp `a` is earlier than stamp `b` in serial arithmetic over a window of 2^31 (R258). -/
def stampBefore (a b : BitVec 32) : Bool := decide (a ≠ b ∧ (b - a).toNat < 2 ^ 31)

/-- The request with the earliest stamp; ties go to the earlier arrival and then to the lower source number (R258). -/
def earliest : List Req → Option Req
  | [] => none
  | r :: rs => match earliest rs with
    | none => some r
    | some x => if stampBefore x.stamp r.stamp then some x else some r

/-- A port's split in force (CRR_BW_ACTIVE). -/
def State.share (s : State) (p : Nat) (c : ReqClass) : Nat :=
  match c with
  | .read => s.fld .crrBwActive fCrrBwActiveRead p
  | .write => s.fld .crrBwActive fCrrBwActiveWrite p
  | .remote => s.fld .crrBwActive fCrrBwActiveRemote p

/-- The units a class has used in the window. -/
def Port.used (x : Port) : ReqClass → Nat
  | .read => x.usedRead
  | .write => x.usedWrite
  | .remote => x.usedRemote

/-- The request that a port grants next (R254, R258). -/
def State.choose (s : State) (p : Nat) : Option Req :=
  let x := s.regPort p
  let bl (c : ReqClass) := s.backlog p c
  let inTurn (c : ReqClass) (last : Nat) : Option Req :=
    (nextInTurn last ((bl c).map (fun r => agentSrc r.agent))).bind (fun a => (bl c).find? (fun r => agentSrc r.agent == a))
  let row (c : ReqClass) := (c, !(bl c).isEmpty, s.share p c, x.used c)
  if s.fld .crrBwActive fCrrBwActiveMode p = 1 then
    let loc := s.mv.reqs.filter (fun r => r.port == some p && r.cls != .remote)
    match nativeClass [(.read, !loc.isEmpty, s.share p .read + s.share p .write, x.usedRead + x.usedWrite), row .remote] with
    | some .remote => inTurn .remote x.lastRemote
    | some _ => earliest loc
    | none => none
  else
    match nativeClass [row .read, row .write, row .remote] with
    | some .read => inTurn .read x.lastRead
    | some .write => inTurn .write x.lastWrite
    | some .remote => inTurn .remote x.lastRemote
    | none => none

end Sys2Proof.Machine
end

