-- ==== Sys2Proof/Machine/GatherOps.lean ====
section
/-! DEFINITION. Operations on the sorters and the hot-row cache (chapter 09). -/

namespace Sys2Proof.Machine

/-! ## A GATHER's fields (Table 9-1) -/

/-- A GATHER letter's fields. -/
structure GatherSpec where
  hot : Nat
  cold : Nat
  pool : Nat
  idx8 : Bool
  cache : Bool
  outCs : Bool
  rowFmt : Nat
  outFmt : Nat
  rowLines : Nat
  sorters : Nat
  outSel : Nat
  bags : Nat
  hotRows : Nat
  idx : Nat
  offs : Nat
  wgt : Nat
  out : Nat
  stride : Nat
  elems : Nat
  outLines : Nat
  hint : Nat
  deriving DecidableEq, Repr

/-- Elements of a row, and lines of an output row (R376); 0 when the output row is not whole lines. -/
def gatherElems (b : List Byte) : Nat := 64 * leField b 0x14 2 / (elemBits (leField b 0x13 1 % 16) / 8)
def gatherOutLines (b : List Byte) : Nat :=
  let n := gatherElems b * (elemBits (leField b 0x13 1 / 16) / 8)
  if n % 64 = 0 then n / 64 else 0

/-- The fields of a letter. -/
def gatherSpec (x : Letter) : GatherSpec :=
  let m := x.field 0x12 1
  { hot := x.field 0x10 1, cold := x.field 0x11 1, pool := m % 4, idx8 := m.testBit 2, cache := m.testBit 3, outCs := m.testBit 4
    rowFmt := x.field 0x13 1 % 16, outFmt := x.field 0x13 1 / 16, rowLines := x.field 0x14 2, sorters := x.field 0x16 1
    outSel := x.field 0x17 1, bags := x.field 0x18 4, hotRows := x.field 0x20 8, idx := x.field 0x28 4, offs := x.field 0x2C 4
    wgt := x.field 0x30 4, out := x.field 0x34 4, stride := x.field 0x38 4, elems := gatherElems x.raw
    outLines := gatherOutLines x.raw, hint := x.hint }

/-- The spec of the letter that a bag works for. -/
def State.bagSpec (s : State) (b : Bag) : Option GatherSpec := (s.letter b.letter).map gatherSpec

/-- The byte offset of line `l` of bag `b`'s output. -/
def GatherSpec.outAt (g : GatherSpec) (b l : Nat) : Nat := (g.out + b * g.stride + l) * 64

/-- Byte offset of line `l` of row `r` in its region. -/
def GatherSpec.rowAt (g : GatherSpec) (r l : Nat) : Nat := (r * g.rowLines + l) * 64

/-! ## The cache (R388 to R394) -/

/-- SETS of R389. -/
def State.cacheSets (s : State) : Nat := 32 * (s.carveOut / 1024)

/-- The set that a line of a region maps to. -/
def cacheSet (sets line region : Nat) : Nat := (line + 40503 * region) % sets

/-- The item number of a sector read of a region among a sorter's requests; bags have 0 to 15. -/
def sectorItem (region : Nat) : Nat := 16 + region

/-- Invalidate the entries of the regions that a predicate picks; sectors on their way are delivered and not inserted (R393). -/
def State.cacheInv (s : State) (p : Nat → Bool) : State :=
  { s with srt := { s.srt with
      cache := (s.srt.cache.map (fun e => (e.1, e.2.filter (fun w => !p w.region)))).filter (fun e => !e.2.isEmpty)
      held := s.srt.held.map (fun (h : HeldSector) => { h with stale := h.stale || p h.region })
      stale := s.srt.stale ++ (s.mv.reqs.filter (fun r => match r.agent with
        | .sorter _ => decide (16 ≤ r.item) && p (r.item - 16)
        | _ => false)).map (·.tag) } }

/-! ## Sorters -/

/-- The bags in progress on a sorter. -/
def State.bagsOf (s : State) (k : Nat) : List Bag := s.srt.bags.filter (fun b => b.k == k)

/-- A bag in progress. -/
def State.bagAt (s : State) (k slot : Nat) : Option Bag := s.srt.bags.find? (fun b => b.k == k && b.slot == slot)

/-- Change a bag. -/
def State.updBag (s : State) (k slot : Nat) (f : Bag → Bag) : State :=
  { s with srt := { s.srt with bags := updFirst (fun b => b.k == k && b.slot == slot) f s.srt.bags } }

/-- Requests of a sorter to memory, and its sector reads. -/
def State.sorterMem (s : State) (k : Nat) : List Req := s.mv.reqs.filter (fun r => r.agent == .sorter k && decide (r.item < 16))
def State.sorterFlash (s : State) (k : Nat) : List Req := s.mv.reqs.filter (fun r => r.agent == .sorter k && decide (16 ≤ r.item))

/-- Bring SRT_STATUS up to date (Table 9-4). -/
def State.srtNote (s : State) (k : Nat) : State :=
  let s := s.setFld .srtStatus fSrtStatusMemOut k ((s.sorterMem k).length + (s.srt.lookups.filter (fun x => x.k == k)).length)
  let s := s.setFld .srtStatus fSrtStatusFlashOut k (s.sorterFlash k).length
  let s := s.setFld .srtStatus fSrtStatusBagsActive k (s.bagsOf k).length
  s.setFld .srtStatus fSrtStatusBusy k (if (s.bagsOf k).isEmpty && (tabGet [] s.srt.jobs k).isEmpty then 0 else 1)

/-- A letter's bags that no sorter has started are dropped (R387). -/
def State.dropJobs (s : State) (l : LetterId) : State :=
  let s := { s with srt := { s.srt with
    jobs := (s.srt.jobs.map (fun (e : Nat × List GatherJob) => (e.1, e.2.filter (fun (j : GatherJob) => j.letter != l)))).filter (fun (e : Nat × List GatherJob) => !e.2.isEmpty) } }
  s.each (List.range 6) (fun s k => s.srtNote k)

/-- The byte offset of a lookup's line in its region, with the region. -/
def State.lookupAt (s : State) (x : Lookup) : Option (GatherSpec × Nat) :=
  match s.bagAt x.k x.slot with
  | none => none
  | some b => match s.bagSpec b, b.rows[x.row]? with
    | some g, some r => some (g, g.rowAt r.idx x.line)
    | _, _ => none

/-- A sorter's sector read is on its way. -/
def State.sectorBusy (s : State) (k r sector : Nat) : Bool :=
  s.mv.reqs.any (fun q => q.agent == .sorter k && q.item == sectorItem r && q.addr == sector * 4096)

/-- Drop sectors that no bag in progress on the sorter may still want (R395). -/
def State.purgeHeld (s : State) : State :=
  let wants (x : HeldSector) (b : Bag) : Bool := b.k == x.k && (match s.bagSpec b with
    | some g => g.cold == x.region && b.rows.any (fun r => r.data.isNone && decide (g.hotRows ≤ r.idx) &&
        decide (g.rowAt r.idx 0 / 4096 ≤ x.sector ∧ x.sector ≤ g.rowAt r.idx (g.rowLines - 1) / 4096))
    | none => false)
  { s with srt := { s.srt with held := s.srt.held.filter (fun x => s.srt.bags.any (wants x)) } }

/-- A bag leaves its sorter, and with it the sectors that only it wanted. -/
def State.removeBag (s : State) (k slot : Nat) : State :=
  let s := { s with
      srt := { s.srt with
        bags := removeFirst (fun b => b.k == k && b.slot == slot) s.srt.bags
        lookups := s.srt.lookups.filter (fun x => !(x.k == k && x.slot == slot))
        misses := s.srt.misses.filter (fun x => !(x.k == k && x.slot == slot)) }
      mv := { s.mv with reqs := s.mv.reqs.filter (fun r => !(decide (r.agent = Agent.sorter k) && r.item == slot)) } }
  s.purgeHeld.srtNote k

/-- A GATHER whose bags are all over completes: with the lowest failed bag, or done (R386, R387). -/
def State.gatherEnds (s : State) (l : LetterId) : State :=
  match s.letter l with
  | some x => match x.work with
    | .gather done failed =>
      if s.srt.bags.any (fun b => b.letter == l) then s
      else
        match failed with
        | some (b, c) => s.endLetter l { code := c, result := BitVec.ofNat 32 b }
        | none => if done = x.field 0x18 4 then (s.letterDone l (x.field 0x1C 4) engSorter).endLetter l { code := codeOk } else s
    | _ => s
  | none => s

/-- A bag fails: it writes nothing, and no further bag of its letter starts (R387). -/
def State.failBag (s : State) (k slot : Nat) (code : Code) (detail : List Byte) : State :=
  match s.bagAt k slot with
  | none => s
  | some b =>
    let s := (s.removeBag k slot).setFld .srtStatus fSrtStatusLastError k code.toNat
    let s := s.contained (s.letterCtx b.letter) (some b.letter) code detail
    let s := s.updLetter b.letter (fun x => match x.work with
      | .gather d f => { x with work := .gather d (match f with
          | some (n, c) => if b.bag < n then some (b.bag, code) else some (n, c)
          | none => some (b.bag, code)) }
      | _ => x)
    (s.dropJobs b.letter).gatherEnds b.letter

end Sys2Proof.Machine
end

