-- ==== Sys2Proof/Machine/ArrayMath.lean ====
section
/-! DEFINITION. The arithmetic of a matrix array (chapters 02 and 03): alignment of tiles and vectors to integers, the column
sums, the checksum column, and the update of an accumulator entry. -/

namespace Sys2Proof.Machine

/-- Significand and exponent of a finite nonzero element (R117). -/
def finParts : Num → Option (Bool × Nat × Int)
  | .fin n m e => if m = 0 then none else some (n, m, e)
  | _ => none

/-- A NaN or an infinity, which an aligner treats as R126 states. -/
def isSpecial : Num → Bool
  | .fin _ _ _ => false
  | _ => true

/-- The largest of a nonempty list of integers. -/
def maxInt : List Int → Option Int
  | [] => none
  | x :: xs => match maxInt xs with
    | none => some x
    | some y => some (max x y)

/-- Aligned width, sign included, of a tile or of the vectors against it (Table 3-5). -/
def alignWidth (fmt : Nat) : Nat := if elemBits fmt = 16 then 26 else 24

/-- Row i of a tile as numbers. -/
def tileRow (t : Tile) (i : Nat) : List Num :=
  (List.range (tileDim t.fmt)).map (fun j => elemNum t.fmt (tileElem t.fmt t.bytes i j))

/-- The row exponent x_i of R119. -/
def rowExp (t : Tile) (i : Nat) : Int :=
  match fixedExp t.fmt with
  | some f => f
  | none =>
    match maxInt ((tileRow t i).filterMap (fun x => (finParts x).map (fun p => p.2.2 + sigBits t.fmt))) with
    | some m => m - (alignWidth t.fmt - 1 : Nat)
    | none => 0

/-- The aligned elements w′ of row i (R119). -/
def alignRow (t : Tile) (i : Nat) : List Int :=
  let x := rowExp t i
  (tileRow t i).map (fun e => match finParts e with
    | some (n, m, q) => truncScale n m (q - x)
    | none => 0)

/-- The checksum weight c_i of R73: the sum of the row's aligned elements. -/
def checkWeight (t : Tile) (i : Nat) : Int := (alignRow t i).foldl (· + ·) 0

/-- The scale of column j over row half h (R113); 2^0 for a tile without scales, none for a NaN scale. -/
def tileScale (t : Tile) (h j : Nat) : Option Int :=
  if isMx t.fmt then scaleExp (t.scales.getD (64 * h + j) 0) else some 0

/-- Column j is marked NaN by an element or by a scale (R126). -/
def colNan (t : Tile) (j : Nat) : Bool :=
  ((List.range (tileDim t.fmt)).any (fun i => isSpecial (elemNum t.fmt (tileElem t.fmt t.bytes i j)))) ||
    (tileScale t 0 j).isNone || (tileScale t 1 j).isNone

/-- The vector's own scale exponent over element i (R120); none for a NaN scale. -/
def vecScale (afmt : Nat) (scales : List Byte) (i : Nat) : Option Int :=
  if isMx afmt then scaleExp (scales.getD (i / 32) 0) else some 0

/-- Element i of a broadcast vector as a number. -/
def vecNum (afmt : Nat) (bytes : List Byte) (i : Nat) : Num := elemNum afmt (vecElem afmt bytes i)

/-- t_i of R120 with the significand, for a nonzero finite element under a finite scale. -/
def vecParts (t : Tile) (v : VecIn) (i : Nat) : Option (Bool × Nat × Int) :=
  match vecScale v.afmt v.scales i, finParts (vecNum v.afmt v.bytes i) with
  | some s, some (n, m, q) => some (n, m, q + s + rowExp t i)
  | _, _ => none

/-- The vector exponent X of R121. -/
def vecExp (t : Tile) (v : VecIn) : Int :=
  match maxInt ((List.range (tileDim t.fmt)).filterMap (fun i => (vecParts t v i).map (fun p => p.2.2 + sigBits v.afmt))) with
  | some m => m - (alignWidth t.fmt - 1 : Nat)
  | none => 0

/-- The aligned elements a′ of R121. -/
def alignVec (t : Tile) (v : VecIn) : List Int :=
  let x := vecExp t v
  (List.range (tileDim t.fmt)).map (fun i => match vecParts t v i with
    | some (n, m, e) => truncScale n m (e - x)
    | none => 0)

/-- The vector is marked NaN (R126). -/
def vecNan (t : Tile) (v : VecIn) : Bool :=
  (List.range (tileDim t.fmt)).any (fun i => isSpecial (vecNum v.afmt v.bytes i) || (vecScale v.afmt v.scales i).isNone)

/-- The vector loses nonzero bits in alignment (R128). -/
def vecLoses (t : Tile) (v : VecIn) : Bool :=
  (List.range (tileDim t.fmt)).any (fun i => match vecParts t v i with
    | some (_, m, e) => truncLoses m (e - vecExp t v)
    | none => false)

/-- Row i of the tile loses nonzero bits in alignment (R128). -/
def rowLoses (t : Tile) (i : Nat) : Bool :=
  (tileRow t i).any (fun e => match finParts e with
    | some (_, m, q) => truncLoses m (q - rowExp t i)
    | none => false)

/-- Sum of products. -/
def dotInt : List Int → List Int → Int
  | a :: as, b :: bs => a * b + dotInt as bs
  | _, _ => 0

/-- Column j of a list of rows. -/
def column (rows : List (List Int)) (j : Nat) : List Int := rows.map (fun r => r.getD j 0)

/-- What an array computes for one vector against a tile (R73, R74, R119 to R123). -/
def issueVec (t : Tile) (v : VecIn) : VecRes :=
  let n := tileDim t.fmt
  let a := alignVec t v
  let rows := (List.range n).map (alignRow t)
  let cols := List.range n
  { X := vecExp t v
    lo := cols.map (fun j => dotInt (a.take 32) (column (rows.take 32) j))
    hi := cols.map (fun j => dotInt (a.drop 32) (column (rows.drop 32) j))
    chk := dotInt a ((List.range n).map (checkWeight t))
    nanVec := vecNan t v
    nanCols := cols.map (colNan t)
    slo := cols.map (fun j => (tileScale t 0 j).getD 0)
    shi := cols.map (fun j => (tileScale t 1 j).getD 0)
    mx := isMx t.fmt }

/-- The sum of the disturbances of one column (R74); column 64 is the checksum column. -/
def upsetSum (ups : List Upset) (vec col : Nat) : Int :=
  (ups.filter (fun u => decide (u.vec.val = vec ∧ u.col.val = col))).foldl (fun acc u => acc + u.delta.toInt) 0

/-- The check of R74: S mod 2^56 = C mod 2^56, with the disturbances of vector `k` of the cycle. -/
def checkPasses (r : VecRes) (k : Nat) (ups : List Upset) : Bool :=
  let s := (List.range r.lo.length).foldl (fun acc j => acc + r.lo.getD j 0 + r.hi.getD j 0 + upsetSum ups k j) 0
  let c := r.chk + upsetSum ups k 64
  decide (s % 2 ^ 56 = c % 2 ^ 56)

/-- The exact value v of column j (R123). -/
def colValue (r : VecRes) (j : Nat) : Dy :=
  if r.mx then Dy.add ⟨r.lo.getD j 0, r.X + r.slo.getD j 0⟩ ⟨r.hi.getD j 0, r.X + r.shi.getD j 0⟩
  else ⟨r.lo.getD j 0 + r.hi.getD j 0, r.X⟩

/-- A dyadic number as a number; a zero is +0 (R125). -/
def dyNum (d : Dy) : Num := .fin (decide (d.m < 0)) d.m.natAbs d.e

/-- The integer that an exact integer value holds. -/
def dyInt (d : Dy) : Int := if 0 ≤ d.e then d.m * 2 ^ d.e.toNat else d.m / 2 ^ (-d.e).toNat

/-- Clamp to the INT32 range (R131). -/
def satI32 (v : Int) : Int := max (-2147483648) (min 2147483647 v)

/-- Table 2-6 for an FP32 entry: one rounding (R129, R130). -/
def updF32 (upd : Nat) (acc f : F32) (v : Dy) : F32 :=
  match upd with
  | 0 => numF32 (dyNum v)
  | 1 => numF32 (numAdd (f32Num acc) (dyNum v))
  | _ => numF32 (numAdd (numMul (f32Num acc) (f32Num f)) (dyNum v))

/-- Table 2-6 for an INT32 entry (R131). -/
def updI32 (upd : Nat) (acc : F32) (v : Dy) : F32 :=
  BitVec.ofInt 32 (satI32 (if upd = 0 then dyInt v else acc.toInt + dyInt v))

/-- The new content of entry j of the vector's row (R55, R127). -/
def updEntry (v : VecIn) (r : VecRes) (j : Nat) (acc : F32) : F32 :=
  if v.int then updI32 v.upd acc (colValue r j)
  else if r.nanVec || r.nanCols.getD j false then f32Nan
  else updF32 v.upd acc v.f (colValue r j)

/-- An update overflows or saturates (R128); an infinity that a factor f brings is no overflow. -/
def updOverflows (v : VecIn) (r : VecRes) (j : Nat) (acc : F32) : Bool :=
  if v.int then
    let x := if v.upd = 0 then dyInt (colValue r j) else acc.toInt + dyInt (colValue r j)
    decide (satI32 x ≠ x)
  else
    match f32Num (updEntry v r j acc), f32Num acc with
    | .inf _, .fin _ _ _ => !(v.upd == 2 && (match f32Num v.f with
        | .fin _ _ _ => false
        | _ => true))
    | .inf _, _ => decide (v.upd = 0)
    | _, _ => false

end Sys2Proof.Machine
end

