-- ==== Sys2Proof/Machine/CoreOps.lean ====
section
/-! DEFINITION. Core commands (Tables 4-17 to 4-23): their fields, the checks at dispatch, dispatch itself, and what a halt does
to a core (chapters 02 and 04). -/

namespace Sys2Proof.Machine

/-! ## Fields of a core command -/

/-- Bits `[hi:lo]` of a command. -/
def cb (r : BitVec 128) (hi lo : Nat) : Nat := natBits r.toNat hi lo

/-- The opcode (Table 4-17). -/
def opc (r : BitVec 128) : Nat := cb r 127 122

/-- The arrays that a mask selects, ascending. -/
def maskArrays (m : Nat) : List Nat := (List.range 4).filter (fun a => m.testBit a)

/-- Position of array `a` among the arrays a mask selects. -/
def arrayPos (m a : Nat) : Nat := ((List.range a).filter (fun x => m.testBit x)).length

/-- MAC (Table 4-19). -/
def macMode (r : BitVec 128) : Nat := cb r 121 120
def macWfmt (r : BitVec 128) : Nat := cb r 119 116
def macAfmt (r : BitVec 128) : Nat := cb r 115 112
def macUpd0 (r : BitVec 128) : Nat := cb r 111 110
def macUpd (r : BitVec 128) : Nat := cb r 109 108
def macInt (r : BitVec 128) : Bool := cb r 107 107 == 1
def macStat (r : BitVec 128) : Bool := cb r 106 106 == 1
def macCmp (r : BitVec 128) : Bool := cb r 105 105 == 1
def macFreg (r : BitVec 128) : Nat := cb r 104 100
def macMask (r : BitVec 128) : Nat := cb r 99 96
def macBase (r : BitVec 128) : Nat := cb r 95 88
def macN (r : BitVec 128) : Nat := cb r 87 79
def macTiles (r : BitVec 128) : Nat := cb r 28 13

/-- The line, or with CMP = 1 the entry number, of vector `v` of tile `t` of array `a`. -/
def macAddr (r : BitVec 128) (a t v : Nat) : Nat :=
  cb r 78 65 + arrayPos (macMask r) a * cb r 56 43 + t * cb r 42 29 + v * cb r 64 57

/-- Lines that one uncompressed vector takes (R115). -/
def vecLines (afmt : Nat) : Nat := if isMx afmt then 2 else 1

/-- DRAIN (Table 4-20). -/
def drMask (r : BitVec 128) : Nat := cb r 121 118
def drFmt (r : BitVec 128) : Nat := cb r 117 114
def drInt (r : BitVec 128) : Bool := cb r 113 113 == 1
def drSat (r : BitVec 128) : Bool := cb r 112 112 == 1
def drShift (r : BitVec 128) : Nat := cb r 111 106
def drClear (r : BitVec 128) : Bool := cb r 105 105 == 1
def drDest (r : BitVec 128) : Nat := cb r 104 103
def drBase (r : BitVec 128) : Nat := cb r 102 95
def drN (r : BitVec 128) : Nat := cb r 94 86
def drLine (r : BitVec 128) : Nat := cb r 85 72

/-- LDT and LDS (Table 4-18). -/
def ldtLace (r : BitVec 128) : Bool := cb r 121 121 == 0
def ldtFmt (r : BitVec 128) : Nat := cb r 120 117
def ldtCount (r : BitVec 128) : Nat := cb r 116 101
def ldtLine (r : BitVec 128) (t : Nat) : Nat := cb r 100 87 + t * cb r 86 73
def ldsMask (r : BitVec 128) : Nat := cb r 121 118
def ldsFmt (r : BitVec 128) : Nat := cb r 117 114
def ldsLine (r : BitVec 128) (a : Nat) : Nat := cb r 113 100 + arrayPos (ldsMask r) a * cb r 99 86

/-- VEC and VMEM (Table 4-21). -/
def vecVop (r : BitVec 128) : Nat := cb r 121 116
def vecVd (r : BitVec 128) : Nat := cb r 115 111
def vecVa (r : BitVec 128) : Nat := cb r 110 106
def vecVb (r : BitVec 128) : Nat := cb r 105 101
def vecVc (r : BitVec 128) : Nat := cb r 100 96
def vecSfmt (r : BitVec 128) : Nat := cb r 95 92
def vecDfmt (r : BitVec 128) : Nat := cb r 91 88
def vecSat (r : BitVec 128) : Bool := cb r 87 87 == 1
def vecBimm (r : BitVec 128) : Bool := cb r 86 86 == 1
def vecVs (r : BitVec 128) : Nat := cb r 85 81
def vecRep (r : BitVec 128) : Nat := cb r 80 76
def vecImm (r : BitVec 128) : F32 := BitVec.ofNat 32 (cb r 31 0)
def vmStore (r : BitVec 128) : Bool := cb r 121 121 == 1
def vmReg (r : BitVec 128) : Nat := cb r 120 116
def vmCnt (r : BitVec 128) : Nat := cb r 115 111
def vmLine (r : BitVec 128) (i : Nat) : Nat := cb r 110 97 + i * cb r 96 89

/-- The engine that holds a command (Table 4-17); none for the sequencer's own. -/
def opEngine (op : Nat) : Option Engine :=
  match op with
  | 0x04 => some .weight
  | 0x05 | 0x08 => some .array
  | 0x09 => some .drain
  | 0x0C | 0x0D => some .vector
  | 0x10 => some .attention
  | 0x14 => some .transfer
  | _ => none

/-- The engine's bit in AFTER (Table 4-15). -/
def engineBit : Engine → Nat
  | .weight => 0
  | .array => 1
  | .drain => 2
  | .vector => 3
  | .attention => 4
  | .transfer => 5

/-- The vector registers that a VOP reads, as (a, b, c). -/
def vopSources (op : Nat) : Bool × Bool × Bool :=
  match op with
  | 0x00 | 0x01 | 0x02 | 0x04 | 0x05 | 0x06 | 0x07 => (true, true, false)
  | 0x03 | 0x08 => (true, true, true)
  | 0x0F | 0x10 => (false, false, false)
  | _ => (true, false, false)

/-- The conversions of R139: from every format, to FP32 and the formats of Table 2-7; between two formats of which neither is FP32
they go through FP32 (notes/assumptions/14.md). -/
def cvtOk (sf df : Nat) : Bool := decide (sf ≤ 13) && isOutFmt df

/-! ## Checks at dispatch (R176, R178) -/

/-- A reserved field is not 0. -/
def reservedSet (r : BitVec 128) : Bool :=
  match opc r with
  | 0x00 | 0x01 => cb r 121 0 != 0
  | 0x02 => cb r 113 0 != 0
  | 0x04 => cb r 72 0 != 0
  | 0x05 => cb r 85 0 != 0
  | 0x08 => cb r 12 0 != 0
  | 0x09 => cb r 0 0 != 0
  | 0x0C => cb r 75 32 != 0
  | 0x0D => cb r 88 0 != 0
  | 0x10 => cb r 37 32 != 0
  | 0x14 => cb r 31 0 != 0
  | 0x18 => cb r 97 96 != 0 || cb r 63 0 != 0
  | 0x19 => cb r 93 64 != 0 || cb r 31 0 != 0
  | _ => false

/-- The opcode is one of Table 4-17, and a VEC's VOP one of Table 4-22. -/
def opKnown (r : BitVec 128) : Bool :=
  [0x00, 0x01, 0x02, 0x04, 0x05, 0x08, 0x09, 0x0C, 0x0D, 0x10, 0x14, 0x18, 0x19].contains (opc r)

/-- LDT's excluded values. -/
def ldtOk (r : BitVec 128) : Bool :=
  isCellFmt (ldtFmt r) && decide (1 ≤ ldtCount r) &&
    (ldtLace r || decide (ldtLine r (ldtCount r - 1) + laceLines (ldtFmt r) ≤ 16384))

/-- LDS's excluded values (R49). -/
def ldsOk (r : BitVec 128) : Bool :=
  ldsMask r != 0 && (cellFmtOk 1 (ldsFmt r) || cellFmtOk 2 (ldsFmt r)) &&
    (maskArrays (ldsMask r)).all (fun a => decide (ldsLine r a + laceLines (ldsFmt r) ≤ 16384))

/-- The last line that a MAC reads for an array. -/
def macLast (r : BitVec 128) (a : Nat) : Nat :=
  let x := macAddr r a (macTiles r - 1) (macN r - 1)
  if macCmp r then x / 8 else x + vecLines (macAfmt r) - 1

/-- MAC's excluded values; `lds` gives the format that each array's latest LDS named (R54, R58, R404, R768). DESIGN CHOICE
(notes/assumptions/53.md): with INT = 1 a SCALE_ADD that no tile uses, UPD with TILES = 1, is not excluded. -/
def macOk (r : BitVec 128) (lds : List (Option Nat)) : Bool :=
  decide (macMode r ≠ 3) && cellFmtOk (macMode r) (macWfmt r) && bcastFmtOk (macMode r) (macAfmt r) &&
    decide (macUpd0 r ≠ 3 ∧ macUpd r ≠ 3) && macMask r != 0 && decide (1 ≤ macN r ∧ macN r ≤ 256) &&
    decide (macBase r + macN r ≤ 256) && !(macMode r == 0 && macBase r % 2 == 1) && decide (1 ≤ macTiles r) &&
    !(macInt r && !(isPlainInt (macWfmt r) && isPlainInt (macAfmt r))) &&
    !(macInt r && (macUpd0 r == 2 || (decide (1 < macTiles r) && macUpd r == 2))) &&
    !(macStat r && (macMode r == 0 || macTiles r != 1)) && !(macCmp r && macMode r == 2) &&
    (maskArrays (macMask r)).all (fun a => decide (macLast r a < 16384) &&
      (!macStat r || lds.getD a none == some (macWfmt r)))

/-- Lines of one drained row. -/
def drRowLines (r : BitVec 128) : Nat := rowBytes (drFmt r) / 64

/-- DRAIN's excluded values (R769, R770). -/
def drainOk (r : BitVec 128) : Bool :=
  let A := (maskArrays (drMask r)).length
  drMask r != 0 && isOutFmt (drFmt r) && decide (drDest r ≠ 3) && decide (1 ≤ drN r ∧ drN r ≤ 256 ∧ drBase r + drN r ≤ 256) &&
    (drDest r != 0 || decide (drLine r + (A - 1) * cb r 63 50 + (drN r - 1) * cb r 71 64 + drRowLines r ≤ 16384)) &&
    (drDest r != 1 || decide (A * drN r * rowBytes (drFmt r) ≤ (32 - cb r 76 72) * 512)) &&
    (!isMx (drFmt r) || decide (cb r 49 36 * 64 + 2 * A * drN r ≤ 16384 * 64))

/-- VEC's excluded values (R139): no register number that REP advances passes V31, whatever the VOP reads. -/
def vecOk (r : BitVec 128) : Bool :=
  let fits (v : Nat) : Bool := decide (v + vecRep r ≤ 31)
  decide (vecVop r ≤ 0x10) && fits (vecVd r) && fits (vecVa r) && fits (vecVb r) && fits (vecVc r) &&
    (vecVop r != 0x09 || cvtOk (vecSfmt r) (vecDfmt r))

/-- VMEM's excluded values. -/
def vmemOk (r : BitVec 128) : Bool :=
  decide (vmReg r + vmCnt r ≤ 31) && decide (8 ≤ cb r 96 89) && decide (vmLine r (vmCnt r) + 8 ≤ 16384)

/-- A place where a core command runs: physical core, member key, context. -/
structure CorePlace where
  c : Nat
  cm : Nat
  x : Nat
  deriving DecidableEq, Repr

/-- A core command's reference (Table 4-5): all three spaces. -/
def State.cmdRef (s : State) (p : CorePlace) (ref : Nat) : Option ObjKey :=
  s.resolveRef p.x (cmCl p.cm) (cmMem p.cm) (BitVec.ofNat 20 ref)

/-- XFER's excluded values. -/
def State.xferOk (s : State) (p : CorePlace) (r : BitVec 128) : Bool :=
  decide (cb r 119 117 ≤ 3) && decide (1 ≤ cb r 68 53) && decide (cb r 116 103 + cb r 68 53 ≤ 16384) &&
    (cb r 32 32 == 0 || (s.cmdRef p (cb r 52 33)).isSome)

/-- A WAIT's object must not be bound by a proxy (R450). -/
def State.waitRefOk (s : State) (p : CorePlace) (ref : Nat) : Bool :=
  match s.cmdRef p ref with
  | some k => !k.hub || (s.proxyOf k.ctx k.idx).isNone
  | none => false

/-- ATTN (Table 4-23). -/
def atImpl (r : BitVec 128) : Nat := cb r 121 121
def atQfmt (r : BitVec 128) : Nat := cb r 120 117
def atKvfmt (r : BitVec 128) : Nat := cb r 116 113
def atSeq (r : BitVec 128) : Nat := cb r 112 97
def atLayer (r : BitVec 128) : Nat := cb r 96 87
def atHead (r : BitVec 128) : Nat := cb r 86 83
def atQbase (r : BitVec 128) : Nat := cb r 82 75
def atQn (r : BitVec 128) : Nat := cb r 74 66
def atQline (r : BitVec 128) : Nat := cb r 65 52
def atOline (r : BitVec 128) : Nat := cb r 51 38
def atK (r : BitVec 128) : F32 := BitVec.ofNat 32 (cb r 31 0)

/-- w′ of a KV format: 64 in M8, 32 in M16. -/
def attnWp (kvfmt : Nat) : Nat := if elemBits kvfmt = 16 then 32 else 64

/-- The accumulator rows that an ATTN uses in array `a`, as first row and number (Table 7-2). -/
def attnRows (D : Nat) (r : BitVec 128) (a : Nat) : Nat × Nat :=
  if atImpl r = 0 ∨ a = 0 then (atQbase r, atQn r)
  else if a = 1 then (atQbase r, atQn r * (D / attnWp (atKvfmt r)))
  else (atQbase r, 0)

/-- Two runs of rows meet. -/
def rowsMeet (a b : Nat × Nat) : Bool := decide (a.2 ≠ 0 ∧ b.2 ≠ 0 ∧ a.1 < b.1 + b.2 ∧ b.1 < a.1 + a.2)

/-- A LDS, MAC or DRAIN uses what an ATTN uses: stationary buffers, or an accumulator row of one of its arrays (R281). -/
def touchesAttn (D : Nat) (at_ r : BitVec 128) : Bool :=
  match opc r with
  | 0x05 => true
  | 0x08 => macStat r || (maskArrays (macMask r)).any (fun a => rowsMeet (macBase r, macN r) (attnRows D at_ a))
  | 0x09 => (maskArrays (drMask r)).any (fun a => rowsMeet (drBase r, drN r) (attnRows D at_ a))
  | _ => false

/-- The head dimension D of a context (Table 7-12). -/
def State.kvDim (s : State) (x : Nat) : Nat := 64 * (s.fld .kvpGeom fKvpGeomHeadDim x + 1)

/-- An ATTN that has not completed bars the command (R281). -/
def State.attnBars (s : State) (p : CorePlace) (r : BitVec 128) : Bool :=
  (s.core p.c).cmds.any (fun x => x.eng == .attention && touchesAttn (s.kvDim p.x) x.raw r)

/-- Lines of the remote window of an XFER or of a DRAIN with DEST 2 (R178, R388): the cluster store's or the die window's. -/
def State.windowLines (s : State) (lvl : Nat) : Nat := if lvl = 0 then s.storeWindow / 64 else 2 ^ 32

/-- The checks at dispatch for every command but ATTN, whose own follow in chapter 07. -/
def State.dispatchCheck (s : State) (p : CorePlace) (r : BitVec 128) : Option Code :=
  let lds := (s.core p.c).ldsFmt
  let bad :=
    match opc r with
    | 0x04 => !ldtOk r
    | 0x05 => !ldsOk r || s.attnBars p r
    | 0x08 => !macOk r lds || s.attnBars p r
    | 0x09 => !drainOk r || s.attnBars p r
    | 0x10 => !decide (1 ≤ atQn r ∧ atQn r ≤ 256 ∧ atQfmt r < 14 ∧ atKvfmt r < 14)
    | 0x0C => !vecOk r
    | 0x0D => !vmemOk r
    | 0x14 => !s.xferOk p r
    | 0x18 => !(decide (cb r 121 120 ≤ 1) && s.waitRefOk p (cb r 117 98))
    | 0x19 => !(decide (cb r 121 120 ≠ 3) && (s.cmdRef p (cb r 113 94)).isSome)
    | _ => false
  if !opKnown r || reservedSet r then some codeCommandInvalid
  else if bad then some codeOperandInvalid
  else
    match opc r with
    | 0x09 =>
      let A := (maskArrays (drMask r)).length
      if drDest r = 2 ∧ s.windowLines (cb r 35 35) <
          cb r 34 1 + (A - 1) * cb r 63 50 + (drN r - 1) * cb r 71 64 + drRowLines r then some codeAddressInvalid else none
    | 0x14 => if s.windowLines (cb r 120 120) < cb r 102 69 + cb r 68 53 then some codeAddressInvalid else none
    | _ => none

/-! ## Dispatch (R163, R169) -/

/-- The stream that dispatches: the oldest that has not dispatched END. -/
def Seqr.disp (q : Seqr) : Option Stream := q.streams.find? (fun t => !t.ended)

/-- Change the stream that dispatches. -/
def Seqr.updDisp (q : Seqr) (f : Stream → Stream) : Seqr := { q with streams := updFirst (fun t => !t.ended) f q.streams }

/-- The member number and the resident context of a physical core, halted or not. -/
def State.seat (s : State) (c : Nat) : Option CorePlace :=
  match s.memberOf c, s.resident (c / 17) with
  | some m, some x => if s.clusterIn (c / 17) then some { c := c, cm := c / 17 * 16 + m, x := x } else none
  | _, _ => none

/-- Where physical core `c` runs, if it holds a member number of a cluster with a resident context and is not halted. -/
def State.place (s : State) (c : Nat) : Option CorePlace :=
  match s.memberOf c, s.resident (c / 17) with
  | some m, some x => if s.halted c || !s.clusterIn (c / 17) then none else some { c := c, cm := c / 17 * 16 + m, x := x }
  | _, _ => none

/-- The head command that a core may dispatch now: no WAIT holds dispatch and the stream has met no error. -/
def State.head (s : State) (c : Nat) : Option (CorePlace × Stream × BitVec 128) :=
  if s.run then
    match s.place c with
    | none => none
    | some p =>
      let q := s.seqr p.x p.cm
      match q.disp with
      | none => none
      | some t => if q.waiting.isSome || !t.begun || t.fail.isSome || t.abort then none
        else t.queue.head?.map (fun r => (p, t, r))
  else none

/-- The head leaves the command queue. -/
def State.popHead (s : State) (p : CorePlace) : State :=
  s.updSeqr p.x p.cm (fun q => { q.updDisp (fun t => { t with queue := t.queue.tail, dispatched := t.dispatched + 1 }) with
    waitDone := none })

/-- A command ends with an error at dispatch or in its engine: the stream dispatches nothing further (R165). -/
def State.failStream (s : State) (x cm : Nat) (l : LetterId) (code : Code) : State :=
  s.updSeqr x cm (fun q => { q with
    streams := updFirst (fun t => t.letter == l) (fun t => if t.fail.isNone then { t with fail := some code } else t) q.streams })

/-- An engine has space in its input queue of 4 besides the command it works on (R169). -/
def Core.room (k : Core) (e : Engine) : Bool := decide ((k.cmds.filter (fun x => x.eng == e && !x.done)).length < 5)

/-- Hand the head to its engine. -/
def State.handOver (s : State) (p : CorePlace) (t : Stream) (r : BitVec 128) (e : Engine) : State :=
  (s.popHead p).updCore p.c (fun k => { k with
    cmds := k.cmds ++ [{ id := k.nextCmd, raw := r, eng := e, letter := t.letter }]
    nextCmd := k.nextCmd + 1 })

/-- The engine of the head command has space for it; the signal queue of 8 counts as a SIGNAL's (R169, R173). -/
def State.headRoom (s : State) (p : CorePlace) (r : BitVec 128) : Bool :=
  match opEngine (opc r) with
  | some e => (s.core p.c).room e
  | none => opc r != 0x19 || decide ((s.seqr p.x p.cm).sigq.length < 8)

/-- Dispatch the head if a predicate takes it and its engine has space (R169): an error ends the stream's dispatch, else the effect
follows. -/
def State.dispatch (s : State) (c : Nat) (is : BitVec 128 → Bool) (go : State → CorePlace → Stream → BitVec 128 → State) : State :=
  match s.head c with
  | none => s
  | some (p, t, r) =>
    if !is r || !s.headRoom p r then s
    else
      match s.dispatchCheck p r with
      | some code => (s.popHead p).failStream p.x p.cm t.letter code
      | none => go s p t r

/-! ## Commands in a core -/

/-- A command of a core. -/
def Core.cmd (k : Core) (id : Nat) : Option Cmd := k.cmds.find? (fun x => x.id == id)

/-- Change a command of a core. -/
def State.updCmd (s : State) (c id : Nat) (f : Cmd → Cmd) : State :=
  s.updCore c (fun k => { k with cmds := updFirst (fun x => x.id == id) f k.cmds })

/-- Entry `a` of a per-array count. -/
def cnt (l : List Nat) (a : Nat) : Nat := l.getD a 0

/-- Add to entry `a` of a per-array count. -/
def bumpAt (l : List Nat) (a n : Nat) : List Nat := l.modify a (· + n)

/-- Vectors that a MAC issues per array: rounded up to pairs in M4 only in cycles, not in vectors. -/
def macTotal (r : BitVec 128) : Nat := macTiles r * macN r

/-- A MAC or LDS has issued its last vector or line on every array it names (R170). -/
def Cmd.issuedAll (x : Cmd) : Bool :=
  if opc x.raw = 0x08 then (maskArrays (macMask x.raw)).all (fun a => macTotal x.raw ≤ cnt x.issued a)
  else x.done

/-- The array engine's command at work: the oldest that has not issued everything. -/
def Core.arrayCmd (k : Core) : Option Cmd := k.cmds.find? (fun x => x.eng == .array && !x.issuedAll && x.fail.isNone)

/-- The oldest command of an engine that is not done. -/
def Core.working (k : Core) (e : Engine) : Option Cmd := k.cmds.find? (fun x => x.eng == e && !x.done)

/-- A stationary tile of a format whose bytes nothing defines: free values (notes/assumptions/54.md). -/
def State.freeTile (s : State) (fmt : Nat) : Tile × State :=
  let b := s.freeBytes (tileBytes fmt / 8)
  let sc := b.2.freeBytes (if isMx fmt then 16 else 0)
  (⟨fmt, b.1, sc.1⟩, sc.2)

/-- An LDS ends before it has loaded every buffer it names: those hold what nothing defines (notes/assumptions/54.md). -/
def State.ldsLost (s : State) (c : Nat) (x : Cmd) : State :=
  if opc x.raw ≠ 0x05 ∨ x.done then s
  else s.each ((maskArrays (ldsMask x.raw)).filter (fun a => cnt x.issued a == 0)) (fun s a =>
    let t := s.freeTile (ldsFmt x.raw)
    t.2.updCore c (fun k => k.updArr a (fun (r : Arr) => { r with statLoad := none, stat := some t.1 })))

/-- The W port gives up the part of a tile that a failed LDT has loaded: the next LDT begins with its own row 0 (R44). -/
def Core.dropLoad (k : Core) (x : Cmd) : Core := if x.eng = .weight then { k with load := [], loadScales := [] } else k

/-- A command fails in its engine: it is done, and its stream stops (R165). -/
def State.failCmd (s : State) (c id : Nat) (code : Code) : State :=
  match (s.core c).cmd id with
  | none => s
  | some x =>
    let s := (s.ldsLost c x).updCore c (fun k => k.dropLoad x)
    let s := s.updCmd c id (fun y => { y with done := true, fail := some (y.fail.getD code) })
    match s.place c with
    | some p => s.failStream p.x p.cm x.letter code
    | none => s

/-- A command of a core reads a bench line with an uncorrectable error (R96, R668). -/
def State.benchFails (s : State) (c id : Nat) : State :=
  match (s.core c).cmd id with
  | none => s
  | some x =>
    let s := s.benchUe c
    let s := s.contained (s.letterCtx x.letter) (some x.letter) codeBenchUncorrectable []
    s.failCmd c id codeBenchUncorrectable

/-! ## Bench accesses in program order (R93) -/

/-- Bytes of the bench that a pending command has yet to write at a line. -/
def Cmd.writesLine (x : Cmd) (n : Nat) : Bool :=
  if x.done then false
  else if opc x.raw = 0x09 then
    let r := x.raw
    let A := (maskArrays (drMask r)).length
    (isMx (drFmt r) && decide (cb r 49 36 ≤ n ∧ n ≤ cb r 49 36 + (2 * A * drN r - 1) / 64)) ||
      (drDest r == 0 && (maskArrays (drMask r)).any (fun a => (rangeFrom (cnt x.committed a) (drN r - cnt x.committed a)).any (fun i =>
        let l := drLine r + arrayPos (drMask r) a * cb r 63 50 + i * cb r 71 64
        decide (l ≤ n ∧ n < l + drRowLines r))))
  else if opc x.raw = 0x0D ∧ vmStore x.raw then
    (List.range (vmCnt x.raw + 1)).any (fun i => decide (vmLine x.raw i ≤ n ∧ n < vmLine x.raw i + 8))
  else decide (x.writes.1 ≤ n ∧ n < x.writes.1 + x.writes.2)

/-- Lines of the bench that a pending command has yet to read. Vectors of a MAC with CMP = 1 are taken to reach any line. -/
def Cmd.readsLine (x : Cmd) (fetched : Nat → Nat) (n : Nat) : Bool :=
  if x.done then false
  else
    let r := x.raw
    match opc r with
    | 0x08 =>
      (maskArrays (macMask r)).any (fun a =>
        if macCmp r then decide (fetched a < macTotal r)
        else (rangeFrom (fetched a) (macTotal r - fetched a)).any (fun k =>
          let l := macAddr r a (k / macN r) (k % macN r)
          decide (l ≤ n ∧ n < l + vecLines (macAfmt r))))
    | 0x04 => !ldtLace r && (rangeFrom x.tile (ldtCount r - x.tile)).any (fun t =>
        decide (ldtLine r t ≤ n ∧ n < ldtLine r t + laceLines (ldtFmt r)))
    | 0x05 => (maskArrays (ldsMask r)).any (fun a => decide (ldsLine r a ≤ n ∧ n < ldsLine r a + laceLines (ldsFmt r)))
    | 0x0D => !vmStore r && (List.range (vmCnt r + 1)).any (fun i => decide (vmLine r i ≤ n ∧ n < vmLine r i + 8))
    | _ => decide (x.reads.1 ≤ n ∧ n < x.reads.1 + x.reads.2)

/-- Vectors that array `a`'s feeders have fetched for a command: those queued and those issued. -/
def Core.fetchedFor (k : Core) (x : Cmd) (a : Nat) : Nat :=
  let arr := k.arr a
  cnt x.issued a + ((arr.feed0.queue ++ arr.feed1.queue).filter (fun v => v.cmd == x.id)).length

/-- No earlier command has yet to write the line that command `id` would read. -/
def Core.readFree (k : Core) (id n : Nat) : Bool := !(k.cmds.any (fun x => decide (x.id < id) && x.writesLine n))

/-- No earlier command has yet to read or write the line that command `id` would write. -/
def Core.writeFree (k : Core) (id n : Nat) : Bool :=
  !(k.cmds.any (fun x => decide (x.id < id) && (x.writesLine n || x.readsLine (k.fetchedFor x) n)))

/-! ## Core commands as descriptors (R234) -/

/-- The side of a remote window line: the cluster store or the die window. -/
def remoteSide (cm lvl line : Nat) : BitVec 64 :=
  if lvl = 0 then sideWord 1 (cmCl cm) (line * 64) else sideWord 0 0 (line * 64)

/-- The descriptor of an XFER. -/
def xferDesc (cm : Nat) (r : BitVec 128) : Desc :=
  let bench := sideWord 2 (cmCl cm) (cmMem cm * 2 ^ 20 + cb r 116 103 * 64)
  let rem := remoteSide cm (cb r 120 120) (cb r 102 69)
  let out := cb r 121 121 == 0
  { src := if out then bench else rem, dst := if out then rem else bench
    rowLines := BitVec.ofNat 32 (cb r 68 53), rows := 1, srcStride := 0, dstStride := 0 }

/-- The descriptor of a DRAIN with DEST 2: its rows come from the O port. -/
def drainDesc (cm : Nat) (r : BitVec 128) : Desc :=
  let n := drN r
  { src := sideWord 2 (cmCl cm) (cmMem cm * 2 ^ 20), dst := remoteSide cm (cb r 35 35) (cb r 34 1)
    rowLines := BitVec.ofNat 32 (drRowLines r), rows := BitVec.ofNat 32 ((maskArrays (drMask r)).length * n), srcStride := 0
    dstStride := BitVec.ofNat 32 (cb r 71 64), perGroup := n, groupStride := cb r 63 50 }

/-- A transfer has issued its last line (R170). -/
def State.xferIssued (s : State) (cm id : Nat) : Bool :=
  match (s.courier (cmCl cm)).descs.find? (fun d => d.origin == .xfer cm id) with
  | some d => d.fail.isSome || (decide (d.desc.total ≤ d.nextRead) && d.buf.isEmpty)
  | none => true

/-- The command that the transfer or the drain engine of a core starts next with a descriptor of the courier's: a transfer once the
engine's earlier ones have issued their last line, a DRAIN with DEST 2 once the earlier drains have read their last row (R170). -/
def State.nextHand (s : State) (p : CorePlace) (e : Engine) : Option Cmd :=
  let xs := (s.core p.c).cmds.filter (fun x => x.eng == e && !x.done)
  match e with
  | .transfer =>
    if (xs.filter (·.handed)).all (fun x => s.xferIssued p.cm x.id) then xs.find? (fun x => !x.handed) else none
  | .drain =>
    (xs.find? (fun x => (maskArrays (drMask x.raw)).any (fun a => decide (cnt x.issued a < drN x.raw)))).filter
      (fun x => !x.handed && drDest x.raw == 2)
  | _ => none

/-- An engine of a core that starts such a command hands its descriptor to the cluster courier, while that has room (R234). -/
def State.engineHands (s : State) (p : CorePlace) (e : Engine) : State :=
  match s.nextHand p e with
  | none => s
  | some x =>
    if !s.courierRoom (cmCl p.cm) then s
    else
      let d := if e = .transfer then xferDesc p.cm x.raw else drainDesc p.cm x.raw
      let o : Origin := if e = .transfer then .xfer p.cm x.id else .drain p.cm x.id
      let hint := if e = .transfer then cb x.raw 119 117 else 0
      (s.updCmd p.c x.id (fun y => { y with handed := true })).queueDesc (cmCl p.cm) o d p.x x.letter.q
        (s.seqr p.x p.cm).phase.toNat hint none

/-- The transfer and the drain engine of a core hand over what they start. -/
def State.coreHands (s : State) (c : Nat) : State :=
  match s.place c with
  | some p => (s.engineHands p .transfer).engineHands p .drain
  | none => s

/-- The same of every core of the cluster whose courier `k` is. -/
def State.clusterHands (s : State) (k : Nat) : State :=
  if k < 16 then s.each (rangeFrom (17 * k) 17) State.coreHands else s

/-! ## Frozen laces, status bits and zeroing (R80, R97, R99, R247) -/

/-- A descriptor feeds the lace of a cluster. -/
def CDesc.feeds (d : CDesc) (cl : Nat) : Bool := sideSpace d.desc.dst == 3 && sideSel d.desc.dst % 16 == cl

/-- A core's part of a freeze: its forwarding register empties, and an LDT with SRC = 0 that is in progress ends without a code, its
shadow buffers cleared. -/
def Core.freeze (k : Core) : Core :=
  match k.working .weight with
  | some x =>
    if ldtLace x.raw then
      { k with fwd := none, shadow := none, load := [], loadScales := [], cmds := removeFirst (fun y => y.id == x.id) k.cmds }
    else { k with fwd := none }
  | none => { k with fwd := none }

/-- Freeze a cluster's lace (R247). -/
def State.freezeLace (s : State) (cl : Nat) : State :=
  let s := s.updLace cl (fun _ => { frozen := true })
  let s := s.setFld .laceStatus fLaceStatusState cl 2
  let s := s.each (rangeFrom (17 * cl) 17) (fun s c => s.updCore c Core.freeze)
  s.failDescs (fun d => d.active && d.feeds cl) codeUnitOutOfService

/-- Thaw a lace once its halted member is back, replaced, or gone. -/
def State.thawLace (s : State) (cl : Nat) : State :=
  if (s.lace cl).frozen ∧ !((rangeFrom (17 * cl) 17).any (fun c => s.halted c && (s.memberOf c).isSome)) then
    (s.updLace cl (fun _ => {})).setFld .laceStatus fLaceStatusState cl 0
  else s

/-- The status bit and the code of a halting detection (Table 2-13); the array names HARD_ARRAY's bit. -/
def faultCode : CoreFault → Code
  | .none => codeOk
  | .aligner => codeArrayCheckFail
  | .accumulate => codeArrayCheckFail
  | .vector => codeVectorFault
  | .parity => codePortParity
  | .control => codeCoreControlFault

/-- Set the status bit of a halting detection. -/
def State.faultBit (s : State) (c a : Nat) (f : CoreFault) : State :=
  match f with
  | .none => s
  | .aligner => s.setFld .fltCoreStatus fFltCoreStatusHardArray c (s.fld .fltCoreStatus fFltCoreStatusHardArray c ||| 2 ^ a)
  | .accumulate => s.setFld .fltCoreStatus fFltCoreStatusAccFault c 1
  | .vector => s.setFld .fltCoreStatus fFltCoreStatusVecFault c 1
  | .parity => s.setFld .fltCoreStatus fFltCoreStatusPortParity c 1
  | .control => s.setFld .fltCoreStatus fFltCoreStatusSeqFault c 1

/-- A set of codes in ascending order (R669). -/
def codeInsert (c : Code) : List Code → List Code
  | [] => [c]
  | d :: ds => if c < d then c :: d :: ds else if c = d then d :: ds else d :: codeInsert c ds

/-- The streams that a halt ends with its code: those with commands in the core, all of which are lost, or where it holds none the one
that dispatches (R80, R99, R164; notes/assumptions/55.md). -/
def State.haltedLetters (s : State) (p : CorePlace) : List LetterId :=
  match (s.core p.c).cmds with
  | [] => (((s.seqr p.x p.cm).disp.filter (·.begun)).map (·.letter)).toList
  | xs => (xs.map (·.letter)).eraseDups

/-- What a halt leaves of an array: its stationary tile and the history of its issue slots. -/
def Arr.halt (a : Arr) : Arr :=
  { a with
    active := none, statLoad := none, pipe := [], replay := [], again := [], feed0 := {}, feed1 := {}, fetch := {}, orows := []
    refused := false, filler := {} }

/-- Zero a core (R97). -/
def State.zeroCore (s : State) (c : Nat) : State :=
  let s := s.mend 0 (fun l => l / 16384 == c)
  { s with
    mem := { s.mem with
      bench := tabClear s.mem.bench (c * 2 ^ 20) ((c + 1) * 2 ^ 20)
      benchBad := s.mem.benchBad.filter (fun k => decide (k / 16384 ≠ c))
      vreg := tabClear s.mem.vreg (c * 16384) ((c + 1) * 16384) }
    cs := { s.cs with
      cores := tabUpd {} s.cs.cores c (fun k => { nextCmd := k.nextCmd })
      acc := tabClear s.cs.acc (accKey c 0 0 0) (accKey (c + 1) 0 0 0)
      smM := tabClear s.cs.smM (c * 256) ((c + 1) * 256)
      smL := tabClear s.cs.smL (c * 256) ((c + 1) * 256) } }

end Sys2Proof.Machine
end

