-- ==== Sys2Proof/Machine/Images.lean ====
section
/-! DEFINITION. Signed images: the configuration image (chapter 15), the firmware image and the checks of chapter 17; and which
register a P-view offset names. -/

namespace Sys2Proof.Machine

/-- The register, instance and word at a P-view offset that is a multiple of 8 (R734). -/
def regAt (off : Nat) : Option (RegName × Nat × Nat) :=
  allRegs.findSome? (fun r =>
    let w := regRow r
    if w.base ≤ off ∧ off % 8 = 0 then
      let i := (off - w.base) / w.stride
      let rest := (off - w.base) % w.stride
      if i < w.count ∧ rest < 8 * w.words then some (r, i, rest / 8) else none
    else none)

/-- The registers that the start sequence loads from the configuration image, by their chapters. -/
def startLoads : List RegName :=
  [.synFillerCfg, .crrBwSplit, .ctxHbmInfo, .srtCacheCfg, .olaSystem, .olaPortCfg, .olaRoute, .olaUnit, .olaRouteEpoch,
    .ctxSchedCfg, .rstFwCfg, .txnCfg, .flsCfg, .pclCfg, .pwrCapCfg, .pwrThermCfg, .fltScrubCfg, .fltCeCfg, .secPeerLo,
    .secPeerHi]

/-- Bytes of an ASCII string. -/
def ascii (s : String) : List Byte := s.toList.map (fun c => BitVec.ofNat 8 c.toNat)

/-! ## The configuration image (R621, R622, R661) -/

/-- The header fields of Table 15-2. -/
def imgGen (b : List Byte) : Nat := leField b 8 8
def imgBytes (b : List Byte) : Nat := leField b 0x10 4
def imgFlags (b : List Byte) : Nat := leField b 0x14 4
def imgSigOff (b : List Byte) : Nat := leField b 0x28 4

/-- MAGIC, FORMAT and STEPPING match and GENERATION is not all ones (R623). -/
def imgCandidate (b : List Byte) : Bool :=
  leField b 0 4 == 0x53564346 && leField b 4 2 == 1 && leField b 6 2 == 0xB1 && imgGen b != 2 ^ 64 - 1

/-- The register records: offset, and value. -/
def imgRecords (b : List Byte) : List (Nat × Nat) :=
  (List.range (leField b 0x18 4)).map (fun i =>
    let o := leField b 0x1C 4 + 16 * i
    (leField b o 4, leField b (o + 8) 8))

/-- The upper word of a record is 0. -/
def imgRecordsForm (b : List Byte) : Bool :=
  (List.range (leField b 0x18 4)).all (fun i => leField b (leField b 0x1C 4 + 16 * i + 4) 4 == 0)

/-- A record names a register that the start sequence loads. -/
def recordOk (r : Nat × Nat) : Bool :=
  match regAt r.1 with
  | some (n, _, _) => startLoads.contains n
  | none => false

/-- What FLT_GUARD asks of a record (R661). -/
def guardOk (r : Nat × Nat) : Bool :=
  match regAt r.1 with
  | some (.fltScrubCfg, _, _) =>
    let v : Word := BitVec.ofNat 64 r.2
    decide (getFl fFltScrubCfgHbmPeriod v ≤ 0x15180 ∧ getFl fFltScrubCfgSramPeriod v ≤ 0x64)
  | some (.rstFwCfg, _, _) =>
    let w := getFl fRstFwCfgWdt (BitVec.ofNat 64 r.2)
    decide (1 ≤ w ∧ w ≤ 0xC0000)
  | _ => true

/-- The spare map's entry of a cluster: off-ring position and FAILED mask. -/
def imgSpare (b : List Byte) (cl : Nat) : Nat × Nat :=
  let e := leField b (leField b 0x20 4 + 8 * cl) 8
  (e % 32, e / 256 % 2 ^ 17)

/-- In-service positions: on the ring and not failed. -/
def imgPositions (b : List Byte) (cl : Nat) : List Nat :=
  let e := imgSpare b cl
  (List.range 17).filter (fun p => p != e.1 && !e.2.testBit p)

/-- The FLT_ARRAY_STEER value of a physical core. -/
def imgSteer (b : List Byte) (c : Nat) : Nat := leField b (leField b 0x20 4 + 128 + 8 * c) 8

/-- The HBM section's entry of a stack has defined RATE and PPR_COUNT. -/
def imgHbmOk (b : List Byte) (k : Nat) : Bool :=
  let o := leField b 0x24 4 + 64 * k
  decide (leField b o 1 ≤ 1 ∧ leField b (o + 1) 1 ≤ 15)

/-- The RATE and the row repairs of a stack (R622). -/
def imgRate (b : List Byte) (k : Nat) : Nat := leField b (leField b 0x24 4 + 64 * k) 1
def imgRepairs (b : List Byte) (k : Nat) : List Nat :=
  let o := leField b 0x24 4 + 64 * k
  (List.range (leField b (o + 1) 1)).map (fun i => leField b (o + 4 + 4 * i) 4)

/-- The image's form under R621, R622 and R661; the limits of a record's value are no part of it (notes/assumptions/70.md). -/
def imgForm (b : List Byte) : Bool :=
  let n := imgBytes b
  imgCandidate b && decide (1 ≤ imgGen b) && decide (4096 ≤ n ∧ n ≤ 65536 ∧ n ≤ b.length) && decide (imgFlags b < 16) &&
    decide (leField b 0x18 4 ≤ 2048) && leField b 0x1C 4 % 16 == 0 && leField b 0x20 4 % 8 == 0 && leField b 0x24 4 % 64 == 0 &&
    leField b 0x2C 212 == 0 && decide (leField b 0x1C 4 + 16 * leField b 0x18 4 ≤ n) &&
    decide (leField b 0x20 4 + 128 + 8 * 272 ≤ n) && decide (leField b 0x24 4 + 384 ≤ n) && decide (imgSigOff b + 5272 ≤ n) &&
    imgRecordsForm b && (imgRecords b).all recordOk && (List.range 16).all (fun cl => (imgPositions b cl).length == 16) &&
    (List.range 6).all (imgHbmOk b) && (!(imgFlags b).testBit 0 || (imgRecords b).all guardOk)

/-! ## Signatures (R691, R692) -/

/-- Checks 2 to 4 of Table 17-3 on a signature block at an offset: 0 where all pass, or the reason code. -/
def signReason (b : List Byte) (off key : Nat) (digest : BitVec 256) (context : String) : Nat :=
  let blk := (b.drop off).take 5272
  let pub := (blk.drop 8).take 1952
  let sig := (blk.drop 0x7A8).take 3309
  if leField blk 0 4 ≠ 0x65 ∨ leField blk 4 4 ≠ key ∨ Config.shake256 pub ≠ digest then 2
  else if Config.mldsaVerify pub (ascii context) (b.take off) sig then 0
  else 3

/-- Why a configuration image is rejected: the reason code of Table 17-3, or 0. -/
def State.cfgReason (s : State) (b : List Byte) : Nat :=
  if !imgForm b then 1
  else
    match s.sec.ownerDigest with
    | some d => signReason b (imgSigOff b) 1 d "SV2-CFG"
    | none => signReason b (imgSigOff b) 0 Config.rootDigest "SV2-CFG"

/-- Why a firmware image of `n` bytes is rejected as image `kind` (R693). -/
def fwReason (b : List Byte) (kind n : Nat) : Nat :=
  let off := leField b 12 4
  if leField b 0 4 = 0x53564657 ∧ leField b 4 1 = kind ∧ leField b 5 1 = 0 ∧ leField b 6 2 = 0xB1 ∧ off % 8 = 0 ∧
      leField b 0x10 48 = 0 ∧ off + 5272 = n ∧ 64 ≤ off then
    signReason b off 0 Config.rootDigest "SV2-FW"
  else 1

/-- SIGNATURE_INVALID is posted (R695): object, reason. -/
def State.postSignature (s : State) (object reason : Nat) : State :=
  s.postDev { code := codeSignatureInvalid, detail := [BitVec.ofNat 8 object, BitVec.ofNat 8 reason] }

end Sys2Proof.Machine
end

