-- ==== Sys2Proof/Machine/FlashOps.lean ====
section
/-! DEFINITION. Operations of the flash subsystem (chapter 14): page-group programs, erases, trims, the request port, the parcel's
state and the lamps. Programs and erases wait in the order in which the translation layer decided them until their port grants
them (REGULATOR_GRANT). -/

namespace Sys2Proof.Machine

/-! ## Channels and groups -/

/-- A page group's key on a channel, from its place. -/
def State.grpKey (s : State) (ch : Nat) (g : FlashGroup) : Nat :=
  groupKey (s.channelParcel ch) ch g.target g.lun g.block g.page

/-- A channel is trained and in service. -/
def State.channelUp (s : State) (ch : Nat) : Bool :=
  s.fld .flsChStatus fFlsChStatusTrained ch == 1 && !s.fl.chOut.contains ch

/-- The erased-state bit of a group (R582). -/
def State.erased (s : State) (grp : Nat) : Bool := !tabGet false s.fl.notErased grp

/-- Set or clear a group's erased-state bit. -/
def State.setErased (s : State) (grp : Nat) (b : Bool) : State :=
  { s with fl := { s.fl with notErased := tabSet false s.fl.notErased grp (!b) } }

/-- Keys `lo ≤ k < hi` of the groups of a block. -/
def blockLo (blk : Nat) : Nat := blk * 4096
def blockHi (blk : Nat) : Nat := (blk + 1) * 4096

/-- Some group of a block holds a unit's data, or is to be programmed. -/
def State.blockLive (s : State) (blk : Nat) : Bool :=
  s.fl.metas.any (fun e => decide (blockLo blk ≤ e.1 ∧ e.1 < blockHi blk) && (match e.2 with
    | some m => m.live
    | none => false)) || s.fl.progs.any (fun j => blockKey j.grp == blk)

/-- The regions whose units some group of a block has held since its last erase (R576). -/
def State.blockRegions (s : State) (blk : Nat) : List Nat :=
  (s.fl.metas.filterMap (fun e => match e.2 with
    | some m => if blockLo blk ≤ e.1 ∧ e.1 < blockHi blk then some m.region else none
    | none => none)).eraseDups

/-- Some group of a block has been programmed since the block's last erase. -/
def State.blockUsed (s : State) (blk : Nat) : Bool := s.fl.notErased.any (fun e => decide (blockLo blk ≤ e.1 ∧ e.1 < blockHi blk))

/-! ## Reservations and spares (R589, R592) -/

/-- The channel of a group or, by its key without the page, of a block. -/
def groupChannel (grp : Nat) : Nat := grp / 2 ^ 38 % 16
def blockChannel (blk : Nat) : Nat := blk / 2 ^ 26 % 16

/-- What a trained channel's devices hold. -/
def State.geom (s : State) (ch : Nat) : FlashGeom := tabGet {} s.fl.geom ch

/-- Blocks of a channel, of the parcel that is in for a parcel channel, that are retired. -/
def State.retiredOn (s : State) (ch : Nat) : Nat :=
  (s.fl.retired.filter (fun b => decide (b / 2 ^ 26 = s.channelParcel ch * 16 + ch))).length

/-- Stripe units of a region on a channel (R331). -/
def Region.unitsOn (g : Region) (ch : Nat) : Nat :=
  let n := (g.bytes + 65535) / 65536
  if g.home = 1 then (if ch < 12 then (n + 11 - ch) / 12 else 0)
  else if g.home = 2 then (if 12 ≤ ch then (n + 15 - ch) / 4 else 0)
  else 0

/-- Blocks of a channel that the regions' reservations take (R334): those of its units, in whole blocks (notes/assumptions/65.md). -/
def State.reservedOn (s : State) (ch : Nat) : Nat :=
  let units := ((List.range 255).map (fun r =>
    let g := s.region r
    if g.valid && (decide (ch < 12) || tabGet 0 s.fl.regionParcel r == s.reg .pclId) then g.unitsOn ch else 0)).sum
  let p := (s.geom ch).pages
  (units + p - 1) / p

/-- Blocks that SPARE_PCT holds outside every reservation, in whole blocks (R592, R605). -/
def State.spareOn (s : State) (ch : Nat) : Nat := ((s.geom ch).blocks * s.fld .flsCfg fFlsCfgSparePct + 99) / 100

/-- The channel has room for its reservations beside the spares (R334, R592) and beside `journal` blocks of the translation layer's
checkpoints and journal, whose size the manual leaves open (notes/assumptions/65.md). -/
def State.spaceOn (s : State) (ch journal : Nat) : Bool :=
  decide (s.reservedOn ch + s.spareOn ch + s.retiredOn ch + journal ≤ (s.geom ch).blocks)

/-- FREE_BLOCKS of the trained channels: blocks outside every reservation that are not retired (R606). -/
def State.noteFree (s : State) : State :=
  s.each ((List.range 16).filter (fun ch => s.fld .flsChStatus fFlsChStatusTrained ch == 1))
    (fun s ch => s.setFld .flsChStatus fFlsChStatusFreeBlocks ch ((s.geom ch).blocks - s.retiredOn ch - s.reservedOn ch))

/-- A block, or the block of a group without its page, is one of a channel's. -/
def State.blockOn (s : State) (ch b : Nat) : Bool := decide (b / 2 ^ 26 = s.channelParcel ch * 16 + ch)

/-- Blocks of a channel that are not pre-erased: some group programmed since the last erase, or retired, marked or being erased. -/
def State.goneBlocks (s : State) (ch : Nat) : List Nat :=
  ((s.fl.notErased.map (fun e => blockKey e.1)) ++ s.fl.marked ++ s.fl.retired ++ s.fl.erases.map (·.blk) ++
    s.fl.progs.map (fun j => blockKey j.grp)).filter (s.blockOn ch)

/-- Pre-erased blocks of a channel. -/
def State.preErased (s : State) (ch : Nat) : Nat := (s.geom ch).blocks - (s.goneBlocks ch).eraseDups.length

/-- Erases of a block so far. -/
def State.eraseCount (s : State) (b : Nat) : Nat := tabGet 0 s.fl.eraseCnt b

/-- No pre-erased block of the channel has fewer erases than block `b` (chapter 14, before R592). -/
def State.leastErased (s : State) (ch b : Nat) : Bool :=
  s.eraseCount b == 0 ||
    ((s.fl.eraseCnt.filter (fun e => s.blockOn ch e.1 && decide (s.eraseCount b ≤ e.2) && !(s.goneBlocks ch).contains e.1)).length
      == s.preErased ch)

/-- A block's erase count lags the channel's mean by more than WEAR_GAP (chapter 14, before R592). -/
def State.wearLags (s : State) (ch b : Nat) : Bool :=
  decide ((s.eraseCount b + s.fld .flsCfg fFlsCfgWearGap) * (s.geom ch).blocks <
    ((s.fl.eraseCnt.filter (fun e => s.blockOn ch e.1)).map (·.2)).sum)

/-! ## The translation layer's choices -/

/-- The block of a group is in use, or is to be: taking the group takes no pre-erased block. -/
def State.blockOpen (s : State) (grp : Nat) : Bool :=
  s.blockUsed (blockKey grp) || s.fl.progs.any (fun j => blockKey j.grp == blockKey grp)

/-- The translation layer may choose a group: its block is not marked, retired or being erased, no program holds the group, and a
block not yet in use is a least-erased one. -/
def State.groupOpen (s : State) (grp : Nat) : Bool :=
  !s.fl.marked.contains (blockKey grp) && !s.fl.retired.contains (blockKey grp) &&
    !s.fl.progs.any (fun j => j.grp == grp) && !s.fl.erases.any (fun e => e.blk == blockKey grp) &&
    (s.blockOpen grp || s.leastErased (groupChannel grp) (blockKey grp))

/-- The translation layer may choose a group for new data: it leaves the channel 4 pre-erased blocks (R592). -/
def State.groupFresh (s : State) (grp : Nat) : Bool :=
  s.groupOpen grp && (s.blockOpen grp || decide (4 < s.preErased (groupChannel grp)))

/-- Tags of the flash reads under way. -/
def State.flashReads (s : State) : List Nat := (s.mv.reqs.filter (fun r => r.cls == .read && (match r.agent with
  | .sorter _ => decide (16 ≤ r.item)
  | .courier k => (match s.desc k r.item with
    | some d => sideSpace d.desc.src == 4
    | none => false)
  | _ => false))).map (·.tag)

/-- An erase joins its channel, behind the reads that it waits for (R589). -/
def State.addErase (s : State) (ch blk : Nat) (waits : List Nat) : State :=
  let e : EraseJob := { ch := ch, blk := blk, waits := waits, issued := false, stamp := s.stampNow, seq := s.mv.spent }
  { s with fl := { s.fl with erases := s.fl.erases ++ [e] } }

/-- A block whose data is dead joins the erases of its channel (R589, R592). -/
def State.reclaim (s : State) (ch blk : Nat) : State :=
  if s.blockUsed blk ∧ !s.blockLive blk ∧ !s.fl.marked.contains blk ∧ !s.fl.retired.contains blk ∧ !s.fl.erases.any (fun e => e.blk == blk) then
    s.addErase ch blk s.flashReads
  else s

/-- A unit's map entry is cleared (R579, R589, R393). -/
def State.trimUnit (s : State) (r u : Nat) : State :=
  match s.unitGroup r u with
  | none => s
  | some g =>
    let ch := unitChannel (s.region r).home u
    let s := (s.setMap r u 0).cacheInv (fun x => x == r)
    ({ s with fl := { s.fl with metas := tabUpd none s.fl.metas g (fun m => m.map (fun (m : GroupMeta) => { m with live := false })) } }).reclaim ch (blockKey g)

/-- Trim units `u` to `u + n − 1`. -/
def State.trimUnits (s : State) (r u n : Nat) : State := s.each (rangeFrom u n) (fun s v => s.trimUnit r v)

/-- DETAIL of the flash codes (Table 14-4). -/
def flashDetail (ch grp unit region attempts : Nat) : List Byte :=
  [BitVec.ofNat 8 ch, BitVec.ofNat 8 ((grp / 2 ^ 35 % 8) * 16 + grp / 2 ^ 31 % 16)] ++ leBytes 2 (grp / 2 ^ 12 % 2 ^ 19) ++
    leBytes 4 unit ++ leBytes 4 0 ++ [BitVec.ofNat 8 region, BitVec.ofNat 8 attempts, 0, 0]

/-! ## The request port (R587 to R590) -/

/-- A request in progress. -/
def State.flReq (s : State) (slot : Nat) : Option FlReq := tabGet none s.fl.reqs slot

/-- Change or remove a request. -/
def State.setFlReq (s : State) (slot : Nat) (r : Option FlReq) : State :=
  { s with fl := { s.fl with reqs := tabSet none s.fl.reqs slot r } }

/-- A request ends: STATE 2 DONE, 3 FAILED with its code, 4 ABORTED. -/
def State.endFlReq (s : State) (slot st : Nat) (code : Nat) : State :=
  ((s.setFlReq slot none).setFld .flsReqStatus fFlsReqStatusState slot st).setFld .flsReqStatus fFlsReqStatusCode slot code

/-- Units of a request that are durable. -/
def State.flProgress (s : State) (slot : Nat) (r : FlReq) : State :=
  (s.setFlReq slot (some r)).setFld .flsReqStatus fFlsReqStatusDoneUnits slot r.done

/-- Bytes of HBM. -/
def State.hbmBytes (s : State) : Nat := s.fld .ctxHbmInfo fCtxHbmInfoTotalPages * 2 ^ 21

/-- Bytes of the table area (R326). -/
def State.tableBytes (s : State) : Nat := s.fld .ctxHbmInfo fCtxHbmInfoTablePages * 2 ^ 21

/-- Stripe units of a region (notes/assumptions/12.md). -/
def Region.units (g : Region) : Nat := (g.bytes + 65535) / 65536

/-- A range of units of a flash region. -/
def State.flashRange (s : State) (r off n : Nat) : Bool :=
  let g := s.region r
  decide (r < 255) && g.valid && (g.home == 1 || g.home == 2) && off % 65536 == 0 && decide (off / 65536 + n ≤ g.units)

/-- A range of HBM outside the table area. -/
def State.hbmRange (s : State) (off n unit : Nat) : Bool :=
  off % unit == 0 && decide (s.tableBytes ≤ off ∧ off + n * unit ≤ s.hbmBytes)

/-- The parcel of a parcel region is absent. -/
def State.awayParcel (s : State) (r : Nat) : Bool := (s.region r).home == 2 && !s.parcelHere r

/-- The checks of R588, in order. -/
def State.flReqBar (s : State) (r : FlReq) : Option Code :=
  let srcFlash := r.op == 1 && r.srcRegion != 255
  let dst := r.op == 1 || r.op == 2
  if (r.op == 1 && r.srcRegion == 255 && !s.hbmRange r.srcOff r.units 65536) || (r.op == 3 && !s.hbmRange r.srcOff r.units 4096) ||
      (r.op == 3 && r.srcRegion != 255) || (srcFlash && !s.flashRange r.srcRegion r.srcOff r.units) ||
      (dst && !s.flashRange r.dstRegion r.dstOff r.units) then some codeAddressInvalid
  else if (srcFlash && s.pwLocked r.srcRegion) || (dst && s.pwLocked r.dstRegion) then some codeRegionLocked
  else if (srcFlash && s.awayParcel r.srcRegion) || (dst && s.awayParcel r.dstRegion) ||
      (r.op == 4 && s.fld .pclStatus fPclStatusState != 2) then some codeParcelAbsent
  else none

/-- The bytes of the unit that a WRITE programs next, or why they cannot be read. -/
def State.flSource (s : State) (r : FlReq) : Except Code (List Byte) :=
  let off := r.srcOff + r.done * 65536
  if r.srcRegion = 255 then
    if (lineAddrs off 1024).any s.hbmLost then .error codeHbmUncorrectable else .ok (memRead s.mem.hbm off 65536)
  else if s.fl.chOut.contains (unitChannel (s.region r.srcRegion).home (off / 65536)) then .error codeFlashUncorrectable
  else .ok (s.flashRead r.srcRegion off 65536)

/-- Reads of `n` times 256 B of HBM in the hub's name, charged at their ports (R252, R253) and to no context. -/
def State.hbmRun (s : State) (a n : Nat) : State := s.each (List.range n) (fun s i => s.hbmAccess none (a + 256 * i) false srcHub 4)

/-- The reads that bring the next unit of a WRITE are charged at their ports. -/
def State.flCharge (s : State) (r : FlReq) : State :=
  let off := r.srcOff + r.done * 65536
  if r.srcRegion = 255 then s.hbmRun off 256
  else s.sectorReads r.srcRegion off 16 srcHub

/-- A program joins its channel. -/
def State.addProg (s : State) (j : ProgJob) : State :=
  let j : ProgJob := { j with stamp := s.stampNow, seq := s.mv.spent }
  { s with fl := { s.fl with progs := s.fl.progs ++ [j] } }

/-- A WRITE takes its next unit: it ends, fails, or its program joins the channel. None where the group named could not be the
translation layer's choice. -/
def State.flNext (s : State) (slot : Nat) (r : FlReq) (g : FlashGroup) : Option State :=
  if r.abort then some (s.endFlReq slot 4 0)
  else if r.done = r.units then some (s.endFlReq slot 2 0)
  else
    let u := r.dstOff / 65536 + r.done
    let ch := unitChannel (s.region r.dstRegion).home u
    let grp := s.grpKey ch g
    match s.flReqBar { r with srcOff := r.srcOff, units := r.units } with
    | some c => some (s.endFlReq slot 3 c.toNat)
    | none =>
      if (s.unitGroup r.dstRegion u).isSome ∨ s.fl.progs.any (fun j => j.region == r.dstRegion && j.unit == u) ∨ !s.erased grp then
        some (s.endFlReq slot 3 codeFlashNotErased.toNat)
      else
        match s.flSource r with
        | .error c => some (s.endFlReq slot 3 c.toNat)
        | .ok data =>
          if !s.groupFresh grp then none
          else some (((s.flCharge r).setFlReq slot (some { r with busy := true })).addProg
            { ch := ch, grp := grp, region := r.dstRegion, unit := u, data := data, who := .request slot, tries := 0, issued := false })

/-- A request whose destination's owner is reset or disabled ends at the next unit boundary (R590): at once where its program has
not been issued. -/
def State.abortFlReq (s : State) (slot : Nat) : State :=
  match s.flReq slot with
  | none => s
  | some r =>
    if s.fl.progs.any (fun j => j.who == ProgFor.request slot && j.issued) then s.setFlReq slot (some { r with abort := true })
    else ({ s with fl := { s.fl with progs := s.fl.progs.filter (fun j => j.who != ProgFor.request slot) } }).endFlReq slot 4 0

/-- Requests that write regions picked by a predicate. -/
def State.abortFlReqs (s : State) (p : Nat → Bool) : State :=
  s.each (List.range 4) (fun s slot => match s.flReq slot with
    | some r => if (r.op = 1 ∨ r.op = 2) ∧ p r.dstRegion then s.abortFlReq slot else s
    | none => s)

/-- TRIMs go on until one meets a unit that is being written (R589). -/
def State.trimReq (s : State) (slot : Nat) : State :=
  match s.flReq slot with
  | some r =>
    if r.op ≠ 2 then s
    else
      let u := r.dstOff / 65536
      let free := (rangeFrom r.done (r.units - r.done)).takeWhile (fun i =>
        !s.fl.progs.any (fun j => j.region == r.dstRegion && j.unit == u + i))
      let s := s.trimUnits r.dstRegion (u + r.done) free.length
      let r := { r with done := r.done + free.length }
      let s := s.flProgress slot r
      if r.abort then s.endFlReq slot 4 0 else if r.done = r.units then s.endFlReq slot 2 0 else s
  | none => s

/-- The NOR slot that start did not select (R598): 1 is A, 2 is B. -/
def State.spareNor (s : State) : Nat := if s.fld .cfgStatus fCfgStatusSlot = 1 then 2 else 1

/-- A CONFIG request has its image verified and begins its NOR update, one at a time (R598). -/
def State.configReq (s : State) (slot : Nat) : State :=
  match s.flReq slot with
  | some r =>
    if r.op ≠ 3 ∨ r.busy ∨ s.fl.nor.isSome then s
    else
      let b := memRead s.mem.hbm r.srcOff (r.units * 4096)
      let s := s.hbmRun r.srcOff (r.units * 16)
      if (lineAddrs r.srcOff (r.units * 64)).any s.hbmLost then s.endFlReq slot 3 codeHbmUncorrectable.toNat
      else
        match s.cfgReason b with
        | 0 =>
          let j : NorJob := { slot := s.spareNor, image := b.take (imgBytes b), req := some slot }
          ({ s with fl := { s.fl with nor := some j } }).setFlReq slot (some { r with busy := true })
        | n => (s.postSignature 6 n).endFlReq slot 3 codeSignatureInvalid.toNat
  | none => s

/-! ## Issue -/

/-- The translation layer and the ROM may issue programs and erases: the security core is present, no power warning holds, and the
die runs (Table 12-6, R599, R642). -/
def State.flashOn (s : State) : Bool := s.fwOn 0 && !s.fl.warn && s.run

/-- What waits at a channel's port to be programmed or erased. -/
inductive FlashJob
  | prog (j : ProgJob)
  | erase (e : EraseJob)
  deriving DecidableEq, Repr

/-- The units that its port charges (R253). -/
def FlashJob.units : FlashJob → Nat
  | .prog _ => 1024
  | .erase _ => 16

/-- When it joined its port, and its place among arrivals. -/
def FlashJob.stamp : FlashJob → BitVec 32
  | .prog j => j.stamp
  | .erase e => e.stamp
def FlashJob.seq : FlashJob → Nat
  | .prog j => j.seq
  | .erase e => e.seq

/-- What the channel could be given next: programs into groups whose erase is done, and erases whose reads have returned. -/
def State.flashJobs (s : State) (ch : Nat) : List FlashJob :=
  (s.fl.progs.filter (fun j => j.ch == ch && s.erased j.grp)).map .prog ++
    (s.fl.erases.filter (fun e => e.ch == ch && e.waits.all (fun t => !s.mv.reqs.any (fun r => r.tag == t)))).map .erase

/-- The earlier of two stamps, with ties by arrival (R258). -/
def jobBefore (a b : BitVec 32 × Nat) : Bool := stampBefore a.1 b.1 || (a.1 == b.1 && decide (a.2 < b.2))

/-- The job that joined first; of two that joined together, the first in the list. -/
def firstJob : List FlashJob → Option FlashJob
  | [] => none
  | w :: ws => match firstJob ws with
    | none => some w
    | some x => if jobBefore (x.stamp, x.seq) (w.stamp, w.seq) then some x else some w

/-- The channel's next program or erase, the one that joined its port first, when it has neither at work (R254, R258). -/
def State.flashJob (s : State) (ch : Nat) : Option FlashJob :=
  if !s.flashOn || s.fl.progs.any (fun j => j.ch == ch && j.issued) || s.fl.erases.any (fun e => e.ch == ch && e.issued) ||
      !s.channelUp ch then none
  else firstJob (s.flashJobs ch)

/-- A program or an erase is issued to its channel (R393, R582). -/
def State.issueJob (s : State) (w : FlashJob) : State :=
  match w with
  | .prog j =>
    let s := (s.cacheInv (fun r => r == j.region)).setErased j.grp false
    { s with fl := { s.fl with progs := updFirst (fun x => x == j) (fun x => { x with issued := true }) s.fl.progs } }
  | .erase e =>
    let rs := s.blockRegions e.blk
    let s := s.cacheInv (fun r => rs.contains r)
    { s with fl := { s.fl with erases := updFirst (fun x => x == e) (fun x => { x with issued := true }) s.fl.erases } }

/-- TRIM and CONFIG requests that wait go on. -/
def State.flKick (s : State) : State :=
  if !s.flashOn then s else s.each (List.range 4) (fun s slot => (s.trimReq slot).configReq slot)

/-- FCn_WP_N is high: the channel may issue a program or an erase, or has work of R599 or of a stop under way (R742). -/
def State.flashWpN (s : State) (ch : Nat) : Bool :=
  s.channelUp ch && (s.flashOn || (s.fwOn 0 && (s.fl.flushing.contains ch || s.fl.progs.any (fun j => j.ch == ch && j.issued))))

/-! ## The parcel and the lamps (R600 to R604) -/

/-- PCL_STATUS.STATE. -/
def State.pclState (s : State) : Nat := s.fld .pclStatus fPclStatusState

/-- The pulse on PCL_LATCH_REL: a removal's programs have ended and its journal is flushed (R602, step 4). -/
def State.latchPulse (s : State) : Bool :=
  s.fl.drainStep == 3 && !s.fl.progs.any (fun j => decide (12 ≤ j.ch)) && !s.fl.flushing.any (fun c => decide (12 ≤ c))

/-- PCL_PWR_EN: high from step 2 of Table 14-7 on; low from the latch pulse of a removal, and when parcel power is lost (R600 to R603). -/
def State.pclPwrEn (s : State) : Bool := s.pclState != 0 && !s.latchPulse

/-- CHANGE is set, with a message on vector 1,024 when IRQ_EN is 1 (Table 14-7, R613). -/
def State.pclChange (s : State) : State :=
  let s := s.setFld .pclStatus fPclStatusChange 0 1
  if s.fld .pclCfg fPclCfgIrqEn = 1 then (s.toHost (.msix 1024)).count 8 0 3 else s

/-- Reads or writes of parcel regions are in progress. -/
def State.parcelBusy (s : State) : Bool :=
  s.fl.progs.any (fun j => decide (12 ≤ j.ch)) ||
    (List.range 20).any (fun k => (s.courier k).descs.any (fun d => sideSpace d.desc.src == 4 && (s.region (sideSel d.desc.src)).home == 2)) ||
    s.mv.reqs.any (fun r => match r.agent with
      | .sorter _ => decide (16 ≤ r.item) && (s.region (r.item - 16)).home == 2
      | _ => false)

/-- The lamp pattern of Table 14-8 by its row, the lower row prevailing: 0 no parcel, 1 STARTING, 2 ON idle, 3 ON in use,
4 DRAINING held, 5 DRAINING, 6 OFF after a request with the parcel present, 7 failed start or surprise removal. -/
def State.lampRow (s : State) : Nat :=
  let st := s.pclState
  if s.fl.lamp = 7 then 7
  else if s.fl.lamp = 6 ∧ st = 0 ∧ s.fld .pclStatus fPclStatusPresent = 1 then 6
  else if st = 3 then (if s.fl.drainStep = 1 then 4 else 5)
  else if st = 2 then (if s.parcelBusy then 3 else 2)
  else if st = 1 then 1
  else 0

/-- What the device does with the bumps of a flash channel (Table 20-2): high impedance (R743), the Reset state, or in use with
FCn_WP_N high or low (R742). -/
inductive FlashPins
  | highZ
  | atReset
  | used (wpN : Bool)
  deriving DecidableEq, Repr

/-- The bumps of a flash channel (R741 to R743): its NCLK runs from training until the gating of a stop (R747). -/
def State.flashPins (s : State) (ch : Nat) : FlashPins :=
  if 12 ≤ ch ∧ s.pclPwrEn = false then .highZ
  else if (s.fld .clkStatus fClkStatusNclkLock).testBit ch then .used (s.flashWpN ch)
  else .atReset

end Sys2Proof.Machine
end

