-- ==== Sys2Proof/Machine/KvOps.lean ====
section
/-! DEFINITION. Operations on sequences, page tables and frames (chapter 07). -/

namespace Sys2Proof.Machine

/-! ## Geometry (Tables 7-1, 7-12 to 7-14) -/

/-- KV heads H on this die. -/
def State.kvHeads (s : State) (x : Nat) : Nat := s.fld .kvpGeom fKvpGeomKvHeads x + 1
/-- Query rows G per KV head and position. -/
def State.kvGroup (s : State) (x : Nat) : Nat := s.fld .kvpGeom fKvpGeomGroup x + 1
/-- Layers. -/
def State.kvLayers (s : State) (x : Nat) : Nat := s.fld .kvpGeom fKvpGeomLayers x + 1
/-- The local window W. -/
def State.kvWindow (s : State) (x : Nat) : Nat := s.fld .kvpGeom fKvpGeomWindow x + 1
/-- Pinned slots per layer. -/
def State.kvPinMax (s : State) (x : Nat) : Nat := s.fld .kvpGeom fKvpGeomPinMax x

/-- PAGE_BYTES (R287). -/
def State.kvPageBytes (s : State) (x : Nat) : Nat :=
  128 * s.kvHeads x * s.kvDim x * (elemBits (s.fld .kvpGeom fKvpGeomKvfmt x) / 8)

/-- The smallest power of two not below a number, by doubling. -/
def pow2Above : Nat → Nat → Nat → Nat
  | 0, p, _ => p
  | k + 1, p, n => if n ≤ p then p else pow2Above k (2 * p) n

/-- Ring slots of a level-2 table (R292). -/
def State.kvRing (s : State) (x : Nat) : Nat := pow2Above 12 1 ((s.kvWindow x + 255 + 63) / 64 + 1)

/-! ## Sequences, page entries and frames (R288 to R294) -/

/-- A sequence. -/
def State.sequence (s : State) (n : Nat) : Sequence := tabGet {} s.kv.seqs n

/-- Change a sequence. -/
def State.updSequence (s : State) (n : Nat) (f : Sequence → Sequence) : State :=
  { s with kv := { s.kv with seqs := tabUpd {} s.kv.seqs n f } }

/-- Bytes of a table in whole lines. -/
def tableLines (n : Nat) : Nat := (n + 63) / 64 * 64

/-- Bytes of a level-2 table of a context (R292). -/
def State.level2Bytes (s : State) (x : Nat) : Nat := tableLines (8 * (s.kvPinMax x + s.kvRing x))

/-- Bytes of a context's sequence tables (R767). -/
def State.tablesOf (s : State) (x : Nat) : Nat := tableLines (8 * s.kvLayers x) + s.kvLayers x * s.level2Bytes x

/-- A level-1 entry for a level-2 table at a byte offset of the table area (R291), and what it names. -/
def level1Word (off : Nat) : BitVec 64 := BitVec.ofNat 64 (2 ^ 63 + off % 2 ^ 40)
def level1Offset (e : BitVec 64) : Option Nat := if e.toNat.testBit 63 then some (natBits e.toNat 39 0) else none

/-- An entry of 8 bytes in the table area, which begins at HBM address 0 (R326). -/
def State.tableEntry (s : State) (a : Nat) : BitVec 64 := BitVec.ofNat 64 (leNat (memRead s.mem.hbm a 8))

/-- Write a line of the table area (R760). -/
def State.tableLine (s : State) (a : Nat) (bs : List Byte) : State := (s.hbmWrite a bs).1.hbmAccess none a true srcHub 1

/-- Write an entry of the table area with the rest of its line. -/
def State.setTableEntry (s : State) (a : Nat) (e : BitVec 64) : State :=
  let base := a / 64 * 64
  let old := memRead s.mem.hbm base 64
  s.tableLine base (old.take (a % 64) ++ leBytes 8 e.toNat ++ old.drop (a % 64 + 8))

/-- The address of a slot's entry in the level-2 table that the level-1 entry of its layer names (R291, R292). -/
def State.pageAddr (s : State) (n layer slot : Nat) : Option Nat :=
  match (s.sequence n).l1 with
  | none => none
  | some a => (level1Offset (s.tableEntry (a + 8 * layer))).map (· + 8 * slot)

/-- A page entry (Table 7-6). -/
def State.pageEntry (s : State) (n layer slot : Nat) : BitVec 64 :=
  match s.pageAddr n layer slot with
  | some a => s.tableEntry a
  | none => 0

/-- Write a page entry. -/
def State.setPage (s : State) (n layer slot : Nat) (e : BitVec 64) : State :=
  match s.pageAddr n layer slot with
  | some a => s.setTableEntry a e
  | none => s

/-- The space that sequences and their OPENs have in the table area, as first byte and bytes. -/
def State.tableChunks (s : State) : List (Nat × Nat) :=
  (s.kv.seqs.filterMap (fun e => e.2.l1.map (fun a => (a, e.2.tableBytes)))) ++
    (s.kv.ops.filter (fun o => o.op == 0)).map (fun o => (o.table, s.tablesOf (s.letterCtx o.letter)))

/-- Where `n` bytes of tables fit: the lowest place behind nothing or behind another sequence's tables (notes/assumptions/64.md). -/
def State.tablePlace (s : State) (n : Nat) : Option Nat :=
  let l := s.tableChunks
  let size := s.fld .ctxHbmInfo fCtxHbmInfoTablePages * 2 ^ 21
  ((0 :: l.map (fun e => e.1 + e.2)).filter (fun a => decide (a + n ≤ size) &&
    l.all (fun e => decide (a + n ≤ e.1 ∨ e.1 + e.2 ≤ a)))).min?

/-- Write an OPEN's tables: the level-1 table and LAYERS level-2 tables, every entry of theirs 0 (R760). -/
def State.writeTables (s : State) (x a : Nat) : State :=
  let l1 := tableLines (8 * s.kvLayers x)
  let two := s.level2Bytes x
  let bytes := padBytes l1 ((List.range (s.kvLayers x)).flatMap (fun i => leBytes 8 (level1Word (a + l1 + i * two)).toNat))
  let s := s.each (List.range (l1 / 64)) (fun s i => s.tableLine (a + 64 * i) ((bytes.drop (64 * i)).take 64))
  s.each (List.range (s.kvLayers x * two / 64)) (fun s i => s.tableLine (a + l1 + 64 * i) (List.replicate 64 0))

/-- Clear tables of `n` bytes at `a` (R760). -/
def State.clearTables (s : State) (a n : Nat) : State :=
  s.each (List.range (n / 64)) (fun s i => s.tableLine (a + 64 * i) (List.replicate 64 0))

/-- A valid entry from its fields. -/
def pageWord (loc pinned page frame : Nat) : BitVec 64 :=
  BitVec.ofNat 64 (2 ^ 63 + loc * 2 ^ 61 + pinned * 2 ^ 60 + page % 2 ^ 18 * 2 ^ 42 + frame % 2 ^ 32)

/-- The fields of an entry. -/
def peValid (e : BitVec 64) : Bool := e.toNat.testBit 63
def peLoc (e : BitVec 64) : Nat := natBits e.toNat 62 61
def pePage (e : BitVec 64) : Nat := natBits e.toNat 59 42
def peFrame (e : BitVec 64) : Nat := natBits e.toNat 31 0

/-- An entry holds a page. -/
def peHolds (e : BitVec 64) (page : Nat) : Bool := peValid e && pePage e == page

/-- The ring slot of a page (R292). -/
def State.ringSlot (s : State) (x page : Nat) : Nat := s.kvPinMax x + page % s.kvRing x

/-- The pinned slot of a layer that holds a page. -/
def State.pinSlotOf (s : State) (x n layer page : Nat) : Option Nat :=
  (List.range (s.kvPinMax x)).find? (fun i => peHolds (s.pageEntry n layer i) page)

/-- A page is held: in its ring slot or a pinned slot (R294). -/
def State.pageHeld (s : State) (x n layer page : Nat) : Bool :=
  peHolds (s.pageEntry n layer (s.ringSlot x page)) page || (s.pinSlotOf x n layer page).isSome

/-- A frame of a context's pool, or a slot of its flash region, is in use. -/
def State.frameUsed (s : State) (x f : Nat) : Bool := tabGet false s.kv.used (x * 2 ^ 23 + f)
def State.kvSlotUsed (s : State) (x f : Nat) : Bool := tabGet false s.kv.slots (x * 2 ^ 23 + f)

/-- Free frames of a context. -/
def State.freeFrames (s : State) (x : Nat) : Nat := s.fld .kvpPool fKvpPoolFreePages x

/-- Take or return a frame; FREE_PAGES follows. -/
def State.takeFrame (s : State) (x f : Nat) : State :=
  ({ s with kv := { s.kv with used := tabSet false s.kv.used (x * 2 ^ 23 + f) true } }).setFld .kvpPool fKvpPoolFreePages x (s.freeFrames x - 1)
def State.freeFrame (s : State) (x f : Nat) : State :=
  ({ s with kv := { s.kv with used := tabSet false s.kv.used (x * 2 ^ 23 + f) false } }).setFld .kvpPool fKvpPoolFreePages x (s.freeFrames x + 1)

/-- Take or return a slot of the context's KV flash region. -/
def State.setKvSlot (s : State) (x f : Nat) (b : Bool) : State :=
  { s with kv := { s.kv with slots := tabSet false s.kv.slots (x * 2 ^ 23 + f) b } }

/-- A context's KV flash region, the stripe units of one slot of it, and its slots (notes/assumptions/12.md). -/
def State.kvRegion (s : State) (x : Nat) : Nat := s.fld .kvpPool fKvpPoolFlashRegion x
def State.kvUnits (s : State) (x : Nat) : Nat := (s.kvPageBytes x + 65535) / 65536
def State.kvSlots (s : State) (x : Nat) : Nat := if s.kvRegion x = 255 then 0 else (s.region (s.kvRegion x)).units / s.kvUnits x

/-- Free a slot of the KV flash region: its units are trimmed. -/
def State.freeKvSlot (s : State) (x f : Nat) : State :=
  (s.trimUnits (s.kvRegion x) (f * s.kvUnits x) (s.kvUnits x)).setKvSlot x f false

/-- Return the storage that an entry names. -/
def State.freeEntry (s : State) (x : Nat) (e : BitVec 64) : State :=
  if !peValid e then s
  else if peLoc e = 1 then s.freeKvSlot x (peFrame e)
  else s.freeFrame x (peFrame e)

/-- Clear a page's ring slot; its storage is returned unless a pinned slot holds the page. -/
def State.dropRing (s : State) (x n layer page : Nat) : State :=
  let e := s.pageEntry n layer (s.ringSlot x page)
  if !peHolds e page then s
  else
    let s := s.setPage n layer (s.ringSlot x page) 0
    if (s.pinSlotOf x n layer page).isSome then s else s.freeEntry x e

/-- Clear a pinned slot; its page's storage is returned unless the ring slot or another pinned slot holds the page. -/
def State.dropPin (s : State) (x n layer slot : Nat) : State :=
  let e := s.pageEntry n layer slot
  if !peValid e then s
  else
    let page := pePage e
    let s := s.setPage n layer slot 0
    if (s.pinSlotOf x n layer page).isSome then s
    else
      let r := s.ringSlot x page
      if peHolds (s.pageEntry n layer r) page then s.setPage n layer r (pageWord (peLoc e) 0 page (peFrame e))
      else s.freeEntry x e

/-- The first page of the window of a position (R295). -/
def firstPage (w pos : Nat) : Nat := (pos + 1 - w) / 64

/-- Release every page below the window of position LENGTH − 1 that no pinned slot holds (R303). -/
def State.releaseBelow (s : State) (x n : Nat) : State :=
  let len := (s.sequence n).length
  if len = 0 then s
  else
    let lo := firstPage (s.kvWindow x) (len - 1)
    s.each (List.range (s.kvLayers x)) (fun s layer =>
      s.each (rangeFrom (s.kvPinMax x) (s.kvRing x)) (fun s slot =>
        let e := s.pageEntry n layer slot
        if peValid e ∧ pePage e < lo then s.dropRing x n layer (pePage e) else s))

/-- Release every page of a sequence. -/
def State.releaseAll (s : State) (x n : Nat) : State :=
  s.each (List.range (s.kvLayers x)) (fun s layer =>
    let s := s.each (List.range (s.kvPinMax x)) (fun s slot => s.dropPin x n layer slot)
    s.each (rangeFrom (s.kvPinMax x) (s.kvRing x)) (fun s slot =>
      let e := s.pageEntry n layer slot
      if peValid e then s.dropRing x n layer (pePage e) else s))

/-- Some page of a sequence is in flash. -/
def State.seqInFlash (s : State) (x n : Nat) : Bool :=
  (List.range (s.kvLayers x)).any (fun layer =>
    (List.range (s.kvPinMax x + s.kvRing x)).any (fun slot =>
      let e := s.pageEntry n layer slot
      peValid e && peLoc e == 1))

/-! ## Edits and aborted steps (R303 to R307, Table 7-10) -/

/-- The layers that an edit names. -/
def State.editLayers (s : State) (x : Nat) (e : Edit) : List Nat :=
  if e.allLayers then List.range (s.kvLayers x) else [e.layer]

/-- A page in transit is held no longer: its flash slot is freed, with its program where that has been issued. -/
def State.dropTransit (s : State) (n : Nat) : State :=
  let q := s.sequence n
  match q.transit with
  | none => s
  | some (l, _, k) =>
    let s := s.updSequence n (fun q => { q with transit := none })
    if s.fl.progs.any (fun j => j.who == ProgFor.demote n l k && j.issued) then s
    else ({ s with fl := { s.fl with progs := s.fl.progs.filter (fun (j : ProgJob) => j.who != ProgFor.demote n l k) } }).freeKvSlot q.ctx k

/-- After an edit: a page in transit that the edit has released is dropped, and a PARKED sequence whose last page in flash it has
released is IDLE (Table 7-7). -/
def State.afterEdit (s : State) (n : Nat) : State :=
  let s := match (s.sequence n).transit with
    | some (l, p, _) => if s.pageHeld (s.sequence n).ctx n l p then s else s.dropTransit n
    | none => s
  if (s.sequence n).state = .parked ∧ !s.seqInFlash (s.sequence n).ctx n then s.updSequence n (fun q => { q with state := .idle }) else s

/-- The effect of one edit at its adoption (Table 7-10); one that no longer applies is dropped. -/
def State.editEffect (s : State) (n : Nat) (e : Edit) : State :=
  let q := s.sequence n
  let x := q.ctx
  let ls := s.editLayers x e
  match e.op with
  | 0 =>
    if e.slot < s.kvPinMax x ∧ ls.all (fun l => s.pageHeld x n l e.arg) then
      s.each ls (fun s l =>
        let r := s.ringSlot x e.arg
        let src := if peHolds (s.pageEntry n l r) e.arg then s.pageEntry n l r
          else s.pageEntry n l ((s.pinSlotOf x n l e.arg).getD 0)
        if peHolds (s.pageEntry n l e.slot) e.arg then s
        else
          let s := s.dropPin x n l e.slot
          let s := s.setPage n l e.slot (pageWord (peLoc src) 1 e.arg (peFrame src))
          if peHolds (s.pageEntry n l r) e.arg then s.setPage n l r (pageWord (peLoc src) 1 e.arg (peFrame src)) else s)
    else s
  | 1 =>
    s.each ls (fun s l =>
      let p := s.pageEntry n l e.slot
      let s := s.dropPin x n l e.slot
      if peValid p ∧ q.length ≠ 0 ∧ pePage p < firstPage (s.kvWindow x) (q.length - 1) then s.dropRing x n l (pePage p) else s)
  | 2 =>
    if q.state = .stepping ∨ q.length ≤ e.arg then s
    else
      let s := s.updSequence n (fun q => { q with length := e.arg })
      s.each (List.range (s.kvLayers x)) (fun s l =>
        let s := s.each (List.range (s.kvPinMax x)) (fun s i =>
          let p := s.pageEntry n l i
          if peValid p ∧ e.arg / 64 + 1 ≤ pePage p then s.dropPin x n l i else s)
        s.each (rangeFrom (s.kvPinMax x) (s.kvRing x)) (fun s i =>
          let p := s.pageEntry n l i
          if peValid p ∧ e.arg / 64 + 1 ≤ pePage p then s.dropRing x n l (pePage p) else s))
  | 3 => if q.state = .idle then s.updSequence n (fun q => { q with state := .parking }) else s
  | _ => s

/-- Adopt one edit. -/
def State.adoptEdit (s : State) (n : Nat) (e : Edit) : State := (s.editEffect n e).afterEdit n

/-- Adopt a sequence's staged edits in order. -/
def State.adoptEdits (s : State) (n : Nat) : State :=
  let es := (s.sequence n).edits
  (s.updSequence n (fun q => { q with edits := [] })).each es (fun s e => s.adoptEdit n e)

/-- The table epoch advances (R305). -/
def State.bumpEpoch (s : State) (n : Nat) : State := s.updSequence n (fun q => { q with epoch := q.epoch + 1 })

/-- The entries of a sequence's tables. -/
def State.tableImage (s : State) (n : Nat) : List (BitVec 64) :=
  let x := (s.sequence n).ctx
  (List.range (s.kvLayers x)).flatMap (fun l => (List.range (s.kvPinMax x + s.kvRing x)).map (s.pageEntry n l))

/-- The epoch advances where an operation has changed the sequence's tables (R305). -/
def State.epochSince (s old : State) (n : Nat) : State := if s.tableImage n = old.tableImage n then s else s.bumpEpoch n

/-- A core's ATTN commands on a sequence: dispatched and not completed. -/
def Core.attnSeqs (k : Core) : List Nat :=
  (k.cmds.filter (fun x => x.eng == .attention && !x.done)).map (fun x => cb x.raw 112 97)

/-- An ATTN on a sequence is in progress somewhere on the die (R303, R304). -/
def State.attnOn (s : State) (n : Nat) : Bool := s.cs.cores.any (fun e => e.2.attnSeqs.contains n)

/-- Clear a page's ring slot and every pinned slot that holds it, and return its storage. -/
def State.dropPage (s : State) (x n layer page : Nat) : State :=
  let s := s.each (List.range (s.kvPinMax x)) (fun s i =>
    if peHolds (s.pageEntry n layer i) page then s.dropPin x n layer i else s)
  s.dropRing x n layer page

/-- Carry out the abort of an open step (R304). -/
def State.abortStep (s : State) (n : Nat) : State :=
  let q := s.sequence n
  let x := q.ctx
  let t := s.each q.newFrames (fun s p => s.dropPage x n p.1 p.2)
  let t := t.updSequence n (fun q => { q with pending := 0, newFrames := [], state := .idle, abort := false })
  ((t.adoptEdits n).releaseBelow x n).epochSince s n

/-- Abort an open step once no ATTN on the sequence is in progress. -/
def State.settleAbort (s : State) (n : Nat) : State :=
  if (s.sequence n).abort ∧ (s.sequence n).state = .stepping ∧ !s.attnOn n then s.abortStep n else s

/-- Abort every step whose queue was reset and on which no ATTN is left (R304). -/
def State.settleAborts (s : State) : State :=
  s.each ((s.kv.seqs.filter (fun e => e.2.abort)).map (·.1)) (fun s n => s.settleAbort n)

/-- The queue that opened steps is reset: they abort (R304). -/
def State.abortSteps (s : State) (q : Nat) : State :=
  s.each ((s.kv.seqs.filter (fun e => e.2.state == .stepping && e.2.opener == q)).map (·.1)) (fun s n =>
    (s.updSequence n (fun q => { q with abort := true })).settleAbort n)

/-- Close a sequence: frames, slots and tables are released; the number is FREE (R302). The slot of a
page in transit is freed with its program (`flProgramDone`). -/
def State.closeSeq (s : State) (n : Nat) : State :=
  let q := s.sequence n
  let s := (s.dropTransit n).releaseAll q.ctx n
  let s := match q.l1 with
    | some a => s.clearTables a q.tableBytes
    | none => s
  { s with kv := { s.kv with
      seqs := tabSet {} s.kv.seqs n { epoch := q.epoch + 1 }
      tableUsed := s.kv.tableUsed - q.tableBytes } }

/-! ## SEQ operations under way -/

/-- Take a SEQ operation away without its effect: what it reserved is returned. -/
def State.cancelSeqOp (s : State) (o : SeqOp) : State :=
  let x := s.letterCtx o.letter
  let s := { s with kv := { s.kv with
    ops := s.kv.ops.filter (fun p => p.letter != o.letter)
    tableUsed := if o.op = 0 then s.kv.tableUsed - s.tablesOf x else s.kv.tableUsed } }
  let s := s.each o.frames (fun s f => s.freeFrame x f)
  if o.op = 1 then s.updSequence o.seq (fun q => { q with hungry := false }) else s

/-- Take away the SEQ operation of a letter that is stopped (R153, R490). -/
def State.cancelSeqOps (s : State) (l : LetterId) : State :=
  s.each (s.kv.ops.filter (fun o => o.letter == l)) (fun s o =>
    let s := s.cancelSeqOp o
    if (s.sequence o.seq).state = .parked ∧ !s.seqInFlash (s.sequence o.seq).ctx o.seq then
      s.updSequence o.seq (fun q => { q with state := .idle })
    else s)

end Sys2Proof.Machine
end

