-- ==== Sys2Proof/Machine/Letters.lean ====
section
/-! DEFINITION. The form of letters (Tables 4-2 to 4-7, 6-5, 7-8, 8-4, 8-5, 8-8, 9-1, 11-6, 11-7): the checks of R146 that a letter's
own bytes decide. -/

namespace Sys2Proof.Machine

/-- Bytes `off` to `off + n − 1` are 0. -/
def zeroAt (b : List Byte) (off n : Nat) : Bool := leField b off n == 0

/-- The bits of a field from `lo` up are 0. -/
def bitsClear (v lo : Nat) : Bool := decide (v < 2 ^ lo)

/-- The envelope's own form (Tables 4-2 and 4-3, R339). -/
def envelopeOk (b : List Byte) : Bool :=
  let op := leField b 4 1
  let hint := leField b 12 1
  leField b 7 1 == 2 && decide (op ≤ 0x0B) && bitsClear (leField b 5 1) 2 && bitsClear (leField b 8 2) 10 && zeroAt b 13 3 &&
    (if [4, 5, 7, 8, 9].contains op then decide (hint ≤ 3) else hint == 0)

/-- SIGNAL and WAIT (Table 4-7). -/
def signalForm (b : List Byte) : Bool :=
  bitsClear (leField b 0x10 4) 20 && decide (leField b 0x14 1 ≤ 2) && zeroAt b 0x15 3 && zeroAt b 0x1C 36
def waitForm (b : List Byte) : Bool :=
  bitsClear (leField b 0x10 4) 20 && decide (leField b 0x14 1 ≤ 1) && bitsClear (leField b 0x15 1) 2 && zeroAt b 0x16 2 &&
    zeroAt b 0x1C 36

/-- MOVE (Table 6-5); its descriptors are checked as they start. -/
def moveForm (b : List Byte) : Bool := leField b 0x30 8 % 32 == 0 && bitsClear (leField b 0x38 4) 23

/-- Row and output formats of a GATHER. -/
def gatherFmt (f : Nat) : Bool := [12, 10, 11, 2, 3].contains f
def gatherOutFmt (f : Nat) : Bool := [12, 10, 11].contains f

/-- GATHER (Table 9-1, R377), but for its regions. -/
def gatherForm (b : List Byte) : Bool :=
  let mode := leField b 0x12 1
  let sel := leField b 0x17 1
  bitsClear mode 5 && gatherFmt (leField b 0x13 1 % 16) && gatherOutFmt (leField b 0x13 1 / 16) &&
    decide (1 ≤ leField b 0x14 2 ∧ leField b 0x14 2 ≤ 64) && bitsClear (leField b 0x16 1) 6 && leField b 0x16 1 != 0 &&
    (if mode.testBit 4 then decide (sel < 16) else sel == 0) && decide (1 ≤ leField b 0x18 4 ∧ leField b 0x18 4 ≤ 2 ^ 20) &&
    bitsClear (leField b 0x1C 4) 21 && zeroAt b 0x3C 4 &&
    decide (1 ≤ gatherOutLines b ∧ gatherOutLines b ≤ leField b 0x38 4)

/-- SEQ (Table 7-8, R299). -/
def seqForm (b : List Byte) : Bool :=
  let op := leField b 0x10 1
  let n := leField b 0x14 2
  decide (op ≤ 3) && zeroAt b 0x11 1 && zeroAt b 0x16 2 && bitsClear (leField b 0x18 4) 21 && zeroAt b 0x1C 20 &&
    (if op = 1 then decide (1 ≤ n ∧ n ≤ 256) else n == 0)

/-- PLACE (Table 8-4). -/
def placeForm (b : List Byte) : Bool :=
  bitsClear (leField b 0x11 1) 1 && zeroAt b 0x12 2 && leField b 0x18 4 != 0 && bitsClear (leField b 0x1C 4) 23 && zeroAt b 0x20 32

/-- SWAP (Table 8-5), but for its regions. -/
def swapForm (b : List Byte) : Bool :=
  bitsClear (leField b 0x13 1) 1 && leField b 0x16 2 != 0 && bitsClear (leField b 0x18 4) 20 && leField b 0x1C 4 != 0 &&
    leField b 0x20 8 % 64 == 0 && bitsClear (leField b 0x30 4) 21 && zeroAt b 0x34 12

/-- PROMOTE (Table 8-8), but for its region. -/
def promoteForm (b : List Byte) : Bool :=
  let op := leField b 0x11 1
  let k := leField b 0x16 1
  decide (op ≤ 3) && zeroAt b 0x17 1 && zeroAt b 0x2C 4 && zeroAt b 0x38 8 &&
    (if op = 0 then
      zeroAt b 0x14 2 && decide (4 ≤ k ∧ k ≤ 16) && leField b 0x18 8 % 8 == 0 &&
        decide (1 ≤ leField b 0x20 4 ∧ leField b 0x20 4 ≤ 65536) && bitsClear (leField b 0x24 4) 20 && bitsClear (leField b 0x28 4) 20 &&
        leField b 0x30 8 % (2 ^ k * 8) == 0
     else k == 0)

/-- TIME (Table 11-7). -/
def timeForm (b : List Byte) : Bool :=
  decide (1 ≤ leField b 0x11 1 ∧ leField b 0x11 1 ≤ 16) && zeroAt b 0x12 2 && bitsClear (leField b 0x14 4) 21 &&
    leField b 0x18 8 % 32 == 0 && zeroAt b 0x20 32

/-- COLLECTIVE (Table 11-6), but for its unit. -/
def collForm (b : List Byte) : Bool :=
  let op := leField b 0x10 1
  let f := leField b 0x11 1
  decide (op ≤ 2) && (if op = 1 then f == 12 || f == 10 else f == 0) && (op == 2 || zeroAt b 0x12 1) && bitsClear (leField b 0x13 1) 2 &&
    leField b 0x18 8 % 64 == 0 && leField b 0x20 8 % 64 == 0 && leField b 0x28 8 % 64 == 0 && bitsClear (leField b 0x30 4) 21 &&
    zeroAt b 0x34 12

/-- The checks of R146 that the letter's bytes decide. -/
def letterForm (b : List Byte) : Bool :=
  envelopeOk b &&
    (match leField b 4 1 with
     | 0x00 => zeroAt b 0x10 48
     | 0x01 => leField b 0x10 8 % 256 == 0
     | 0x02 => signalForm b
     | 0x03 => waitForm b
     | 0x04 => moveForm b
     | 0x05 => gatherForm b
     | 0x06 => seqForm b
     | 0x07 => placeForm b
     | 0x08 => swapForm b
     | 0x09 => promoteForm b
     | 0x0A => timeForm b
     | 0x0B => collForm b
     | _ => false)

end Sys2Proof.Machine
end

