-- ==== Sys2Proof/Machine/Service.lean ====
section
/-! DEFINITION. How streams and letters end, how queues halt and are reset (chapters 04 and 13), how a cluster leaves service
(R16), and how the reset of a context begins (R490). -/

namespace Sys2Proof.Machine

/-! ## Streams of a RUN (R164 to R168) -/

/-- Change every sequencer, by its key. -/
def State.mapSeqrs (s : State) (f : Nat → Seqr → Seqr) : State :=
  { s with cs := { s.cs with seqrs := s.cs.seqrs.map (fun (e : Nat × Seqr) => (e.1, f e.1 e.2)) } }

/-- Every stream of a letter is to end at its next dispatch (R165). -/
def Seqr.abortOf (q : Seqr) (l : LetterId) : Seqr :=
  { q with streams := q.streams.map (fun (t : Stream) => if t.letter = l then { t with abort := true } else t) }

/-- Every stream of a RUN has ended. -/
def allEnded (l : List (Nat × StreamEnd)) : Bool := l.all (fun e => match e.2 with
  | .ended _ => true
  | _ => false)

/-- The failed members of a RUN, by path. -/
def failedMembers (l : List (Nat × StreamEnd)) : List (Nat × Code) := l.filterMap (fun e => match e.2 with
  | .ended (some c) => if c = codeOk then none else some (e.1, c)
  | _ => none)

/-- The member path of member key `cm` in a unit's image (Table 4-13): relative to a level-1 unit its cluster is 0, to a level-0
unit all of it is 0; at level 3 and above the die's position stands in [31:16]. -/
def State.memberPath (s : State) (u : BitVec 16) (cm : Nat) : Nat :=
  match unitLevel u with
  | 0 => 0
  | 1 => cm % 16
  | 2 => cm
  | _ => (s.die - s.fld .olaUnit fOlaUnitFirstDie (unitIndex u)) * 2 ^ 16 + cm

/-- The codes that Table 4-24 marks E: only these are ever posted as events (R182). -/
def codePosted (c : Code) : Bool :=
  [codeQueueOverrun, codeAddressInvalid, codeArrayCheckFail, codeVectorFault, codePortParity, codeCoreControlFault,
   codeBenchUncorrectable, codeSyncSaturated, codeHbmUncorrectable, codeSramUncorrectable, codeKvPagesExhausted,
   codeExpertUnavailable, codeSwapRolledBack, codeBlockOversize, codeFlashProgramFail, codeFlashUncorrectable, codeRegionLocked,
   codePasswordLockout, codeParcelRemoved, codeLinkDown, codeLinkAuthFail, codeRouteInvalid, codeRegAccessMalformed,
   codeTxnTimeout, codeTxnOwnerLost, codeFirmwareRestart, codeCoolantStop, codePowerWarning, codeThermalTrip,
   codeSignatureInvalid, codeClockFault, codeSpareSwitched].contains c

/-- The RUN ends when every member's stream has ended: with the code of the lowest failing member path; the event that is due
for each other member that failed, with a code that is ever posted, waits for the letter's completion (R166, R182;
notes/assumptions/22.md). -/
def State.runEnds (s : State) (l : LetterId) : State :=
  match s.letter l with
  | some x => match x.work with
    | .run _ streams =>
      if !allEnded streams ∨ x.ended.isSome then s
      else
        let u := (s.queue l.q).unit
        let path (p : Nat × Code) := BitVec.ofNat 32 (s.memberPath u p.1)
        match failedMembers streams with
        | [] => s.endLetter l { code := codeOk }
        | p :: ps =>
          let lo := ps.foldl (fun a b => if b.1 < a.1 then b else a) p
          let s := s.endLetter l { code := lo.2, member := path lo }
          s.updLetter l (fun y => { y with events := ((p :: ps).filter (fun e => e.1 != lo.1 && codePosted e.2)).map (fun e => (path e, e.2)) })
    | _ => s
  | none => s

/-- A member's stream has ended with a code, or with none (R165, R166). An error ends the RUN's other streams at their next
dispatch. -/
def State.reportStream (s : State) (l : LetterId) (cm : Nat) (code : Option Code) : State :=
  let s := s.updLetter l (fun x => match x.work with
    | .run b st => { x with work := .run b (st.map (fun e => if e.1 = cm then (cm, .ended code) else e)) }
    | _ => x)
  let bad := match code with
    | some c => c != codeOk
    | none => false
  let s := if bad then s.mapSeqrs (fun k q => if k % 256 = cm then q else q.abortOf l) else s
  s.runEnds l

/-! ## Waits that lapse -/

/-- Remove the registered and arriving waits whose holder a predicate picks, those that a slab copy holds included. -/
def State.cancelWaits (s : State) (p : Party → Bool) : State :=
  let stays (o : SyncOp) : Bool := match o.act with
    | .wait _ _ => !p o.who
    | .signal _ => true
  let s : State := { s with sync := { s.sync with
    ops := s.sync.ops.filter stays
    copies := s.sync.copies.map (fun (c : SlabCopy) => { c with held := c.held.filter stays }) } }
  s.each (s.sync.objs.filter (fun e => e.2.waits.any (fun w => p w.who))) (fun s (e : Nat × SyncObj) =>
    s.setObj (keySync e.1) { e.2 with waits := e.2.waits.filter (fun w => !p w.who) })

/-- A party is a letter's. -/
def Party.ofLetter (l : LetterId) : Party → Bool
  | .letter m => m == l
  | .placeEmpty m _ => m == l
  | .swapGate m => m == l
  | _ => false

/-! ## Letters and queues -/

/-- A descriptor works for a letter itself. -/
def Origin.ofLetter (l : LetterId) : Origin → Bool
  | .move m _ => m == l
  | .place m _ => m == l
  | .swapStage m _ => m == l
  | .swapCopy m _ => m == l
  | .coll m => m == l
  | _ => false

/-- A letter's work stops: its waits lapse, its streams end at their next dispatch, its descriptors and bags issue nothing
further and write nothing further, and it waits for no expert (R153, R490). -/
def State.stopLetter (s : State) (l : LetterId) : State :=
  let s := s.cancelWaits (Party.ofLetter l)
  let s := s.mapSeqrs (fun _ q => q.abortOf l)
  let s := { s with
    tier := { s.tier with promWaits := s.tier.promWaits.filter (fun (w : PromWait) => w.letter != l) } }
  let s := s.cancelSeqOps l
  let s := s.failDescs (fun d => d.origin.ofLetter l) codeRunAborted
  let s := s.each (s.srt.bags.filter (fun b => b.letter == l)) (fun s (b : Bag) => s.failBag b.k b.slot codeRunAborted [])
  s.dropJobs l

/-- Nothing of a letter's work goes on. -/
def State.letterQuiet (s : State) (l : LetterId) : Bool :=
  (match s.letter l with
   | some x => match x.work with
     | .run _ st => allEnded st
     | _ => true
   | none => true) &&
    !((List.range 20).any (fun k => (s.courier k).descs.any (fun d => d.origin.ofLetter l))) &&
    !(s.srt.bags.any (fun b => b.letter == l))

/-- A queue halts (R153, R541): every fetched letter that has not started is discarded, and it winds back once every started one
has completed. -/
def State.haltQueue (s : State) (q : Nat) : State :=
  s.updQ q (fun x => { x with state := .halted, windback := true, letters := x.letters.filter (·.started) })

/-- A letter has failed: its queue halts, and every later letter that has started ends with RUN_ABORTED (R153). -/
def State.failQueue (s : State) (l : LetterId) : State :=
  let later := ((s.queue l.q).letters.dropWhile (fun x => x.pm != l.pm)).drop 1
  let s := s.haltQueue l.q
  s.each (later.filter (fun x => x.started && x.ended.isNone)) (fun s x =>
    (s.stopLetter ⟨l.q, x.pm⟩).endLetter ⟨l.q, x.pm⟩ { code := codeRunAborted })

/-- A queue is reset (Table 13-4, R203, R304, R758). -/
def State.resetQueue (s : State) (q : Nat) : State :=
  let s := s.orphanQueue q
  let s := s.each ((s.queue q).letters.filter (·.started)) (fun s x => s.stopLetter ⟨q, x.pm⟩)
  let s := s.updQ q (fun x => { x with
    letters := [], refusal := none, windback := false, heldRestart := false
    head := x.completed, accepted := x.completed, tail := x.completed, state := .halted })
  s.abortSteps q

/-- Queues bound to a context. -/
def State.queuesOf (s : State) (x : Nat) : List Nat :=
  (s.queues.filter (fun e => e.2.log2 != 0 && e.2.ctx.toNat == x)).map (·.1)

/-! ## Halting (R80, R99, R669, R766) -/

/-- A fault in a cluster ends its switch (R663, notes/assumptions/72.md): before its state has left, the outgoing context stays; after
that, no context is resident and a saved image is kept. -/
def State.endSwitch (s : State) (cl : Nat) : State :=
  match tabGet none s.cx.switch cl with
  | none => s
  | some w =>
    let stays := w.out.isSome && (w.phase == .ordered || w.phase == .saving)
    let s := { s with cx := { s.cx with
        switch := tabSet none s.cx.switch cl none
        images := match w.out with
          | some o => if w.phase = SwitchPhase.saving then tabSet none s.cx.images (16 * o + cl) none else s.cx.images
          | none => s.cx.images } }
    let s := s.failDescs (fun d => d.origin.switchOf == some cl) codeUnitOutOfService
    let s := s.setFld .ctxResident fCtxResidentState cl (if stays then 1 else 0)
    match w.out with
    | some o => if stays then s.setFld .ctxResident fCtxResidentContext cl o else s
    | none => s

/-- A core halts on a detection: its status, the codes of its streams, its work in flight, its lace and the descriptors that name it.
Accumulator rows stay as last committed (R80, R99), and the formats of the latest LDS commands stay with their buffers (R768). -/
def State.haltCore (s : State) (c a : Nat) (f : CoreFault) : State :=
  let place := s.place c
  let s := (s.faultBit c a f).setFld .fltCoreStatus fFltCoreStatusHalted c 1
  let status := (s.reg .fltCoreStatus c).toNat % 2 ^ 32
  let s := s.updCore c (fun k => { k with halt := some ([faultCode f], status) })
  match place with
  | none => if s.clusterIn (c / 17) then (s.freezeLace (c / 17)).endSwitch (c / 17) else s
  | some p =>
    let s := s.each (s.haltedLetters p) (fun s l => s.failStream p.x p.cm l (faultCode f))
    let s := s.each (s.core c).cmds (fun s x => s.ldsLost c x)
    let s := s.updCore c (fun k => { k with
      arrs := k.arrs.map Arr.halt
      shadow := none, load := [], loadScales := [], cmds := [], attn := none, smRows := [], fwd := none })
    let s := s.updSeqr p.x p.cm (fun q => { q with sigq := [] })
    let s := s.freezeLace (cmCl p.cm)
    let s := s.failDescs (fun d => d.active && d.desc.members.contains p.cm) codeUnitOutOfService
    let s := s.failDescs (fun d => !d.active && (match d.origin with
      | .drain m _ => m == p.cm
      | _ => false)) codeUnitOutOfService
    s.settleAborts

/-- A further detection on a halted core fell in the cycle of the halt: its bit is set and its code joins (R669, notes/assumptions/52.md). -/
def State.joinHalt (s : State) (c a : Nat) (f : CoreFault) : State :=
  let s := s.faultBit c a f
  let status := (s.reg .fltCoreStatus c).toNat % 2 ^ 32
  s.updCore c (fun k => { k with halt := k.halt.map (fun h => (codeInsert (faultCode f) h.1, status)) })

/-- A halting detection in a core that holds a member number. -/
def State.haltAt (s : State) (c a : Nat) (f : CoreFault) : State :=
  if (s.memberOf c).isNone then s else if s.halted c then s.joinHalt c a f else s.haltCore c a f

/-- One cycle of a core's part: a detection halts the core; else the part does its work while the core has a place. What a read of the
same cycle finds beyond correction is reported too (R669). -/
def State.inCore (s : State) (c a : Nat) (fault : CoreFault) (rd : ReadRes) (go : State → State) : State :=
  if !s.clocked then s
  else if fault ≠ .none then
    (if rd = .uncorrectable ∧ (s.place c).isSome then go s else s).haltAt c a fault
  else if (s.place c).isSome then go s
  else s

/-! ## Clusters -/

/-- End every stream of a member, in every context (R168). -/
def State.endMember (s : State) (cm : Nat) (code : Code) : State :=
  let hits := s.cs.seqrs.filter (fun e => e.1 % 256 == cm)
  let s := s.each hits (fun s e =>
    let s := s.cancelWaits (fun p => match p with
      | .core x c => x == e.1 / 256 && c == cm
      | _ => false)
    s.each e.2.streams (fun s t => s.reportStream t.letter cm (some (t.fail.getD code))))
  { s with cs := { s.cs with seqrs := s.cs.seqrs.filter (fun e => !(e.1 % 256 == cm)) } }

/-- Requests of the page walker of a cluster are given up. -/
def State.dropWalker (s : State) (cl : Nat) : State :=
  { s with mv := { s.mv with reqs := s.mv.reqs.filter (fun r => !(r.agent == .walker cl)) } }

/-- A cluster leaves service (R16, R168, R203, R247, R673, R761, R766): its position on the lace is none, the die's last shows one
member and 16 cores less, its streams, descriptors and attention commands end with UNIT_OUT_OF_SERVICE, queues bound to it are
reset, and no context is resident on it. -/
def State.clusterOut (s : State) (cl : Nat) : State :=
  if !s.clusterIn cl then s
  else
    let s := (s.setFld .laceStatus fLaceStatusOffPos cl 0x1F).setFld .laceStatus fLaceStatusState cl 0
    let s := s.updLace cl (fun _ => {})
    let w0 := (s.reg .cfgLastDie 0 0).toNat
    let w1 := (s.reg .cfgLastDie 0 1).toNat
    let s := s.setReg .cfgLastDie 0 0 (BitVec.ofNat 64 (w0 - 2 ^ 32))
    let s := s.setReg .cfgLastDie 0 1 (BitVec.ofNat 64 (w1 - 16))
    let s := s.each (rangeFrom (16 * cl) 16) (fun s cm => s.endMember cm codeUnitOutOfService)
    let s := s.each (rangeFrom (17 * cl) 17) (fun s c => s.updCore c (fun k => { nextCmd := k.nextCmd }))
    let s := s.dropWalker cl
    let s := s.failDescs (fun d => d.desc.clusters.contains cl || d.feeds cl) codeUnitOutOfService
    let s := s.each ((s.courier cl).descs) (fun s d => s.failDesc cl d.id codeUnitOutOfService 0 [])
    let s := (s.setFld .ctxResident fCtxResidentState cl 0)
    let s := { s with cx := { s.cx with
      switch := tabSet none s.cx.switch cl none
      build := s.cx.build.map (fun (b : ResSet) => { b with clusters := setErase cl b.clusters }) } }
    s.each ((s.queues.filter (fun (e : Nat × Queue) => e.2.log2 != 0 && decide (unitLevel e.2.unit ≤ 1) && unitCluster e.2.unit == cl)).map (·.1))
      (fun s q => s.resetQueue q) |>.settleAborts

/-- The event of R670 for a fault in a cluster agent (R673): action 3, no member. -/
def State.agentOutEvent (s : State) (cl : Nat) : State :=
  s.postDev { code := codeCoreControlFault
              detail := [BitVec.ofNat 8 cl, 0, 0xFF, 3] ++ List.replicate 8 0 ++ [0xFF, 1] }

/-- A duplicated-logic disagreement in a cluster courier, page walker or lace control (R673). -/
def State.clusterAgentFault (s : State) (cl : Nat) : State :=
  if s.clusterIn cl then (s.clusterOut cl).agentOutEvent cl else s

/-! ## Resetting a context (R490) -/

/-- Sequences of a context. -/
def State.seqsOf (s : State) (x : Nat) : List Nat :=
  (s.kv.seqs.filter (fun e => e.2.state != .free && e.2.ctx == x)).map (·.1)

/-- Bring CTX_PR_STATUS up to date (Table 8-16). -/
def State.prNote (s : State) : State :=
  (s.setFld .ctxPrStatus fCtxPrStatusPromotions 0 ((s.tier.promos.filter (fun p => p.slot.isSome)).length)).setFld
    .ctxPrStatus fCtxPrStatusHeld 0 s.tier.held.length

/-- Steps 1 to 4 of R490 begin: queues are reset, streams, descriptors, bags and waiting records end, sequences close. What has been
issued returns before the reset ends. -/
def State.resetContext (s : State) (x : Nat) : State :=
  if s.cx.resetting.contains x then s
  else
    let s := { s with cx := { s.cx with resetting := s.cx.resetting ++ [x] } }
    let s := s.each (s.queuesOf x) (fun s q => s.resetQueue q)
    let s := s.failDescs (fun d => d.ctx == x && (match d.origin with
      | .promote _ _ | .switchSave _ | .switchLoad _ => false
      | _ => true)) codeRunAborted
    let s := s.cancelWaits (fun p => match p with
      | .core y _ => y == x
      | _ => false)
    let credit := s.tier.ready.filter (fun r => r.ctx == x)
    let s := s.cancelWaits (fun p => match p with
      | .credit _ id => credit.any (fun r => r.id == id)
      | _ => false)
    let s := { s with
      cs := { s.cs with seqrs := s.cs.seqrs.filter (fun e => e.1 / 256 != x) }
      tier := { s.tier with
        held := s.tier.held.filter (fun r => r.ctx != x)
        ready := s.tier.ready.filter (fun r => r.ctx != x) } }
    s.prNote.each (s.seqsOf x) (fun s n => s.closeSeq n)

/-- Nothing of a context is still on its way: descriptors, bags, walkers' requests, sync operations, switches, and flash programs for its
pages. -/
def State.contextQuiet (s : State) (x : Nat) : Bool :=
  !((List.range 20).any (fun k => (s.courier k).descs.any (fun d => d.ctx == x && (match d.origin with
    | .promote _ _ => false
    | _ => true)))) &&
    !(s.srt.bags.any (fun b => s.letterCtx b.letter == x)) && !(s.sync.ops.any (fun o => o.key.ctx == x)) &&
    !(s.sync.copies.any (fun c => c.held.any (fun o => o.key.ctx == x))) &&
    !((List.range 16).any (fun cl => match tabGet none s.cx.switch cl with
      | some w => w.inn == x || w.out == some x
      | none => false)) &&
    !(s.fl.progs.any (fun j => match j.who with
      | .demote n _ _ => (s.sequence n).ctx == x
      | _ => false))

/-! ## Starting letters (R152, R157, R474, R475, Table 12-6) -/

/-- The completion ring of a context is full, or a queue's record still waits for a place (R157). -/
def State.complFull (s : State) (x : Nat) : Bool :=
  s.fld .hifRingCfg fHifRingCfgLog2Entries x != 0 && !s.ringHasSpace x

/-- The clusters that a unit covers, those out of service left out. -/
def State.unitClusters (s : State) (u : BitVec 16) : List Nat :=
  (if unitLevel u ≤ 1 then [unitCluster u] else List.range 16).filter s.clusterIn

/-- The clusters that a letter needs residency on (R474, R761). -/
def State.letterNeeds (s : State) (q : Nat) (x : Letter) : List Nat :=
  let u := (s.queue q).unit
  (match x.opcode with
   | 1 => s.unitClusters u
   | 4 => ((if unitLevel u = 1 then [unitIndex u] else []) ++ (parseDesc ((x.raw.drop 16).take 32)).clusters).eraseDups
   | 5 => if (x.field 0x12 1).testBit 4 then [x.field 0x17 1] else []
   | _ => []).filter s.clusterIn

/-- The letter that a queue starts next, and whether its place in the queue lets it start (R152, R300, R455). -/
def Queue.nextStart (x : Queue) : Option Letter :=
  let done := x.letters.takeWhile (·.started)
  match (x.letters.dropWhile (·.started)).head? with
  | none => none
  | some l =>
    let alone := l.fence || [2, 6, 0x0B].contains l.opcode
    let barred := done.any (fun e => !e.completed && (e.opcode == 3 || e.opcode == 6))
    if barred || (alone && done.any (fun e => !e.completed)) then none else some l

/-- Work of an earlier letter with the same queue and postmark, which a RESET ended without a record, is still coming to its end. -/
def State.letterStale (s : State) (l : LetterId) : Bool :=
  s.cs.seqrs.any (fun e => e.2.streams.any (fun t => t.letter == l)) || s.sync.ops.any (fun o => Party.ofLetter l o.who) ||
    (List.range 20).any (fun k => (s.courier k).descs.any (fun d => d.origin.ofLetter l)) || s.srt.bags.any (fun b => b.letter == l)

/-- The letter of an opcode that a queue may start now but for residency. -/
def State.nextLetter (s : State) (q op : Nat) : Option Letter :=
  let x := s.queue q
  if s.run && x.state == .active && s.ctxState x.ctx.toNat == 2 && !s.cx.resetting.contains x.ctx.toNat && s.fwOn 2 &&
      !s.complFull x.ctx.toNat then
    match x.nextStart with
    | some l => if l.ended.isNone && l.opcode == op && !s.letterStale ⟨q, l.pm⟩ && (s.letterNeeds q l).all (fun c => s.fwOn (3 + c)) then some l else none
    | none => none
  else none

/-- The letter of an opcode that a queue starts now. -/
def State.startable (s : State) (q op : Nat) : Option Letter :=
  match s.nextLetter q op with
  | some l => if (s.letterNeeds q l).all (fun c => s.residentOn c (s.queue q).ctx.toNat) then some l else none
  | none => none

/-- Start a letter: it is marked, and its work begins or it ends. -/
def State.startWith (s : State) (q op : Nat) (p : Letter → Bool) (go : State → LetterId → Letter → State) : State :=
  match s.startable q op with
  | some x => if p x then go (s.updLetter ⟨q, x.pm⟩ (fun y => { y with started := true })) ⟨q, x.pm⟩ x else s
  | none => s

/-- A sync reference of a letter that R765 accepts: it names an object that the letter may use, and one that the letter waits on is
bound by no proxy. -/
def State.refOk (s : State) (l : LetterId) (ref : Nat) (waits : Bool) : Bool :=
  match s.letterRef l (BitVec.ofNat 20 ref) with
  | some k => !(waits && k.hub && (s.proxyOf k.ctx k.idx).isSome)
  | none => false

/-- The DONE word of a letter passes R765. -/
def State.doneOk (s : State) (l : LetterId) (done : Nat) : Bool := !done.testBit 20 || s.refOk l done false

end Sys2Proof.Machine
end

