-- ==== Sys2Proof/Machine/Switch.lean ====
section
/-! DEFINITION. Steps 1 to 4 of a cluster switch, with the courier traffic that saves and restores it (R483 to R485). -/

namespace Sys2Proof.Machine

/-! ## Images (R483) -/

/-- Entries of a table with keys from `lo`, `n` of them, moved to `dst`; what stood at `dst` goes. -/
def tabMove {α : Type} [DecidableEq α] (d : α) (src dst : Tab α) (lo n to_ : Nat) : Tab α :=
  (src.filter (fun e => decide (lo ≤ e.1 ∧ e.1 < lo + n))).foldl (fun t e => tabSet d t (e.1 - lo + to_) e.2) (tabClear dst to_ (to_ + n))

/-- A member's state for the image: its tables keyed from 0. -/
def State.coreImage (s : State) (c : Nat) : CoreImage :=
  { core := s.core c
    bench := tabMove memDefault s.mem.bench [] (c * 2 ^ 20) (2 ^ 20) 0
    benchBad := (s.mem.benchBad.filter (fun k => decide (k / 16384 = c))).map (· % 16384)
    vreg := tabMove memDefault s.mem.vreg [] (c * 16384) 16384 0
    acc := tabMove 0 s.cs.acc [] (accKey c 0 0 0) 65536 0
    smM := tabMove 0 s.cs.smM [] (c * 256) 256 0
    smL := tabMove 0 s.cs.smL [] (c * 256) 256 0 }

/-- A core takes a saved state. -/
def State.restoreCore (s : State) (c : Nat) (i : CoreImage) : State :=
  { s with
    mem := { s.mem with
      bench := tabMove memDefault i.bench s.mem.bench 0 (2 ^ 20) (c * 2 ^ 20)
      benchBad := s.mem.benchBad.filter (fun k => decide (k / 16384 ≠ c)) ++ i.benchBad.map (c * 16384 + ·)
      vreg := tabMove memDefault i.vreg s.mem.vreg 0 16384 (c * 16384) }
    cs := { s.cs with
      cores := tabSet {} s.cs.cores c i.core
      acc := tabMove 0 i.acc s.cs.acc 0 65536 (accKey c 0 0 0)
      smM := tabMove 0 i.smM s.cs.smM 0 256 (c * 256)
      smL := tabMove 0 i.smL s.cs.smL 0 256 (c * 256) } }

/-- Lines of a cluster store that were poisoned when it was saved. -/
def State.storeStays (s : State) (cl : Nat) (bad : List Nat) : State :=
  { s with mem := { s.mem with storeBad := s.mem.storeBad ++ bad.map (cl * 65536 + ·) } }

/-- Zero a cluster: every core (R97) and the cluster store. -/
def State.zeroCluster (s : State) (cl : Nat) : State :=
  let s := s.mend 1 (fun l => l / 65536 == cl)
  let s := (s.each (rangeFrom (17 * cl) 17) (fun s c => s.zeroCore c)).settleAborts
  { s with mem := { s.mem with
      store := tabClear s.mem.store (storeAddr cl 0) (storeAddr (cl + 1) 0)
      storeBad := s.mem.storeBad.filter (fun k => decide (k / 65536 ≠ cl)) } }

/-- The members' cores of a cluster, by member number. -/
def State.clusterCores (s : State) (cl : Nat) : List Nat := (List.range 16).filterMap (fun m => s.coreOf cl m)

/-- The image of a cluster. -/
def State.clusterImage (s : State) (cl : Nat) : ClImage :=
  { cores := (s.clusterCores cl).map s.coreImage
    storeBad := (s.mem.storeBad.filter (fun k => decide (k / 65536 = cl))).map (· % 65536) }

/-- A cluster's image of a context is kept, or gone. -/
def State.setImage (s : State) (x cl : Nat) (i : Option ClImage) : State :=
  { s with cx := { s.cx with images := tabSet none s.cx.images (16 * x + cl) i } }

/-- Context `x` has just been on the cluster. -/
def State.wasOn (s : State) (x cl : Nat) : State :=
  { s with cx := { s.cx with turns := s.cx.turns + 1, lastOn := tabSet 0 s.cx.lastOn (16 * x + cl) (s.cx.turns + 1) } }

/-- The switch of a cluster, or none. -/
def State.setSwitch (s : State) (cl : Nat) (w : Option Switch) : State :=
  { s with cx := { s.cx with switch := tabSet none s.cx.switch cl w } }

/-! ## The traffic (R485)

The block of a context for a cluster is 28 MiB of lines: 24 MiB of core state, in a format private to the device, then the cluster store.
On the cluster's side it is SPACE 7 here, which no descriptor of a letter or a command can name. -/

/-- Lines of a block that hold core state, and all its lines. -/
def stateLines : Nat := 393216
def blockLines : Nat := 458752

/-- The window offset of a cluster's block in the save area of a context. -/
def State.saveBlock (s : State) (x cl : Nat) : Nat := 2 ^ 25 * cl + s.fld .ctxSaveBase fCtxSaveBaseBase x

/-- The store address of line `n` of a block. -/
def blockStore (cl n : Nat) : Nat := storeAddr cl (64 * (n - stateLines))

/-- Lines of core state as a save writes them. -/
def savedBytes (serial line lines : Nat) : List Byte := (List.range (64 * lines)).map (fun i => Config.savedByte serial (64 * line + i))

/-- The descriptor of a block between the cluster and the save area. -/
def State.blockDesc (s : State) (x cl : Nat) (save : Bool) : Desc :=
  let there := sideWord 0 0 (s.saveBlock x cl)
  let here := sideWord 7 cl 0
  { src := if save then here else there, dst := if save then there else here
    rowLines := BitVec.ofNat 32 blockLines, rows := 1, srcStride := 0, dstStride := 0 }

/-- A block's traffic starts at once on the cluster's courier, charged to the context whose state it moves (R640). -/
def State.queueBlock (s : State) (x cl : Nat) (save : Bool) : State :=
  let (id, s) := s.fresh
  let o := if save then Origin.switchSave cl else Origin.switchLoad cl
  let d : CDesc := { id := id, origin := o, desc := s.blockDesc x cl save, ctx := x, queue := 0, phase := 0, hint := 0, stamp := none
                     active := true, nextRead := 0, buf := [], acked := 0, fail := none, failLine := 0 }
  s.updCourier cl (fun c => { c with descs := c.descs ++ [d] })

/-- Lines of a block that could not be read: core state is lost, lines of the store are poisoned. -/
def State.blockBad (s : State) (x cl line lines : Nat) : State :=
  { s with cx := { s.cx with
      images := tabUpd none s.cx.images (16 * x + cl) (fun i => i.map (fun (i : ClImage) =>
        if line < stateLines then { i with lost := true }
        else { i with storeBad := i.storeBad ++ rangeFrom (line - stateLines) lines })) } }

/-- Lines of a block as the courier reads them on the cluster's side. -/
def State.blockRead (s : State) (d : CDesc) (line lines : Nat) : List Byte :=
  if line < stateLines then savedBytes d.id line lines else memRead s.mem.store (blockStore (sideSel d.desc.src % 16) line) (64 * lines)

/-- The number of the save that wrote an image. -/
def State.imageSerial (s : State) (x cl : Nat) : Nat := ((tabGet none s.cx.images (16 * x + cl)).map (·.serial)).getD 0

/-! ## The steps (R483) -/

/-- The switch has come further. -/
def State.phaseTo (s : State) (cl : Nat) (w : Switch) (p : SwitchPhase) : State := s.setSwitch cl (some { w with phase := p })

/-- Steps 1 and 2: what runs is saved where its context is to be saved. Fast-path objects are kept by context throughout, so that saving
and restoring them changes nothing. -/
def State.switchOut (s : State) (cl : Nat) (w : Switch) : State :=
  match w.out with
  | none => s.phaseTo cl w .saved
  | some o =>
    let s := s.wasOn o cl
    if s.fld .ctxEntry fCtxEntrySave o = 1 then
      (((s.setImage o cl (some { s.clusterImage cl with serial := s.mv.spent })).queueBlock o cl true)).phaseTo cl w .saving
    else s.phaseTo cl w .saved

/-- Step 3: the cluster is zeroed, and a saved image starts to come back. -/
def State.switchIn (s : State) (cl : Nat) (w : Switch) : State :=
  let s := s.zeroCluster cl
  match tabGet none s.cx.images (16 * w.inn + cl) with
  | some _ => (s.queueBlock w.inn cl false).phaseTo cl w .loading
  | none => s.phaseTo cl w .moved

/-- The image has come back: undefined where it is lost (R484). -/
def State.switchLoaded (s : State) (cl : Nat) (w : Switch) : State :=
  match tabGet none s.cx.images (16 * w.inn + cl) with
  | some i =>
    let i := if i.lost then Config.lostImage i.serial else i
    let s := s.each ((s.clusterCores cl).zip i.cores) (fun s e => s.restoreCore e.1 e.2)
    ((s.storeStays cl i.storeBad).setImage w.inn cl none).phaseTo cl w .moved
  | none => s.phaseTo cl w .moved

/-- A switch goes on from where its traffic has brought it. -/
def State.switchGo (s : State) (cl : Nat) : State :=
  match tabGet none s.cx.switch cl with
  | some w => match w.phase with
    | .saved => s.switchIn cl w
    | .loaded => s.switchLoaded cl w
    | _ => s
  | none => s

/-- A switch starts, and goes on at once where it has nothing to save. -/
def State.doSwitch (s : State) (cl : Nat) : State :=
  match tabGet none s.cx.switch cl with
  | some w => if w.phase = .ordered then (s.switchOut cl w).switchGo cl else s.switchGo cl
  | none => s

/-- What follows a change at courier `k`: its cluster's cores look again, and its cluster's switch goes on. -/
def State.courierHands (s : State) (k : Nat) : State := (s.clusterHands k).switchGo k

end Sys2Proof.Machine
end

