-- ==== Sys2Proof/Machine/Courier.lean ====
section
/-! DEFINITION. MOVE letters, the couriers' commands and what their requests read and write (chapter 06). -/

namespace Sys2Proof.Machine

/-! ## MOVE (R231 to R233) -/

/-- A MOVE starts: its first descriptor is queued on its courier. -/
def State.startMove (s : State) (l : LetterId) (x : Letter) : State :=
  let u := (s.queue l.q).unit
  let done := x.field 0x38 4
  let k := letterCourier u (natBits done 22 21)
  if unitLevel u = 0 then s.endLetter l { code := codeUnitInvalid }
  else if !s.doneOk l done then s.endLetter l { code := codeSyncInvalid }
  else
    let stamp := if x.field 0x3E 2 = 0 then none else some (s.stampNow + BitVec.ofNat 32 (64 * x.field 0x3E 2))
    (s.setWork l (.move 0 false stamp)).queueDesc k (.move l 0) (parseDesc ((x.raw.drop 0x10).take 32)) (s.letterCtx l) l.q x.phase x.hint stamp

/-- MOVE (R231 to R233): it starts once its courier's queue has room. -/
def execMove (q : Fin 4096) (s : State) : Res :=
  .next (s.startWith q 4
    (fun x => s.courierRoom (letterCourier (s.queue q).unit (natBits (x.field 0x38 4) 22 21)))
    (fun s l x => s.startMove l x))

/-- CHAIN_DESCRIPTOR_READ (R233): the chained descriptor that is due is read from the die window and queued. -/
def State.chainRead (s : State) (l : LetterId) (rd : ReadRes) : State :=
  match s.letter l with
  | none => s
  | some x => match x.work with
    | .move n true stamp =>
      let ctx := s.letterCtx l
      let off := x.field 0x30 8 + 32 * (n - 1)
      let k := letterCourier (s.queue l.q).unit (natBits (x.field 0x38 4) 22 21)
      if x.ended.isSome ∨ !s.courierRoom k then s
      else if !s.mapped ctx off 32 then s.moveEnds l { code := codeAddressInvalid, result := BitVec.ofNat 32 n }
      else
        let a := (s.translate ctx off).getD 0
        let r := s.hbmSees a rd
        let s := (s.hbmNote a rd).hbmAccess (some ctx) a false srcHub 1
        if r = .uncorrectable then
          (s.contained ctx (some l) codeHbmUncorrectable (hbmDetail a 0)).moveEnds l
            { code := codeHbmUncorrectable, result := BitVec.ofNat 32 n }
        else (s.setWork l (.move n false stamp)).queueDesc k (.move l n) (parseDesc (s.winRead ctx off 32)) ctx l.q x.phase x.hint stamp
    | _ => s

/-- CHAIN_DESCRIPTOR_READ. -/
def execChainDescriptorRead (q : Fin 4096) (pm : BitVec 32) (rd : ReadRes) (s : State) : Res :=
  .next (if s.run then s.chainRead ⟨q, pm⟩ rd else s)

/-! ## Starting descriptors (R229, R230, R235, R766) -/

/-- A lace takes a new feed: it is not frozen and feeds nothing. -/
def State.laceFree (s : State) (cl : Nat) : Bool := !(s.lace cl).frozen && (s.lace cl).desc.isNone

/-- The descriptor's cores are there, its context is resident where it must be, and its lace is free. -/
def State.descMayStart (s : State) (d : CDesc) : Bool :=
  d.desc.residence.all (fun c => s.residentOn c d.ctx) &&
    d.desc.members.all (fun cm => match s.coreOf (cmCl cm) (cmMem cm) with
      | some c => !s.halted c
      | none => false) &&
    (match d.desc.feedCluster with
     | some cl => s.laceFree cl
     | none => true)

/-- Start the oldest queued descriptor of a courier, those that wait for residency apart (R230, R235). A cluster's courier runs in the
letter's phase from then on (R180). -/
def State.startDesc (s : State) (k : Nat) : State :=
  match (s.courier k).descs.find? (fun d => !d.active && !s.awaitsResidence d) with
  | none => s
  | some d =>
    if 16 ≤ ((s.courier k).descs.filter (fun d => d.active && !d.origin.isSwitch)).length then s
    else
      match s.checkDesc d.origin d.ctx d.desc with
      | some c => s.endDesc k d.id c []
      | none =>
        if d.desc.residence.any (fun c => !s.clusterIn c) then s.endDesc k d.id codeUnitOutOfService []
        else if !s.descMayStart d then s
        else
          let s := s.updDesc k d.id (fun x => { x with active := true })
          let s := match d.desc.feedCluster with
            | some cl => (s.updLace cl (fun e => { e with desc := some d.id })).setFld .laceStatus fLaceStatusState cl 1
            | none => s
          (s.when (k < 16) (fun s => s.notePhase k d.phase.toNat)).crrNote k


/-! ## Issuing requests (R226 to R228, R235, R236, R257) -/

/-- Lines from `n` on that one request of up to 256 B covers, given the offset of line `n` and the lines of its row left. -/
def chunkLines (off left : Nat) : Nat := min left (4 - off / 64 % 4)

/-- Length of the run of consecutive lines in a buffer from line `n`. -/
def runFrom (buf : List BufLine) : Nat → Nat → Nat
  | 0, _ => 0
  | k + 1, n => if buf.any (fun b => b.line == n) then 1 + runFrom buf k (n + 1) else 0

/-- The lowest line that waits to be written. -/
def CDesc.firstBuf (d : CDesc) : Option Nat := (d.buf.map (·.line)).min?

/-- The descriptor has a request to issue: a line to write, or a line to read. A lace feed's rows go to the entry as they are
complete, without a request of their own. -/
def CDesc.hasWork (d : CDesc) : Bool :=
  d.active && d.fail.isNone &&
    ((sideSpace d.desc.dst != 3 && !d.buf.isEmpty) || decide (d.nextRead < d.desc.total))

/-- The effective hint of a flash read (R340). -/
def State.flashHint (s : State) (d : CDesc) : Nat :=
  let h := d.hint.toNat % 8
  if h = 0 then (s.region (sideSel d.desc.src)).hint % 8 else h

/-- A request of a descriptor. -/
def State.descReq (s : State) (k : Nat) (d : CDesc) (line lines : Nat) (cls : ReqClass) (port : Option Nat) (units addr : Nat)
    (data : List Byte) : State :=
  let (tag, s) := s.fresh
  (s.addReq { tag := tag, agent := .courier k, item := d.id, line := line, lines := lines, cls := cls, port := port, units := units
              stamp := d.stamp.getD s.stampNow, addr := addr, data := data }).crrNote k

/-- A frame to another die for a descriptor's request: WRITE or READ_REQ with the request's tag (R446). -/
def State.descFrame (s : State) (k : Nat) (d : CDesc) (line lines die typ off : Nat) (data : List Byte) : State :=
  let tag := s.mv.spent
  let f := s.mkFrame typ die d.ctx (BitVec.ofNat 64 off) (BitVec.ofNat 64 tag) (BitVec.ofNat 64 (if typ = 2 then lines else 0)) data
  let prot := typ == 1 && (match sideSpace d.desc.src with
    | 0 | 5 => (sideSpace d.desc.src == 0 || sideSel d.desc.src == s.die) &&
        (List.range lines).any (fun i => s.protectedAt (d.desc.srcCtx.getD d.ctx) (d.desc.srcLine (line + i)))
    | 4 => (s.region (sideSel d.desc.src)).protected_
    | _ => false)
  match s.sendFrame (if k < 16 then 4 + k else k - 16) f prot with
  | (_, some c) => s.failDesc k d.id c line []
  | (t, none) =>
    let t := t.descReq k d line lines (if typ = 1 then .write else .read) none lines off data
    { t with ola := { t.ola with remote := t.ola.remote ++ [{ tag := tag, agent := .courier k, die := die, port := s.portFor die }] } }

/-- Issue the write of the lines from `n` on (R237, R238). -/
def State.issueWrite (s : State) (k : Nat) (d : CDesc) (n : Nat) : State :=
  let w := d.desc.dst
  let off := d.desc.dstLine n
  let lines := min (chunkLines off (d.desc.rowLeft n)) (runFrom d.buf 4 n)
  let data := ((rangeFrom n lines).map (fun i => match d.buf.find? (fun b => b.line == i) with
    | some b => b.data
    | none => [])).flatten
  let t := s.updDesc k d.id (fun x => { x with buf := x.buf.filter (fun b => !decide (n ≤ b.line ∧ b.line < n + lines)) })
  let sp := sideSpace w
  if sp = 0 ∨ (sp = 5 ∧ sideSel w = s.die) then
    match s.translate d.ctx off with
    | none => s.failDesc k d.id codeAddressInvalid n []
    | some a => t.descReq k d n lines .write (some (hbmPort a)) lines a data
  else if sp = 1 then t.descReq k d n lines .write none lines (storeAddr (sideSel w % 16) off) data
  else if sp = 2 then
    match s.coreOf (sideSel w % 16) (off / 2 ^ 20 % 16) with
    | some c => t.descReq k d n lines .write none lines (c * 2 ^ 20 + off % 2 ^ 20) data
    | none => s
  else if sp = 5 then t.descFrame k d n lines (sideSel w) 1 off data
  else if sp = 7 then t.descReq k d n lines .write none lines (blockStore (sideSel w % 16) n) data
  else if sp = 6 then
    match s.hostAddr d.ctx off (64 * lines) with
    | none => s.failDesc k d.id codeAddressInvalid n []
    | some a => (t.descReq k d n lines .write none lines a data).toHost (.hostWrite a data)
  else s

/-- Issue the next write of a broadcast line: to this die, then to each other die in turn, each with a request of its own
(R346, R447). -/
def State.issueFan (s : State) (k : Nat) (d : CDesc) (n : Nat) : State :=
  let off := d.desc.dstLine n
  let data := match d.buf.find? (fun b => b.line == n) with
    | some b => b.data
    | none => []
  let last := decide (d.desc.fan.length ≤ d.fanNext)
  let t := s.updDesc k d.id (fun x => { x with
    fanNext := if last then 0 else x.fanNext + 1
    buf := if last then x.buf.filter (fun b => b.line != n) else x.buf })
  if d.fanNext = 0 then
    match s.translate d.ctx off with
    | none => s.failDesc k d.id codeAddressInvalid n []
    | some a => t.descReq k d n 1 .write (some (hbmPort a)) 1 a data
  else t.descFrame k d n 1 (d.desc.fan.getD (d.fanNext - 1) 0) 1 off data

/-- Issue the read of the lines from `n` on. -/
def State.issueRead (s : State) (k : Nat) (d : CDesc) (n : Nat) : State :=
  let w := d.desc.src
  let off := d.desc.srcLine n
  let lines := chunkLines off (d.desc.rowLeft n)
  let t := s.updDesc k d.id (fun x => { x with nextRead := n + lines })
  let sp := sideSpace w
  if sp = 0 ∨ (sp = 5 ∧ sideSel w = s.die) then
    match s.translate (d.desc.srcCtx.getD d.ctx) off with
    | none => s.failDesc k d.id codeAddressInvalid n []
    | some a => t.descReq k d n lines .read (some (hbmPort a)) lines a []
  else if sp = 1 then t.descReq k d n lines .read none lines (storeAddr (sideSel w % 16) off) []
  else if sp = 2 then
    match s.coreOf (sideSel w % 16) (off / 2 ^ 20 % 16) with
    | some c => t.descReq k d n lines .read none lines (c * 2 ^ 20 + off % 2 ^ 20) []
    | none => s
  else if sp = 4 then
    let r := sideSel w
    match s.flashBar r with
    | some c => s.failDesc k d.id c n []
    | none =>
      t.descReq k d n lines .read (some (6 + unitChannel (s.region r).home (off / 65536))) (if s.flashHint d = 3 then 256 else 64) off []
  else if sp = 5 then t.descFrame k d n lines (sideSel w) 2 off []
  else if sp = 7 then t.descReq k d n lines .read none lines (blockStore (sideSel w % 16) n) []
  else if sp = 6 then
    match s.hostAddr d.ctx off (64 * lines) with
    | none => s.failDesc k d.id codeAddressInvalid n []
    | some a => (t.descReq k d n lines .read none lines a []).toHost (.hostRead a (64 * lines))
  else s

/-- The next request of a descriptor waits for a context-table commit that changes the extent it goes through (R548). -/
def State.descHeld (s : State) (d : CDesc) : Bool :=
  let here (w : BitVec 64) : Bool := sideSpace w == 0 || (sideSpace w == 5 && sideSel w == s.die)
  match (if sideSpace d.desc.dst = 3 then none else d.firstBuf) with
  | some n => here d.desc.dst && (d.desc.fan.isEmpty || d.fanNext == 0) && s.heldAt d.ctx (d.desc.dstLine n)
  | none => here d.desc.src && s.heldAt (d.desc.srcCtx.getD d.ctx) (d.desc.srcLine d.nextRead)

/-- The descriptor that issues next, in rotation (R235, R236). -/
def State.nextIssuer (s : State) (k : Nat) : Option CDesc :=
  let c := s.courier k
  let ok := c.descs.filter (fun d => d.hasWork && !s.descHeld d && decide (s.tagsOfDesc k d.id < courierLimit k / 4))
  (nextInTurn c.lastId (ok.map (·.id))).bind (fun i => ok.find? (fun d => d.id == i))

/-- A courier issues its next request: a waiting write before the next read. POOL_WAIT shows that it cannot take a tag (R227). -/
def State.issueNext (s : State) (k : Nat) : State :=
  match s.nextIssuer k with
  | none => s.setFld .crrStatus fCrrStatusPoolWait k 0
  | some d =>
    if !s.canTag k then
      (s.setFld .crrStatus fCrrStatusPoolWait k 1).count (if k < 16 then 1 else 2) (if k < 16 then k else k - 16) 3
    else
      let s := (s.setFld .crrStatus fCrrStatusPoolWait k 0).updCourier k (fun c => { c with lastId := d.id })
      match (if sideSpace d.desc.dst = 3 then none else d.firstBuf) with
      | some n => if d.desc.fan.isEmpty then s.issueWrite k d n else s.issueFan k d n
      | none => s.issueRead k d d.nextRead

/-- COURIER_REQUEST_ISSUE (R226, R235): a detection in the courier acts as R673 and R675 state. -/
def execCourierRequestIssue (k : Fin 20) (fault : AgentFault) (s : State) : Res :=
  .next (if !s.clocked then s
    else
      match fault with
      | .control => if k.val < 16 then s.clusterAgentFault k else s.controlDetect agentDieCourier
      | .parity => match s.nextIssuer k with
        | some d => s.failDesc k d.id codePortParity d.nextRead []
        | none => s
      | .none => if s.run then (s.issueNext k).courierHands k else s)

/-! ## Responses (R226, R237 to R239) -/

/-- Split bytes into lines of 64, numbered from `n`. -/
def splitLines : Nat → Nat → List Byte → List BufLine
  | 0, _, _ => []
  | k + 1, n, bs => { line := n, data := bs.take 64 } :: splitLines k (n + 1) (bs.drop 64)

/-- The data and the failure of a read request that a courier gets back. -/
def State.readBack (s : State) (d : CDesc) (r : Req) (reply : HostReply) (rd : ReadRes) : State × Except (Code × List Byte) (List Byte) :=
  let w := d.desc.src
  let n := 64 * r.lines
  match sideSpace w with
  | 1 =>
    let cl := r.addr / 2 ^ 22
    let line := r.addr % 2 ^ 22 / 64
    let t := s.storeReads cl (rangeFrom line r.lines) rd
    (t.1, if t.2 then .error (codeSramUncorrectable, sramDetail 0 cl line 0) else .ok (memRead s.mem.store r.addr n))
  | 2 =>
    let c := r.addr / 2 ^ 20
    let line := r.addr % 2 ^ 20 / 64
    let t := s.benchReads c (rangeFrom line r.lines) rd
    if t.2 then (t.1.benchUe c, .error (codeBenchUncorrectable, [])) else (t.1, .ok (memRead s.mem.bench r.addr n))
  | 4 =>
    let g := sideSel w
    let ch := unitChannel (s.region g).home (r.addr / 65536)
    let s := s.flashTouch g r.addr
    match s.lateBar g with
    | some c => (s, .error (c, []))
    | none =>
      if rd = .uncorrectable ∨ s.fl.chOut.contains ch then
        let grp := (s.unitGroup g (r.addr / 65536)).getD 0
        (s, .error (codeFlashUncorrectable,
          [BitVec.ofNat 8 ch, BitVec.ofNat 8 (grp / 2 ^ 35 % 8 * 16 + grp / 2 ^ 31 % 16)] ++ leBytes 2 (grp / 2 ^ 12) ++
            leBytes 4 (r.addr / 65536) ++ leBytes 4 0 ++ [BitVec.ofNat 8 g]))
      else
        let s := s.when (rd == .corrected) (fun s => s.count 6 ch 2)
        ((s.countCtx d.ctx 7), .ok (s.flashRead g r.addr n))
  | 7 =>
    if r.line < stateLines then (s, .ok (s.blockRead d r.line r.lines))
    else
      let t := s.storeReads (sideSel w % 16) (rangeFrom (r.line - stateLines) r.lines) rd
      (t.1, if t.2 then .error (codeSramUncorrectable, []) else .ok (s.blockRead d r.line r.lines))
  | 6 =>
    match reply with
    | .error => (s, .error (codeAddressInvalid, []))
    | .data bs => (s, .ok (padBytes n bs))
  | _ =>
    let t := s.hbmReads (lineAddrs r.addr r.lines) rd
    (t.1, if t.2 then .error (codeHbmUncorrectable, hbmDetail r.addr 0) else .ok (memRead s.mem.hbm r.addr n))

/-- Write whole lines to HBM. -/
def State.hbmWriteLines (s : State) (a : Nat) (bs : List Byte) : Nat → State
  | 0 => s
  | n + 1 => (s.hbmWrite a (bs.take 64)).1.hbmWriteLines (a + 64) (bs.drop 64) n

/-- Write whole lines to a cluster store, `a` counting through all stores. -/
def State.storeWriteLines (s : State) (a : Nat) (bs : List Byte) : Nat → State
  | 0 => s
  | n + 1 => (s.storeWrite (a / 2 ^ 22) (a % 2 ^ 22) (bs.take 64)).storeWriteLines (a + 64) (bs.drop 64) n

/-- A write request reaches its destination; host memory and another die's were sent as they were issued. -/
def State.writeThere (s : State) (d : CDesc) (r : Req) : State :=
  match sideSpace d.desc.dst with
  | 1 => s.storeWriteLines r.addr r.data r.lines
  | 2 => s.benchWriteAll (r.addr / 2 ^ 20) (r.addr % 2 ^ 20) r.data 5
  | 6 => s
  | 7 =>
    let cl := sideSel d.desc.dst % 16
    if stateLines ≤ r.line then s.storeWriteLines r.addr r.data r.lines
    else if r.data = savedBytes (s.imageSerial d.ctx cl) r.line r.lines then s
    else s.blockBad d.ctx cl r.line r.lines
  | _ => s.hbmWriteLines r.addr r.data r.lines

/-- Rows of a lace feed that are complete move into the entry, at most four tiles at once (R242). -/
def State.feedEntry (s : State) (k id cl : Nat) : Nat → State
  | 0 => s
  | n + 1 =>
    match s.desc k id with
    | none => s
    | some d =>
      let row := d.desc.rowLines.toNat
      match d.firstBuf with
      | none => s
      | some f =>
        let lines := rangeFrom f row
        if f % row ≠ 0 ∨ 4 ≤ (s.lace cl).tiles.length ∨ !(lines.all (fun i => d.buf.any (fun b => b.line == i))) ∨
            f ≠ row * (s.lace cl).fed ∨ (s.lace cl).desc ≠ some id then s
        else
          let bytes := (lines.map (fun i => match d.buf.find? (fun b => b.line == i) with
            | some b => b.data
            | none => [])).flatten
          let fmt := sideOff d.desc.dst % 16
          let tb := tileBytes fmt
          let s := s.updDesc k id (fun x => { x with buf := x.buf.filter (fun b => !decide (f ≤ b.line ∧ b.line < f + row)) })
          let tile : LaceTile := { id := id, fmt := fmt, bytes := bytes.take tb, scales := if isMx fmt then bytes.drop tb else [] }
          (s.updLace cl (fun e => { e with tiles := e.tiles ++ [tile], fed := e.fed + 1 })).feedEntry k id cl n

/-- Lines that a descriptor has read join those it has to write. -/
def State.gotLines (s : State) (k : Nat) (d : CDesc) (r : Req) (bs : List Byte) : State :=
  let s := s.count (if k < 16 then 1 else 2) (if k < 16 then k else k - 16) 0 r.lines
  if d.fail.isSome then s.settleDesc k d.id []
  else
    let s := s.updDesc k d.id (fun x => { x with buf := x.buf ++ splitLines r.lines r.line bs })
    match d.desc.feedCluster with
    | some cl => s.feedEntry k d.id cl 4
    | none => s

/-- A request of a descriptor is over: what it read joins the lines to write, what it wrote is acknowledged. A parity error on a
bench's side is one of the core's external port too, and halts it (Table 2-13; notes/assumptions/57.md). -/
def State.respond (s : State) (k : Nat) (r : Req) (reply : HostReply) (rd : ReadRes) (parity : Bool) : State :=
  let s := (s.dropReq r.tag).crrNote k
  match s.desc k r.item with
  | none => s
  | some d =>
    let kind := if k < 16 then 1 else 2
    let inst := if k < 16 then k else k - 16
    if parity then
      let t := s.failDesc k d.id codePortParity r.line []
      if sideSpace (if r.cls = .write then d.desc.dst else d.desc.src) = 2 then t.haltAt (r.addr / 2 ^ 20) 0 .parity else t
    else if r.cls = .write then
      if sideSpace d.desc.dst = 6 ∧ reply = .error then s.failDesc k d.id codeAddressInvalid r.line []
      else if sideSpace d.desc.dst ≠ 6 ∧ sideSpace d.desc.dst ≠ 1 ∧ sideSpace d.desc.dst ≠ 2 ∧ sideSpace d.desc.dst ≠ 7 ∧ s.flt.hbmOut.contains (hbmStack r.addr) then
        s.failDesc k d.id codeHbmUncorrectable r.line (hbmDetail r.addr 0)
      else
        let s := ((s.writeThere d r).count kind inst 1 r.lines).countCtx d.ctx 5 r.lines
        (s.updDesc k d.id (fun x => { x with acked := x.acked + r.lines, acks := tabUpd 0 x.acks s.die (· + r.lines) })).settleDesc k d.id []
    else
      match s.readBack d r reply rd with
      | (s, .error (c, det)) =>
        match d.origin.switchOf with
        | some cl => (s.blockBad d.ctx cl r.line r.lines).gotLines k d r (List.replicate (64 * r.lines) 0)
        | none => s.failDesc k d.id c r.line det
      | (s, .ok bs) => s.gotLines k d r bs

/-- A request that has been granted and goes to a store of this die or to the host; the host answers while its link is up (R519). -/
def State.answerable (s : State) (a : Agent) (tag : Nat) : Option Req :=
  if s.ola.remote.any (fun r => r.tag == tag) then none
  else s.mv.reqs.find? (fun r => r.tag == tag && r.agent == a && r.port.isNone && (s.hostUp || !s.hostReq r))

/-- COURIER_RESPONSE (R226, R238, R239, R673, R675). -/
def execCourierResponse (k : Fin 20) (tag : Nat) (reply : HostReply) (rd : ReadRes) (fault : AgentFault) (s : State) : Res :=
  .next (if !s.clocked then s
    else
      match fault with
      | .control => if k.val < 16 then s.clusterAgentFault k else s.controlDetect agentDieCourier
      | f => match s.answerable (.courier k) tag with
        | none => s
        | some r => (s.respond k r reply rd (f == .parity)).courierHands k)

/-- DESCRIPTOR_COMPLETE (R237): every line is written and acknowledged. A lace feed ends as R246 states. -/
def execDescriptorComplete (k : Fin 20) (id : Nat) (s : State) : Res :=
  .next (match s.desc k id with
    | some d =>
      if s.clocked && d.active && d.fail.isNone && sideSpace d.desc.dst != 3 && d.acked == d.desc.total * (d.desc.fan.length + 1) then
        (s.endDesc k id codeOk []).courierHands k else s
    | none => s)

end Sys2Proof.Machine
end

