-- ==== Sys2Proof/Machine/Tiers.lean ====
section
/-! DEFINITION. Layer streaming, in-place replacement, cold experts and the zeroing engine (chapter 08), and the start of
descriptors, which takes up the copies that streamed layers are due. -/

namespace Sys2Proof.Machine

/-! ## Copies and waits of the device's own -/

/-- The descriptor that copies `bytes` from a region's home at `off` to a window offset. -/
def State.regionCopy (s : State) (r off bytes dst : Nat) : Desc :=
  let g := s.region r
  { src := if g.home = 0 then sideWord 0 0 (g.base + off) else sideWord 4 r off
    dst := sideWord 0 0 dst
    rowLines := BitVec.ofNat 32 (bytes / 64), rows := 1, srcStride := 0, dstStride := 0
    srcCtx := if g.home = 0 then some g.owner else none }

/-- Register a wait of the device's own with GE and CONSUME on a SPACE 2 or letter reference. -/
def State.ownWait (s : State) (who : Party) (l : LetterId) (ref value : Nat) : State :=
  match s.letterRef l (BitVec.ofNat 20 ref) with
  | some k => s.sendSync { who := who, act := .wait .ge true, key := k, ref := BitVec.ofNat 20 ref, cl := k.cl, mem := 0
                           value := BitVec.ofNat 32 value, q := l.q }
  | none => s

/-! ## PLACE (R342 to R349) -/

/-- The references FULL(s) and EMPTY(s) of a region's slot (Table 8-2). -/
def Region.full (g : Region) (i : Nat) : Nat := g.syncBase % 2 ^ 20 + 2 * i
def Region.empty (g : Region) (i : Nat) : Nat := g.syncBase % 2 ^ 20 + 2 * i + 1

/-- The layer and the slot of a PLACE's step i (R343). -/
def placeLayer (x : Letter) (g : Region) (i : Nat) : Nat := (x.field 0x14 4 + i) % g.layers
def placeSlot (x : Letter) (g : Region) (i : Nat) : Nat := placeLayer x g i % g.slots

/-- The dies that a PLACE writes besides this one, and how many it writes in all (R346). -/
def State.placeDies (s : State) (l : LetterId) (x : Letter) : List Nat :=
  if (x.field 0x11 1).testBit 0 then (s.unitDies (unitIndex (s.queue l.q).unit)).filter (fun d => d != s.die) else []

/-- Wait on EMPTY for layer i: 1, or the unit's member count, MEMBERS of its entry, under BCAST (R343, R442). -/
def State.placeWait (s : State) (l : LetterId) (x : Letter) (i : Nat) : State :=
  let g := s.region (x.field 0x10 1)
  s.ownWait (.placeEmpty l i) l (g.empty (placeSlot x g i))
    (if (x.field 0x11 1).testBit 0 then s.fld .olaUnit fOlaUnitMembers (unitIndex (s.queue l.q).unit) else 1)

/-- The checks of a PLACE, in order (R335, R342, R765). -/
def State.placeCheck (s : State) (l : LetterId) (x : Letter) : Option Code :=
  let u := (s.queue l.q).unit
  let g := s.region (x.field 0x10 1)
  if unitLevel u ≤ 1 then some codeUnitInvalid
  else if x.field 0x10 1 = 255 ∨ !g.valid ∨ g.kind ≠ 1 ∨ g.slots = 0 ∨ g.layers ≤ x.field 0x14 4 ∨
      ((x.field 0x11 1).testBit 0 ∧ unitLevel u < 3) then some codeLetterInvalid
  else if g.owner ≠ s.letterCtx l then some codeAddressInvalid
  else if !s.doneOk l (x.field 0x1C 4) ||
      !(List.range g.slots).all (fun i => s.refOk l (g.full i) false && s.refOk l (g.empty i) true) then some codeSyncInvalid
  else none

/-- A PLACE starts: it waits on EMPTY for its first two layers (R344). -/
def State.startPlace (s : State) (l : LetterId) (x : Letter) : State :=
  match s.placeCheck l x with
  | some c => s.endLetter l { code := c }
  | none =>
    let n := min 2 (x.field 0x18 4)
    (s.setWork l (.place n ((List.range n).map (fun i => ({ i := i } : PlaceLayer))) 0)).each (List.range n) (fun s i => s.placeWait l x i)

/-- PLACE (R343). -/
def execPlace (q : Fin 4096) (s : State) : Res := .next (s.startWith q 7 (fun _ => true) (fun s l x => s.startPlace l x))

/-- Queue the copy of a PLACE's first layer whose EMPTY has been granted, on its courier where that has room (step 2 of R343, R235);
no layer behind a failed one is copied. -/
def State.placeCopy (s : State) (k : Nat) (l : LetterId) : State :=
  match s.letter l with
  | none => s
  | some x => match x.work with
    | .place n ls full =>
      if x.ended.isSome ∨ 16 + natBits (x.field 0x1C 4) 22 21 ≠ k ∨ !s.courierRoom k then s
      else
        let g := s.region (x.field 0x10 1)
        match (ls.takeWhile (fun y => y.fail.isNone)).find? (fun y => y.granted && !y.started) with
        | none => s
        | some y =>
          let ls := ls.map (fun z => if z.i = y.i then { z with started := true } else z)
          let d := s.regionCopy (x.field 0x10 1) (placeLayer x g y.i * g.unitBytes) g.unitBytes (g.slotBase + placeSlot x g y.i * g.slotStride)
          (s.setWork l (.place n ls full)).queueDesc k (.place l y.i) { d with fan := s.placeDies l x } (s.letterCtx l) l.q x.phase x.hint none
    | _ => s

/-- Every live letter, in queue order. -/
def State.liveLetters (s : State) : List (LetterId × Letter) :=
  (s.queues.map (fun e => (e.2.letters.filter (fun x => x.started && x.ended.isNone)).map (fun x => (({ q := e.1, pm := x.pm } : LetterId), x)))).flatten

/-- FULL(s) is signalled on a die (R343, R346). -/
def State.signalFull (s : State) (l : LetterId) (d ref : Nat) : State :=
  if d = s.die then s.doneSignal l (BitVec.ofNat 20 ref) 1 engPlace
  else
    match s.sendFrame 20 (s.mkFrame 4 d (s.letterCtx l) (BitVec.ofNat 64 ref) 0 1 []) with
    | (s, none) => s
    | (s, some c) => s.signalLost (s.letterCtx l) ref d c

/-- The dies whose writes of a layer are all acknowledged (R346): all of them once the copy has ended, else those of which the
descriptor has every answer. -/
def State.placeDone (s : State) (l : LetterId) (x : Letter) (y : PlaceLayer) : List Nat :=
  let dies := s.die :: s.placeDies l x
  if y.fail.isSome then []
  else if y.copied then dies
  else
    match (s.courier (16 + natBits (x.field 0x1C 4) 22 21)).descs.find? (fun d => d.origin == .place l y.i) with
    | some d => if d.fail.isSome then [] else dies.filter (fun e => d.desc.total == tabGet 0 d.acks e && d.desc.total != 0)
    | none => []

/-- FULL of a PLACE's layers, in layer order on each die: on the dies in `ok`, where every earlier layer has been signalled. -/
def State.tellLayers (s : State) (l : LetterId) (x : Letter) (ok : List Nat) : List PlaceLayer → State × List PlaceLayer
  | [] => (s, [])
  | y :: ys =>
    let g := s.region (x.field 0x10 1)
    let new := (s.placeDone l x y).filter (fun d => ok.contains d && !y.told.contains d)
    let t := s.each new (fun s d => s.signalFull l d (g.full (placeSlot x g y.i)))
    let z : PlaceLayer := { y with told := y.told ++ new }
    let r := t.tellLayers l x (ok.filter (fun d => z.told.contains d)) ys
    (r.1, z :: r.2)

/-- The oldest layer of a PLACE has been signalled everywhere: the next layer's wait begins, or the PLACE completes (R343 to R345). -/
def State.placeNext (s : State) (l : LetterId) : State :=
  match s.letter l with
  | none => s
  | some x => match x.work with
    | .place n (y :: ys) full =>
      if x.ended.isSome ∨ !y.copied ∨ !(s.die :: s.placeDies l x).all (fun d => y.told.contains d) then s
      else
        let count := x.field 0x18 4
        if full + 1 = count then
          ((s.setWork l (.place n ys (full + 1))).letterDone l (x.field 0x1C 4) engPlace).endLetter l { code := codeOk }
        else if n < count ∧ ys.all (fun y => y.fail.isNone) then
          (s.setWork l (.place (n + 1) (ys ++ [{ i := n }]) (full + 1))).placeWait l x n
        else (s.setWork l (.place n ys (full + 1))).placeEnds l
    | _ => s

/-- Layers of a PLACE have been copied, here or on dies of a broadcast: FULL is signalled, and the PLACE goes on. -/
def State.placeCopied (s : State) (l : LetterId) : State :=
  match s.letter l with
  | none => s
  | some x => match x.work with
    | .place n ls full =>
      if x.ended.isSome then s
      else
        let r := s.tellLayers l x (s.die :: s.placeDies l x) ls
        (r.1.setWork l (.place n r.2 full)).placeNext l
    | _ => s

/-- PLACE_LAYER_COPIED (R343). -/
def execPlaceLayerCopied (q : Fin 4096) (pm : BitVec 32) (s : State) : Res :=
  .next (if s.clocked then s.placeCopied ⟨q, pm⟩ else s)

/-! ## SWAP (R350 to R356) -/

/-- Layers per group, groups, and the layers of group `g`. -/
def swapGroup (x : Letter) : Nat := if x.field 0x12 1 = 0 then x.field 0x16 2 else x.field 0x12 1
def swapGroups (x : Letter) : Nat := (x.field 0x16 2 + swapGroup x - 1) / swapGroup x
def swapLayers (x : Letter) (g : Nat) : Nat := min (swapGroup x) (x.field 0x16 2 - g * swapGroup x)

/-- Bytes of one full group. -/
def State.swapBytes (s : State) (x : Letter) : Nat := swapGroup x * (s.region (x.field 0x10 1)).unitBytes

/-- STAGE_BYTES holds two groups (R352). -/
def State.swapDouble (s : State) (x : Letter) : Bool := decide (2 * s.swapBytes x ≤ x.field 0x28 8)

/-- The staging place of group `g`. -/
def State.swapStageAt (s : State) (x : Letter) (g : Nat) : Nat :=
  x.field 0x20 8 + (if s.swapDouble x then g % 2 * s.swapBytes x else 0)

/-- Two byte ranges share a byte. -/
def overlap (a n b m : Nat) : Bool := decide (a < b + m ∧ b < a + n)

/-- The checks of a SWAP, in order (R335, R350, R765). -/
def State.swapCheck (s : State) (l : LetterId) (x : Letter) : Option Code :=
  let ctx := s.letterCtx l
  let t := s.region (x.field 0x10 1)
  let c := s.region (x.field 0x11 1)
  let first := x.field 0x14 2
  let count := x.field 0x16 2
  let stage := x.field 0x20 8
  let bytes := x.field 0x28 8
  let gate := x.field 0x18 4
  if unitLevel (s.queue l.q).unit ≤ 1 then some codeUnitInvalid
  else if x.field 0x10 1 = 255 ∨ x.field 0x11 1 = 255 ∨ !t.valid ∨ t.kind ≠ 1 ∨ t.home ≠ 0 ∨ t.slots ≠ 0 ∨ t.owner ≠ ctx ∨
      !c.valid ∨ c.kind ≠ 1 ∨ c.layers ≠ t.layers ∨ c.unitBytes ≠ t.unitBytes ∨ t.layers < first + count ∨
      (c.home ≠ 0 ∧ bytes < s.swapBytes x) ∨ (c.home = 0 ∧ bytes ≠ 0) ∨
      (gate / 2 ^ 18 ≠ 2 ∧ (s.letterRef l (BitVec.ofNat 20 gate)).isSome) then some codeLetterInvalid
  else if !s.refOk l gate true || !s.doneOk l (x.field 0x30 4) then some codeSyncInvalid
  else if !(c.owner == ctx || c.shared) ||
      (bytes != 0 && (!s.mapped ctx stage bytes || overlap stage bytes t.base t.bytes ||
        (c.home == 0 && c.owner == ctx && overlap stage bytes c.base c.bytes))) then some codeAddressInvalid
  else none

/-- Stage the next group where there is one to stage, a place for it, and room on its courier (R235, R352). -/
def State.swapStageNext (s : State) (l : LetterId) : State :=
  match s.letter l with
  | some x => match x.work with
    | .swap w =>
      let src := s.region (x.field 0x11 1)
      if x.ended.isSome ∨ src.home = 0 ∨ w.staging ∨ w.stageFail.isSome ∨ swapGroups x ≤ w.staged ∨
          !(w.staged == w.group || (s.swapDouble x && w.staged == w.group + 1)) ∨ !s.courierRoom (16 + w.staged % 4) then s
      else
        let g := w.staged
        let first := x.field 0x14 2 + g * swapGroup x
        let d := s.regionCopy (x.field 0x11 1) (first * src.unitBytes) (swapLayers x g * src.unitBytes) (s.swapStageAt x g)
        (s.setWork l (.swap { w with staging := true })).queueDesc (16 + g % 4) (.swapStage l g) d (s.letterCtx l) l.q x.phase x.hint none
    | _ => s
  | none => s

/-- Ask for the gate for the group at hand once it is staged; HELD skips the wait for the first group (step 2 of R351). -/
def State.swapAsk (s : State) (l : LetterId) : State :=
  match s.letter l with
  | some x => match x.work with
    | .swap w =>
      let flash := (s.region (x.field 0x11 1)).home ≠ 0
      if x.ended.isSome ∨ w.asked ∨ (flash ∧ w.staged ≤ w.group) then s
      else if w.group = 0 ∧ (x.field 0x13 1).testBit 0 then s.setWork l (.swap { w with asked := true, gate := true })
      else (s.setWork l (.swap { w with asked := true })).ownWait (.swapGate l) l (x.field 0x18 4) (x.field 0x1C 4)
    | _ => s
  | none => s

/-- A SWAP starts. -/
def State.startSwap (s : State) (l : LetterId) (x : Letter) : State :=
  match s.swapCheck l x with
  | some c => s.endLetter l { code := c }
  | none => ((s.setWork l (.swap {})).swapStageNext l).swapAsk l

/-- Every started letter that has not completed, in queue order: its work may go on though it has failed. -/
def State.openLetters (s : State) : List (LetterId × Letter) :=
  (s.queues.map (fun e => (e.2.letters.filter (fun x => x.started && !x.completed)).map (fun x => (({ q := e.1, pm := x.pm } : LetterId), x)))).flatten

/-- Every earlier SWAP on the TARGET has completed (R354). -/
def State.swapAlone (s : State) (x : Letter) : Bool :=
  !(s.openLetters.any (fun p => p.2.opcode == 8 && p.2.field 0x10 1 == x.field 0x10 1))

/-- SWAP (R351). -/
def execSwap (q : Fin 4096) (s : State) : Res :=
  .next (s.startWith q 8 (fun x => s.swapAlone x) (fun s l x => s.startSwap l x))

/-- SWAP_GROUP_STAGED (R351, R352): the group staged last is known to the SWAP, which asks for the gate and stages on. -/
def execSwapGroupStaged (q : Fin 4096) (pm : BitVec 32) (s : State) : Res :=
  .next (if s.clocked then ((s.swapAsk ⟨q, pm⟩).swapStageNext ⟨q, pm⟩).swapFails ⟨q, pm⟩ else s)

/-- The four shares of a group's copy: courier, first line, lines (R353). -/
def swapShares (lines : Nat) : List (Nat × Nat × Nat) :=
  let n := (lines + 3) / 4
  ((List.range 4).map (fun i => (16 + i, i * n, min n (lines - i * n)))).filter (fun p => p.2.2 != 0)

/-- The gate is taken: the group's copy begins on the four die-level couriers, once each has room (step 3 of R351, R353, R235). -/
def State.swapCopyStart (s : State) (l : LetterId) : State :=
  match s.letter l with
  | some x => match x.work with
    | .swap w =>
      if x.ended.isSome ∨ !w.gate ∨ w.copying then s
      else
        let t := s.region (x.field 0x10 1)
        let c := s.region (x.field 0x11 1)
        let first := x.field 0x14 2 + w.group * swapGroup x
        let lines := swapLayers x w.group * t.unitBytes / 64
        let shares := swapShares lines
        if !shares.all (fun p => s.courierRoom p.1) then s else
        let from_ := if c.home = 0 then c.base + first * c.unitBytes else s.swapStageAt x w.group
        (s.setWork l (.swap { w with copying := true, shares := shares.length })).each shares (fun s p =>
          let d : Desc :=
            { src := sideWord 0 0 (from_ + 64 * p.2.1), dst := sideWord 0 0 (t.base + first * t.unitBytes + 64 * p.2.1)
              rowLines := BitVec.ofNat 32 p.2.2, rows := 1, srcStride := 0, dstStride := 0
              srcCtx := if c.home = 0 then some c.owner else none }
          s.queueDesc p.1 (.swapCopy l w.group) d (s.letterCtx l) l.q x.phase x.hint none)
    | _ => s
  | none => s

/-- SWAP_GATE_TAKEN (R351). -/
def execSwapGateTaken (q : Fin 4096) (pm : BitVec 32) (s : State) : Res :=
  .next (if s.clocked then s.swapCopyStart ⟨q, pm⟩ else s)

/-- DESCRIPTOR_START (R235): what waits for room on the courier joins its queue (granted layers of PLACEs, groups of SWAPs), the oldest
queued descriptor starts, and a cluster's courier takes up what its cores' engines hand over (R234). -/
def execDescriptorStart (k : Fin 20) (s : State) : Res :=
  .next (if s.run then
      let s := s.each s.liveLetters (fun s p => (((s.placeCopy k p.1).placeCopy k p.1).swapStageNext p.1).swapCopyStart p.1)
      let s := s.startDesc k
      if k.val < 16 then s.clusterHands k else s
    else s)

/-- A group is copied: the gate is returned, and the SWAP goes on to its next group or completes (step 4 of R351, R354). -/
def State.swapCopied (s : State) (l : LetterId) : State :=
  match s.letter l with
  | some x => match x.work with
    | .swap w =>
      if x.ended.isSome ∨ !w.copying ∨ w.shares ≠ 0 then s
      else
        let s := s.doneSignal l (BitVec.ofNat 20 (x.field 0x18 4)) (BitVec.ofNat 32 (x.field 0x1C 4)) engHub
        if w.group + 1 = swapGroups x then
          (s.letterDone l (x.field 0x30 4) engHub).endLetter l { code := codeOk, result := BitVec.ofNat 32 (x.field 0x14 2 + x.field 0x16 2) }
        else
          let s := s.setWork l (.swap { w with group := w.group + 1, asked := false, gate := false, copying := false })
          ((s.swapAsk l).swapStageNext l).swapFails l
    | _ => s
  | none => s

/-- SWAP_GROUP_COPIED (R351). -/
def execSwapGroupCopied (q : Fin 4096) (pm : BitVec 32) (s : State) : Res :=
  .next (if s.clocked then s.swapCopied ⟨q, pm⟩ else s)

/-! ## Experts (R357 to R365) -/

/-- An expert's key, and the expert. -/
def expertKey (r u : Nat) : Nat := r * 2 ^ 22 + u
def State.expert (s : State) (r u : Nat) : Expert := tabGet {} s.tier.experts (expertKey r u)

/-- Change an expert. -/
def State.updExpert (s : State) (r u : Nat) (f : Expert → Expert) : State :=
  { s with tier := { s.tier with experts := tabUpd {} s.tier.experts (expertKey r u) f } }

/-- The experts of a region that are not ABSENT and unpinned, by unit. -/
def State.expertsOf (s : State) (r : Nat) : List (Nat × Expert) :=
  (s.tier.experts.filter (fun e => e.1 / 2 ^ 22 == r)).map (fun e => (e.1 % 2 ^ 22, e.2))

/-- USE's COUNT of a region. -/
def State.useCount (s : State) (g : Region) : BitVec 32 :=
  match s.resolveRef g.owner 0 0 (BitVec.ofNat 20 g.syncBase) with
  | some k => (s.obj k).count
  | none => 0

/-- Set a slot's mark to USE's COUNT (R360). -/
def State.markSlot (s : State) (r slot : Nat) : State :=
  { s with tier := { s.tier with
      marked := s.tier.marked + 1
      marks := tabSet {} s.tier.marks (r * 65536 + slot) { mark := s.useCount (s.region r), order := s.tier.marked + 1 } } }

/-- Begin the release of a record: it waits on CREDIT (R360). -/
def State.beginRelease (s : State) (x : RouteRec) (slot : Nat) : State :=
  let s := { s with tier := { s.tier with ready := s.tier.ready ++ [({ x with slot := BitVec.ofNat 16 slot, credit := false } : RouteRec)] } }
  let s := if slot = 0xFFFF then s else s.markSlot x.r slot
  s.ownWait (.credit x.r x.id) x.letter x.creditRef.toNat 1

/-- Start an expert's promotion if it is ABSENT and none is under way. -/
def State.promote (s : State) (r u : Nat) (l : LetterId) : State :=
  if (s.expert r u).state = .absent ∧ !(s.tier.promos.any (fun p => p.r == r && p.u == u)) then
    let p : Promotion := { r := r, u := u, letter := l, slot := none, copied := false, fail := none }
    { s with tier := { s.tier with promos := s.tier.promos ++ [p] } }
  else s

/-- The checks that every PROMOTE shares (R335, R358, Table 8-8). -/
def State.promoteCheck (s : State) (l : LetterId) (x : Letter) : Option Code :=
  let g := s.region (x.field 0x10 1)
  if unitLevel (s.queue l.q).unit ≤ 1 then some codeUnitInvalid
  else if x.field 0x10 1 = 255 ∨ !g.valid ∨ g.kind ≠ 2 ∨ g.layers ≤ x.field 0x12 2 ∨ g.experts ≤ x.field 0x14 2 then some codeLetterInvalid
  else if !(g.owner == s.letterCtx l || g.shared) then some codeAddressInvalid
  else if (s.resolveRef g.owner 0 0 (BitVec.ofNat 20 g.syncBase)).isNone then some codeSyncInvalid
  else none

/-- The checks of a ROUTE beyond those. -/
def State.routeCheck (s : State) (l : LetterId) (x : Letter) : Option Code :=
  let ctx := s.letterCtx l
  let size := 8 * 2 ^ x.field 0x16 1
  match s.promoteCheck l x with
  | some c => some c
  | none =>
    if !s.refOk l (x.field 0x24 4) false || !s.refOk l (x.field 0x28 4) true then some codeSyncInvalid
    else if !s.mapped ctx (x.field 0x18 8) (8 * x.field 0x20 4) || !s.mapped ctx (x.field 0x30 8) size then some codeAddressInvalid
    else if s.winLocked ctx (x.field 0x30 8) size then some codeRegionLocked
    else none

/-- The ROUTE of a letter has this number: the letter is not a later one that bears the same queue and postmark. -/
def State.routeIs (s : State) (l : LetterId) (serial : Nat) : Bool :=
  match s.letter l with
  | some x => match x.work with
    | .route _ k => k == serial
    | _ => false
  | none => false

/-- A ROUTE completes once every record has been read and none of its releases is under way (R359). -/
def State.routeEnds (s : State) (l : LetterId) : State :=
  match s.letter l with
  | some x => match x.work with
    | .route n serial =>
      if n = x.field 0x20 4 ∧ !(s.tier.ready.any (fun r => r.serial == serial)) then s.endLetter l { code := codeOk } else s
    | _ => s
  | none => s

/-- Read one route record: release it, hold it, or end the ROUTE (R359, R361). -/
def State.routeOne (s : State) (l : LetterId) (x : Letter) (n serial : Nat) : State :=
  let r := x.field 0x10 1
  let g := s.region r
  let w := leNat (s.winRead (s.letterCtx l) (x.field 0x18 8 + 8 * n) 8)
  let e := natBits w 47 32
  if g.experts ≤ e ∨ natBits w 63 48 ≠ 0 then s.endLetter l { code := codeLetterInvalid }
  else
    let u := x.field 0x12 2 * g.experts + e
    let rec_ : RouteRec :=
      { id := s.tier.records, r := r, u := u, tag := BitVec.ofNat 32 w, expert := BitVec.ofNat 16 e, letter := l
        serial := serial, ctx := s.letterCtx l, ring := x.field 0x30 8, log2 := x.field 0x16 1, ready := BitVec.ofNat 20 (x.field 0x24 4)
        creditRef := BitVec.ofNat 20 (x.field 0x28 4), slot := 0, credit := false }
    let s := { s with tier := { s.tier with records := s.tier.records + 1 } }
    let s := s.setWork l (.route (n + 1) serial)
    match (s.expert r u).state, s.tier.held.any (fun h => h.r == r && h.u == u) with
    | .resident slot, false => s.beginRelease rec_ slot
    | _, _ => (({ s with tier := { s.tier with held := s.tier.held ++ [rec_] } }).promote r u l).prNote

/-- Read route records until none is left, the poste restante is full, or one ends the ROUTE. -/
def State.routeRead (s : State) (l : LetterId) : Nat → State
  | 0 => s
  | k + 1 =>
    match s.letter l with
    | some x => match x.work with
      | .route n serial =>
        if x.ended.isSome ∨ x.field 0x20 4 ≤ n ∨ 65536 ≤ s.tier.held.length then s
        else (s.routeOne l x n serial).routeRead l k
      | _ => s
    | none => s

/-- A ROUTE goes on reading; an uncorrectable line of its records ends it. -/
def State.routeGo (s : State) (l : LetterId) (rd : ReadRes) : State :=
  match s.letter l with
  | some x => match x.work with
    | .route n _ =>
      let ctx := s.letterCtx l
      let off := x.field 0x18 8 + 8 * n
      if x.ended.isSome ∨ x.field 0x20 4 ≤ n then s.routeEnds l
      else
        let a := (s.translate ctx off).getD 0
        let lines := (rangeFrom (off / 64) ((off + 8 * (x.field 0x20 4 - n) + 63) / 64 - off / 64)).filterMap (fun i => s.translate ctx (64 * i))
        let t := s.hbmReads lines rd
        if t.2 then
          (t.1.contained ctx (some l) codeHbmUncorrectable (hbmDetail a 0)).endLetter l { code := codeHbmUncorrectable }
        else
          let s := t.1.routeRead l (x.field 0x20 4 - n)
          let m := match (s.letter l).map (·.work) with
            | some (.route m _) => m
            | _ => n
          (s.winAccess ctx off (8 * (m - n)) false srcHub).routeEnds l
    | _ => s
  | none => s

/-- The ROUTE of a queue that is reading. -/
def State.routing (s : State) (q : Nat) : Option LetterId :=
  ((s.queue q).letters.find? (fun x => x.started && x.ended.isNone && (match x.work with
    | .route n _ => decide (n < x.field 0x20 4)
    | _ => false))).map (fun x => { q := q, pm := x.pm })

/-- PROMOTE_ROUTE (R359): a ROUTE starts, or one that a full poste restante stopped reads on. -/
def execPromoteRoute (q : Fin 4096) (rd : ReadRes) (s : State) : Res :=
  .next (match s.routing q with
    | some l => if s.run then s.routeGo l rd else s
    | none => s.startWith q 9 (fun x => x.field 0x11 1 == 0) (fun s l x =>
        match s.routeCheck l x with
        | some c => s.endLetter l { code := c }
        | none =>
          let (k, s) := s.fresh
          (s.setWork l (.route 0 k)).routeGo l rd))

/-- PIN would leave the region no unpinned slot (R365). -/
def State.pinFull (s : State) (r u : Nat) : Bool :=
  !(s.expert r u).pinned && decide ((s.region r).slots ≤ ((s.expertsOf r).filter (fun (e : Nat × Expert) => e.2.pinned)).length + 1)

/-- A FETCH or PIN whose expert is resident completes with its slot (R365). -/
def State.fetchDone (s : State) (l : LetterId) (r u slot : Nat) (pin : Bool) : State :=
  if pin ∧ s.pinFull r u then s.endLetter l { code := codeExpertUnavailable }
  else
    let s := if pin then s.updExpert r u (fun e => { e with pinned := true }) else s
    s.endLetter l { code := codeOk, result := BitVec.ofNat 32 slot }

/-- FETCH or PIN starts (R365). -/
def State.startFetch (s : State) (l : LetterId) (x : Letter) (pin : Bool) : State :=
  match s.promoteCheck l x with
  | some c => s.endLetter l { code := c }
  | none =>
    let r := x.field 0x10 1
    let u := x.field 0x12 2 * (s.region r).experts + x.field 0x14 2
    match (s.expert r u).state with
    | .resident slot => s.fetchDone l r u slot pin
    | _ =>
      if pin ∧ s.pinFull r u then s.endLetter l { code := codeExpertUnavailable }
      else
        let s := (s.setWork l (.fetch pin)).promote r u l
        { s with tier := { s.tier with promWaits := s.tier.promWaits ++ [{ letter := l, r := r, u := u, pin := pin }] } }

/-- PROMOTE_FETCH (R365). -/
def execPromoteFetch (q : Fin 4096) (s : State) : Res :=
  .next (s.startWith q 9 (fun x => x.field 0x11 1 == 1) (fun s l x => s.startFetch l x false))

/-- PROMOTE_PIN (R365). -/
def execPromotePin (q : Fin 4096) (s : State) : Res :=
  .next (s.startWith q 9 (fun x => x.field 0x11 1 == 2) (fun s l x => s.startFetch l x true))

/-- PROMOTE_UNPIN (R365). -/
def execPromoteUnpin (q : Fin 4096) (s : State) : Res :=
  .next (s.startWith q 9 (fun x => x.field 0x11 1 == 3) (fun s l x =>
    match s.promoteCheck l x with
    | some c => s.endLetter l { code := c }
    | none =>
      let r := x.field 0x10 1
      let u := x.field 0x12 2 * (s.region r).experts + x.field 0x14 2
      (s.updExpert r u (fun e => { e with pinned := false })).endLetter l { code := codeOk }))

/-- A ready record is written to its ring and READY signalled (R360). A poisoned line refuses it (R666). -/
def State.writeReady (s : State) (x : RouteRec) : State :=
  let n := tabGet 0 s.tier.written x.serial
  let ends (s : State) (f : State → State) : State := if s.routeIs x.letter x.serial then f s else s
  let off := x.ring + 8 * (n % 2 ^ x.log2)
  let s := { s with tier := { s.tier with
    ready := removeFirst (fun y => y.id == x.id) s.tier.ready
    written := tabSet 0 s.tier.written x.serial (n + 1) } }
  let word := leBytes 4 x.tag.toNat ++ leBytes 2 x.expert.toNat ++ leBytes 2 x.slot.toNat
  match s.translate x.ctx off with
  | none => ends s (fun s => s.endLetter x.letter { code := codeAddressInvalid })
  | some a =>
    match (s.hbmAccess (some x.ctx) a true srcHub 1).hbmWrite a word with
    | (s, true) => ends (s.contained x.ctx (some x.letter) codeHbmUncorrectable (hbmDetail a 4))
        (fun s => s.endLetter x.letter { code := codeHbmUncorrectable })
    | (s, false) =>
      let s := match s.letterRef x.letter x.ready with
        | some k => s.sendSync { who := .engine engRecord, act := .signal .add, key := k, ref := x.ready, cl := k.cl, mem := 0, value := 1, q := x.letter.q }
        | none => s
      ends s (fun s => s.routeEnds x.letter)

/-- ROUTE_RECORD_RELEASE (R360, R361): the i-th record of region r that is being released, its CREDIT taken and no earlier one of its
ROUTE or of its expert before it. -/
def execRouteRecordRelease (r : Fin 255) (i : Nat) (s : State) : Res :=
  .next (match (s.tier.ready.filter (fun x => x.r == r.val))[i]? with
    | some x =>
      let first := (s.tier.ready.find? (fun y => y.serial == x.serial || (y.r == x.r && y.u == x.u))).map (·.id)
      if s.clocked && x.credit && first == some x.id then s.writeReady x else s
    | none => s)

/-- The slot that a promotion takes: the lowest free one, else that of the resident, unpinned expert whose mark differs from USE's
COUNT and was set earliest, with the unit evicted (R362). -/
def State.takeSlot (s : State) (r : Nat) : Option (Nat × Option Nat) :=
  let g := s.region r
  let es := s.expertsOf r
  let busy := es.filterMap (fun e => match e.2.state with
    | .absent => none
    | .inTransit k => some k
    | .resident k => some k)
  match (List.range g.slots).find? (fun k => !busy.contains k) with
  | some k => some (k, none)
  | none =>
    let mark (k : Nat) : SlotMark := tabGet {} s.tier.marks (r * 65536 + k)
    let cand := es.filterMap (fun e => match e.2.state with
      | .resident k => if e.2.pinned || (mark k).mark == s.useCount g then none else some ((mark k).order, k, e.1)
      | _ => none)
    match cand with
    | [] => none
    | c :: cs =>
      let b := cs.foldl (fun a b => if b.1 < a.1 ∨ (b.1 = a.1 ∧ b.2.1 < a.2.1) then b else a) c
      some (b.2.1, some b.2.2)

/-- A promotion takes its slot and its copy is queued (R362, R363). -/
def State.beginPromotion (s : State) (p : Promotion) (slot : Nat) (evict : Option Nat) : State :=
  let g := s.region p.r
  let s := match evict with
    | some u => s.updExpert p.r u (fun _ => {})
    | none => s
  let s := s.updExpert p.r p.u (fun e => { e with state := .inTransit slot })
  let s := { s with tier := { s.tier with
    promos := updFirst (fun (x : Promotion) => x.r == p.r && x.u == p.u) (fun (x : Promotion) => { x with slot := some slot }) s.tier.promos } }
  let d := s.regionCopy p.r (p.u * g.unitBytes) g.unitBytes (g.slotBase + slot * g.slotStride)
  (s.queueDesc (16 + slot % 4) (.promote p.r p.u) d g.owner p.letter.q 0 g.hint none).prNote

/-- PROMOTION_START (R362, R363): the first promotion, in starting order, that can take a slot. -/
def execPromotionStart (s : State) : Res :=
  .next (if s.run && decide ((s.tier.promos.filter (fun p => p.slot.isSome)).length < 16) then
    match s.tier.promos.find? (fun p => p.slot.isNone && (s.takeSlot p.r).isSome) with
    | some p => match s.takeSlot p.r with
      | some (k, e) => if s.courierRoom (16 + k % 4) then s.beginPromotion p k e else s
      | none => s
    | none => s
  else s)

/-- Release the held records of an expert, in arrival order (R361, R364). -/
def State.releaseHeld (s : State) (r u slot : Nat) : State :=
  let mine := s.tier.held.filter (fun h => h.r == r && h.u == u)
  let s := { s with tier := { s.tier with held := s.tier.held.filter (fun h => !(h.r == r && h.u == u)) } }
  (s.each mine (fun s h => s.beginRelease h slot)).prNote

/-- A promotion's copy has ended: the expert is resident, or the promotion failed (R361 to R365). -/
def State.endPromotion (s : State) (p : Promotion) (slot : Nat) : State :=
  let held := (s.tier.held.filter (fun h => h.r == p.r && h.u == p.u)).length
  let waits := s.tier.promWaits.filter (fun w => w.r == p.r && w.u == p.u)
  let s := { s with tier := { s.tier with
    promos := removeFirst (fun x => x.r == p.r && x.u == p.u) s.tier.promos
    promWaits := s.tier.promWaits.filter (fun w => !(w.r == p.r && w.u == p.u)) } }
  match p.fail with
  | none =>
    let s := s.updExpert p.r p.u (fun e => { e with state := .resident slot })
    let s := s.releaseHeld p.r p.u slot
    s.each waits (fun s w => s.fetchDone w.letter p.r p.u slot w.pin)
  | some c =>
    let g := s.region p.r
    let s := s.updExpert p.r p.u (fun e => { e with state := .absent })
    let s := s.releaseHeld p.r p.u 0xFFFF
    let s := s.postCtx g.owner (s.letterEvent p.letter codeExpertUnavailable 0
      ([BitVec.ofNat 8 p.r, 0] ++ leBytes 2 c.toNat ++ leBytes 2 (p.u % g.experts) ++ leBytes 2 (p.u / g.experts) ++ leBytes 4 0 ++
        leBytes 4 held))
    s.each waits (fun s w => s.endLetter w.letter { code := codeExpertUnavailable })

/-- PROMOTION_DONE (R361, R364). -/
def execPromotionDone (r : Fin 255) (u : Nat) (s : State) : Res :=
  .next (match s.tier.promos.find? (fun p => p.r == r.val && p.u == u) with
    | some p => match p.slot with
      | some slot => if s.clocked && p.copied then s.endPromotion p slot else s
      | none => s
    | none => s)

/-! ## Zeroing (R368, R369, R488) -/

/-- A page joins the zeroing queue. -/
def State.queueZero (s : State) (page ctx : Nat) : State :=
  let z : ZeroPage := { page := page, issued := 0, acked := 0, ctx := ctx }
  let s := s.bump .ctxZeroStatus fCtxZeroStatusQueued 0
  { s with tier := { s.tier with zero := s.tier.zero ++ [z] } }

/-- The zeroing engine works: in RUN, and from step 9 of the start sequence on (Table 15-1). -/
def State.zeroing (s : State) : Bool := s.run || (s.start.step == 10 && s.fld .pwrState fPwrStateState == 0)

/-- ZERO_REQUEST_ISSUE (R368, R369): the oldest page's next 256 B of zeros waits at its HBM port. -/
def execZeroRequestIssue (s : State) : Res :=
  .next (if s.zeroing then
    match s.tier.zero.find? (fun z => decide (z.issued < 8192)) with
    | none => s
    | some z =>
      let a := z.page * 2 ^ 21 + 256 * z.issued
      let (tag, s) := s.fresh
      let s := { s with tier := { s.tier with zero := updFirst (fun y => y.page == z.page) (fun (y : ZeroPage) => { y with issued := y.issued + 1 }) s.tier.zero } }
      s.addReq { tag := tag, agent := .zero, item := z.page, line := z.issued, lines := 4, cls := .write, port := some (hbmPort a)
                 units := 4, stamp := s.stampNow, addr := a, data := [] }
  else s)

/-- Zeros are written to lines of HBM: their bytes are 0, and none of them is poisoned (R368, R666). -/
def State.zeroLines (s : State) (a n : Nat) : State :=
  let mine (l : Nat) : Bool := decide (a / 64 ≤ l ∧ l < a / 64 + n)
  let s := s.mend 4 mine
  { s with mem := { s.mem with
      hbm := tabClear s.mem.hbm (a / 64 * 64) ((a / 64 + n) * 64)
      hbmBad := s.mem.hbmBad.filter (fun l => !mine l) } }

/-- A page is zeroed: every write of it is acknowledged, and it counts as free (R488). -/
def State.zeroedPage (s : State) (page : Nat) : State :=
  let s := { s with tier := { s.tier with zero := removeFirst (fun z => z.page == page) s.tier.zero } }
  let s := s.setFld .ctxZeroStatus fCtxZeroStatusQueued 0 (s.fld .ctxZeroStatus fCtxZeroStatusQueued - 1)
  (s.bump .ctxZeroStatus fCtxZeroStatusZeroed 0).bump .ctxHbmInfo fCtxHbmInfoFreePages 0

/-- ZERO_PAGE_COMPLETE (R368, R488): the oldest page all of whose writes are acknowledged. -/
def execZeroPageComplete (s : State) : Res :=
  .next (match s.tier.zero.find? (fun z => z.acked == 8192) with
    | some z => if s.clocked then s.zeroedPage z.page else s
    | none => s)

end Sys2Proof.Machine
end

