-- ==== Sys2Proof/Machine/Queues.lean ====
section
/-! DEFINITION. Submission queues: doorbells, fetch and acceptance, NOP, SIGNAL and WAIT letters, completion, completion records,
and the queue commands (chapters 04 and 13). -/

namespace Sys2Proof.Machine

/-- A queue is bound. -/
def Queue.bound (x : Queue) : Bool := x.log2 != 0

/-- Letters placed and not fetched. -/
def Queue.ahead (x : Queue) : Nat := (x.tail - x.head).toNat

/-- An event that names a queue and no letter carries the queue's COMPLETED (R156). -/
def State.queueEvent (s : State) (q : Nat) (code : Code) (detail : List Byte) : State :=
  let x := s.queue q
  s.postCtx x.ctx.toNat { code := code, pm := x.completed, queue := some q, unit := x.unit.toNat, detail := detail }

/-- TAIL more than 2^k ahead of HEAD halts an ACTIVE queue and posts QUEUE_OVERRUN (R151). -/
def State.checkOverrun (s : State) (q : Nat) : State :=
  let x := s.queue q
  if x.state = .active ∧ 2 ^ x.log2.toNat < x.ahead then (s.haltQueue q).queueEvent q codeQueueOverrun [] else s

/-- A queue is seen from a view: every queue in the P-view, the window's own context's in a U-view (R535, R564). -/
def Queue.seen (x : Queue) (v : View) (win : Nat) : Bool := x.bound && (v == .P || x.ctx.toNat == win)

/-- HIF_DOORBELL (R535). -/
def State.doDoorbell (s : State) (v : View) (win q : Nat) (tail : BitVec 32) : State :=
  if s.clocked && (s.queue q).seen v win then (s.updQ q (fun x => { x with tail := tail })).checkOverrun q else s

/-- HIF_DOORBELL. -/
def execHifDoorbell (v : View) (win : Fin 1024) (q : Fin 4096) (tail : BitVec 32) (s : State) : Res :=
  .next (s.doDoorbell v win q tail)

/-! ## Fetch and acceptance (R146, R531, R536, R538, R539) -/

/-- The device may fetch a queue's next letter: the record of a refused one has been written (R154, R539). -/
def Queue.mayFetch (x : Queue) : Bool :=
  x.state == .active && x.refusal.isNone && x.ahead != 0 && decide ((x.letters.filter (fun y => !y.started)).length < 16)

/-- A fetch fails: the queue halts, and the event tells why (R531). -/
def State.fetchFails (s : State) (q : Nat) (code : Code) (detail : List Byte) : State :=
  (s.haltQueue q).queueEvent q code detail

/-- A fetched letter is checked, and accepted or refused. A letter that R146 rejects is accepted with its end. -/
def State.acceptLetter (s : State) (q : Nat) (raw : List Byte) : State :=
  let x := s.queue q
  let pm : BitVec 32 := BitVec.ofNat 32 (leField raw 0 4)
  let due := x.accepted + 1
  if pm ≠ due then (s.haltQueue q).updQ q (fun x => { x with refusal := some (pm, due) })
  else
    let ok := letterForm raw && leField raw 8 2 == x.ctx.toNat && leField raw 10 2 == x.unit.toNat
    let y : Letter := { pm := pm, raw := raw, ended := if ok then none else some { code := codeLetterInvalid } }
    s.updQ q (fun x => { x with head := x.head + 1, accepted := due, letters := x.letters ++ [y] })

/-- LETTER_FETCH: the letter at HEAD arrives from its ring. -/
def State.doLetterFetch (s : State) (q : Nat) (host : HostReply) (rd : ReadRes) : State :=
  let x := s.queue q
  if !s.run || !x.mayFetch then s
  else
    let ctx := x.ctx.toNat
    let off := x.ringBase.toNat + x.head.toNat % 2 ^ x.log2.toNat * 64
    if x.loc = 1 then
      match s.hostAddr ctx off 64, host with
      | none, _ => s.fetchFails q codeAddressInvalid (leBytes 8 off)
      | some a, .data bs => if s.hostUp then (s.toHost (.hostRead a 64)).acceptLetter q (padBytes 64 bs) else s
      | some a, .error => if s.hostUp then (s.toHost (.hostRead a 64)).fetchFails q codeAddressInvalid (leBytes 8 off) else s
    else
      match s.translate ctx off with
      | none => s.fetchFails q codeAddressInvalid (leBytes 8 off)
      | some a =>
        let r := s.hbmSees a rd
        let s := (s.hbmNote a rd).hbmAccess (some ctx) a false srcHub 1
        if r = .uncorrectable then s.fetchFails q codeHbmUncorrectable (hbmDetail a 0)
        else s.acceptLetter q (s.winRead ctx off 64)

/-- LETTER_FETCH. -/
def execLetterFetch (q : Fin 4096) (host : HostReply) (rd : ReadRes) (s : State) : Res := .next (s.doLetterFetch q host rd)

/-! ## NOP, SIGNAL and WAIT letters -/

/-- NOP_LETTER (R152): it completes at its start. -/
def execNopLetter (q : Fin 4096) (s : State) : Res :=
  .next (s.startWith q 0 (fun _ => true) (fun s l _ => s.endLetter l { code := codeOk }))

/-- A SIGNAL letter sends its signal to the object (R148, R190). -/
def State.startSignal (s : State) (l : LetterId) (x : Letter) : State :=
  let ref : BitVec 20 := BitVec.ofNat 20 (x.field 0x10 4)
  match s.letterRef l ref with
  | none => s.endLetter l { code := codeSyncInvalid }
  | some k =>
    let sop : Sop := match x.field 0x14 1 with
      | 0 => .add
      | 1 => .sub
      | _ => .set
    s.sendSync { who := .letter l, act := .signal sop, key := k, ref := ref, cl := k.cl, mem := 0
                 value := BitVec.ofNat 32 (x.field 0x18 4), q := l.q }

/-- SIGNAL_LETTER. -/
def execSignalLetter (q : Fin 4096) (s : State) : Res :=
  .next (s.startWith q 2 (fun _ => true) (fun s l x => s.startSignal l x))

/-- A WAIT letter sends its wait to the object; one on an index that a proxy binds is invalid (R148, R193, R450). -/
def State.startWait (s : State) (l : LetterId) (x : Letter) : State :=
  let ref := x.field 0x10 4
  match s.letterRef l (BitVec.ofNat 20 ref) with
  | none => s.endLetter l { code := codeSyncInvalid }
  | some k =>
    if !s.refOk l ref true then s.endLetter l { code := codeSyncInvalid }
    else
      (s.setWork l .wait).sendSync
        { who := .letter l, act := .wait (if x.field 0x14 1 = 0 then .ge else .eq) ((x.field 0x15 1).testBit 0), key := k
          ref := BitVec.ofNat 20 ref, cl := k.cl, mem := 0, value := BitVec.ofNat 32 (x.field 0x18 4), q := l.q }

/-- WAIT_LETTER. -/
def execWaitLetter (q : Fin 4096) (s : State) : Res :=
  .next (s.startWith q 3 (fun _ => true) (fun s l x => s.startWait l x))

/-! ## Completion (R153, R154, R166) -/

/-- A letter needs a completion record (R154). -/
def Letter.needsRecord (x : Letter) : Bool :=
  x.notify || (match x.ended with
    | some e => e.code != codeOk
    | none => false)

/-- COMPLETED may pass the letter (R154). -/
def Letter.over (x : Letter) : Bool := x.completed && (x.recorded || !x.needsRecord)

/-- COMPLETED advances over the completed prefix. -/
def State.advance (s : State) (q : Nat) : State :=
  s.updQ q (fun x => { x with
    letters := x.letters.dropWhile Letter.over
    completed := x.completed + BitVec.ofNat 32 (x.letters.takeWhile Letter.over).length })

/-- The end of a letter halts its queue (R153). -/
def Letter.halts (x : Letter) : Bool :=
  match x.ended with
  | none => false
  | some e =>
    if e.code = codeOk then false
    else if e.code = codeOrphan then (x.opcode == 3 && (x.field 0x15 1).testBit 1) || x.opcode == 1
    else true

/-- The letter may complete now: its work has ended, and a letter that was rejected has its turn to start. -/
def State.mayComplete (s : State) (q : Nat) (x : Letter) : Bool :=
  x.ended.isSome && !x.completed && s.letterQuiet ⟨q, x.pm⟩ &&
    (x.started || (s.run && (s.queue q).state == .active &&
      (match (s.queue q).nextStart with
       | some y => y.pm == x.pm
       | none => false)))

/-- A letter completes: the events that R166 owes are posted, a failed letter halts its queue, and COMPLETED advances. -/
def State.completeLetter (s : State) (q : Nat) (x : Letter) (hostErr : Bool) : State :=
  let l : LetterId := ⟨q, x.pm⟩
  let s := s.updLetter l (fun y => { y with started := true, completed := true, events := [] })
  let s := s.countCtx (s.letterCtx l) 4
  let s := s.each x.events (fun s e => s.postCtx (s.letterCtx l) (s.letterEvent l e.2 e.1 []) hostErr)
  let s := if x.halts then s.failQueue l else s
  s.advance q

/-- LETTER_COMPLETE. -/
def execLetterComplete (q : Fin 4096) (pm : BitVec 32) (hostErr : Bool) (s : State) : Res :=
  .next (match s.letter ⟨q, pm⟩ with
    | some x => if s.clocked && s.mayComplete q x then s.completeLetter q x hostErr else s
    | none => s)

/-- The 16 bytes of a completion record (Table 4-11). -/
def State.recordBytes (s : State) (q : Nat) (pm : BitVec 32) (e : LetterEnd) : List Byte :=
  let ctx := (s.queue q).ctx.toNat
  leBytes 4 pm.toNat ++ leBytes 2 e.code.toNat ++ leBytes 2 (s.phaseTag ctx * 2 ^ 15 + q) ++ leBytes 4 e.member.toNat ++
    leBytes 4 e.result.toNat

/-- The record that a queue writes next: of the first letter that COMPLETED has not passed, or of a refused letter (R154, R539). -/
def Queue.nextRecord (x : Queue) : Option (BitVec 32 × LetterEnd × Bool) :=
  match x.refusal with
  | some (pm, due) =>
    if x.letters.isEmpty || !x.windback then some (pm, { code := codePostmarkOutOfOrder, result := due }, true)
    else (x.letters.head?).bind (fun y => if y.completed then y.ended.map (fun e => (y.pm, e, false)) else none)
  | none => (x.letters.head?).bind (fun y => if y.completed then y.ended.map (fun e => (y.pm, e, false)) else none)

/-- COMPLETION_RECORD_WRITE (R154, R157, R539, R757): a lost record halts every queue that feeds the ring. -/
def State.doRecordWrite (s : State) (q : Nat) (hostErr : Bool) : State :=
  let x := s.queue q
  let ctx := x.ctx.toNat
  match x.nextRecord with
  | none => s
  | some (pm, e, refused) =>
    if !s.clocked || s.fld .hifRingCfg fHifRingCfgLog2Entries ctx == 0 || !s.ringHasSpace ctx then s
    else
      let r := s.ringWrite ctx 16 (s.recordBytes q pm e) hostErr
      let s := match r.2 with
        | .ok => r.1.ringAdvance ctx
        | w =>
          let s := r.1.reportLost ctx w
          let s := s.each (s.queuesOf ctx) (fun s k => s.haltQueue k)
          if refused then s else s.failQueue ⟨q, pm⟩
      let s := if refused then s.updQ q (fun x => { x with refusal := none })
        else s.updLetter ⟨q, pm⟩ (fun y => { y with recorded := true })
      s.advance q

/-- COMPLETION_RECORD_WRITE. -/
def execCompletionRecordWrite (q : Fin 4096) (hostErr : Bool) (s : State) : Res := .next (s.doRecordWrite q hostErr)

/-! ## Queue commands (Table 13-4, R541, R758) -/

/-- A queue becomes ACTIVE. -/
def State.activate (s : State) (q : Nat) : State :=
  (s.updQ q (fun x => { x with state := .active, heldRestart := false })).checkOverrun q

/-- The queue number written with a command stays in the view's own HIF_QPORT_REF (R738). -/
def State.keepQport (s : State) (v : View) (win q : Nat) : State :=
  match v with
  | .P => s.setFld .hifQportRef fHifQportRefQueue 0 q
  | .U => { s with uregs := tabUpd 0 s.uregs (win * 8 + 3) (fun w => putFl fHifQportRefQueue w q) }

/-- A command of HIF_QPORT_REF reaches its queue when the view may name it (R542, R564). -/
def State.queueCmd (s : State) (v : View) (win q : Nat) (go : State → State) : State :=
  if s.clocked then
    let s := s.keepQport v win q
    if (s.queue q).seen v win then go s else s
  else s

/-- RESTART; it is held while the wind-back is pending. -/
def State.doRestart (s : State) (q : Nat) : State :=
  let x := s.queue q
  if x.state ≠ .halted then s
  else if x.windback then s.updQ q (fun x => { x with heldRestart := true })
  else s.activate q

/-- QUEUE_RESTART. -/
def execQueueRestart (v : View) (win : Fin 1024) (q : Fin 4096) (s : State) : Res := .next (s.queueCmd v win q (fun s => s.doRestart q))

/-- QUEUE_PAUSE. -/
def execQueuePause (v : View) (win : Fin 1024) (q : Fin 4096) (s : State) : Res :=
  .next (s.queueCmd v win q (fun s =>
    if (s.queue q).state = .active then s.updQ q (fun x => { x with state := .paused }) else s))

/-- QUEUE_RESUME. -/
def execQueueResume (v : View) (win : Fin 1024) (q : Fin 4096) (s : State) : Res :=
  .next (s.queueCmd v win q (fun s => if (s.queue q).state = .paused then s.activate q else s))

/-- QUEUE_RESET. -/
def execQueueReset (v : View) (win : Fin 1024) (q : Fin 4096) (s : State) : Res :=
  .next (s.queueCmd v win q (fun s => if (s.queue q).state = .disabled then s else s.resetQueue q))

/-- QUEUE_WINDBACK (R541): once every started letter has completed, HEAD and ACCEPTED return to COMPLETED, and a held RESTART acts. -/
def State.doWindback (s : State) (q : Nat) : State :=
  let x := s.queue q
  if s.clocked && x.state == .halted && x.windback && x.letters.isEmpty then
    let s := s.updQ q (fun x => { x with windback := false, head := x.completed, accepted := x.completed })
    if x.heldRestart then s.activate q else s
  else s

/-- QUEUE_WINDBACK. -/
def execQueueWindback (q : Fin 4096) (s : State) : Res := .next (s.doWindback q)

end Sys2Proof.Machine
end

