-- ==== Sys2Proof/Machine/Streams.lean ====
section
/-! DEFINITION. RUN letters and their images, streams, the sequencer's own commands, transfers, and how a stream ends
(chapter 04). -/

namespace Sys2Proof.Machine

/-! ## RUN (R14, R159, R160) -/

/-- The 64 bytes of a unit's last (Table 1-2). -/
def State.unitLast (s : State) (u : BitVec 16) : List Byte :=
  let word (w : Nat) : Word := match unitLevel u with
    | 0 => s.reg .cfgLastCore 0 w
    | 1 => s.reg .cfgLastCluster 0 w
    | 2 => s.reg .cfgLastDie 0 w
    | _ => s.reg .cfgLastUnit (unitIndex u) w
  ((List.range 8).map (fun w => leBytes 8 (word w).toNat)).flatten

/-- The unit is in service (R16): its cluster at levels 0 and 1, a committed unit that holds this die at level 3 and above. -/
def State.unitIn (s : State) (u : BitVec 16) : Bool :=
  match unitLevel u with
  | 0 | 1 => s.clusterIn (unitCluster u)
  | 2 => true
  | _ => s.fld .olaUnit fOlaUnitValid (unitIndex u) == 1 && (s.unitDies (unitIndex u)).contains s.die

/-- This die's members of a unit that are in service, with their paths (Table 4-13, R19). -/
def State.unitMembers (s : State) (u : BitVec 16) : List (Nat × Nat) :=
  let cms := match unitLevel u with
    | 0 => [unitIndex u]
    | 1 => rangeFrom (16 * unitIndex u) 16
    | _ => List.range 256
  (cms.filter (fun cm => s.clusterIn (cmCl cm))).map (fun cm => (cm, s.memberPath u cm))

/-- A stream-table entry. -/
structure StreamEntry where
  offset : Nat
  commands : Nat
  member : Nat
  deriving DecidableEq, Repr

/-- The stream table of an image. -/
def State.streamTable (s : State) (ctx base n : Nat) : List StreamEntry :=
  (List.range n).map (fun i =>
    let b := s.winRead ctx (base + 0x80 + 16 * i) 16
    ⟨leField b 0 8, leField b 8 4, leField b 12 4⟩)

/-- A path names a member: of this die one that is in service, of another die of the unit any. -/
def State.pathOk (s : State) (u : BitVec 16) (path : Nat) : Bool :=
  let own := s.unitMembers u
  own.any (fun e => e.2 == path) ||
    (decide (3 ≤ unitLevel u) && decide (path / 2 ^ 16 < (s.unitDies (unitIndex u)).length) && decide (path % 2 ^ 16 < 256) &&
      decide (path / 2 ^ 16 ≠ s.die - s.fld .olaUnit fOlaUnitFirstDie (unitIndex u)))

/-- The checks of Table 4-14 in their order. -/
def State.checkImage (s : State) (ctx base bytes : Nat) (u : BitVec 16) : Option Code :=
  if 2 ^ 38 < base + bytes ∨ !s.mapped ctx base bytes then some codeAddressInvalid
  else if !s.unitIn u then some codeUnitOutOfService
  else
    let h := s.winRead ctx base 128
    let last := s.unitLast u
    if h.take 0x28 ≠ last.take 0x28 ∨ (3 ≤ unitLevel u ∧ leField h 0x28 8 ≠ leField last 0x28 8) then some codeLastMismatch
    else
      let n := leField h 0x44 4
      if leField h 0x40 2 ≠ 2 ∨ n ≠ leField last 8 4 ∨ leField h 0x48 8 ≠ bytes ∨ leField h 0x30 16 ≠ 0 ∨ leField h 0x42 2 ≠ 0 ∨
          leField h 0x50 48 ≠ 0 ∨ bytes < 0x80 + 16 * n then some codeImageInvalid
      else
        let t := s.streamTable ctx base n
        if t.all (fun e => s.pathOk u e.member && e.offset % 16 == 0 && e.commands != 0 && decide (e.offset + 16 * e.commands ≤ bytes)) &&
            (t.map (·.member)).Nodup && (s.unitMembers u).all (fun m => t.any (fun e => e.member == m.2)) then none
        else some codeImageInvalid

/-- A RUN starts: its image is admitted, and each member of this die gets its stream (R160, R163). -/
def State.startRun (s : State) (l : LetterId) (x : Letter) (rd : ReadRes) : State :=
  let ctx := s.letterCtx l
  let u := (s.queue l.q).unit
  let base := x.field 0x10 8
  let bytes := x.field 0x18 8
  let hdr := min bytes (0x80 + 16 * leField (s.winRead ctx base 128) 0x44 4)
  let a := (s.translate ctx base).getD 0
  if 2 ^ 38 < base + bytes ∨ !s.mapped ctx base bytes then s.endLetter l { code := codeAddressInvalid }
  else if s.hbmSees a rd = .uncorrectable ∨ s.winPoisoned ctx base hdr then
    ((s.hbmNote a rd).contained ctx (some l) codeHbmUncorrectable (s.winDetail ctx [(base, hdr)])).endLetter l { code := codeHbmUncorrectable }
  else
    let s := (s.hbmNote a rd).hbmAccess (some ctx) a false srcHub ((hdr + 63) / 64)
    match s.checkImage ctx base bytes u with
    | some c => s.endLetter l { code := c }
    | none =>
      let t := s.streamTable ctx base (leField (s.winRead ctx base 128) 0x44 4)
      let ms := (s.unitMembers u).filterMap (fun m => (t.find? (fun e => e.member == m.2)).map (fun e => (m.1, m.2, e)))
      let s := s.setWork l (.run base (ms.map (fun m => (m.1, StreamEnd.waiting))))
      State.runEnds (l := l) <| s.each ms (fun s m =>
        let st : Stream := { letter := l, ctx := ctx, offset := base + m.2.2.offset, commands := m.2.2.commands
                             path := BitVec.ofNat 32 m.2.1 }
        s.updSeqr ctx m.1 (fun q => { q with streams := q.streams ++ [st] }))

/-- RUN (R160). -/
def execRun (q : Fin 4096) (rd : ReadRes) (s : State) : Res :=
  .next (s.startWith q 1 (fun _ => true) (fun s l x => s.startRun l x rd))

/-! ## Streams (R161 to R163) -/

/-- The argument line (R161). -/
def argLine (x : Letter) : List Byte := (x.raw.drop 0x20).take 32 ++ leBytes 4 x.pm.toNat ++ List.replicate 28 0

/-- STREAM_BEGIN: the member writes the argument line and begins dispatching its next stream. A member that a committed RETIRE names
begins none (R680). -/
def State.doStreamBegin (s : State) (c : Nat) : State :=
  match s.place c with
  | none => s
  | some p =>
    match (s.seqr p.x p.cm).disp with
    | none => s
    | some t =>
      if !s.run || t.begun || t.fail.isSome || t.abort || s.fld .fltCoreCtl fFltCoreCtlRetire c == 1 then s
      else
        match s.letter t.letter with
        | none => s
        | some x =>
          let s := (s.benchWrite c (16383 * 64) (argLine x)).1
          let s := s.updLetter t.letter (fun y => match y.work with
            | .run b st => { y with work := .run b (st.map (fun e => if e.1 = p.cm then (e.1, StreamEnd.running) else e)) }
            | _ => y)
          (s.updSeqr p.x p.cm (fun q => { q.updDisp (fun t => { t with begun := true }) with phase := BitVec.ofNat 8 x.phase })).notePhase
            (cmCl p.cm) x.phase

/-- STREAM_BEGIN. -/
def execStreamBegin (c : Fin 272) (s : State) : Res := .next (s.doStreamBegin c)

/-- The oldest stream whose commands are not all fetched. -/
def Seqr.fetching (q : Seqr) : Option Stream :=
  q.streams.find? (fun t => decide (t.fetched < t.commands) && t.fail.isNone && !t.abort && !t.ended)

/-- STREAM_FETCH (R162, R759): the next `n` commands of a stream arrive in the command queue of 512. -/
def State.doStreamFetch (s : State) (c n : Nat) (rd : ReadRes) : State :=
  match s.place c with
  | none => s
  | some p =>
    let q := s.seqr p.x p.cm
    match q.fetching with
    | none => s
    | some t =>
      let held := (q.streams.map (fun t => t.queue.length)).foldl (· + ·) 0
      if !s.run || n == 0 || decide (t.commands < t.fetched + n) || decide (512 < held + n) then s
      else
        let off := t.offset + 16 * t.fetched
        let fails (s : State) (code : Code) : State := s.failStream p.x p.cm t.letter code
        match s.translate p.x off with
        | none => fails s codeAddressInvalid
        | some a =>
          if !s.mapped p.x off (16 * n) then fails s codeAddressInvalid
          else
            let r := s.hbmSees a rd
            let s := (s.hbmNote a rd).hbmAccess (some p.x) a false (srcCore c) ((16 * n + 63) / 64)
            if r = .uncorrectable ∨ s.winPoisoned p.x off (16 * n) then
              fails (s.contained p.x (some t.letter) codeHbmUncorrectable (s.winDetail p.x [(off, 16 * n)])) codeHbmUncorrectable
            else
              let new := (List.range n).map (fun i => BitVec.ofNat 128 (leNat (s.winRead p.x (off + 16 * i) 16)))
              s.updSeqr p.x p.cm (fun q => { q with
                streams := updFirst (fun e => e.letter == t.letter) (fun e => { e with fetched := e.fetched + n, queue := e.queue ++ new })
                  q.streams })

/-- STREAM_FETCH. A detection on the external port or in the sequencer halts the core (R99). -/
def execStreamFetch (c : Fin 272) (n : Nat) (rd : StreamRead) (s : State) : Res :=
  .next (s.inCore c 0 rd.fault rd.rd (fun s => s.doStreamFetch c n rd.rd))

/-! ## The sequencer's commands (R164, R171 to R173, R179) -/

/-- The head is a command of an opcode. -/
def isOp (op : Nat) (r : BitVec 128) : Bool := opc r == op

/-- NOP: it completes at dispatch. -/
def execNop (c : Fin 272) (s : State) : Res :=
  .next (s.dispatch c (isOp 0x00) (fun s p _ _ => s.popHead p))

/-- END: nothing of the stream is dispatched after it. -/
def execEndCmd (c : Fin 272) (s : State) : Res :=
  .next (s.dispatch c (isOp 0x01) (fun s p t _ =>
    (s.popHead p).updSeqr p.x p.cm (fun q => { q with
      streams := updFirst (fun e => e.letter == t.letter) (fun e => { e with ended := true }) q.streams })))

/-- PHASE. -/
def execPhase (c : Fin 272) (s : State) : Res :=
  .next (s.dispatch c (isOp 0x02) (fun s p _ r =>
    ((s.popHead p).updSeqr p.x p.cm (fun q => { q with phase := BitVec.ofNat 8 (cb r 121 114) })).notePhase (cmCl p.cm) (cb r 121 114)))

/-- Density of an array's issue slots over the last 4,096 ACLK, in 64ths (R212). -/
def Arr.density (a : Arr) : Nat := ((List.range 4096).countP (fun i => a.hist.getLsbD i)) / 64

/-- Vectors of the replay buffer that filler work may issue (R215). -/
def Arr.fillerVecs (a : Arr) : List VecIn :=
  if a.active.isNone then []
  else ((a.replay.filter (fun x => !x.squashed)).map (fun x => (x.vecs.map (·.1)).filter (fun v => v.src != .filler))).flatten

/-- A wait begins: filler work starts on every array (R213, R215), and each array starts a frame of 64 slots. -/
def State.startFiller (s : State) (c : Nat) : State :=
  if s.fld .synFillerCfg fSynFillerCfgEn = 0 then s
  else s.updCore c (fun k => { k with arrs := k.arrs.map (fun (a : Arr) =>
    let f : Filler := { on := true, k := a.density, hold := true, start := a.slots, vecs := a.fillerVecs, turn := 0, cap := none
                        cfg := s.reg .synFillerCfg }
    { a with filler := f }) })

/-- WAIT: it holds dispatch until its condition holds (R172, R174). -/
def State.dispatchWait (s : State) (p : CorePlace) (t : Stream) (r : BitVec 128) : State :=
  let ref := cb r 117 98
  match s.cmdRef p ref with
  | none => s
  | some k =>
    let s := (s.popHead p).updSeqr p.x p.cm (fun q => { q with waiting := some (cb r 118 118 == 1) })
    let s := s.startFiller p.c
    s.sendSync { who := .core p.x p.cm, act := .wait (if cb r 121 120 = 0 then .ge else .eq) (cb r 119 119 == 1), key := k
                 ref := BitVec.ofNat 20 ref, cl := cmCl p.cm, mem := cmMem p.cm, value := BitVec.ofNat 32 (cb r 95 64), q := t.letter.q }

/-- WAIT. -/
def execWait (c : Fin 272) (s : State) : Res :=
  .next (s.dispatch c (isOp 0x18) (fun s p t r => s.dispatchWait p t r))

/-- The engines that an AFTER mask names. -/
def afterEngine (mask : Nat) (e : Engine) : Bool := mask.testBit (engineBit e)

/-- SIGNAL: it enters the signal queue of 8 with the commands that it waits for (R173). -/
def State.dispatchSignal (s : State) (p : CorePlace) (t : Stream) (r : BitVec 128) : State :=
  let ref := cb r 113 94
  match s.cmdRef p ref with
  | none => s
  | some k =>
    if 8 ≤ (s.seqr p.x p.cm).sigq.length then s
    else
      let sop : Sop := match cb r 121 120 with
        | 0 => .add
        | 1 => .sub
        | _ => .set
      let op : SyncOp := { who := .core p.x p.cm, act := .signal sop, key := k, ref := BitVec.ofNat 20 ref, cl := cmCl p.cm
                           mem := cmMem p.cm, value := BitVec.ofNat 32 (cb r 63 32), q := t.letter.q }
      let after := ((s.core p.c).cmds.filter (fun x => afterEngine (cb r 119 114) x.eng)).map (·.id)
      (s.popHead p).updSeqr p.x p.cm (fun q => { q with sigq := q.sigq ++ [⟨op, after⟩] })

/-- SIGNAL. -/
def execSignal (c : Fin 272) (s : State) : Res :=
  .next (s.dispatch c (isOp 0x19) (fun s p t r => s.dispatchSignal p t r))

/-- SIGNAL_QUEUE_RELEASE: the oldest signal leaves once the commands its mask covers have completed (R173). -/
def State.doSignalRelease (s : State) (c : Nat) : State :=
  match s.place c with
  | none => s
  | some p =>
    match (s.seqr p.x p.cm).sigq with
    | [] => s
    | g :: gs =>
      if !s.clocked || (s.core c).cmds.any (fun x => g.after.contains x.id) then s
      else (s.updSeqr p.x p.cm (fun q => { q with sigq := gs })).sendSync g.op

/-- SIGNAL_QUEUE_RELEASE. -/
def execSignalQueueRelease (c : Fin 272) (s : State) : Res := .next (s.doSignalRelease c)

/-! ## Transfers (R234) -/

/-- An XFER reaches the transfer engine, which hands it to the courier once it starts it. -/
def State.dispatchXfer (s : State) (p : CorePlace) (t : Stream) (r : BitVec 128) : State :=
  (s.handOver p t r .transfer).engineHands p .transfer

/-- XFER with DIR 0. -/
def execXferBenchToRemote (c : Fin 272) (s : State) : Res :=
  .next (s.dispatch c (fun r => isOp 0x14 r && cb r 121 121 == 0) (fun s p t r => s.dispatchXfer p t r))

/-- XFER with DIR 1. -/
def execXferRemoteToBench (c : Fin 272) (s : State) : Res :=
  .next (s.dispatch c (fun r => isOp 0x14 r && cb r 121 121 == 1) (fun s p t r => s.dispatchXfer p t r))

/-! ## Loads, MAC and DRAIN reach their engines -/

/-- LDT (R43). -/
def execLdt (c : Fin 272) (s : State) : Res :=
  .next (s.dispatch c (isOp 0x04) (fun s p t r => s.handOver p t r .weight))

/-- LDS (R49): the format it names is the one a later MAC with STAT must name (R768). -/
def execLds (c : Fin 272) (s : State) : Res :=
  .next (s.dispatch c (isOp 0x05) (fun s p t r =>
    (s.handOver p t r .array).updCore p.c (fun k => { k with
      ldsFmt := (List.range 4).map (fun a => if (ldsMask r).testBit a then some (ldsFmt r) else k.ldsFmt.getD a none) })))

/-- MAC (R57). -/
def execMac (c : Fin 272) (s : State) : Res :=
  .next (s.dispatch c (isOp 0x08) (fun s p t r => s.handOver p t r .array))

/-- A DRAIN reaches the drain engine (R63, R234). -/
def State.dispatchDrain (s : State) (p : CorePlace) (t : Stream) (r : BitVec 128) : State :=
  (s.handOver p t r .drain).engineHands p .drain

/-- DRAIN. -/
def execDrain (c : Fin 272) (s : State) : Res :=
  .next (s.dispatch c (isOp 0x09) (fun s p t r => s.dispatchDrain p t r))

/-! ## The end of a stream (R164, R165, R167, R174) -/

/-- A member's oldest stream leaves it and reports a code, or none. A WAIT that held it lapses. -/
def State.closeStream (s : State) (p : CorePlace) (t : Stream) (code : Option Code) : State :=
  let held := (s.seqr p.x p.cm).waiting.isSome && !t.ended
  let s := if held then
      (s.cancelWaits (fun w => match w with
        | .core x m => x == p.x && m == p.cm
        | _ => false)).endFiller p.c
    else s
  let s := s.updSeqr p.x p.cm (fun q => { q with
    streams := removeFirst (fun e => e.letter == t.letter) q.streams
    waiting := if held then none else q.waiting
    waitDone := none })
  s.reportStream t.letter p.cm code

/-- Commands that no row dispatches: an opcode that Table 4-17 does not give, or a vector operation that Table 4-22 does not. -/
def noRow (r : BitVec 128) : Bool := !opKnown r || (opc r == 0x0C && decide (0x10 < vecVop r))

/-- STREAM_END: the oldest stream of a member ends, on a halted core too where it has failed or has dispatched END; another stream of
a halted member waits (R164, R165, R168). -/
def State.doStreamEnd (s : State) (c : Nat) : State :=
  match s.seat c with
  | none => s
  | some p =>
    let q := s.seqr p.x p.cm
    match q.cur with
    | none => s
    | some t =>
      if !s.clocked then s
      else
        match t.fail with
        | some code => s.closeStream p t (some code)
        | none =>
          if t.ended then
            if (s.core c).cmds.any (fun x => x.letter == t.letter) then s else s.closeStream p t (some codeOk)
          else if s.halted c then s
          else if t.abort then s.closeStream p t none
          else if q.waiting.isSome || !t.begun || !s.run then s
          else if t.dispatched = t.commands then s.closeStream p t (some codeCommandInvalid)
          else
            match t.queue.head? with
            | some r => if noRow r && s.headRoom p r then s.closeStream p t (some ((s.dispatchCheck p r).getD codeOperandInvalid)) else s
            | none => s

/-- STREAM_END. -/
def execStreamEnd (c : Fin 272) (s : State) : Res := .next (s.doStreamEnd c)

end Sys2Proof.Machine
end

