-- ==== Sys2Proof/Machine/Vector.lean ====
section
/-! DEFINITION. The vector unit's commands (chapters 02, 03 and 04) and the completion of core commands. -/

namespace Sys2Proof.Machine

/-! ## Conversions (R139 to R141) -/

/-- Element `k` of format `f` in a vector register. Elements of 4 and 6 bits are packed as in a tile's row (Table 3-3; R140 gives
no place for them, notes/assumptions/10.md). -/
def regElem (f : Nat) (b : List Byte) (k : Nat) : Nat :=
  let w := elemBits f
  leField b (k * w / 8) ((k * w % 8 + w + 7) / 8) / 2 ^ (k * w % 8) % 2 ^ w

/-- A number times 2^e. -/
def numScale (x : Num) (e : Int) : Num :=
  match x with
  | .fin n m q => .fin n m (q + e)
  | y => y

/-- The 128 numbers of a register in format `f`; an MX format takes the block scales at bytes 0 to 3 of a second register. -/
def regNums (f : Nat) (b scales : List Byte) : List Num :=
  (List.range 128).map (fun k =>
    let x := elemNum f (regElem f b k)
    if isMx f then
      match scaleExp (scales.getD (k / 32) 0) with
      | some e => numScale x e
      | none => .nan
    else x)

/-- A conversion to FP32. An MX element times its scale may lie beyond FP32: DESIGN CHOICE, it gives an infinity of its sign and is no
overflow of R128 (notes/assumptions/59.md). -/
def cvtToF32 (f : Nat) (b scales : List Byte) : List Byte :=
  lanesBytes ((regNums f b scales).map numF32)

/-- A conversion from FP32: the register's bytes, and the bytes of the scale register for an MX format. VEC has no SHIFT: DESIGN CHOICE,
Table 3-6's is 0 (notes/assumptions/60.md). -/
def cvtFromF32 (f : Nat) (sat : Bool) (b : List Byte) : List Byte × List Byte :=
  let xs := (lanes b).map f32Num
  if isMx f then
    let bl := (List.range 4).map (fun i => mxBlock f ((xs.drop (32 * i)).take 32))
    (padBytes 512 (bl.map (·.2)).flatten, padBytes 512 (bl.map (·.1)))
  else (padBytes 512 ((xs.map (fun x => leBytes (elemBits f / 8) (convOut f sat 0 x))).flatten), [])

/-! ## Operations per lane (Table 4-22) -/

/-- A vector operation's result from its sources; CVT and the state reads stand apart. -/
def vopLanes (op : Nat) (a b c : List F32) : List F32 :=
  let z2 (f : F32 → F32 → F32) := List.zipWith f a b
  match op with
  | 0x00 => z2 f32Add
  | 0x01 => z2 f32Sub
  | 0x02 => z2 f32Mul
  | 0x03 => List.zipWith (fun (p : F32 × F32) z => f32Fma p.1 p.2 z) (a.zip b) c
  | 0x04 => z2 f32Min
  | 0x05 => z2 f32Max
  | 0x06 => z2 f32Cmplt
  | 0x07 => z2 f32Cmpeq
  | 0x08 => List.zipWith (fun (p : F32 × F32) z => if z = 0 then p.2 else p.1) (a.zip b) c
  | 0x0A => f32Sum a :: List.replicate 127 0
  | 0x0B => f32Hmax a :: List.replicate 127 0
  | 0x0C => a.map f32Exp2
  | 0x0D => a.map f32Rcp
  | 0x0E => a.map f32Rsq
  | _ => a

/-- A register as the command sees it: an earlier repeat's result before the register file's (notes/assumptions/11.md). -/
def State.vregIn (s : State) (c : Nat) (out : List (Nat × List Byte)) (r : Nat) : List Byte :=
  match out.find? (fun e => e.1 == r) with
  | some e => e.2
  | none => s.vreg c r

/-- The FP32 lanes that a CVT starts from: the source register where SFMT is FP32 and DFMT is not, else its conversion to FP32. A CVT
between two other formats goes through FP32 (R139; notes/assumptions/14.md). -/
def cvtSource (r : BitVec 128) (a scales : List Byte) : List Byte :=
  if vecSfmt r = 12 ∧ vecDfmt r ≠ 12 then a else cvtToF32 (vecSfmt r) a scales

/-- One repeat of a VEC: its results, the latest of a register first. A CVT to an MX format whose VS is also its destination: DESIGN
CHOICE, the scales stand (notes/assumptions/61.md). -/
def State.vecStep (s : State) (c : Nat) (r : BitVec 128) (out : List (Nat × List Byte)) (i : Nat) : List (Nat × List Byte) :=
  let reg (v : Nat) := s.vregIn c out v
  let vd := vecVd r + i
  let op := vecVop r
  if op = 0x09 then
    let a := cvtSource r (reg (vecVa r + i)) (reg (vecVs r))
    if vecDfmt r = 12 then (vd, a) :: out
    else
      let x := cvtFromF32 (vecDfmt r) (vecSat r) a
      if isMx (vecDfmt r) then (vecVs r, x.2) :: (vd, x.1) :: out else (vd, x.1) :: out
  else if op = 0x0F ∨ op = 0x10 then
    let t := if op = 0x0F then s.cs.smL else s.cs.smM
    (vd, lanesBytes ((List.range 128).map (fun k => tabGet 0 t (256 * c + ((vecImm r).toNat + k) % 256)))) :: out
  else
    let b := if vecBimm r then List.replicate 128 (vecImm r) else lanes (reg (vecVb r + i))
    (vd, lanesBytes (vopLanes op (lanes (reg (vecVa r + i))) b (lanes (reg (vecVc r + i))))) :: out

/-- The results of a VEC over its repeats. -/
def State.vecResults (s : State) (c : Nat) (r : BitVec 128) : List (Nat × List Byte) :=
  ((List.range (vecRep r + 1)).foldl (fun out i => s.vecStep c r out i) [])

/-- Registers that a command of the vector engine reads. -/
def vecReads (r : BitVec 128) : List Nat :=
  let n := vecRep r + 1
  if opc r = 0x0D then (if vmStore r then rangeFrom (vmReg r) (vmCnt r + 1) else [])
  else
    let s := vopSources (vecVop r)
    (if s.1 then rangeFrom (vecVa r) n else []) ++ (if s.2.1 && !vecBimm r then rangeFrom (vecVb r) n else []) ++
      (if s.2.2 then rangeFrom (vecVc r) n else []) ++ (if vecVop r = 0x09 ∧ isMx (vecSfmt r) then [vecVs r] else [])

/-- Registers that a pending DRAIN with DEST 1 has yet to write (R82). -/
def Cmd.writesReg (x : Cmd) (v : Nat) : Bool :=
  let r := x.raw
  opc r == 0x09 && !x.done && drDest r == 1 &&
    decide (cb r 76 72 ≤ v ∧ v ≤ cb r 76 72 + ((maskArrays (drMask r)).length * drN r * rowBytes (drFmt r) - 1) / 512)

/-- A sequenced ATTN uses the vector unit (R285). -/
def Core.attnVector (k : Core) : Bool :=
  match k.attn with
  | some a => a.impl == 1
  | none => false

/-- The first online-softmax entry of the ATTN under way (Table 4-23). -/
def Core.smBase (k : Core) : Nat :=
  match k.attn with
  | some a => a.qbase
  | none => 0

/-- The bench lines of a VMEM, in the order of its registers. -/
def vmLines (r : BitVec 128) : List Nat := (List.range (vmCnt r + 1)).flatMap (fun i => rangeFrom (vmLine r i) 8)

/-- The command's sources stand: no earlier command has yet to write one of its registers, no row in flight will update a state entry that
it reads (R90), its bench lines are written, and no sequenced ATTN has the vector unit. -/
def Core.vecReady (k : Core) (x : Cmd) : Bool :=
  let r := x.raw
  let state := opc r == 0x0C && (vecVop r == 0x0F || vecVop r == 0x10)
  !(k.cmds.any (fun y => decide (y.id < x.id) && (vecReads r).any (fun v => y.writesReg v))) &&
    !(state && k.smRows.any (fun e => decide ((k.smBase + e.r + 256 - (vecImm r).toNat % 256) % 256 < 128))) &&
    !(opc r == 0x0D && !vmStore r && (vmLines r).any (fun n => !k.readFree x.id n)) &&
    !k.attnVector

/-- Losses, NaNs and overflows that a conversion counts (R128). -/
def State.vecCounts (s : State) (c : Nat) (r : BitVec 128) : State :=
  if opc r = 0x0C ∧ vecVop r = 0x09 ∧ vecDfmt r ≠ 12 then
    let n := ((List.range (vecRep r + 1)).map (fun i => convExcess (vecDfmt r) (vecSat r) 0
      ((lanes (cvtSource r (s.vreg c (vecVa r + i)) (s.vreg c (vecVs r)))).map f32Num))).sum
    s.when (n ≠ 0) (fun s => s.count 0 c 14 n)
  else s

/-- The oldest vector command reads its sources and computes, once they stand (R82). -/
def State.vecStart (s : State) (c id : Nat) : State :=
  let k := s.core c
  match k.working .vector with
  | none => s
  | some x =>
    if x.id ≠ id ∨ x.out.isSome ∨ !k.vecReady x then s
    else
      let r := x.raw
      if opc r = 0x0D then
        if vmStore r then
          s.updCmd c id (fun y => { y with out := some ⟨(rangeFrom (vmReg r) (vmCnt r + 1)).map (fun v => (v, s.vreg c v))⟩ })
        else
          let t := s.benchReads c (vmLines r) x.rd
          if t.2 then t.1.benchFails c id
          else t.1.updCmd c id (fun y => { y with out := some ⟨(List.range (vmCnt r + 1)).map (fun i =>
            (vmReg r + i, memRead s.mem.bench (benchAddr c (vmLine r i)) 512))⟩ })
      else (s.vecCounts c r).updCmd c id (fun y => { y with out := some ⟨s.vecResults c r⟩ })

/-- A vector command's results become visible: the registers of a VEC or a load, the bench lines of a store. -/
def State.vecFinish (s : State) (c : Nat) (x : Cmd) : State :=
  let r := x.raw
  match x.out with
  | none => s
  | some o =>
    let done (s : State) := (s.updCmd c x.id (fun y => { y with done := true })).count 0 c 10
    if opc r = 0x0D ∧ vmStore r then
      if (vmLines r).any (fun n => !(s.core c).writeFree x.id n) then s
      else done (s.each ((List.range (vmCnt r + 1)).zip o.regs) (fun s e =>
        s.benchWriteAll c (vmLine r e.1 * 64) e.2.2 8))
    else done (s.each o.regs.reverse (fun s e => s.setVreg c e.1 0 e.2))

/-! ## Dispatch of VEC and VMEM -/

/-- A vector command reaches its engine and, where nothing holds it back, reads its sources. -/
def State.dispatchVec (s : State) (p : CorePlace) (t : Stream) (r : BitVec 128) (rd : ReadRes) : State :=
  let id := (s.core p.c).nextCmd
  ((s.handOver p t r .vector).updCmd p.c id (fun x => { x with rd := rd })).vecStart p.c id

/-- The head is a VEC of an operation. -/
def isVop (op : Nat) (r : BitVec 128) : Bool := isOp 0x0C r && vecVop r == op

/-- Dispatch a VEC of an operation. -/
def State.doVec (s : State) (c op : Nat) : State := s.dispatch c (isVop op) (fun s p t r => s.dispatchVec p t r .clean)

def execVecAdd (c : Fin 272) (s : State) : Res := .next (s.doVec c 0x00)
def execVecSub (c : Fin 272) (s : State) : Res := .next (s.doVec c 0x01)
def execVecMul (c : Fin 272) (s : State) : Res := .next (s.doVec c 0x02)
def execVecFma (c : Fin 272) (s : State) : Res := .next (s.doVec c 0x03)
def execVecMin (c : Fin 272) (s : State) : Res := .next (s.doVec c 0x04)
def execVecMax (c : Fin 272) (s : State) : Res := .next (s.doVec c 0x05)
def execVecCmplt (c : Fin 272) (s : State) : Res := .next (s.doVec c 0x06)
def execVecCmpeq (c : Fin 272) (s : State) : Res := .next (s.doVec c 0x07)
def execVecSel (c : Fin 272) (s : State) : Res := .next (s.doVec c 0x08)
def execVecCvt (c : Fin 272) (s : State) : Res := .next (s.doVec c 0x09)
def execVecSum (c : Fin 272) (s : State) : Res := .next (s.doVec c 0x0A)
def execVecHmax (c : Fin 272) (s : State) : Res := .next (s.doVec c 0x0B)
def execVecExp2 (c : Fin 272) (s : State) : Res := .next (s.doVec c 0x0C)
def execVecRcp (c : Fin 272) (s : State) : Res := .next (s.doVec c 0x0D)
def execVecRsq (c : Fin 272) (s : State) : Res := .next (s.doVec c 0x0E)
def execVecStateL (c : Fin 272) (s : State) : Res := .next (s.doVec c 0x0F)
def execVecStateM (c : Fin 272) (s : State) : Res := .next (s.doVec c 0x10)

/-- VMEM with DIR 0. -/
def execVmemLoad (c : Fin 272) (rd : ReadRes) (s : State) : Res :=
  .next (s.dispatch c (fun r => isOp 0x0D r && !vmStore r) (fun s p t r => s.dispatchVec p t r rd))

/-- VMEM with DIR 1. -/
def execVmemStore (c : Fin 272) (s : State) : Res :=
  .next (s.dispatch c (fun r => isOp 0x0D r && vmStore r) (fun s p t r => s.dispatchVec p t r .clean))

/-! ## COMMAND_COMPLETE (R99, R171) -/

/-- A sequenced ATTN leaves V28 to V31 undefined (R285). -/
def State.scrambleScratch (s : State) (c : Nat) : State :=
  s.each [28, 29, 30, 31] (fun s v =>
    let (bs, s) := s.freeBytes 64
    s.setVreg c v 0 bs)

/-- Entries of a table take free values. -/
def freeEntries (drawn : Nat) (t : Tab F32) : List Nat → Tab F32
  | [] => t
  | k :: ks => freeEntries (drawn + 1) (tabSet 0 t k (BitVec.ofNat 32 (Config.freeWord drawn).toNat)) ks

/-- After an ATTN its accumulator rows and its online-softmax entries hold no defined values (R281). -/
def State.scrambleAttn (s : State) (c D : Nat) (r : BitVec 128) : State :=
  let rows := (List.range 4).flatMap (fun a =>
    (rangeFrom (attnRows D r a).1 (attnRows D r a).2).flatMap (fun i => (List.range 64).map (fun j => accKey c a i j)))
  let es := (rangeFrom (atQbase r) (atQn r)).map (fun i => 256 * c + i % 256)
  { s with
    drawn := s.drawn + rows.length + 2 * es.length
    cs := { s.cs with
      acc := freeEntries s.drawn s.cs.acc rows
      smM := freeEntries (s.drawn + rows.length) s.cs.smM es
      smL := freeEntries (s.drawn + rows.length + es.length) s.cs.smL es } }

/-- What follows a command's completion: the DONE of a transfer, the aborts that an ATTN held up, the error of a stream. -/
def State.afterCmd (s : State) (p : CorePlace) (x : Cmd) : State :=
  match x.fail with
  | some code => s.failStream p.x p.cm x.letter code
  | none =>
    match x.eng with
    | .transfer =>
      if cb x.raw 32 32 = 0 then s
      else
        match s.cmdRef p (cb x.raw 52 33) with
        | none => s
        | some k => s.sendSync { who := .engine (cmCl p.cm), act := .signal .add, key := k, ref := BitVec.ofNat 20 (cb x.raw 52 33)
                                 cl := cmCl p.cm, mem := cmMem p.cm, value := 1, q := x.letter.q }
    | .attention => if atImpl x.raw = 1 then s.scrambleScratch p.c else s
    | _ => s

/-- An engine's oldest command reaches its completion point and leaves the core; a transfer does so when the courier has reported its own
last line (Table 4-16). -/
def State.doComplete (s : State) (c : Nat) (eng : Engine) : State :=
  match s.place c with
  | none => s
  | some p =>
    let s := match eng with
      | .vector =>
        match (s.core c).working .vector with
        | none => s
        | some x =>
          let s := s.vecStart c x.id
          match (s.core c).cmd x.id with
          | some y => if y.done then s else s.vecFinish c y
          | none => s
      | _ => s
    match (s.core c).cmds.find? (fun x => x.eng == eng && (eng != .transfer || x.done)) with
    | none => s
    | some x =>
      if !x.done then s
      else
        let s := s.updCore c (fun k => { k with cmds := removeFirst (fun y => y.id == x.id) k.cmds })
        let s := s.afterCmd p x
        let s := s.coreHands c
        if eng = .attention then (s.scrambleAttn c (s.kvDim p.x) x.raw).settleAbort (atSeq x.raw) else s

/-- COMMAND_COMPLETE. A detection in the core halts it instead (R99). -/
def execCommandComplete (c : Fin 272) (eng : Engine) (fault : CoreFault) (s : State) : Res :=
  .next (s.inCore c 0 fault .clean (fun s => s.doComplete c eng))

end Sys2Proof.Machine
end

