-- ==== Sys2Proof/Machine/AttnOps.lean ====
section
/-! DEFINITION. What an ATTN works on: its checks, its visit list, its blocks and tiles, and the vectors of its arrays
(chapter 07). -/

namespace Sys2Proof.Machine

/-! ## Checks at dispatch (R178, R269, R270, Table 7-2) -/

/-- Formats and D that an implementation accepts. -/
def attnShapeOk (impl qfmt kvfmt D : Nat) : Bool :=
  let eight (f : Nat) : Bool := decide (1 ≤ f ∧ f ≤ 3)
  let wide (f : Nat) : Bool := f == 10 || f == 11
  if impl = 0 then eight kvfmt && eight qfmt && D == 128
  else ((eight kvfmt && eight qfmt) || (wide kvfmt && wide qfmt)) && decide (64 ≤ D ∧ D ≤ 256)

/-- A run of bench lines stays below line 16,384 and out of the staging region (R275). -/
def attnLinesOk (first n : Nat) : Bool := decide (first + n ≤ 16384) && (decide (first + n ≤ 15104) || decide (16128 ≤ first))

/-- The checks of an ATTN after those of R176, in their order. -/
def State.attnCheck (s : State) (p : CorePlace) (r : BitVec 128) : Option Code :=
  let q := s.sequence (atSeq r)
  let D := s.kvDim p.x
  let G := s.kvGroup p.x
  let T := atQn r / G
  let lq := D * (elemBits (atQfmt r) / 8) / 64
  let lk := D * (elemBits (atKvfmt r) / 8) / 64
  let wp := attnWp (atKvfmt r)
  let base := s.fld .kvpGeom fKvpGeomHeadBase p.x
  if q.state = .free ∨ q.ctx ≠ p.x ∨ q.state ≠ .stepping then some codeSeqInvalid
  else if atKvfmt r ≠ s.fld .kvpGeom fKvpGeomKvfmt p.x ∨ s.kvLayers p.x ≤ atLayer r ∨ atHead r < base ∨
      base + s.kvHeads p.x ≤ atHead r ∨ atQn r % G ≠ 0 ∨ T ≠ q.pending ∨
      !attnShapeOk (atImpl r) (atQfmt r) (atKvfmt r) D ∨ 256 < atQbase r + atQn r ∨
      (atImpl r = 1 ∧ 256 < atQbase r + atQn r * (D / wp)) ∨
      !attnLinesOk (atQline r) (atQn r * lq + 2 * T * lk) ∨ !attnLinesOk (atOline r) (atQn r * D / 32) then
    some codeOperandInvalid
  else none

/-! ## The visit list (R294, R295) -/

/-- The page as the walker finds it, pinned slots first; none of its frames where it is absent. -/
def State.visitPage (s : State) (x n layer page : Nat) : VisitPage :=
  let e := match s.pinSlotOf x n layer page with
    | some i => s.pageEntry n layer i
    | none => s.pageEntry n layer (s.ringSlot x page)
  ⟨page, if peHolds e page && peLoc e == 0 then some (peFrame e) else none⟩

/-- Pages held in pinned slots of a layer, in slot order, each once. -/
def State.pinnedPages (s : State) (x n layer : Nat) : List Nat :=
  (((List.range (s.kvPinMax x)).map (fun i => s.pageEntry n layer i)).filter peValid |>.map pePage).eraseDups

/-- The pages an ATTN visits, in order. -/
def State.visitList (s : State) (x n layer L0 T : Nat) : List VisitPage :=
  let lo := firstPage (s.kvWindow x) L0
  let hi := (L0 + T - 1) / 64
  ((s.pinnedPages x n layer).filter (fun g => decide (g < lo)) ++ rangeFrom lo (hi + 1 - lo)).map (s.visitPage x n layer)

/-- What an ATTN takes at its start. -/
def State.newAttn (s : State) (p : CorePlace) (x : Cmd) : Attn :=
  let r := x.raw
  let n := atSeq r
  let q := s.sequence n
  let G := s.kvGroup p.x
  let T := atQn r / G
  { cmd := x.id, ctx := p.x, seq := n, layer := atLayer r, head := atHead r - s.fld .kvpGeom fKvpGeomHeadBase p.x, impl := atImpl r
    qfmt := atQfmt r, kvfmt := atKvfmt r, D := s.kvDim p.x, T := T, G := G, W := s.kvWindow p.x, L0 := q.l0
    qbase := atQbase r, qn := atQn r, qline := atQline r, oline := atOline r, kscale := atK r
    pool := s.fld .kvpPoolBase fKvpPoolBaseBase p.x, pageBytes := s.kvPageBytes p.x
    pages := s.visitList p.x n (atLayer r) q.l0 T, pinned := s.pinnedPages p.x n (atLayer r) }

/-! ## Blocks (R276, R284) -/

/-- Element bytes of the KV format and of the query format. -/
def Attn.ekv (a : Attn) : Nat := elemBits a.kvfmt / 8
def Attn.eq_ (a : Attn) : Nat := elemBits a.qfmt / 8

/-- w′, and the bytes of a tile. -/
def Attn.wp (a : Attn) : Nat := attnWp a.kvfmt
def Attn.tileB (a : Attn) : Nat := a.wp * a.wp * a.ekv

/-- Keys per block, and blocks of the walk. -/
def Attn.keys (a : Attn) : Nat := if a.impl = 0 then 128 else a.wp
def Attn.blocks (a : Attn) : Nat :=
  let n := a.pages.length
  if a.impl = 0 then (n + 1) / 2 else if a.wp = 32 then 2 * n else n

/-- The place of key `k` of block `b`: index in the visit list, and position within the page. -/
def Attn.keyAt (a : Attn) (b k : Nat) : Nat × Nat :=
  if a.impl = 0 then (2 * b + k / 64, k % 64)
  else if a.wp = 32 then (b / 2, b % 2 * 32 + k)
  else (b, k)

/-- A key is valid for a query row (R272, R273); positions of an absent page for none (R294). -/
def Attn.keyValid (a : Attn) (b k r : Nat) : Bool :=
  let (i, j) := a.keyAt b k
  match a.pages[i]? with
  | some ⟨page, some _⟩ =>
    let pos := page * 64 + j
    let pr := a.L0 + r / a.G
    decide (pos ≤ pr) && (decide (pr < pos + a.W) || a.pinned.contains page)
  | _ => false

/-- A key is valid for some query row of the ATTN (R296). -/
def Attn.keyUsed (a : Attn) (b k : Nat) : Bool := (List.range a.qn).any (fun r => a.keyValid b k r)

/-- Byte of the staging slot where element `d` of key `k` goes, in K (dim × key) or in V (key × dim) (Table 7-4, R284). -/
def Attn.place (a : Attn) (v : Bool) (k d : Nat) : Nat :=
  let wp := a.wp
  if a.impl = 0 then
    let tile := if v then 4 + 2 * (d / 64) + k / 64 else 2 * (k / 64) + d / 64
    tile * 4096 + (if v then k % 64 * 64 + d % 64 else d % 64 * 64 + k % 64)
  else
    let tile := (if v then a.D / wp else 0) + d / wp
    tile * a.tileB + (if v then k * wp + d % wp else d % wp * wp + k) * a.ekv

/-- Byte of the bench, within a core, where block `b`'s staging slot begins (R275). -/
def attnSlot (b : Nat) : Nat := (15104 + 512 * (b % 2)) * 64

/-- Tiles of a block. -/
def Attn.tiles (a : Attn) : Nat := if a.impl = 0 then 8 else 2 * (a.D / a.wp)

/-- Tiles of a pipelined block in the order of Table 7-4: page of the block, V or K, half of the dims. -/
def pipeTiles : List (Nat × Bool × Nat) :=
  [(0, false, 0), (0, false, 1), (1, false, 0), (1, false, 1), (0, true, 0), (1, true, 0), (0, true, 1), (1, true, 1)]

/-- Lines that one read of a block covers. -/
def Attn.pieceLines (a : Attn) : Nat := if a.impl = 0 then 1 else 4

/-- The reads of a block: index in the visit list, frame, byte offset in the head's K and V rows. A pipelined block is staged tile by
tile in the order of Table 7-4, a row of a tile to a read (R276); a sequenced one in reads of 256 B. -/
def Attn.pieces (a : Attn) (b : Nat) : List (Nat × Nat × Nat) :=
  let row := a.D * a.ekv
  if a.impl = 0 then
    pipeTiles.flatMap (fun t => match (a.pages[2 * b + t.1]?).bind (·.frame) with
      | some f => (List.range 64).map (fun j => (2 * b + t.1, f, (if t.2.1 then 64 * row else 0) + j * row + 64 * t.2.2))
      | none => [])
  else
    let i := if a.wp = 32 then b / 2 else b
    let segs := if a.wp = 32 then [(b % 2 * 32 * row, 32 * row), (64 * row + b % 2 * 32 * row, 32 * row)] else [(0, 128 * row)]
    match (a.pages[i]?).bind (·.frame) with
    | some f => segs.flatMap (fun (g : Nat × Nat) => (List.range (g.2 / 256)).map (fun j => (i, f, g.1 + 256 * j)))
    | none => []

/-- Window offset of byte `o` of the ATTN's head in a frame (R287, R288). -/
def Attn.frameOff (a : Attn) (f o : Nat) : Nat := a.pool + f * a.pageBytes + a.head * 128 * a.D * a.ekv + o

/-- The elements of a read, with the byte of the slot that each goes to; those of unused positions are +0 (R296). -/
def Attn.scatter (a : Attn) (b i off : Nat) (bytes : List Byte) : List (Nat × List Byte) :=
  let e := a.ekv
  let row := a.D * e
  (List.range (bytes.length / e)).map (fun n =>
    let o := off + n * e
    let v := decide (64 * row ≤ o)
    let o' := if v then o - 64 * row else o
    let j := o' / row
    let d := o' % row / e
    let k := if a.impl = 0 then (i - 2 * b) * 64 + j else if a.wp = 32 then j - b % 2 * 32 else j
    (a.place v k d, if a.keyUsed b k then (bytes.drop (n * e)).take e else List.replicate e 0))

/-! ## Appends (R271, R297) -/

/-- Requests for one new row, a line each so that each is translated for itself, and for all of them. -/
def Attn.rowReqs (a : Attn) : Nat := a.D * a.ekv / 64
def Attn.appends (a : Attn) : Nat := 2 * a.T * a.rowReqs

/-- Append `n`: bench byte it reads, bytes, position index, byte offset in the head of the page. -/
def Attn.append (a : Attn) (n : Nat) : Nat × Nat × Nat × Nat :=
  let i := n / a.rowReqs
  let part := n % a.rowReqs
  let row := a.D * a.ekv
  let lq := a.D * a.eq_ / 64
  let t := i % a.T
  let v := decide (a.T ≤ i)
  let j := (a.L0 + t) % 64
  ((a.qline + a.qn * lq) * 64 + i * row + part * 64, 64, t, (if v then 64 * row else 0) + j * row + part * 64)

/-! ## The arrays (R277 to R280) -/

/-- The arrays an ATTN uses, and the tiles each takes in a block. -/
def Attn.arrays (a : Attn) : List Nat := if a.impl = 0 then [0, 1, 2, 3] else [0, 1]
def Attn.perArr (a : Attn) : Nat := if a.impl = 0 then 2 else a.D / a.wp

/-- An array that forms scores. -/
def Attn.scores (a : Attn) (i : Nat) : Bool := if a.impl = 0 then decide (i < 2) else i == 0

/-- One array's progress. -/
def Attn.at_ (a : Attn) (i : Nat) : AttnArr := a.arr.getD i {}

/-- The block that every array has finished before. -/
def Attn.minBlk (a : Attn) : Nat := minList 0 (a.arrays.map (fun i => (a.at_ i).blk))

/-- Byte of the bench where the tile that array `i` is at begins. -/
def Attn.tileAt (a : Attn) (i : Nat) : Nat :=
  let x := a.at_ i
  attnSlot x.blk + (a.perArr * i + x.half) * a.tileB

/-- Array `i` has its next tile to load: the block is staged. -/
def Attn.loads (a : Attn) (i : Nat) : Bool :=
  let x := a.at_ i
  a.arrays.contains i && decide (x.blk < a.blocks ∧ x.blk < a.staged ∧ x.loaded < a.tileB)

/-- The row number, counted over all blocks, of row `r` of block `b`. -/
def Attn.rowNo (a : Attn) (b r : Nat) : Nat := b * a.qn + r

/-- The next vector of array `i` may issue (R277, R279). -/
def Attn.issues (a : Attn) (i : Nat) : Bool :=
  let x := a.at_ i
  a.arrays.contains i && decide (x.blk < a.blocks ∧ x.loaded = a.tileB ∧ x.issued < a.qn) &&
    (if a.scores i then x.half != 0 || x.blk == 0 || decide (a.rowNo (x.blk - 1) x.issued < a.entered)
     else decide (a.rowNo x.blk x.issued < a.delivered))

/-- The bench line of a score vector. -/
def Attn.queryLine (a : Attn) (half r : Nat) : Nat := a.qline + r * (a.D * a.eq_ / 64) + half

/-- The p row of a block. -/
def Attn.pRow (a : Attn) (b r : Nat) : Option PRow := a.pbuf.find? (fun y => y.blk == b && y.r == r)

/-- The next vector of array `i`; `line` is the query line it reads. -/
def Attn.vec (a : Attn) (i : Nat) (line : List Byte) : VecIn :=
  let x := a.at_ i
  let r := x.issued
  let mode := if a.wp = 32 then 2 else 1
  let src : VecSrc := .attn a.cmd x.blk x.half r
  if a.scores i then
    { bytes := line, scales := [], afmt := a.qfmt, mode := mode, stat := true, row := a.qbase + r, upd := if x.half = 0 then 0 else 1
      int := false, f := 0, src := src }
  else
    let p := (a.pRow x.blk r).getD ⟨0, 0, 0, []⟩
    let bytes := if a.impl = 0 then (p.p.drop (64 * x.half)).take 64 else p.p
    let upd := if a.impl = 0 ∧ x.half ≠ 0 then 1 else if x.blk = 0 then 0 else 2
    { bytes := bytes, scales := [], afmt := if a.wp = 32 then 10 else 2, mode := mode, stat := true
      row := if a.impl = 0 then a.qbase + r else a.qbase + x.half * a.qn + r, upd := upd, int := false, f := p.alpha, src := src }

/-- A vector of array `i` is committed: after the last against a tile, the array turns to its next. -/
def Attn.commit (a : Attn) (i : Nat) : Attn :=
  let f (x : AttnArr) : AttnArr :=
    if x.committed + 1 < a.qn then { x with committed := x.committed + 1 }
    else if x.half + 1 < a.perArr then { blk := x.blk, half := x.half + 1 }
    else { blk := x.blk + 1 }
  let a := { a with arr := a.arr.modify i f }
  let lo := minList 0 ((a.arrays.filter (fun i => !a.scores i)).map (fun i => (a.at_ i).blk))
  { a with pbuf := a.pbuf.filter (fun y => decide (lo ≤ y.blk)) }

/-- Row `r` of block `b` is committed on every array that forms scores (R278). -/
def Attn.scored (a : Attn) (b r : Nat) : Bool :=
  (a.arrays.filter a.scores).all (fun i =>
    let x := a.at_ i
    decide (b < x.blk) || (x.blk == b && x.half + 1 == a.perArr && decide (r < x.committed)))

/-- Change the ATTN of a core. -/
def State.updAttn (s : State) (c : Nat) (f : Attn → Attn) : State := s.updCore c (fun k => { k with attn := k.attn.map f })

/-- An ATTN fails: it leaves the core's engine with its command (R165). -/
def State.failAttn (s : State) (c : Nat) (code : Code) : State :=
  match (s.core c).attn with
  | some a => ((s.updCore c (fun k => { k with attn := none, smRows := [] })).failCmd c a.cmd code)
  | none => s

/-- An ATTN reads a bench line with an uncorrectable error (R96). -/
def State.attnBenchFails (s : State) (c : Nat) : State :=
  match (s.core c).attn with
  | some a => (s.updCore c (fun k => { k with attn := none, smRows := [] })).benchFails c a.cmd
  | none => s

/-- No earlier LDS, MAC or DRAIN that touches what the ATTN uses is still at work (R281). -/
def Core.attnFree (k : Core) (a : Attn) : Bool :=
  match k.cmd a.cmd with
  | some x => !(k.cmds.any (fun y => decide (y.id < x.id) && touchesAttn a.D x.raw y.raw))
  | none => false

end Sys2Proof.Machine
end

