-- ==== Sys2Proof/Machine/LaceRing.lean ====
section
/-! DEFINITION. The W port and the lace (chapters 02 and 06): chunks of a tile enter a core's shadow buffers from the bench or
from the lace, and pass round the ring. -/

namespace Sys2Proof.Machine

/-! ## The shadow buffers (R43 to R46, R128) -/

/-- The LDT at work in a core, while the shadow buffers can take its tile (R45). -/
def Core.loading (k : Core) : Option Cmd :=
  match k.working .weight with
  | some x => if k.shadow.isNone && x.fail.isNone then some x else none
  | none => none

/-- Tile rows that lose bits in alignment and columns marked NaN are counted (R128, Table 18-1). -/
def State.countTile (s : State) (c : Nat) (t : Tile) : State :=
  let n := tileDim t.fmt
  let lost := ((List.range n).filter (rowLoses t)).length
  let marks := ((List.range n).filter (colNan t)).length
  ((s.when (lost != 0) (fun s => s.count 0 c 12 lost))).when (marks != 0) (fun s => s.count 0 c 13 marks)

/-- The shadow buffers take 256 B of elements and their scale bytes; with the tile's last byte its load is complete, and with the
last tile's the LDT is (Table 4-16). -/
def State.acceptChunk (s : State) (c : Nat) (x : Cmd) (bytes scales : List Byte) : State :=
  let k := s.core c
  let fmt := ldtFmt x.raw
  let got := k.load ++ bytes
  let sc := k.loadScales ++ scales
  if got.length < tileBytes fmt then s.updCore c (fun k => { k with load := got, loadScales := sc })
  else
    let t : Tile := { fmt := fmt, bytes := got.take (tileBytes fmt), scales := if isMx fmt then sc.take 128 else [] }
    let s := s.updCore c (fun k => { k with shadow := some t, load := [], loadScales := [] })
    let s := s.updCmd c x.id (fun y => { y with tile := y.tile + 1, done := decide (ldtCount x.raw ≤ y.tile + 1) })
    s.countTile c t

/-- Chunk `n` of a tile held as bytes: elements, and 16 scale bytes with each of the first eight (R242). -/
def chunkOf (bytes scales : List Byte) (n : Nat) : List Byte × List Byte :=
  ((bytes.drop (256 * n)).take 256, if n < 8 then (scales.drop (16 * n)).take 16 else [])

/-- W_PORT_CHUNK: the W port takes the next 256 B of a tile from the bench (R36, R44). An uncorrectable line fails the LDT (R96). -/
def State.wPort (s : State) (c : Nat) (rd : ReadRes) : State :=
  match (s.core c).loading with
  | none => s
  | some x =>
    if ldtLace x.raw then s
    else
      let n := (s.core c).load.length / 256
      let fmt := ldtFmt x.raw
      let base := ldtLine x.raw x.tile
      let line := base + 4 * n
      let scaleLine := base + tileBytes fmt / 64 + n / 4
      let reads := rangeFrom line 4 ++ (if isMx fmt ∧ n < 8 then [scaleLine] else [])
      if !reads.all (fun i => (s.core c).readFree x.id i) then s
      else
        let t := s.benchReads c reads rd
        let s := t.1
        if t.2 then s.benchFails c x.id
        else
          let bytes := ((rangeFrom line 4).map (s.benchLine c)).flatten
          let sc := if isMx fmt ∧ n < 8 then ((s.benchLine c scaleLine).drop (16 * (n % 4))).take 16 else []
          s.acceptChunk c x bytes sc

/-- W_PORT_CHUNK. Which array's bit a mismatch of the shared load path sets is not stated: DESIGN CHOICE, A0's, the path being one for
the four arrays (notes/assumptions/58.md). -/
def execWPortChunk (c : Fin 272) (rd : ReadRes) (fault : CoreFault) (s : State) : Res :=
  .next (s.inCore c 0 fault rd (fun s => s.wPort c rd))

/-! ## The ring (R240 to R247) -/

/-- The core that holds a member, not halted. -/
def State.liveMember (s : State) (cl m : Nat) : Option Nat :=
  match s.coreOf cl m with
  | some c => if s.halted c then none else some c
  | none => none

/-- A member takes a chunk into its shadow buffers and its forwarding register in one ACLK, or refuses it (R243, R244). -/
def State.takeChunk (s : State) (c fmt : Nat) (bytes scales : List Byte) : Option State :=
  let k := s.core c
  match k.loading with
  | some x =>
    if ldtLace x.raw && k.fwd.isNone then
      some ((s.acceptChunk c x bytes scales).updCore c (fun k => { k with fwd := some (fmt, bytes, scales) }))
    else none
  | none => none

/-- The lace of a cluster in service moves: it is not frozen. -/
def State.laceMoves (s : State) (cl : Nat) : Bool := s.clocked && s.clusterIn cl && !(s.lace cl).frozen

/-- A lace detection: a disagreement in its control takes the cluster out of service (R673), any other halts the member (R99). -/
def State.laceFault (s : State) (cl m : Nat) (f : CoreFault) : State :=
  if f = .control then s.clusterAgentFault cl
  else
    match s.liveMember cl m with
    | some c => s.haltAt c 0 f
    | none => s

/-- The entry sends the next chunk to member 0, or is refused (R242, R245). -/
def State.laceSend (s : State) (cl : Nat) : State :=
  let e := s.lace cl
  match e.tiles, s.liveMember cl 0 with
  | t :: rest, some c =>
    let (b, sc) := chunkOf t.bytes t.scales e.sent
    match s.takeChunk c t.fmt b sc with
    | none => s.count 1 cl 4
    | some s =>
      if (e.sent + 1) * 256 < t.bytes.length then s.updLace cl (fun e => { e with sent := e.sent + 1 })
      else
        let s := s.updLace cl (fun e => { e with tiles := rest, sent := 0, inRing := e.inRing ++ [(t.id, t.fmt)] })
        match (List.range 20).find? (fun k => (s.desc k t.id).isSome) with
        | some k => s.feedEntry k t.id cl 4
        | none => s
  | _, _ => s

/-- LACE_CHUNK_SEND (R242). -/
def execLaceChunkSend (cl : Fin 16) (fault : CoreFault) (s : State) : Res :=
  .next (if !s.laceMoves cl then s else if fault ≠ .none then s.laceFault cl 0 fault else s.laceSend cl)

/-- Member `m` forwards its register to member m + 1, or holds it (R244, R245). -/
def State.laceForward (s : State) (cl m : Nat) : State :=
  match s.liveMember cl m, s.liveMember cl (m + 1) with
  | some c, some d =>
    match (s.core c).fwd with
    | some (fmt, b, sc) =>
      match s.takeChunk d fmt b sc with
      | some s => s.updCore c (fun k => { k with fwd := none })
      | none => s
    | none => s
  | _, _ => s

/-- LACE_CHUNK_FORWARD (R244). Member 15 forwards to the entry instead. -/
def execLaceChunkForward (cl m : Fin 16) (fault : CoreFault) (s : State) : Res :=
  .next (if !s.laceMoves cl || m == 15 then s else if fault ≠ .none then s.laceFault cl (m.val + 1) fault else s.laceForward cl m)

/-- A chunk returns to the entry and is discarded; with the last of the last tile the feed completes (R246). -/
def State.laceReturn (s : State) (cl : Nat) : State :=
  match s.liveMember cl 15 with
  | none => s
  | some c =>
    match (s.core c).fwd, (s.lace cl).inRing with
    | some _, (id, fmt) :: rest =>
      let s := s.updCore c (fun k => { k with fwd := none })
      let n := (s.lace cl).returnedChunks + 1
      if n * 256 < tileBytes fmt then s.updLace cl (fun e => { e with returnedChunks := n })
      else
        let s := s.updLace cl (fun e => { e with
          returnedChunks := 0
          inRing := rest
          returnedTiles := if e.desc = some id then e.returnedTiles + 1 else e.returnedTiles })
        let s := s.bump .laceStatus fLaceStatusTilesReturned cl
        match (List.range 20).find? (fun k => (s.desc k id).isSome) with
        | some k => match s.desc k id with
          | some d => if (s.lace cl).desc = some id ∧ (s.lace cl).returnedTiles = d.desc.rows.toNat then s.endDesc k id codeOk [] else s
          | none => s
        | none => s
    | some _, [] => s.updCore c (fun k => { k with fwd := none })
    | none, _ => s

/-- LACE_CHUNK_RETURN (R246). -/
def execLaceChunkReturn (cl : Fin 16) (s : State) : Res := .next (if s.laceMoves cl then s.laceReturn cl else s)

end Sys2Proof.Machine
end

