-- ==== Sys2Proof/Machine/Arrays.lean ====
section
/-! DEFINITION. The matrix arrays: issue slots, stationary loads, the accumulate stage with its check and replay, tile swaps, feeders
and expanders, drains and the O port, filler work, write-back and self-test (chapters 02, 05 and 10). -/

namespace Sys2Proof.Machine

/-! ## Issue slots (R38 to R42, R57 to R60, R70, R77, R175, R214, R217, Table 2-4, Table 15-4) -/

/-- The 6-bit reversal of a slot number. -/
def bitrev6 (n : Nat) : Nat := (List.range 6).foldl (fun acc i => acc + (if n.testBit i then 2 ^ (5 - i) else 0)) 0

/-- The throttle level that a cluster applies (R633). -/
def State.level (s : State) (cl : Nat) : Nat := tabGet 0 s.pw.levels cl

/-- The power core or the cap after a wait refuses an array's slot, which carries a throttle bubble (Table 15-4, R217). -/
def State.refusesSlot (s : State) (c a : Nat) : Bool :=
  let arr := (s.core c).arr a
  decide (bitrev6 (arr.slots % 64) < s.level (c / 17)) || (match arr.filler.cap with
    | some m => decide (m ≤ bitrev6 ((arr.slots - arr.filler.start) % 64))
    | none => false)

/-- Vectors of a MAC that one issue cycle takes from `idx` on: two rows of a tile in M4, else one. -/
def macPer (r : BitVec 128) (idx : Nat) : Nat := if macMode r = 0 ∧ idx % macN r + 1 < macN r then 2 else 1

/-- The feeder that holds vector `idx` of a command (R406). -/
def Arr.feeder (a : Arr) (idx : Nat) : Feeder := if idx % 2 = 0 then a.feed0 else a.feed1
def Arr.updFeeder (a : Arr) (f : Nat) (g : Feeder → Feeder) : Arr :=
  if f % 2 = 0 then { a with feed0 := g a.feed0 } else { a with feed1 := g a.feed1 }

/-- Vector `idx` of a command as its feeder holds it at its head. -/
def Arr.fed (a : Arr) (x : Cmd) (idx : Nat) : Option FeedVec :=
  match (a.feeder idx).queue with
  | v :: _ => if v.cmd = x.id ∧ v.t * macN x.raw + v.v = idx then some v else none
  | [] => none

/-- A drain earlier in program order still has to read a row of an array (R60). -/
def Core.rowHeld (k : Core) (x : Cmd) (a row : Nat) : Bool :=
  k.cmds.any (fun d => d.eng == .drain && !d.done && decide (d.id < x.id) && (drMask d.raw).testBit a &&
    decide (drBase d.raw + cnt d.issued a ≤ row ∧ row < drBase d.raw + drN d.raw))

/-- A vector of a MAC, its factor taken from lane (row mod 128) of FREG. When the lane is read is not stated: DESIGN CHOICE, at issue
(notes/assumptions/62.md). -/
def State.macVec (s : State) (c : Nat) (x : Cmd) (v : FeedVec) : VecIn :=
  let r := x.raw
  let row := macBase r + v.v
  { bytes := v.bytes, scales := v.scales, afmt := macAfmt r, mode := macMode r, stat := macStat r, row := row
    upd := if v.t = 0 then macUpd0 r else macUpd r, int := macInt r
    f := (lanes (s.vreg c (macFreg r))).getD (row % 128) 0, src := .mac x.id v.t v.v }

/-- What an array would issue for its MAC: vectors, or the cause of Table 2-4 that bars them (1 feeder empty, 2 row held, 3 tile not
ready, 4 drain backed up, 7 stationary load, 8 no work). -/
def State.macIssue (s : State) (c a : Nat) : Except Nat (Cmd × List FeedVec) :=
  let k := s.core c
  let arr := k.arr a
  match k.arrayCmd with
  | none => .error 8
  | some x =>
    let r := x.raw
    if opc r = 0x05 then (if (ldsMask r).testBit a && cnt x.issued a == 0 then .error 7 else .error 8)
    else if !(macMask r).testBit a || decide (macTotal r ≤ cnt x.issued a) then .error 8
    else
      let idx := cnt x.issued a
      let n := macPer r idx
      if !macStat r && x.tile != idx / macN r + 1 then .error 3
      else
        let vs := (List.range n).filterMap (fun i => arr.fed x (idx + i))
        if vs.length ≠ n then .error 1
        else if vs.any (fun v => k.rowHeld x a (macBase r + v.v)) then .error (if arr.orows.isEmpty then 2 else 4)
        else .ok (x, vs)

/-- The tile that a vector meets. -/
def Arr.tileFor (a : Arr) (v : VecIn) : Option Tile := if v.stat then a.stat else a.active

/-- Put a slot into the pipeline and the replay buffer; `busy` enters the history of R212. -/
def Arr.push (a : Arr) (x : Slot) (busy : Bool) : Arr :=
  { a with
    pipe := a.pipe ++ [x]
    replay := (a.replay ++ [x]).drop (a.replay.length + 1 - 5)
    slots := a.slots + 1
    hist := (a.hist <<< 1) ||| (if busy then 1 else 0) }

/-- A bubble with its cause. -/
def State.bubble (s : State) (c a cause : Nat) : State :=
  (s.updCore c (fun k => k.updArr a (fun r => r.push {} false))).count 0 c cause

/-- Issue vectors in one slot. -/
def State.issueSlot (s : State) (c a : Nat) (vs : List VecIn) : State :=
  let arr := (s.core c).arr a
  let out := vs.filterMap (fun v => (arr.tileFor v).map (fun t => (v, issueVec t v)))
  let losing := vs.countP (fun v => match arr.tileFor v with
    | some t => vecLoses t v
    | none => false)
  let nan := out.countP (fun e => e.2.nanVec)
  let s := s.updCore c (fun k => k.updArr a (fun r => r.push { vecs := out } true))
  (s.when (losing != 0) (fun s => s.count 0 c 12 losing)).when (nan != 0) (fun s => s.count 0 c 13 nan)

/-- A reissued slot computes again against the buffers (R77). -/
def State.reissue (s : State) (c a : Nat) : State :=
  s.updCore c (fun k => k.updArr a (fun r => match r.again with
    | [] => r
    | x :: rest =>
      let y : Slot := { x with squashed := false, vecs := x.vecs.map (fun (e : VecIn × VecRes) =>
        (e.1, match r.tileFor e.1 with
          | some t => issueVec t e.1
          | none => e.2)) }
      { r.push y (!x.vecs.isEmpty) with again := rest }))

/-- The attention vector that an array could issue, in the state after its query line is read (R95), or that state alone where the line
cannot be read. Whether a feeder queues an ATTN's query vectors ahead is not stated: DESIGN CHOICE, each is read in its issue slot
(notes/assumptions/63.md). -/
def State.attnIssue (s : State) (c a : Nat) : Option (State × Option VecIn) :=
  match (s.core c).attn with
  | none => none
  | some at_ =>
    if !at_.issues a then none
    else if at_.scores a then
      let x := at_.at_ a
      let line := at_.queryLine x.half x.issued
      if !(s.core c).readFree at_.cmd line then none
      else
        let t := s.benchRead c line .clean
        some (t.1, if t.2 then none else some (at_.vec a (s.benchLine c line)))
    else some (s, some (at_.vec a []))

/-- A stationary load is under way in an array, of the LDS at work or of the ATTN: every slot carries a bubble (R51). -/
def State.loadingStat (s : State) (c a cause : Nat) : Bool :=
  cause == 7 || (match (s.core c).attn with
    | some at_ => at_.loads a && (at_.at_ a).loaded != 0
    | none => false)

/-- The slot belongs to filler work (R214). -/
def Arr.fillerNow (a : Arr) : Option VecIn :=
  let f := a.filler
  if f.on && a.active.isSome && decide (bitrev6 ((a.slots - f.start) % 64) < f.k) && !f.vecs.isEmpty then
    (f.vecs[f.turn % f.vecs.length]?).map (fun v => { v with src := .filler, stat := false })
  else none

/-- A free slot: an attention vector, filler work, or a bubble. -/
def State.freeSlot (s : State) (c a cause : Nat) : State :=
  let arr := (s.core c).arr a
  if s.loadingStat c a cause then s.bubble c a 7
  else
    match s.attnIssue c a with
    | some (t, none) => t.attnBenchFails c
    | some (t, some v) =>
      ((t.issueSlot c a [v]).count 0 c 0).updAttn c (fun at_ =>
        { at_ with arr := at_.arr.modify a (fun (x : AttnArr) => { x with issued := x.issued + 1 }) })
    | none =>
      match arr.fillerNow with
      | some v =>
        if cause = 8 then
          let s := (s.issueSlot c a [v]).count 0 c 9
          s.updCore c (fun k => k.updArr a (fun (r : Arr) => { r with filler := { r.filler with turn := r.filler.turn + 1 } }))
        else s.bubble c a cause
      | none => s.bubble c a cause

/-- One issue slot of an array. -/
def State.issue (s : State) (c a : Nat) : State :=
  let arr := (s.core c).arr a
  if 5 ≤ arr.pipe.length then s
  else if !arr.again.isEmpty then s.reissue c a
  else if s.refusesSlot c a then s.bubble c a 5
  else
    match s.macIssue c a with
    | .ok (x, vs) =>
      let s := (s.issueSlot c a (vs.map (s.macVec c x))).count 0 c 0 vs.length
      (s.updCore c (fun k => k.updArr a (fun (r : Arr) =>
        vs.foldl (fun r v => r.updFeeder (v.t * macN x.raw + v.v) (fun (f : Feeder) => { f with queue := f.queue.tail })) r))).updCmd c x.id
          (fun y => { y with issued := bumpAt y.issued a vs.length })
    | .error cause => s.freeSlot c a cause

/-- VECTOR_ISSUE. -/
def execVectorIssue (c : Fin 272) (a : Fin 4) (fault : CoreFault) (s : State) : Res :=
  .next (s.inCore c a fault .clean (fun s => s.issue c a))

/-! ## Stationary loads (R49, R51, R114, R280) -/

/-- A finished stationary load gives the buffer its tile. -/
def statTile (fmt : Nat) (b : List Byte) : Tile :=
  { fmt := fmt, bytes := b.take (tileBytes fmt), scales := if isMx fmt then (b.drop (tileBytes fmt)).take 128 else [] }

/-- Read the next 128 B of a load from two bench lines: none where the lines are not to be read yet. -/
def State.load128 (s : State) (c id line : Nat) (rd : ReadRes) : Option (Except State (List Byte × State)) :=
  let k := s.core c
  if !(k.readFree id line && k.readFree id (line + 1)) then none
  else
    let t := s.benchReads c [line, line + 1] rd
    some (if t.2 then .error t.1 else .ok (s.benchLine c line ++ s.benchLine c (line + 1), t.1))

/-- An LDS advances in an array (R49). -/
def State.ldsCycle (s : State) (c a cause : Nat) (x : Cmd) (rd : ReadRes) : State :=
  let fmt := ldsFmt x.raw
  let got := match ((s.core c).arr a).statLoad with
    | some (id, b) => if id = x.id then b else []
    | none => []
  match s.load128 c x.id (ldsLine x.raw a + got.length / 64) rd with
  | none => s
  | some (.error s) => s.benchFails c x.id
  | some (.ok (b, s)) =>
    let s := s.bubble c a cause
    let all := got ++ b
    if all.length < tileBytes fmt + (if isMx fmt then 128 else 0) then
      s.updCore c (fun k => k.updArr a (fun (r : Arr) => { r with statLoad := some (x.id, all) }))
    else
      let t := statTile fmt all
      let s := (s.updCore c (fun k => k.updArr a (fun (r : Arr) => { r with statLoad := none, stat := some t }))).countTile c t
      s.updCmd c x.id (fun y =>
        let is := bumpAt y.issued a 1
        { y with issued := is, done := (maskArrays (ldsMask x.raw)).all (fun i => cnt is i != 0) })

/-- A stationary load of an ATTN advances in a slot that carries no MAC vector (R280, R281). -/
def State.attnLoad (s : State) (c a cause : Nat) (at_ : Attn) (rd : ReadRes) : State :=
  let x := at_.at_ a
  if !at_.loads a || !(s.core c).attnFree at_ || (match s.macIssue c a with
      | .ok _ => true
      | .error _ => false) then s
  else
    match s.load128 c at_.cmd ((at_.tileAt a + x.loaded) / 64) rd with
    | none => s
    | some (.error s) => s.attnBenchFails c
    | some (.ok (_, s)) =>
      let s := s.bubble c a cause
      let s := s.updAttn c (fun at_ => { at_ with arr := at_.arr.modify a (fun (x : AttnArr) => { x with loaded := x.loaded + 128 }) })
      if x.loaded + 128 < at_.tileB then s
      else
        let t : Tile := ⟨at_.kvfmt, memRead s.mem.bench (c * 2 ^ 20 + at_.tileAt a) at_.tileB, []⟩
        (s.updCore c (fun k => k.updArr a (fun (r : Arr) => { r with stat := some t }))).countTile c t

/-- One cycle of a stationary load: of the LDS at work, else of the ATTN. Its slot carries a stationary-load bubble, or a throttle bubble
where the slot is refused (R51, R217, Table 15-4). -/
def State.statCycle (s : State) (c a : Nat) (rd : ReadRes) : State :=
  let k := s.core c
  let arr := k.arr a
  let cause := if s.refusesSlot c a then 5 else 7
  if 5 ≤ arr.pipe.length ∨ !arr.again.isEmpty then s
  else
    match s.macIssue c a, k.arrayCmd, k.attn with
    | .error 7, some x, _ => s.ldsCycle c a cause x rd
    | _, _, some at_ => s.attnLoad c a cause at_ rd
    | _, _, none => s

/-- STATIONARY_LOAD_CYCLE. -/
def execStationaryLoadCycle (c : Fin 272) (a : Fin 4) (rd : ReadRes) (fault : CoreFault) (s : State) : Res :=
  .next (s.inCore c a fault rd (fun s => s.statCycle c a rd))

/-! ## The accumulate stage (R55, R74 to R81) -/

/-- Commit one vector: its row is updated, and its command or ATTN counts it. -/
def State.commitVec (s : State) (c a : Nat) (v : VecIn) (r : VecRes) : State :=
  match v.src with
  | .filler => s
  | src =>
    let cols := List.range r.lo.length
    let excess := cols.countP (fun j => updOverflows v r j (s.accGet c a v.row j))
    let s := s.each cols (fun s j => s.accSet c a v.row j (updEntry v r j (s.accGet c a v.row j)))
    let s := s.when (excess != 0) (fun s => s.count 0 c 14 excess)
    match src with
    | .mac id _ _ => s.updCmd c id (fun y =>
        let cs := bumpAt y.committed a 1
        { y with committed := cs
                 done := y.done || (opc y.raw == 0x08 && (maskArrays (macMask y.raw)).all (fun i => decide (macTotal y.raw ≤ cnt cs i))) })
    | .attn id _ _ _ =>
      match (s.core c).attn with
      | some at_ =>
        if at_.cmd = id then
          let at' := at_.commit a
          let s := s.updAttn c (fun _ => at')
          s.when (at_.minBlk < at'.minBlk) (fun s => s.count 0 c 11)
        else s
      | none => s
    | .filler => s

/-- The steering fields of array `a`: row enable, row, column enable, column (Table 2-16). -/
def steerBit (a : Nat) (n : Nat) : Fl := ⟨16 * a + n, 16 * a + n, .ro, false⟩
def steerRow (a : Nat) : Fl := ⟨16 * a + 13, 16 * a + 8, .ro, false⟩
def steerCol (a : Nat) : Fl := ⟨16 * a + 6, 16 * a, .ro, false⟩

/-- The logical column that a physical column of an array carries (R102): the spare, 65, carries the one it replaces, which is then
out of use; 64 is the checksum column. -/
def State.columnOf (s : State) (c a p : Nat) : Option Nat :=
  let on := s.fld .fltArraySteer (steerBit a 7) c == 1
  let l := s.fld .fltArraySteer (steerCol a) c
  if p = 65 then (if on then some l else none)
  else if on && p == l then none
  else some p

/-- Disturbances as a slot's vectors meet them: in M16 two logical columns gang into one, below which the spare stands in (R102). -/
def State.upsetsOf (s : State) (c a : Nat) (x : Slot) (ups : List Upset) : List Upset :=
  ups.filterMap (fun u => (s.columnOf c a u.col).map (fun l =>
    let wide : Bool := match x.vecs[u.vec.val]? with
      | some e => e.1.mode == 2
      | none => false
    { u with col := Fin.ofNat 66 (if wide && decide (l < 64) then l / 2 else l) }))

/-- The oldest of five slots reaches its accumulate stage: it commits, or is replayed, or its second failure halts the core. -/
def State.accumulate (s : State) (c a : Nat) (ups : List Upset) : State :=
  let arr := (s.core c).arr a
  match arr.pipe with
  | x :: rest =>
    if arr.pipe.length < 5 then s
    else
      let drop (s : State) : State := s.updCore c (fun k => k.updArr a (fun (r : Arr) => { r with pipe := rest }))
      if x.squashed then drop s
      else
        let ok := (x.vecs.zipIdx).all (fun e => checkPasses e.1.2 e.2 (s.upsetsOf c a x ups))
        if ok then
          let s := (drop s).when x.suspect (fun s => s.bumpSat .fltCoreStatus fFltCoreStatusReplays c)
          s.each x.vecs (fun s e => s.commitVec c a e.1 e.2)
        else if x.suspect then s.haltCore c a .aligner
        else
          let s := s.updCore c (fun k => k.updArr a (fun (r : Arr) =>
            { r with
              pipe := rest.map (fun (y : Slot) => { y with squashed := true })
              again := { x with suspect := true } :: rest ++ r.again }))
          s.count 0 c 6 4
  | [] => s

/-- VECTOR_ACCUMULATE. -/
def execVectorAccumulate (c : Fin 272) (a : Fin 4) (upsets : List Upset) (fault : CoreFault) (s : State) : Res :=
  .next (s.inCore c a fault .clean (fun s => s.accumulate c a upsets))

/-! ## Tile swaps (R47, R48, R768) -/

/-- A vector that reads the active buffer, filler apart (R216). -/
def VecIn.usesActive (v : VecIn) : Bool := !v.stat && v.src != .filler

/-- No vector issued from the active tile is still to be committed. -/
def Arr.tileIdle (a : Arr) : Bool := !((a.pipe ++ a.again).any (fun x => x.vecs.any (fun e => e.1.usesActive)))

/-- The array engine's MAC asks for its next tile: every array has issued its vectors of the tiles before. -/
def Core.asksTile (k : Core) : Option Cmd :=
  match k.arrayCmd with
  | none => none
  | some x =>
    let r := x.raw
    if opc r = 0x08 ∧ !macStat r ∧ x.tile < macTiles r ∧ (maskArrays (macMask r)).all (fun a => cnt x.issued a == x.tile * macN r) then some x
    else none

/-- Vectors that feeders hold for a command are given up. -/
def State.dropFeeds (s : State) (c id : Nat) : State :=
  s.updCore c (fun k => { k with arrs := k.arrs.map (fun (a : Arr) =>
    let f (x : Feeder) : Feeder := { x with queue := x.queue.filter (fun v => v.cmd != id), lines := if x.cmd = id then [] else x.lines }
    { a with feed0 := f a.feed0, feed1 := f a.feed1, fetch := if a.fetch.cmd = id then {} else a.fetch }) })

/-- TILE_SWAP. -/
def State.doTileSwap (s : State) (c : Nat) : State :=
  let k := s.core c
  match k.shadow, k.asksTile with
  | some t, some x =>
    if !k.arrs.all Arr.tileIdle then s
    else if t.fmt ≠ macWfmt x.raw then (s.dropFeeds c x.id).failCmd c x.id codeOperandInvalid
    else (s.updCore c (fun k => { k with shadow := none, arrs := k.arrs.map (fun (a : Arr) => { a with active := some t }) })).updCmd c x.id
      (fun y => { y with tile := y.tile + 1 })
  | _, _ => s

/-- TILE_SWAP. -/
def execTileSwap (c : Fin 272) (s : State) : Res := .next (if s.clocked && (s.place c).isSome then s.doTileSwap c else s)

/-! ## Feeders and expanders (R68, R403 to R414) -/

/-- Vectors of a command that feeder `f` takes. -/
def feedShare (total f : Nat) : Nat := (total + 1 - f) / 2

/-- The MAC whose vectors a feeder fetches next, and how many of them it has fetched. -/
def Core.feeding (k : Core) (a f : Nat) : Option (Cmd × Nat) :=
  let fd := (k.arr a).feeder f
  k.cmds.findSome? (fun x =>
    if opc x.raw = 0x08 ∧ (macMask x.raw).testBit a ∧ !x.done ∧ x.fail.isNone then
      let n := if fd.cmd = x.id then fd.fetched else 0
      if fd.cmd ≤ x.id ∧ n < feedShare (macTotal x.raw) f then some (x, n) else none
    else none)

/-- An index entry (Table 10-2). -/
structure IdxEntry where
  scale1 : Byte
  scale0 : Byte
  size : Nat
  offset : Nat
  resv : Bool
  deriving DecidableEq, Repr

/-- An index entry from its 8 bytes. -/
def parseIdx (b : List Byte) : IdxEntry :=
  let v := leNat b
  { scale1 := BitVec.ofNat 8 (natBits v 63 56), scale0 := BitVec.ofNat 8 (natBits v 55 48), size := natBits v 38 32
    offset := natBits v 19 0, resv := decide (natBits v 47 39 ≠ 0 ∨ natBits v 31 20 ≠ 0) }

/-- Reason 3 of Table 10-4. -/
def IdxEntry.bad (e : IdxEntry) : Bool := e.size == 0 || decide (72 < e.size) || e.resv || decide (2 ^ 20 < e.offset + e.size)

/-- What a feeder holds of a line. -/
def heldLine (l : List (Nat × List Byte)) (n : Nat) : Option (List Byte) := (l.find? (fun e => e.1 == n)).map (·.2)

/-- Lines that an array's fetch unit holds for a command (R407). -/
def Arr.heldFor (a : Arr) (id : Nat) : List (Nat × List Byte) :=
  if a.fetch.cmd = id then a.fetch.index.toList ++ a.fetch.blocks else []

/-- A line that the fetch unit has read joins the command's: its index line, or the block lines, of which it keeps the latest four
(R407). -/
def FetchUnit.take (u : FetchUnit) (id : Nat) (isIndex : Bool) (l : Nat × List Byte) : FetchUnit :=
  let u : FetchUnit := if u.cmd = id then u else { cmd := id }
  if isIndex then { u with index := some l }
  else { u with blocks := (u.blocks ++ [l]).drop (u.blocks.length + 1 - 4) }

/-- The index entry of a compressed vector, once its line is held. -/
def entryOf (index : Option (Nat × List Byte)) (n : Nat) : Option IdxEntry :=
  (heldLine index.toList (n / 8)).map (fun l => parseIdx ((l.drop (n % 8 * 8)).take 8))

/-- Lines that a block lies in. -/
def IdxEntry.lines (e : IdxEntry) : List Nat := if e.bad then [] else rangeFrom (e.offset / 64) ((e.offset + e.size - 1) / 64 + 1 - e.offset / 64)

/-- The index line that an array's fetch unit holds for a command. -/
def Arr.indexFor (a : Arr) (id : Nat) : Option (Nat × List Byte) := if a.fetch.cmd = id then a.fetch.index else none

/-- The lines that the next vector of a feeder still needs, in order of reading: the index line, then the block's. The fetch unit takes
compressed vectors in program order only, whichever feeder they go to (R406). -/
def Core.needLines (k : Core) (a f : Nat) : Option (Cmd × Nat × List Nat) :=
  match k.feeding a f with
  | none => none
  | some (x, n) =>
    let r := x.raw
    let idx := 2 * n + f
    let addr := macAddr r a (idx / macN r) (idx % macN r)
    if macCmp r then
      let other := match k.feeding a (1 - f) with
        | some (y, m) => decide (x.id < y.id) || !macCmp y.raw || (y.id == x.id && decide (idx < 2 * m + (1 - f)))
        | none => true
      if !other then none
      else
        match entryOf ((k.arr a).indexFor x.id) addr with
        | none => some (x, idx, [addr / 8])
        | some e => some (x, idx, e.lines.filter (fun i => (heldLine ((k.arr a).heldFor x.id) i).isNone))
    else some (x, idx, (rangeFrom addr (vecLines (macAfmt r))).filter (fun i => (heldLine ((k.arr a).feeder f).lines i).isNone))

/-- A vector is complete in its feeder's queue. -/
def State.feedVec (s : State) (c a f : Nat) (x : Cmd) (idx : Nat) (bytes scales : List Byte) : State :=
  let v : FeedVec := { cmd := x.id, t := idx / macN x.raw, v := idx % macN x.raw, bytes := bytes, scales := scales }
  s.updCore c (fun k => k.updArr a (fun (r : Arr) => r.updFeeder f (fun (g : Feeder) =>
    { queue := g.queue ++ [v], cmd := x.id, fetched := idx / 2 + 1, lines := [] })))

/-- FEEDER_LINE_ARRIVE: a line that a feeder, or the fetch unit for it, read arrives. -/
def State.feederLine (s : State) (c a f : Nat) (rd : ReadRes) : State :=
  let k := s.core c
  match k.needLines a f with
  | some (x, idx, line :: rest) =>
    if 4 ≤ ((k.arr a).feeder f).queue.length ∨ !k.readFree x.id line then s
    else
      let t := s.benchRead c line rd
      let s := t.1
      if t.2 then (s.dropFeeds c x.id).benchFails c x.id
      else
        let data := s.benchLine c line
        if macCmp x.raw then
          let addr := macAddr x.raw a (idx / macN x.raw) (idx % macN x.raw)
          let isIndex := (entryOf ((k.arr a).indexFor x.id) addr).isNone
          s.updCore c (fun k => k.updArr a (fun (r : Arr) => { r with fetch := r.fetch.take x.id isIndex (line, data) }))
        else
          let old := if ((k.arr a).feeder f).cmd = x.id then ((k.arr a).feeder f).lines else []
          let lines := old ++ [(line, data)]
          if rest.isEmpty then
            let first := macAddr x.raw a (idx / macN x.raw) (idx % macN x.raw)
            let scales := if isMx (macAfmt x.raw) then ((heldLine lines (first + 1)).getD []).take 2 else []
            s.feedVec c a f x idx ((heldLine lines first).getD []) scales
          else
            s.updCore c (fun k => k.updArr a (fun (r : Arr) => r.updFeeder f (fun (g : Feeder) =>
              { g with cmd := x.id, fetched := if g.cmd = x.id then g.fetched else 0, lines := lines })))
  | _ => s

/-- FEEDER_LINE_ARRIVE. -/
def execFeederLineArrive (c : Fin 272) (a : Fin 4) (f : Fin 2) (rd : ReadRes) (fault : CoreFault) (s : State) : Res :=
  .next (s.inCore c a fault rd (fun s => s.feederLine c a f rd))

/-- Spread a BITMAP block's values over 64 elements (R400). -/
def spread (bitmap : Nat) (vals : List Byte) : List Byte :=
  (List.range 64).map (fun i => if bitmap.testBit i then vals.getD ((List.range i).countP (fun j => bitmap.testBit j)) 0 else 0)

/-- A block expanded: its 64 elements with the implied size, or the reason of Table 10-4 with the implied size. The bitmap of a block
whose SIZE is below 9 goes on in the bytes `after` it. -/
def expandBlock (e : IdxEntry) (b after : List Byte) : Except (Nat × Nat) (List Byte × Nat) :=
  if e.bad then .error (3, 0)
  else
    match (b.headD 0).toNat with
    | 0 => .ok (List.replicate 64 0, 1)
    | 1 =>
      let bm := leField (b ++ after) 1 8
      let n := (List.range 64).countP (fun i => bm.testBit i)
      if e.size < 9 then .error (1, 9 + n)
      else if n = 64 then .error (4, 9 + n)
      else if e.size < 9 + n then .error (1, 9 + n)
      else .ok (spread bm (b.drop 9), 9 + n)
    | 2 => if e.size < 65 then .error (1, 65) else .ok ((b.drop 1).take 64, 65)
    | _ => .error (2, 0)

/-- BLOCK_EXPAND (R408, R412 to R414). -/
def State.doExpand (s : State) (c a f : Nat) : State :=
  let k := s.core c
  match k.needLines a f with
  | some (x, idx, []) =>
    if !macCmp x.raw ∨ 4 ≤ ((k.arr a).feeder f).queue.length then s
    else
      let addr := macAddr x.raw a (idx / macN x.raw) (idx % macN x.raw)
      let held := (k.arr a).heldFor x.id
      match entryOf ((k.arr a).indexFor x.id) addr with
      | none => s
      | some e =>
        let all := (e.lines.map (fun i => (heldLine held i).getD [])).flatten
        let s := (s.count 0 c 15).count 0 c 16 (if e.bad then 0 else e.size)
        let scales := if isMx (macAfmt x.raw) then [e.scale0, e.scale1] else []
        let after := memRead s.mem.bench (c * 2 ^ 20 + e.offset + e.size) (min 9 (2 ^ 20 - (e.offset + e.size)))
        match expandBlock e ((all.drop (e.offset % 64)).take e.size) after with
        | .ok (bytes, n) =>
          let s := s.when (n < e.size) (fun s => s.bumpSat .cmpFeedStatus fCmpFeedStatusUndersize c)
          s.feedVec c a f x idx bytes scales
        | .error (why, n) =>
          let s := s.bumpSat .cmpFeedStatus fCmpFeedStatusOversize c
          let m := (s.memberOf c).getD 0
          let detail := leBytes 4 (c / 17 * 2 ^ 24 + m * 2 ^ 20 + a * 2 ^ 18 + f * 2 ^ 17) ++ leBytes 4 addr ++ leBytes 4 0 ++
            [BitVec.ofNat 8 why, BitVec.ofNat 8 e.size, BitVec.ofNat 8 n, 0]
          let s := if k.oversize.contains x.id then s
            else (s.postCtx (s.letterCtx x.letter) (s.letterEvent x.letter codeBlockOversize 0 detail)).updCore c
              (fun k => { k with oversize := k.oversize.filter (fun i => k.cmds.any (fun y => y.id == i)) ++ [x.id] })
          s.feedVec c a f x idx (List.replicate 64 0) scales
  | _ => s

/-- BLOCK_EXPAND. A disagreement of the duplicated expander halts the core (R409). -/
def execBlockExpand (c : Fin 272) (a : Fin 4) (f : Fin 2) (fault : CoreFault) (s : State) : Res :=
  .next (s.inCore c a fault .clean (fun s => s.doExpand c a f))

/-! ## Drains and the O port (R61, R63 to R67, R132, R769, R770) -/

/-- Every vector of an earlier MAC that targets a row is committed, those in flight of a MAC that has failed included (R61). -/
def Core.rowDone (k : Core) (x : Cmd) (a row : Nat) : Bool :=
  !(((k.arr a).pipe ++ (k.arr a).again).any (fun y => y.vecs.any (fun e => match e.1.src with
    | .mac id _ _ => decide (id < x.id ∧ e.1.row = row)
    | _ => false))) &&
  k.cmds.all (fun y => !(opc y.raw == 0x08 && decide (y.id < x.id) && (macMask y.raw).testBit a &&
    decide (macBase y.raw ≤ row ∧ row < macBase y.raw + macN y.raw) && y.fail.isNone &&
    decide (cnt y.committed a < (macTiles y.raw - 1) * macN y.raw + (row - macBase y.raw) + 1)))

/-- Read and convert one row. -/
def State.drainRow (s : State) (c a : Nat) (x : Cmd) : State :=
  let r := x.raw
  let i := cnt x.issued a
  let row := drBase r + i
  let k := s.core c
  if !(drMask r).testBit a ∨ drN r ≤ i ∨ 2 ≤ (k.arr a).orows.length ∨ (k.arr a).refused ∨ !k.rowDone x a row then s
  else
    let xs := (List.range 64).map (fun j =>
      let e := s.accGet c a row j
      if drInt r then intNum e.toInt 0 else f32Num e)
    let out := convRow (drFmt r) (drSat r) (drShift r) xs
    let excess := convExcess (drFmt r) (drSat r) (drShift r) xs
    let o : ORow := { cmd := x.id, pos := arrayPos (drMask r) a, r := i, bytes := out.1, scales := out.2 }
    let s := s.when (excess != 0) (fun s => s.count 0 c 14 excess)
    let s := s.when (drClear r) (fun s => s.each (List.range 64) (fun s j => s.accSet c a row j 0))
    (s.updCore c (fun k => k.updArr a (fun (q : Arr) => { q with orows := q.orows ++ [o] }))).updCmd c x.id
      (fun y => { y with issued := bumpAt y.issued a 1 })

/-- The drain at work, the oldest with rows to read, reads its next row of an array; after its last row the engine turns to the next
(R170, R234). -/
def State.drainNext (s : State) (c a : Nat) : State :=
  match (s.core c).cmds.find? (fun x => x.eng == .drain && !x.done &&
      (maskArrays (drMask x.raw)).any (fun i => decide (cnt x.issued i < drN x.raw))) with
  | some x => (s.drainRow c a x).coreHands c
  | none => s

/-- DRAIN_ROW_READ. -/
def execDrainRowRead (c : Fin 272) (a : Fin 4) (fault : CoreFault) (s : State) : Res :=
  .next (s.inCore c a fault .clean (fun s => s.drainNext c a))

/-- The row's bytes are written where DEST says; none where they cannot be taken yet. -/
def State.deliver (s : State) (p : CorePlace) (x : Cmd) (o : ORow) : Option State :=
  let r := x.raw
  let k := s.core p.c
  let n := o.pos * drN r + o.r
  match drDest r with
  | 0 =>
    let line := drLine r + o.pos * cb r 63 50 + o.r * cb r 71 64
    if (rangeFrom line (drRowLines r)).all (fun l => k.writeFree x.id l) then some (s.benchWriteAll p.c (line * 64) o.bytes 4) else none
  | 1 =>
    let b := n * rowBytes (drFmt r)
    some (s.setVreg p.c (cb r 76 72 + b / 512) (b % 512) o.bytes)
  | _ =>
    match (s.courier (cmCl p.cm)).descs.find? (fun d => d.origin == .drain p.cm x.id) with
    | none => some s
    | some d =>
      if !d.active then none
      else
        let new := (List.range (drRowLines r)).map (fun i => (⟨n * drRowLines r + i, (o.bytes.drop (64 * i)).take 64⟩ : BufLine))
        some (s.updDesc (cmCl p.cm) d.id (fun (e : CDesc) => if e.fail.isSome then e else { e with buf := e.buf ++ new }))

/-- The scales of an MX row go to the bench (R770); a part of a poisoned line is refused, and the DRAIN ends with that code (R666). -/
def State.deliverScales (s : State) (p : CorePlace) (x : Cmd) (o : ORow) : State :=
  let r := x.raw
  if !isMx (drFmt r) then s
  else
    let w := s.benchWrite p.c (cb r 49 36 * 64 + 2 * (o.pos * drN r + o.r)) o.scales
    if w.2 then w.1.updCmd p.c x.id (fun y => { y with fail := some (y.fail.getD codeBenchUncorrectable) }) else w.1

/-- Take one converted row of an array. -/
def State.takeRow (s : State) (p : CorePlace) (a : Nat) (o : ORow) : Option State :=
  let pop (s : State) : State := s.updCore p.c (fun k => k.updArr a (fun (q : Arr) => { q with orows := q.orows.tail, refused := false }))
  match (s.core p.c).cmd o.cmd with
  | none => some (pop s)
  | some x =>
    if x.done then some (pop s)
    else
      match s.deliver p x o with
      | none => none
      | some s =>
        some ((pop (s.deliverScales p x o)).updCmd p.c x.id (fun y =>
          let cs := bumpAt y.committed a 1
          { y with committed := cs, done := drDest x.raw != 2 && (maskArrays (drMask x.raw)).all (fun i => decide (drN x.raw ≤ cnt cs i)) }))

/-- The O port cannot accept the rows that arrays offer: each drain holds its row and reads no further one (R67). -/
def State.refuseRows (s : State) (c : Nat) (l : List Nat) : State :=
  s.updCore c (fun k => l.foldl (fun k a => k.updArr a (fun (q : Arr) => { q with refused := !q.orows.isEmpty })) k)

/-- The rows that the O port takes in one ACLK: in array order, up to 256 B, or 128 B to the external port (R64, R66). -/
def State.takeRows (s : State) (p : CorePlace) : Nat → List Nat → State
  | _, [] => s
  | used, a :: rest =>
    match ((s.core p.c).arr a).orows with
    | [] => s.takeRows p used rest
    | o :: _ =>
      let cap := match (s.core p.c).cmd o.cmd with
        | some x => if drDest x.raw = 2 then 128 else 256
        | none => 256
      if used ≠ 0 ∧ cap < used + o.bytes.length then s.refuseRows p.c (a :: rest)
      else
        match s.takeRow p a o with
        | some s => s.takeRows p (used + o.bytes.length) rest
        | none => s.refuseRows p.c (a :: rest)

/-- O_PORT_TAKE. -/
def execOPortTake (c : Fin 272) (fault : CoreFault) (s : State) : Res :=
  .next (s.inCore c 0 fault .clean (fun s => match s.place c with
    | some p => s.takeRows p 0 [0, 1, 2, 3]
    | none => s))

/-! ## Write-back and self-test (R95, R99 to R101, R670, R680) -/

/-- BENCH_CORRECTED_WRITEBACK: the corrected line is in the bank again. -/
def execBenchCorrectedWriteback (c : Fin 272) (line : Fin 16384) (s : State) : Res :=
  .next (if s.clocked && (s.core c).writeback.contains line.val then
    s.updCore c (fun k => { k with writeback := k.writeback.filter (fun l => l != line.val) }) else s)

/-- The spare row and column that a finding asks for are free. -/
def State.steerFree (s : State) (c : Nat) (l : List Steer) : Bool :=
  !l.isEmpty && (l.map (·.array)).Nodup && l.all (fun e =>
    (e.row.isNone || s.fld .fltArraySteer (steerBit e.array 15) c == 0) && (e.col.isNone || s.fld .fltArraySteer (steerBit e.array 7) c == 0) &&
      (e.row.isSome || e.col.isSome))

/-- Steer spares in: each takes over the logical row or column named, and results stay those of the logical tile (R102). -/
def State.steerIn (s : State) (c : Nat) (l : List Steer) : State :=
  s.each l (fun s e =>
    let s := match e.row with
      | some r => (s.setFld .fltArraySteer (steerBit e.array 15) c 1).setFld .fltArraySteer (steerRow e.array) c r
      | none => s
    match e.col with
    | some r => (s.setFld .fltArraySteer (steerBit e.array 7) c 1).setFld .fltArraySteer (steerCol e.array) c r
    | none => s)

/-- The spare core of a cluster that is healthy and free. -/
def State.spareCore (s : State) (cl : Nat) : Option Nat :=
  (rangeFrom (17 * cl) 17).find? (fun c => (s.memberOf c).isNone && s.fld .fltCoreStatus fFltCoreStatusFailed c == 0 && !s.halted c)

/-- Row 3 of Table 2-14: the spare core takes a member number over (R97, R677). -/
def State.takeSpare (s : State) (c c' m : Nat) : State :=
  let s := s.zeroCore c'
  let s := s.setFld .fltCoreStatus fFltCoreStatusMember c' m
  let s := (s.setFld .fltCoreStatus fFltCoreStatusMember c 0x1F).setFld .fltCoreStatus fFltCoreStatusFailed c 1
  let s := s.setFld .laceStatus fLaceStatusOffPos (c / 17) (c % 17)
  s.spareSwitched (0x10 + c / 17) (c % 17) 0

/-- The events of R670, one for each code, in ascending order (R669). -/
def State.coreEvent (s : State) (c before action after : Nat) (codes : List Code) (status : Nat) : State :=
  let detail := [BitVec.ofNat 8 (c / 17), BitVec.ofNat 8 (c % 17), BitVec.ofNat 8 before, BitVec.ofNat 8 action] ++
    leBytes 4 status ++ leBytes 4 0 ++ [BitVec.ofNat 8 after, 0, 0, 0]
  s.each codes (fun s code => s.postDev { code := code, detail := detail })

/-- The action of Table 2-14 on a halted core. -/
def State.selfTest (s : State) (c m : Nat) (finding : SelfTest) : State :=
  let cl := c / 17
  let (code, status) := ((s.core c).halt).getD ([codeCoreControlFault], 0)
  let back (s : State) : State := ((s.setFld .fltCoreStatus fFltCoreStatusHalted c 0).updCore c (fun k => { k with halt := none })).thawLace cl
  match finding with
  | .noFault => (back s).coreEvent c m 0 m code status
  | .steer l =>
    if s.steerFree c l then
      let s := back (s.steerIn c l)
      (s.spareSwitched (0x20 + cl) (c % 17) 0).coreEvent c m 1 m code status
    else s
  | .other =>
    match s.spareCore cl with
    | some c' => ((s.takeSpare c c' m).thawLace cl).coreEvent c m 2 m code status
    | none => ((s.clusterOut cl).setFld .fltCoreStatus fFltCoreStatusMember c 0x1F).coreEvent c m 3 0xFF code status

/-- A core is idle with its weight and stationary buffers empty, and so is its cluster's lace (R101, R241). -/
def State.coreIdle (s : State) (c m : Nat) : Bool :=
  let k := s.core c
  let cl := c / 17
  k.cmds.isEmpty && k.load.isEmpty && k.shadow.isNone && k.fwd.isNone &&
    k.arrs.all (fun a => a.active.isNone && a.stat.isNone && a.statLoad.isNone) &&
    s.laceFree cl && (s.lace cl).tiles.isEmpty && (s.lace cl).inRing.isEmpty &&
    (match s.resident cl with
     | some x => !((s.seqr x (16 * cl + m)).streams.any (·.begun))
     | none => true)

/-- A RETIRE acts once its core is idle, and lapses where the core or the spare has meanwhile gone; a RESTORE self-tests a FAILED core
(R680). -/
def State.spareCtl (s : State) (c : Nat) (finding : SelfTest) : State :=
  if s.fld .fltCoreCtl fFltCoreCtlRetire c = 1 then
    match s.memberOf c, s.spareCore (c / 17) with
    | some m, some c' =>
      if s.coreIdle c m then (s.takeSpare c c' m).setFld .fltCoreCtl fFltCoreCtlRetire c 0 else s
    | _, _ => s.setFld .fltCoreCtl fFltCoreCtlRetire c 0
  else if s.fld .fltCoreCtl fFltCoreCtlRestore c = 1 then
    let s := s.setFld .fltCoreCtl fFltCoreCtlRestore c 0
    match finding with
    | .noFault => ((s.setFld .fltCoreStatus fFltCoreStatusFailed c 0).setFld .fltCoreStatus fFltCoreStatusHalted c 0).updCore c
        (fun k => { k with halt := none })
    | _ => s
  else s

/-- CORE_SELF_TEST: by the cluster's control core, which has to be ON (Table 12-6). -/
def execCoreSelfTest (c : Fin 272) (finding : SelfTest) (s : State) : Res :=
  .next (if !s.clocked || !s.fwOn (3 + c / 17) then s
    else
      match s.memberOf c with
      | some m => if s.halted c then s.selfTest c m finding else s.spareCtl c finding
      | none => s.spareCtl c finding)

/-! ## Filler work (R213, R217) -/

/-- Change the filler work of an array. -/
def State.updFiller (s : State) (c a : Nat) (f : Filler → Filler) : State :=
  s.updCore c (fun k => k.updArr a (fun (r : Arr) => { r with filler := f r.filler }))

/-- FILLER_HOLD_EXPIRY: the level begins to step down, or with STEP 0 drops to FLOOR at once (Table 5-11). -/
def execFillerHoldExpiry (c : Fin 272) (a : Fin 4) (s : State) : Res :=
  .next (if s.clocked && (((s.core c).arr a).filler.on) then 
    s.updFiller c a (fun f => { f with
      hold := false
      k := if getFl fSynFillerCfgStep f.cfg = 0 then min f.k (getFl fSynFillerCfgFloor f.cfg) else f.k }) else s)

/-- FILLER_STEP_EXPIRY: the level falls by 1 until it reaches FLOOR; one at or below FLOOR stays. -/
def execFillerStepExpiry (c : Fin 272) (a : Fin 4) (s : State) : Res :=
  .next (
    let f := ((s.core c).arr a).filler
    if s.clocked && f.on && !f.hold && decide (getFl fSynFillerCfgFloor f.cfg < f.k) then
      s.updFiller c a (fun f => { f with k := f.k - 1 }) else s)

/-- FILLER_RISE_FRAME: the cap rises by RISE until it reaches 64, where it ends. -/
def execFillerRiseFrame (c : Fin 272) (a : Fin 4) (s : State) : Res :=
  .next (
    if s.clocked then
      match ((s.core c).arr a).filler.cap with
      | some m =>
        let n := m + getFl fSynFillerCfgRise ((s.core c).arr a).filler.cfg
        s.updFiller c a (fun f => { f with cap := if 64 ≤ n then none else some n })
      | none => s
    else s)

end Sys2Proof.Machine
end

