-- ==== Sys2Proof/Machine/Attention.lean ====
section
/-! DEFINITION. ATTN: dispatch, the page walker, the online-softmax stage and normalisation (chapters 02 and 07). -/

namespace Sys2Proof.Machine

/-! ## Dispatch and start (R87, R178, R269, R270, R281) -/

/-- The oldest ATTN of a core starts once no other is at work: its online-softmax entries are set. -/
def State.attnStart (s : State) (p : CorePlace) : State :=
  match (s.core p.c).attn, (s.core p.c).working .attention with
  | none, some x =>
    let at_ := s.newAttn p x
    let es := (rangeFrom (atQbase x.raw) (atQn x.raw)).map (fun i => 256 * p.c + i % 256)
    let s := { s with cs := { s.cs with
      smM := es.foldl (fun t k => tabSet 0 t k f32NegInf) s.cs.smM
      smL := es.foldl (fun t k => tabSet 0 t k 0) s.cs.smL } }
    s.updCore p.c (fun k => { k with attn := some at_, smRows := [] })
  | _, _ => s

/-- An ATTN reaches its engine with the bench lines of its operands and results (R93, R271), or ends with an error. The stationary buffers of the arrays it uses await a new LDS (R768). -/
def State.dispatchAttn (s : State) (p : CorePlace) (t : Stream) (r : BitVec 128) : State :=
  match s.attnCheck p r with
  | some code => (s.popHead p).failStream p.x p.cm t.letter code
  | none =>
    let id := (s.core p.c).nextCmd
    let D := s.kvDim p.x
    let lines (f : Nat) : Nat := D * (elemBits f / 8) / 64
    let reads := (atQline r, atQn r * lines (atQfmt r) + 2 * (atQn r / s.kvGroup p.x) * lines (atKvfmt r))
    let writes := (atOline r, atQn r * (D / 32))
    let s := (s.handOver p t r .attention).updCmd p.c id (fun x => { x with reads := reads, writes := writes })
    let s := s.updCore p.c (fun k => { k with
      ldsFmt := (List.range 4).map (fun a => if atImpl r = 0 ∨ a < 2 then none else k.ldsFmt.getD a none) })
    s.attnStart p

/-- ATTN_PIPELINED. -/
def execAttnPipelined (c : Fin 272) (s : State) : Res :=
  .next (s.dispatch c (fun r => isOp 0x10 r && atImpl r == 0) (fun s p t r => s.dispatchAttn p t r))

/-- ATTN_SEQUENCED. -/
def execAttnSequenced (c : Fin 272) (s : State) : Res :=
  .next (s.dispatch c (fun r => isOp 0x10 r && atImpl r == 1) (fun s p t r => s.dispatchAttn p t r))

/-! ## The page walker (R289, R294 to R297) -/

/-- A core's ATTN has a request for the walker: an append, or a read of the block it may stage. -/
def Attn.walks (a : Attn) : Bool :=
  decide (a.appendNext < a.appends) ||
    (decide (a.appendAcked = a.appends ∧ a.staged < a.blocks ∧ a.staged < a.minBlk + 2) &&
      (decide (a.piece < (a.pieces a.staged).length) || (a.pieces a.staged).isEmpty))

/-- The core whose block a cluster's walker is amid: it has issued a part of the block's reads. -/
def State.walkAmid (s : State) (cl : Nat) : Option Nat :=
  let c := tabGet 0 s.mv.walkLast cl
  match (s.core c).attn with
  | some a => if (s.place c).isSome && c / 17 == cl && a.walks && a.piece != 0 then some c else none
  | none => none

/-- The core of a cluster that the walker serves next: one block is staged for each ATTN in turn (R289). -/
def State.walkNext (s : State) (cl : Nat) : Option Nat :=
  (s.walkAmid cl).orElse fun _ => nextInTurn (tabGet 0 s.mv.walkLast cl) ((rangeFrom (17 * cl) 17).filter (fun c => (s.place c).isSome &&
    (match (s.core c).attn with
     | some a => a.walks
     | none => false)))

/-- A request of the walker for the ATTN of a core. -/
def State.walkReq (s : State) (cl c : Nat) (a : Attn) (cls : ReqClass) (line lines addr : Nat) (data : List Byte) : State :=
  let (tag, s) := s.fresh
  s.addReq { tag := tag, agent := .walker cl, item := a.cmd * 512 + c, line := line, lines := lines, cls := cls
             port := some (hbmPort addr), units := lines, stamp := s.stampNow, addr := addr, data := data }

/-- The physical address of append `n` of an ATTN, or the code it cannot be issued with. -/
def State.appendAddr (s : State) (a : Attn) (n : Nat) : Except Code Nat :=
  let (_, _, t, off) := a.append n
  match (s.visitPage a.ctx a.seq a.layer ((a.L0 + t) / 64)).frame with
  | none => .error codeSeqInvalid
  | some f => match s.translate a.ctx (a.frameOff f off) with
    | none => .error codeAddressInvalid
    | some addr => .ok addr

/-- Append `n` of an ATTN waits for a commit that changes the extent it goes through (R548). -/
def State.appendHeld (s : State) (a : Attn) (n : Nat) : Bool :=
  let (_, _, t, off) := a.append n
  match (s.visitPage a.ctx a.seq a.layer ((a.L0 + t) / 64)).frame with
  | some f => s.heldAt a.ctx (a.frameOff f off)
  | none => false

/-- Some append of an ATTN would write into a locked home (R336). -/
def State.appendLocked (s : State) (a : Attn) : Bool :=
  (List.range 255).any (fun r => let g := s.region r; g.valid && g.lock && g.home == 0) &&
    (List.range a.appends).any (fun n => match s.appendAddr a n with
      | .ok addr => s.lockedAt addr
      | .error _ => false)

/-- Issue the next append of an ATTN: its line is read from the bench (R95, R96). One that would write into a locked home ends the
ATTN before any request (R336). -/
def State.walkAppend (s : State) (cl c : Nat) (a : Attn) : State :=
  let (src, n, _, _) := a.append a.appendNext
  let line := src / 64
  if !(s.core c).readFree a.cmd line then s
  else if a.appendNext = 0 ∧ s.appendLocked a then s.failAttn c codeRegionLocked
  else
    match s.appendAddr a a.appendNext with
    | .error code => s.failAttn c code
    | .ok addr =>
      if s.appendHeld a a.appendNext then s else
      let t := s.benchRead c line .clean
      if t.2 then t.1.attnBenchFails c
      else
        (t.1.walkReq cl c a .write a.appendNext (n / 64) addr (memRead s.mem.bench (c * 2 ^ 20 + src) n)).updAttn c
          (fun a => { a with appendNext := a.appendNext + 1 })

/-- A block is staged: counted with its positions that were staged as +0. -/
def State.blockStaged (s : State) (cl c : Nat) (a : Attn) : State :=
  let unused := (List.range a.keys).countP (fun k => !a.keyUsed a.staged k)
  let s := (s.count 3 cl 1).when (unused != 0) (fun s => s.count 3 cl 2 unused)
  s.updAttn c (fun a => { a with staged := a.staged + 1, piece := 0, pieceDone := 0 })

/-- Issue the next read of the block being staged; the slot is cleared before the first. -/
def State.walkRead (s : State) (cl c : Nat) (a : Attn) : State :=
  let b := a.staged
  let s := if a.piece = 0 then
      (s.benchWriteAll c (attnSlot b) (List.replicate (a.tiles * a.tileB) 0) 512).when (b % 2 == 0 || a.wp != 32)
        (fun s => s.count 3 cl 0 ((a.pieces b).map (·.1)).eraseDups.length)
    else s
  match (a.pieces b)[a.piece]? with
  | none => s.blockStaged cl c a
  | some (_, f, off) =>
    if s.heldAt a.ctx (a.frameOff f off) then s else
    match s.translate a.ctx (a.frameOff f off) with
    | none => s.failAttn c codeAddressInvalid
    | some addr => (s.walkReq cl c a .read a.piece a.pieceLines addr []).updAttn c (fun a => { a with piece := a.piece + 1 })

/-- WALKER_REQUEST_ISSUE: one request, for the next ATTN in turn, on one of 128 tags. -/
def State.walkIssue (s : State) (cl : Nat) (fault : AgentFault) : State :=
  match s.walkNext cl with
  | none => s
  | some c =>
    match (s.core c).attn with
    | none => s
    | some a =>
      if 128 ≤ s.tagsOf (.walker cl) then s
      else if fault = .parity then
        match (s.core c).cmd a.cmd with
        | some x => (s.contained a.ctx (some x.letter) codePortParity []).failAttn c codePortParity
        | none => s
      else
        let s := { s with mv := { s.mv with walkLast := tabSet 0 s.mv.walkLast cl c } }
        if a.appendNext < a.appends then s.walkAppend cl c a else s.walkRead cl c a

/-- WALKER_REQUEST_ISSUE. -/
def execWalkerRequestIssue (cl : Fin 16) (fault : AgentFault) (s : State) : Res :=
  .next (if !s.run || !s.clusterIn cl then s
    else if fault = .control then s.clusterAgentFault cl
    else s.walkIssue cl fault)

/-- The core and the ATTN that a walker's request works for, if it is still at work. -/
def State.walkFor (s : State) (r : Req) : Option (Nat × Attn) :=
  let c := r.item % 512
  match (s.core c).attn with
  | some a => if a.cmd = r.item / 512 then some (c, a) else none
  | none => none

/-- WALKER_APPEND_ACK: a new row's write is acknowledged, or ends with HBM_UNCORRECTABLE at a controller out of service (Table 16-6),
which fails the ATTN. -/
def execWalkerAppendAck (cl : Fin 16) (tag : Nat) (s : State) : Res :=
  .next (match s.answerable (.walker cl) tag with
    | none => s
    | some r =>
      if !s.clocked ∨ r.cls ≠ .write then s
      else
        let out := s.flt.hbmOut.contains (hbmStack r.addr)
        let s := (s.dropReq tag).hbmWriteLines r.addr r.data r.lines
        match s.walkFor r with
        | some (c, a) =>
          if out then
            (s.contained a.ctx (((s.core c).cmd a.cmd).map (·.letter)) codeHbmUncorrectable (hbmDetail r.addr 0)).failAttn c codeHbmUncorrectable
          else s.updAttn c (fun a => { a with appendAcked := a.appendAcked + 1 })
        | none => s)

/-- Stage what a read brought (R296). -/
def State.walkStage (s : State) (cl c : Nat) (a : Attn) (r : Req) : State :=
  match (a.pieces a.staged)[r.line]? with
  | none => s
  | some (i, _, off) =>
    let s := s.each (a.scatter a.staged i off (memRead s.mem.hbm r.addr (64 * r.lines))) (fun s e =>
      (s.benchWrite c (attnSlot a.staged + e.1) e.2).1)
    let s := s.updAttn c (fun a => { a with pieceDone := a.pieceDone + 1 })
    if a.pieceDone + 1 = (a.pieces a.staged).length then s.blockStaged cl c a else s

/-- WALKER_READ_RETURN. An uncorrectable line fails the ATTN. -/
def execWalkerReadReturn (cl : Fin 16) (tag : Nat) (rd : ReadRes) (s : State) : Res :=
  .next (match s.answerable (.walker cl) tag with
    | none => s
    | some r =>
      if !s.clocked ∨ r.cls ≠ .read then s
      else
        let t := (s.dropReq tag).hbmReads (lineAddrs r.addr r.lines) rd
        let s := t.1
        match s.walkFor r with
        | none => s
        | some (c, a) =>
          if t.2 then
            let l := ((s.core c).cmd a.cmd).map (·.letter)
            (s.contained a.ctx l codeHbmUncorrectable (hbmDetail r.addr 0)).failAttn c codeHbmUncorrectable
          else s.walkStage cl c a r)

/-! ## The online-softmax stage (R86 to R88, R90, R274, R278, R284) -/

/-- The scores of a row: A0 and A1 for the pipeline, A0 alone for a sequenced block. -/
def State.scoreRow (s : State) (c : Nat) (a : Attn) (r : Nat) : List F32 :=
  let row := a.qbase + r
  if a.impl = 0 then (List.range 128).map (fun k => s.accGet c (k / 64) row (k % 64))
  else (List.range a.keys).map (fun k => s.accGet c 0 row k)

/-- SOFTMAX_ROW_ENTER: the next row's scores are read once they are committed and the p buffer has a place for its block. -/
def State.smEnter (s : State) (c : Nat) : State :=
  match (s.core c).attn with
  | none => s
  | some a =>
    let b := a.entered / a.qn
    let r := a.entered % a.qn
    let lo := minList 0 ((a.arrays.filter (fun i => !a.scores i)).map (fun i => (a.at_ i).blk))
    if a.blocks ≤ b ∨ !a.scored b r ∨ lo + 2 ≤ b ∨ 2 ≤ (s.core c).smRows.length then s
    else
      (s.updCore c (fun k => { k with smRows := k.smRows ++ [⟨b, r, s.scoreRow c a r⟩] })).updAttn c
        (fun a => { a with entered := a.entered + 1 })

/-- SOFTMAX_ROW_ENTER. It reads accumulator rows, whose storage may show an error (Table 2-12). -/
def execSoftmaxRowEnter (c : CoreTurn) (s : State) : Res :=
  .next (s.inCore c.core 0 c.fault .clean (fun s => s.smEnter c.core))

/-- The recurrence of R86 on one row: new m, new l, α and p. -/
def softmaxRow (m l k : F32) (xs : List F32) (valid : List Bool) : F32 × F32 × F32 × List F32 :=
  let sc := List.zipWith (fun x ok => if ok then f32Mul x k else f32NegInf) xs valid
  let m' := sc.foldl f32Max m
  if m' = f32NegInf then (m', f32Add (f32Mul l f32One) (f32Sum (List.replicate 128 0)), f32One, sc.map (fun _ => 0))
  else
    let al := f32Exp2 (f32Sub m m')
    let p := sc.map (fun x => f32Exp2 (f32Sub x m'))
    (m', f32Add (f32Mul l al) (f32Sum (p ++ List.replicate (128 - p.length) 0)), al, p)

/-- SOFTMAX_ROW_DELIVER: the state entry is written, and α and p in the command's format go to the p buffer. -/
def State.smDeliver (s : State) (c : Nat) : State :=
  match (s.core c).attn, (s.core c).smRows with
  | some a, x :: rest =>
    let e := 256 * c + (a.qbase + x.r) % 256
    let valid := (List.range a.keys).map (fun k => a.keyValid x.blk k x.r)
    let o := softmaxRow (tabGet 0 s.cs.smM e) (tabGet 0 s.cs.smL e) a.kscale x.scores valid
    let f := if a.wp = 32 then 10 else 2
    let row : PRow := { blk := x.blk, r := x.r, alpha := o.2.2.1
                        p := (o.2.2.2.map (fun v => leBytes (elemBits f / 8) (convOut f false 0 (f32Num v)))).flatten }
    let s := { s with cs := { s.cs with smM := tabSet 0 s.cs.smM e o.1, smL := tabSet 0 s.cs.smL e o.2.1 } }
    (s.updCore c (fun k => { k with smRows := rest })).updAttn c
      (fun a => { a with pbuf := a.pbuf ++ [row], delivered := a.delivered + 1 })
  | _, _ => s

/-- SOFTMAX_ROW_DELIVER. -/
def execSoftmaxRowDeliver (c : Fin 272) (fault : CoreFault) (s : State) : Res :=
  .next (s.inCore c 0 fault .clean (fun s => s.smDeliver c))

/-! ## Normalisation (R274, R282) -/

/-- Output row `r` in BF16. -/
def State.outRow (s : State) (c : Nat) (a : Attn) (r : Nat) : List Byte :=
  let l := tabGet 0 s.cs.smL (256 * c + (a.qbase + r) % 256)
  let inv := f32Rcp l
  let zero := decide (numEq (f32Num l) (.fin false 0 0) = true)
  ((List.range a.D).map (fun d =>
    let e := if a.impl = 0 then s.accGet c (2 + d / 64) (a.qbase + r) (d % 64)
      else s.accGet c 1 (a.qbase + d / a.wp * a.qn + r) (d % a.wp)
    leBytes 2 (if zero then 0 else convOut 10 false 0 (f32Num (f32Mul e inv))))).flatten

/-- ATTN_NORMALISE: the next output row is written; with the last one the ATTN's work is done and the next may start. -/
def State.normalise (s : State) (p : CorePlace) : State :=
  match (s.core p.c).attn with
  | none => s
  | some a =>
    let lines := a.D / 32
    let first := a.oline + a.outRow * lines
    if a.minBlk < a.blocks ∨ (rangeFrom first lines).any (fun l => !(s.core p.c).writeFree a.cmd l) then s
    else
      let s := s.benchWriteAll p.c (first * 64) (s.outRow p.c a a.outRow) 8
      if a.outRow + 1 < a.qn then s.updAttn p.c (fun a => { a with outRow := a.outRow + 1 })
      else
        let s := s.updCmd p.c a.cmd (fun x => { x with done := true })
        (s.updCore p.c (fun k => { k with attn := none, smRows := [] })).attnStart p

/-- ATTN_NORMALISE. It reads accumulator rows, whose storage may show an error (Table 2-12). -/
def execAttnNormalise (c : CoreTurn) (s : State) : Res :=
  .next (s.inCore c.core 0 c.fault .clean (fun s => match s.place c.core with
    | some p => s.normalise p
    | none => s))

end Sys2Proof.Machine
end

