-- ==== Sys2Proof/Machine/LinkCode.lean ====
section
/-! DEFINITION. Frames as bytes on an Olila link (chapter 11, R429 to R431): header, payload and trailer beats, the CRC-64 and the
Reed-Solomon codewords beneath them. -/

namespace Sys2Proof.Machine

/-! ## Beats (R429, R430) -/

/-- Beats of a frame: header, payload, trailer. -/
def frameBeats (f : Frame) : Nat := 2 + (f.payload.length + 63) / 64

/-- The link sequence number (SEQ[11:0]). -/
def frameSn (f : Frame) : Nat := f.seq.toNat % 4096

/-- The header beat (Table 11-3). -/
def frameHeader (f : Frame) : List Byte :=
  [f.typ, f.flags, f.lines, f.hops] ++ leBytes 2 f.seq.toNat ++ leBytes 2 f.ack.toNat ++ [f.src, f.dst] ++ leBytes 2 f.ctx.toNat ++
    leBytes 2 f.payload.length ++ [0, 0] ++ leBytes 8 f.counter.toNat ++ leBytes 8 f.addr.toNat ++ leBytes 8 f.tag.toNat ++
    leBytes 8 f.arg.toNat ++ List.replicate 16 0

/-- The payload beats, the last one padded with 0x00. -/
def framePayload (f : Frame) : List Byte := f.payload ++ List.replicate ((64 - f.payload.length % 64) % 64) 0

/-- One step of the CRC, the highest bit first (notes/assumptions/67.md). -/
def crcStep (c : Nat) : Nat := if c < 2 ^ 63 then c * 2 else (c - 2 ^ 63) * 2 ^^^ 0x42F0E1EBA9EA3693

/-- A byte enters the CRC. -/
def crcByte (c : Nat) (b : Byte) : Nat := (List.range 8).foldl (fun c _ => crcStep c) (c ^^^ b.toNat * 2 ^ 56)

/-- The CRC-64 of bytes. -/
def crc64 (bs : List Byte) : BitVec 64 := BitVec.ofNat 64 (bs.foldl crcByte 0)

/-- The bytes that a frame's CRC covers: header, payload beats, and trailer bytes 0 to 15. -/
def frameCovered (f : Frame) : List Byte := frameHeader f ++ framePayload f ++ leBytes 16 f.gcmTag.toNat

/-- The CRC that a frame must carry. -/
def frameCrc (f : Frame) : BitVec 64 := crc64 (frameCovered f)

/-- A frame's beats as bytes. -/
def frameBytes (f : Frame) : List Byte := frameCovered f ++ leBytes 8 f.crc.toNat ++ List.replicate 40 0

/-- The frame that beats spell. -/
def parseFrame (bs : List Byte) : Frame :=
  let n := leField bs 0x0C 2
  let t := bs.drop (bs.length - 64)
  { typ := BitVec.ofNat 8 (leField bs 0 1), flags := BitVec.ofNat 8 (leField bs 1 1), lines := BitVec.ofNat 8 (leField bs 2 1)
    hops := BitVec.ofNat 8 (leField bs 3 1), seq := BitVec.ofNat 16 (leField bs 4 2), ack := BitVec.ofNat 16 (leField bs 6 2)
    src := BitVec.ofNat 8 (leField bs 8 1), dst := BitVec.ofNat 8 (leField bs 9 1), ctx := BitVec.ofNat 16 (leField bs 0x0A 2)
    counter := BitVec.ofNat 64 (leField bs 0x10 8), addr := BitVec.ofNat 64 (leField bs 0x18 8), tag := BitVec.ofNat 64 (leField bs 0x20 8)
    arg := BitVec.ofNat 64 (leField bs 0x28 8), payload := ((bs.drop 64).take (bs.length - 128)).take n
    gcmTag := BitVec.ofNat 128 (leField t 0 16), crc := BitVec.ofNat 64 (leField t 16 8) }

/-! ## Codewords (R431) -/

/-- Multiplication in GF(2^8), by the bits of one factor (notes/assumptions/67.md). -/
def gfMul (a b : Nat) : Nat :=
  ((List.range 8).foldl (fun (p : Nat × Nat) i =>
    (if b.testBit i then p.1 ^^^ p.2 else p.1, if p.2 < 128 then p.2 * 2 else (p.2 - 128) * 2 ^^^ 0x1D)) (0, a)).1

/-- The generator polynomial of `n` roots below its leading term, lowest coefficient first. -/
def rsGen : Nat → List Nat × Nat
  | 0 => ([], 1)
  | n + 1 =>
    let (g, r) := rsGen n
    (List.zipWith (fun a b => a ^^^ b) (0 :: g) (((g ++ [1]).map (gfMul r))), gfMul r 2)

/-- A symbol enters the encoder's 16 check symbols, lowest coefficient first. -/
def rsStep (g c : List Nat) (b : Byte) : List Nat :=
  let fb := c.getD 15 0 ^^^ b.toNat
  List.zipWith (fun x y => x ^^^ gfMul fb y) (0 :: c.take 15) g

/-- The 16 check symbols of 256 bytes, highest coefficient first. -/
def rsCheck (bs : List Byte) : List Byte :=
  ((bs.foldl (rsStep (rsGen 16).1) (List.replicate 16 0)).reverse).map (fun x => BitVec.ofNat 8 x)

/-- The codewords of beats: RS(272,256) of every 256 bytes, the last ones filled with 0x00. -/
def rsWords : Nat → List Byte → List (List Byte)
  | 0, _ => []
  | n + 1, bs =>
    let w := bs.take 256 ++ List.replicate (256 - bs.length) 0
    (w ++ rsCheck w) :: rsWords n (bs.drop 256)

/-- Codewords that carry a frame. -/
def frameWordCount (f : Frame) : Nat := (frameBeats f + 3) / 4

/-- A frame as its codewords. -/
def frameWords (f : Frame) : List (List Byte) := rsWords (frameWordCount f) (frameBytes f)

end Sys2Proof.Machine

namespace Sys2Proof
open Machine

/-- Symbols that a link disturbed in codeword `w` of a frame. -/
def RxFrame.errs (r : RxFrame) (w : Nat) : Nat := (r.hits.filter (fun h => h.word == w)).length

/-- The disturbed symbols that the code corrects: those of codewords with at most 8 of them. -/
def RxFrame.corrected (r : RxFrame) : List SymHit :=
  r.hits.filter (fun h => decide (h.word < frameWordCount r.frame) && decide (r.errs h.word ≤ 8))

/-- The disturbed symbols of a codeword with more, which stands as it came (notes/assumptions/67.md), among its 256 bytes. -/
def RxFrame.spoiled (r : RxFrame) : List SymHit :=
  r.hits.filter (fun h => decide (h.word < frameWordCount r.frame) && decide (8 < r.errs h.word) && decide (h.sym.val < 256))

/-- A frame's beats after the code. -/
def RxFrame.bytes (r : RxFrame) : List Byte :=
  r.spoiled.foldl (fun bs h => bs.modify (256 * h.word + h.sym.val) (fun b => b ^^^ h.delta)) (frameBytes r.frame)

/-- The frame that the code hands on. -/
def RxFrame.decoded (r : RxFrame) : Frame := if r.spoiled.isEmpty then r.frame else parseFrame r.bytes

/-- Its CRC holds. -/
def RxFrame.crcOk (r : RxFrame) : Bool :=
  let bs := r.bytes
  let n := bs.length
  leField bs (n - 48) 8 == (crc64 (bs.take (n - 48))).toNat

end Sys2Proof
end

