-- ==== Sys2Proof/Machine/Sequences.lean ====
section
/-! DEFINITION. SEQ letters, page hunger and the demotion of sequences (chapter 07). -/

namespace Sys2Proof.Machine

/-! ## What a STEP needs (R302, R308) -/

/-- Pages (layer and number) that a STEP of `count` positions creates. -/
def State.stepPages (s : State) (n count : Nat) : List (Nat × Nat) :=
  let q := s.sequence n
  let lo := q.length / 64
  ((List.range (s.kvLayers q.ctx)).map (fun l =>
    ((rangeFrom lo ((q.length + count - 1) / 64 + 1 - lo)).filter (fun p => !s.pageHeld q.ctx n l p)).map (fun p => (l, p)))).flatten

/-- Pages (layer and number) of a sequence whose entries have a given LOC. -/
def State.pagesAt (s : State) (n loc : Nat) : List (Nat × Nat) :=
  let x := (s.sequence n).ctx
  ((List.range (s.kvLayers x)).map (fun l =>
    ((List.range (s.kvPinMax x + s.kvRing x)).filterMap (fun i =>
      let e := s.pageEntry n l i
      if peValid e ∧ peLoc e = loc then some (l, pePage e) else none)).eraseDups)).flatten

/-- Frames that a STEP needs. -/
def State.stepNeed (s : State) (n count : Nat) : Nat := (s.stepPages n count).length + (s.pagesAt n 1).length

/-- A context's STEPs that wait for frames, in arrival order. -/
def State.waitingSteps (s : State) (x : Nat) : List SeqOp :=
  s.kv.ops.filter (fun o => o.op == 1 && !o.granted && (s.sequence o.seq).ctx == x && (s.sequence o.seq).state != .parking)

/-- A STEP has to wait: it needs frames, and too few are free or an earlier STEP waits for some (R308, R309). -/
def State.mustWait (s : State) (x : Nat) (o : SeqOp) : Bool :=
  let need := s.stepNeed o.seq o.count
  let earlier := (s.waitingSteps x).takeWhile (fun p => p.letter != o.letter)
  decide (0 < need) && (decide (s.freeFrames x < need) || earlier.any (fun p => decide (0 < s.stepNeed p.seq p.count)))

/-- Frames that the device may take: distinct, free, in the pool, as many as needed. -/
def State.framesOk (s : State) (x need : Nat) (fs : List Nat) : Bool :=
  decide (fs.length = need) && fs.eraseDups.length == fs.length &&
    fs.all (fun f => decide (f < s.fld .kvpPool fKvpPoolPoolPages x) && !s.frameUsed x f)

/-! ## Victims (R311 to R314) -/

/-- The victims of a context that remain, with the order of their last END (R312, R313; notes/assumptions/13.md). -/
def State.victims (s : State) (x : Nat) : List (Nat × Nat) :=
  if !(List.range (s.kvSlots x)).any (fun f => !s.kvSlotUsed x f) then []
  else (s.kv.seqs.filter (fun e => e.2.state == .idle && e.2.ctx == x && !e.2.noVictim && !s.kv.ops.any (fun o => o.seq == e.1) &&
    !(s.pagesAt e.1 0).isEmpty)).map (fun e => (e.2.lastEnd, e.1))

/-- A demotion of the context is in progress. -/
def State.demoting (s : State) (x : Nat) : Bool := s.kv.seqs.any (fun e => e.2.state == .parking && e.2.ctx == x)

/-- A STEP fails, and its sequence with it (R311, R315); edits staged for it apply no longer. -/
def State.failStep (s : State) (o : SeqOp) (code : Code) (detail : List Byte) : State :=
  let x := (s.sequence o.seq).ctx
  let s := (s.cancelSeqOp o).endLetter o.letter { code := code }
  let s := s.postCtx x (s.letterEvent o.letter code 0 detail)
  (((s.releaseAll x o.seq).updSequence o.seq (fun q => { q with state := .failed, hungry := false, edits := [] })).epochSince s o.seq)

/-- Every STEP of a context that must wait is HUNGRY, and fails where the policy says so (R310, R311). -/
def State.hungerCheck (s : State) (x : Nat) : State :=
  s.each (s.waitingSteps x) (fun s o =>
    if !s.kv.ops.any (fun p => p.letter == o.letter) || !s.mustWait x o then s
    else
      let s := s.updSequence o.seq (fun q => { q with hungry := true })
      if s.fld .kvpPool fKvpPoolPolicy x = 0 ∨ ((s.victims x).isEmpty ∧ !s.demoting x) then
        s.failStep o codeKvPagesExhausted
          (leBytes 4 o.seq ++ leBytes 4 (s.stepNeed o.seq o.count) ++ leBytes 4 0 ++ leBytes 4 (s.freeFrames x))
      else s)

/-- Give a page's entries a LOC and a FRAME. -/
def State.setLoc (s : State) (n layer page loc frame : Nat) : State :=
  let x := (s.sequence n).ctx
  s.each (List.range (s.kvPinMax x + s.kvRing x)) (fun s i =>
    let e := s.pageEntry n layer i
    if peHolds e page then s.setPage n layer i (pageWord loc (natBits e.toNat 60 60) page frame) else s)

/-- The FRAME that a page's entries hold. -/
def State.frameOf (s : State) (n layer page : Nat) : Nat :=
  let x := (s.sequence n).ctx
  peFrame ((((List.range (s.kvPinMax x + s.kvRing x)).map (s.pageEntry n layer)).find? (fun e => peHolds e page)).getD 0)

/-- A PARKING sequence demotes no further page: PARKED if any page is in flash, IDLE otherwise (R313, R314). A STEP that waits may now
have no victim left (R311). -/
def State.settleParking (s : State) (n : Nat) : State :=
  let q := s.sequence n
  if q.state = .parking ∧ q.transit.isNone then
    (s.updSequence n (fun q => { q with state := if s.seqInFlash q.ctx n then .parked else .idle })).hungerCheck q.ctx
  else s

/-- The window offset of a frame (R288, R319). -/
def State.frameWin (s : State) (x f : Nat) : Nat := s.fld .kvpPoolBase fKvpPoolBaseBase x + f * s.kvPageBytes x

/-- How many bytes of a page its unit `i` holds. -/
def State.unitBytes (s : State) (x i : Nat) : Nat := min 65536 (s.kvPageBytes x - i * 65536)

/-- The bytes of unit `i` of the page whose frame is `f`. -/
def State.pageUnit (s : State) (x f i : Nat) : List Byte :=
  padBytes 65536 (s.winRead x (s.frameWin x f + i * 65536) (s.unitBytes x i))

/-- Demotion of a page fails (R313). -/
def State.demotionFails (s : State) (n layer page kslot : Nat) : State :=
  let x := (s.sequence n).ctx
  let s := (s.setLoc n layer page 0 (s.frameOf n layer page)).freeKvSlot x kslot
  let s := s.updSequence n (fun q => { q with transit := none, noVictim := true })
  (s.settleParking n).bumpEpoch n

/-- The program of unit `i` of a page in transit joins its channel, into group `g`; none where the group cannot be the translation
layer's choice. A group that is not erased makes the demotion fail (R583, R313), and so does a line of the page that cannot be read
(R666; notes/assumptions/13.md). -/
def State.demoteUnit (s : State) (n layer page kslot i : Nat) (g : FlashGroup) : Option State :=
  let x := (s.sequence n).ctx
  let r := s.kvRegion x
  let u := kslot * s.kvUnits x + i
  let off := s.frameWin x (s.frameOf n layer page) + i * 65536
  let ch := unitChannel (s.region r).home u
  let grp := s.grpKey ch g
  if !s.erased grp then
    some ((s.postCtx x { code := codeFlashProgramFail, detail := flashDetail ch grp u r 0 }).demotionFails n layer page kslot)
  else if !s.groupFresh grp then none
  else if s.winPoisoned x off (s.unitBytes x i) then
    some ((s.postCtx x { code := codeHbmUncorrectable, detail := s.winDetail x [(off, s.unitBytes x i)] }).demotionFails n layer page kslot)
  else some ((s.winAccess x off (s.unitBytes x i) false srcHub).addProg
    { ch := ch, grp := grp, region := r, unit := u, data := s.pageUnit x (s.frameOf n layer page) i
      who := .demote n layer kslot, tries := 0, issued := false })

/-- Demotion of a sequence's next page begins (step 1 and 2 of R312). None where the operands cannot be the device's choice. -/
def State.demoteNext (s : State) (n kslot : Nat) (g : FlashGroup) : Option State :=
  let x := (s.sequence n).ctx
  match (s.pagesAt n 0).head? with
  | none => some (s.settleParking n)
  | some (l, p) =>
    if !(List.range (s.kvSlots x)).any (fun f => !s.kvSlotUsed x f) then
      some (s.settleParking n)
    else if s.kvSlots x ≤ kslot ∨ s.kvSlotUsed x kslot then none
    else
      let s := ((s.setLoc n l p 2 (s.frameOf n l p)).bumpEpoch n).setKvSlot x kslot true
      (s.updSequence n (fun q => { q with transit := some (l, p, kslot) })).demoteUnit n l p kslot 0 g

/-- An operation waits for a sequence's page in transit (R314). -/
def State.seqAwaited (s : State) (n : Nat) : Bool := s.kv.ops.any (fun o => o.seq == n)

/-- VICTIM_DEMOTION: a demotion that is under way takes its next page, or the victim whose END was the earliest begins. -/
def State.doVictim (s : State) (x kslot : Nat) (g : FlashGroup) : State :=
  if !s.run || !s.fwOn 2 || !s.fwOn 0 || s.fl.warn then s
  else
    match (s.kv.seqs.find? (fun e => e.2.state == .parking && e.2.ctx == x)).map (·.1) with
    | some n =>
      if (s.sequence n).transit.isSome ∨ s.seqAwaited n then s else (((s.demoteNext n kslot g).getD s)).flKick
    | none =>
      if (s.waitingSteps x).all (fun o => !s.mustWait x o) ∨ s.fld .kvpPool fKvpPoolPolicy x = 0 then s
      else
        match s.victims x with
        | [] => s
        | v :: vs =>
          let n := (vs.foldl (fun a b => if b.1 < a.1 then b else a) v).2
          match (s.updSequence n (fun q => { q with state := .parking })).demoteNext n kslot g with
          | some s' => (s'.hungerCheck x).flKick
          | none => s

/-- VICTIM_DEMOTION (R312). -/
def execVictimDemotion (x : Fin 1024) (slot : Nat) (grp : FlashGroup) (s : State) : Res := .next (s.doVictim x slot grp)

/-- PAGE_DEMOTED: every unit of the page has been programmed, or a program has failed (R312, R313). -/
def State.doDemoted (s : State) (n : Nat) (ok : Bool) (slot : Nat) (g : FlashGroup) : State :=
  let x := (s.sequence n).ctx
  match (s.sequence n).transit with
  | none => s
  | some (l, p, k) =>
    let durable := (rangeFrom (k * s.kvUnits x) (s.kvUnits x)).all (fun u => (s.unitGroup (s.kvRegion x) u).isSome)
    if !s.clocked || s.fl.progs.any (fun j => j.who == ProgFor.demote n l k) || durable != ok then s
    else if !ok then (s.demotionFails n l p k).hungerCheck x
    else
      let f := s.frameOf n l p
      let s' := ((s.setLoc n l p 1 k).freeFrame x f).bumpEpoch n
      let s' := s'.updSequence n (fun q => { q with transit := none })
      let s'' := if s'.seqAwaited n then some (s'.settleParking n) else s'.demoteNext n slot g
      match s'' with
      | some t => (t.hungerCheck x).flKick
      | none => s

/-- PAGE_DEMOTED. -/
def execPageDemoted (n : Fin 65536) (ok : Bool) (slot : Nat) (grp : FlashGroup) (s : State) : Res :=
  .next (s.doDemoted n ok slot grp)

/-! ## The SEQ letter (R299 to R303, R760) -/

/-- Record an operation. -/
def State.addSeqOp (s : State) (l : LetterId) (n op count : Nat) (table : Nat := 0) : State :=
  let o : SeqOp := { letter := l, seq := n, op := op, count := count, frames := [], need := 0, readback := [], granted := op != 1
                     table := table }
  { s with kv := { s.kv with ops := s.kv.ops ++ [o] } }

/-- Change the operation of a letter. -/
def State.updSeqOp (s : State) (l : LetterId) (f : SeqOp → SeqOp) : State :=
  { s with kv := { s.kv with ops := updFirst (fun o => o.letter == l) f s.kv.ops } }

/-- Start a SEQ letter of one OP: a letter that meets an operation on its sequence waits for it (notes/assumptions/24.md), and an
invalid DONE ends it (R765). -/
def State.startSeq (s : State) (q op : Nat) (go : State → LetterId → Letter → State) : State :=
  s.startWith q 6 (fun x => x.field 0x10 1 == op && !s.seqAwaited (x.field 0x12 2) && !(s.sequence (x.field 0x12 2)).abort)
    (fun s l x => if !s.doneOk l (x.field 0x18 4) then s.endLetter l { code := codeSyncInvalid } else go s l x)

/-- The sequence belongs to the letter's context. -/
def State.seqMine (s : State) (l : LetterId) (n : Nat) : Bool :=
  (s.sequence n).state != .free && (s.sequence n).ctx == s.letterCtx l

/-- An OPEN starts. -/
def State.startOpen (s : State) (l : LetterId) (x : Letter) : State :=
  let c := s.letterCtx l
  let n := x.field 0x12 2
  if (s.sequence n).state ≠ .free then s.endLetter l { code := codeSeqInvalid }
  else if s.fld .kvpPool fKvpPoolPoolPages c = 0 ∨ s.tableBytes < s.kv.tableUsed + s.tablesOf c then
    s.endLetter l { code := codeKvPagesExhausted }
  else
    match s.tablePlace (s.tablesOf c) with
    | none => s.endLetter l { code := codeKvPagesExhausted }
    | some a => ({ s with kv := { s.kv with tableUsed := s.kv.tableUsed + s.tablesOf c } }).addSeqOp l n 0 0 a

/-- SEQ_OPEN. -/
def execSeqOpen (q : Fin 4096) (s : State) : Res := .next (s.startSeq q 0 (fun s l x => s.startOpen l x))

/-- A STEP takes its frames (R308). -/
def State.grantStep (s : State) (o : SeqOp) (fs : List Nat) : State :=
  let c := (s.sequence o.seq).ctx
  let rb := s.pagesAt o.seq 1
  let s := s.each fs (fun s f => s.takeFrame c f)
  (s.updSeqOp o.letter (fun o => { o with frames := fs, need := fs.length, readback := rb, granted := true })).updSequence o.seq
    (fun q => { q with hungry := false })

/-- A frame that a STEP would read a page back into lies in a locked home (R336). -/
def State.readbackLocked (s : State) (o : SeqOp) (fs : List Nat) : Bool :=
  let x := (s.sequence o.seq).ctx
  (fs.take (s.pagesAt o.seq 1).length).any (fun f =>
    s.winLocked x (s.fld .kvpPoolBase fKvpPoolBaseBase x + f * s.kvPageBytes x) (s.kvPageBytes x))

/-- A STEP that need not wait takes the frames the device chose, or ends where it would write into a locked home (R336); none where they
cannot be its choice. -/
def State.tryStep (s : State) (l : LetterId) (fs : List Nat) : Option State :=
  match s.kv.ops.find? (fun o => o.letter == l) with
  | none => none
  | some o =>
    let c := (s.sequence o.seq).ctx
    if (s.sequence o.seq).state = .parking then none
    else if s.mustWait c o then none
    else if !s.framesOk c (s.stepNeed o.seq o.count) fs then none
    else if s.readbackLocked o fs then some ((s.cancelSeqOp o).endLetter l { code := codeRegionLocked })
    else some (s.grantStep o fs)

/-- A STEP starts. -/
def State.startStep (s : State) (l : LetterId) (x : Letter) (fs : List Nat) : State :=
  let c := s.letterCtx l
  let n := x.field 0x12 2
  let count := x.field 0x14 2
  let q := s.sequence n
  if !s.seqMine l n ∨ ¬(q.state = .idle ∨ q.state = .parked ∨ q.state = .parking) then s.endLetter l { code := codeSeqInvalid }
  else if 2 ^ 24 < q.length + count then s.endLetter l { code := codeKvLengthExceeded }
  else
    let s := (s.addSeqOp l n 1 count).settleParking n
    match s.tryStep l fs with
    | some s' => s'
    | none => s.hungerCheck c

/-- SEQ_STEP. -/
def execSeqStep (q : Fin 4096) (frames : List Nat) (s : State) : Res := .next (s.startSeq q 1 (fun s l x => s.startStep l x frames))

/-- STEP_FRAMES_GRANTED (R309). -/
def execStepFramesGranted (n : Fin 65536) (frames : List Nat) (s : State) : Res :=
  .next (match s.kv.ops.find? (fun o => o.seq == n.val && o.op == 1 && !o.granted) with
    | some o => if s.clocked then ((s.settleParking n).tryStep o.letter frames).getD s else s
    | none => s)

/-- The lines of a page are written to its frame, each at the address that its window offset names. -/
def State.frameWrite (s : State) (x f : Nat) (bs : List Byte) : State :=
  s.each (List.range (s.kvPageBytes x / 64)) (fun s i =>
    match s.translate x (s.frameWin x f + 64 * i) with
    | some a => (s.hbmWrite a ((bs.drop (64 * i)).take 64)).1
    | none => s)

/-- PAGE_READBACK: a page of a PARKED sequence arrives in its frame, and its flash slot is freed (R315). -/
def State.doReadback (s : State) (n : Nat) (rd : ReadRes) : State :=
  match s.kv.ops.find? (fun o => o.seq == n && o.op == 1 && o.granted) with
  | none => s
  | some o =>
    match o.readback, o.frames with
    | (l, p) :: rb, f :: fs =>
      let x := (s.sequence n).ctx
      let r := s.kvRegion x
      let k := s.frameOf n l p
      let out := (rangeFrom (k * s.kvUnits x) (s.kvUnits x)).any (fun u => s.fl.chOut.contains (unitChannel (s.region r).home u))
      match s.flashBar r with
      | some c => s.failStep o c []
      | none =>
        if rd = .uncorrectable ∨ out then
          let u := k * s.kvUnits x
          s.failStep o codeFlashUncorrectable (flashDetail (unitChannel (s.region r).home u) ((s.unitGroup r u).getD 0) u r 0)
        else
          let off := k * s.kvUnits x * 65536
          let bs := s.flashRead r off (s.kvPageBytes x)
          let s := (s.sectorReads r off (s.kvPageBytes x / 4096) srcHub).winAccess x (s.frameWin x f) (s.kvPageBytes x) true srcHub
          let s := (((s.frameWrite x f bs).setLoc n l p 0 f).freeKvSlot x k).bumpEpoch n
          s.updSeqOp o.letter (fun o => { o with frames := fs, readback := rb })
    | _, _ => s

/-- PAGE_READBACK. -/
def execPageReadback (n : Fin 65536) (rd : ReadRes) (s : State) : Res := .next (if s.clocked then s.doReadback n rd else s)

/-- An END starts. -/
def State.startEnd (s : State) (l : LetterId) (x : Letter) : State :=
  let n := x.field 0x12 2
  let q := s.sequence n
  if !s.seqMine l n ∨ q.state ≠ .stepping ∨ q.opener ≠ l.q then s.endLetter l { code := codeSeqInvalid }
  else s.addSeqOp l n 2 0

/-- SEQ_END. -/
def execSeqEnd (q : Fin 4096) (s : State) : Res := .next (s.startSeq q 2 (fun s l x => s.startEnd l x))

/-- A CLOSE starts. -/
def State.startClose (s : State) (l : LetterId) (x : Letter) : State :=
  let n := x.field 0x12 2
  if !s.seqMine l n ∨ (s.sequence n).state = .stepping then s.endLetter l { code := codeSeqInvalid }
  else (s.addSeqOp l n 3 0).settleParking n

/-- SEQ_CLOSE. -/
def execSeqClose (q : Fin 4096) (s : State) : Res := .next (s.startSeq q 3 (fun s l x => s.startClose l x))

/-- A created page takes its ring slot, and its pinned slot below PIN_AUTO (R292, R303). -/
def State.createPage (s : State) (x n : Nat) (p : Nat × Nat) (f : Nat) : State :=
  let auto := decide (p.2 < s.fld .kvpPool fKvpPoolPinAuto x)
  let slot := s.ringSlot x p.2
  let old := s.pageEntry n p.1 slot
  let s := if peValid old then s.dropRing x n p.1 (pePage old) else s
  let w := pageWord 0 (if auto then 1 else 0) p.2 f
  let s := s.setPage n p.1 slot w
  if auto then (s.dropPin x n p.1 p.2).setPage n p.1 p.2 w else s

/-- The effect of an operation whose table writes are acknowledged, and its RESULT (R302, R303). -/
def State.seqEffect (s : State) (o : SeqOp) : State × Nat :=
  let n := o.seq
  match o.op with
  | 0 =>
    let x := s.letterCtx o.letter
    let q : Sequence := { state := .idle, ctx := x, epoch := (s.sequence n).epoch + 1, l1 := some o.table, tableBytes := s.tablesOf x }
    ((s.writeTables x o.table).updSequence n (fun _ => q), 0)
  | 1 =>
    let q := s.sequence n
    let pages := s.stepPages n o.count
    let t := s.each (pages.zip o.frames) (fun s pf => s.createPage q.ctx n pf.1 pf.2)
    ((t.updSequence n (fun q => { q with
        state := .stepping, l0 := q.length, pending := o.count, opener := o.letter.q, noVictim := false
        newFrames := pages })).epochSince s n, q.length)
  | 2 =>
    let x := (s.sequence n).ctx
    let k := s.kv.ends + 1
    let t := ({ s with kv := { s.kv with ends := k } }).updSequence n (fun q => { q with
      length := q.length + q.pending, pending := 0, state := .idle, newFrames := [], lastEnd := k })
    let t := (t.adoptEdits n).releaseBelow x n
    (t.epochSince s n, (t.sequence n).length)
  | _ => (s.closeSeq n, 0)

/-- An operation waits for nothing but its table writes (R303, R309, R314, R315). -/
def State.seqReady (s : State) (o : SeqOp) : Bool :=
  match o.op with
  | 0 => true
  | 1 => o.granted && o.readback.isEmpty
  | 2 => !s.attnOn o.seq
  | _ => (s.sequence o.seq).transit.isNone

/-- SEQ_TABLE_WRITES_DONE: the operation takes effect and its letter ends (R760). -/
def State.doTableWrites (s : State) (n : Nat) : State :=
  match s.kv.ops.find? (fun o => o.seq == n) with
  | none => s
  | some o =>
    if !s.seqReady o || !s.clocked then s
    else
      let x := s.letterCtx o.letter
      let done := match s.letter o.letter with
        | some y => y.field 0x18 4
        | none => 0
      let r := s.seqEffect o
      let s := { r.1 with kv := { r.1.kv with ops := removeFirst (fun p => p.letter == o.letter) r.1.kv.ops } }
      let s := (s.letterDone o.letter done engHub).endLetter o.letter { code := codeOk, result := BitVec.ofNat 32 r.2 }
      (s.hungerCheck x).flKick

/-- SEQ_TABLE_WRITES_DONE. -/
def execSeqTableWritesDone (n : Fin 65536) (s : State) : Res := .next (s.doTableWrites n)

end Sys2Proof.Machine
end

