-- ==== Sys2Proof/Machine/Flash.lean ====
section
/-! DEFINITION. The flash subsystem's commands (chapter 14): the request port, programs, erases, retirement, passwords, the power
warning and NOR updates. -/

namespace Sys2Proof.Machine

/-! ## The request port (R587 to R590, R608) -/

/-- The request that a GO starts. -/
def State.newFlReq (s : State) (op slot units : Nat) : FlReq :=
  { op := op, srcRegion := s.fld .flsReqSrc fFlsReqSrcRegion slot, srcOff := s.fld .flsReqSrc fFlsReqSrcOffset slot
    dstRegion := s.fld .flsReqDst fFlsReqDstRegion slot, dstOff := s.fld .flsReqDst fFlsReqDstOffset slot
    units := units, done := 0, busy := false, abort := false }

/-- A write of GO: OP and UNITS are kept; a slot that is BUSY discards the GO; the checks of R588 come before any flash operation. -/
def State.flGo (s : State) (op slot units : Nat) (go : State → FlReq → Option State) : State :=
  if !s.clocked then s
  else
    let s' := (s.setFld .flsReqCtl fFlsReqCtlOp slot op).setFld .flsReqCtl fFlsReqCtlUnits slot units
    if s.fld .flsReqStatus fFlsReqStatusState slot = 1 then s'
    else
      let r := s.newFlReq op slot units
      let t := s'.setReg .flsReqStatus slot 0 (putFl fFlsReqStatusState 0 1)
      match t.flReqBar r with
      | some c => t.endFlReq slot 3 c.toNat
      | none => match go (t.setFlReq slot (some r)) r with
        | some t' => t'.flKick
        | none => s

/-- FLS_REQ_WRITE. -/
def execFlsReqWrite (slot : Fin 4) (units : BitVec 32) (grp : FlashGroup) (s : State) : Res :=
  .next (s.flGo 1 slot units.toNat (fun s r => s.flNext slot r grp))

/-- FLS_REQ_TRIM. -/
def execFlsReqTrim (slot : Fin 4) (units : BitVec 32) (s : State) : Res := .next (s.flGo 2 slot units.toNat (fun s _ => some s))

/-- FLS_REQ_CONFIG. -/
def execFlsReqConfig (slot : Fin 4) (units : BitVec 32) (s : State) : Res := .next (s.flGo 3 slot units.toNat (fun s _ => some s))

/-- The header's place on a parcel channel (Table 14-7, step 5). -/
def State.headerGrp (s : State) (ch : Nat) : Nat := groupKey (s.channelParcel ch) ch 0 0 0 0

/-- A FORMAT programs the header's four copies, after an erase of their blocks where they are not erased. -/
def State.formatReq (s : State) (slot : Nat) (r : FlReq) : State :=
  s.each (rangeFrom 12 4) (fun s ch =>
    let g := s.headerGrp ch
    let s := if s.erased g ∨ s.fl.erases.any (fun e => e.blk == blockKey g) then s
      else s.addErase ch (blockKey g) []
    s.addProg { ch := ch, grp := g, region := 255, unit := 0, data := padBytes 65536 (leBytes 8 (r.srcOff % 2 ^ 48))
                who := .header slot, tries := 0, issued := false })

/-- FLS_REQ_FORMAT. -/
def execFlsReqFormat (slot : Fin 4) (units : BitVec 32) (s : State) : Res :=
  .next (s.flGo 4 slot units.toNat (fun s r => some (s.formatReq slot r)))

/-- A FORMAT whose four copies are programmed: the parcel has the new identity and an empty directory. -/
def State.formatDone (s : State) (slot : Nat) : State :=
  match s.flReq slot with
  | none => s
  | some r =>
    let id : Word := BitVec.ofNat 64 (r.srcOff % 2 ^ 48)
    let rs := (List.range 255).filter (fun k => (s.region k).home == 2)
    let s := s.each rs (fun s k => s.cacheInv (fun x => x == k))
    let s := { s with fl := { s.fl with
        regionParcel := s.fl.regionParcel.filter (fun (e : Nat × BitVec 64) => !rs.contains e.1)
        map := rs.foldl (fun m k => tabClear m (k * 2 ^ 33) ((k + 1) * 2 ^ 33)) s.fl.map } }
    (((s.setReg .pclId 0 0 id).setFld .pclStatus fPclStatusBlank 0 0).noteFree).endFlReq slot 2 0

/-! ## Programs and erases (R582 to R586) -/

/-- Take a program away. -/
def State.dropProg (s : State) (j : ProgJob) : State := { s with fl := { s.fl with progs := removeFirst (fun x => x == j) s.fl.progs } }

/-- A verified program: the group holds the unit, its metadata, and the map names it (R575, R576, R579). -/
def State.programmed (s : State) (j : ProgJob) : State :=
  let m : GroupMeta := { region := j.region, unit := j.unit, seq := s.fl.programs + 1 }
  let s := (s.dropProg j).count 6 j.ch 3
  let s := { s with fl := { s.fl with
      data := memWrite s.fl.data (j.grp * 65536) j.data
      metas := tabSet none s.fl.metas j.grp (some m)
      programs := s.fl.programs + 1 } }
  if j.region = 255 then s else (s.cacheInv (fun r => r == j.region)).setMap j.region j.unit (mapWord j.grp)

/-- What a verified program was for goes on, and the slot of a page that is in transit no longer is freed; none where the group `g` cannot be the choice for the next unit. -/
def State.programNext (s : State) (j : ProgJob) (g : FlashGroup) : Option State :=
  match j.who with
  | .request slot => match s.flReq slot with
    | some r =>
      let r := { r with done := r.done + 1, busy := false }
      (s.flProgress slot r).flNext slot r g
    | none => some s
  | .header slot => some (if s.fl.progs.any (fun x => x.who == ProgFor.header slot) then s else s.formatDone slot)
  | .demote n l k => match (s.sequence n).transit with
    | some (l', p, k') =>
      let i := j.unit - k * s.kvUnits (s.sequence n).ctx
      if l' ≠ l ∨ k' ≠ k then some (s.freeKvSlot (s.region j.region).owner k)
      else if i + 1 < s.kvUnits (s.sequence n).ctx then s.demoteUnit n l p k (i + 1) g
      else some s
    | none => some (s.freeKvSlot (s.region j.region).owner k)

/-- A program has failed for good (R585): FLASH_PROGRAM_FAIL, to the region's owner, and to the device event ring for a parcel header,
which is of no region. -/
def State.programFails (s : State) (j : ProgJob) : State :=
  let s := (s.dropProg j).setFld .flsChStatus fFlsChStatusProgFail j.ch 1
  let e : Event := { code := codeFlashProgramFail, detail := flashDetail j.ch j.grp j.unit j.region (j.tries + 1) }
  let s := if j.region = 255 then s.postDev e else s.postCtx (s.region j.region).owner e
  match j.who with
  | .request slot => s.endFlReq slot 3 codeFlashProgramFail.toNat
  | .header slot => ({ s with fl := { s.fl with progs := s.fl.progs.filter (fun (x : ProgJob) => x.who != ProgFor.header slot) } }).endFlReq
      slot 3 codeFlashProgramFail.toNat
  | .demote n l k => match (s.sequence n).transit with
    | some (l', _, k') => if l' = l ∧ k' = k then s else s.freeKvSlot (s.region j.region).owner k
    | none => s.freeKvSlot (s.region j.region).owner k

/-- A block is marked for retirement (R585). -/
def State.markBlock (s : State) (blk : Nat) : State := { s with fl := { s.fl with marked := setInsert blk s.fl.marked } }

/-- A channel whose last work of a stop has ended has its NCLK gated (R642, R747). -/
def State.gateNclk (s : State) (ch : Nat) : State :=
  if s.fld .pwrState fPwrStateState = 3 ∧ !s.fl.flushing.contains ch ∧ !s.fl.progs.any (fun j => j.ch == ch && j.issued) then
    let v := s.fld .clkStatus fClkStatusNclkLock
    s.setFld .clkStatus fClkStatusNclkLock 0 (if v.testBit ch then v - 2 ^ ch else v)
  else s

/-- FL_PROGRAM_DONE: the program at work on a channel ends, and what it was for goes on; group `g` is the translation layer's next
choice, for a retry on the same channel or for the next unit. The verify waits for the security core (R597). -/
def State.doProgramDone (s : State) (ch : Nat) (res : ProgramResult) (g : FlashGroup) : State :=
  match s.fl.progs.find? (fun j => j.ch == ch && j.issued && s.fwOn 0) with
  | none => s
  | some j =>
    if s.fl.chOut.contains ch then ((s.programFails j).flKick).gateNclk ch
    else if res = .verified then
      match (s.programmed j).programNext j g with
      | some t => t.flKick.gateNclk ch
      | none => s
    else
      let s' := s.markBlock (blockKey j.grp)
      if s.fld .flsCfg fFlsCfgRetry ≤ j.tries then (s'.programFails j).flKick.gateNclk ch
      else
        let grp := s.grpKey ch g
        if !s'.erased grp || !s'.groupOpen grp || s'.blockOpen grp then s
        else
          let t : ProgJob := { j with grp := grp, tries := j.tries + 1, issued := false }
          let s' := s'.count 6 ch 4
          ({ s' with fl := { s'.fl with progs := updFirst (fun x => x == j) (fun _ => t) s'.fl.progs } }).flKick.gateNclk ch

/-- FL_PROGRAM_DONE (R584, R585). -/
def execFlProgramDone (ch : Fin 16) (res : ProgramResult) (grp : FlashGroup) (s : State) : Res := .next (s.doProgramDone ch res grp)

/-- FL_ERASE_DONE: a block verified blank has its groups' erased-state bits set and its read count cleared; one that is not blank is
erased again (R582, R591, R597). A suspended erase does not end (R599). -/
def State.doEraseDone (s : State) (ch : Nat) (blank : Bool) : State :=
  match s.fl.erases.find? (fun e => e.ch == ch && e.issued) with
  | none => s
  | some e =>
    if s.fl.warn || !s.run || !s.fwOn 0 || !blank then s
    else
      let s := s.count 6 ch 5
      ({ s with fl := { s.fl with
          erases := removeFirst (fun x => x == e) s.fl.erases
          notErased := tabClear s.fl.notErased (blockLo e.blk) (blockHi e.blk)
          metas := tabClear s.fl.metas (blockLo e.blk) (blockHi e.blk)
          data := tabClear s.fl.data (blockLo e.blk * 65536) (blockHi e.blk * 65536)
          reads := tabSet 0 s.fl.reads e.blk 0
          eraseCnt := tabUpd 0 s.fl.eraseCnt e.blk (· + 1) } }).flKick

/-- FL_ERASE_DONE. -/
def execFlEraseDone (ch : Fin 16) (blank : Bool) (s : State) : Res := .next (s.doEraseDone ch blank)

/-! ## Relocation and retirement (R586, R591) -/

/-- The groups of a block that hold units. -/
def State.liveGroups (s : State) (blk : Nat) : List (Nat × GroupMeta) :=
  s.fl.metas.filterMap (fun (e : Nat × Option GroupMeta) => match e.2 with
    | some m => if m.live ∧ blockLo blk ≤ e.1 ∧ e.1 < blockHi blk then some (e.1, m) else none
    | none => none)

/-- Move a unit to another group of its channel: data, metadata and map (R579). -/
def State.moveUnit (s : State) (ch : Nat) (g : Nat × GroupMeta) (dst : Nat) : State :=
  let m : GroupMeta := { g.2 with seq := s.fl.programs + 1 }
  let s := ((s.setErased dst false).count 6 ch 3).countBw (6 + ch) 1 1024
  let s := if g.2.region = 255 then s else (s.cacheInv (fun r => r == g.2.region)).setMap g.2.region g.2.unit (mapWord dst)
  { s with fl := { s.fl with
      data := memWrite s.fl.data (dst * 65536) (memRead s.fl.data (g.1 * 65536) 65536)
      metas := tabSet none (tabSet none s.fl.metas g.1 (some { g.2 with live := false })) dst (some m)
      programs := s.fl.programs + 1 } }

/-- Relocate a block's groups to the groups the translation layer chose; none where the choice cannot be its own: the groups are
fresh, and the channel keeps 4 pre-erased blocks (R592). -/
def State.relocate (s : State) (ch blk : Nat) (dst : List Nat) : Option State :=
  let live := s.liveGroups blk
  let t := s.each (live.zip dst) (fun s p => s.moveUnit ch p.1 p.2)
  if live.length = dst.length ∧ dst.eraseDups.length = dst.length ∧
      dst.all (fun g => s.erased g && s.groupOpen g && blockKey g != blk) ∧ min 4 (s.preErased ch) ≤ t.preErased ch then some t
  else none

/-- BLOCK_RETIRE: a marked block is emptied and leaves use (R586). -/
def State.doRetire (s : State) (ch blk : Nat) (dst : List Nat) : State :=
  if !s.flashOn || !s.fl.marked.contains blk || s.fl.progs.any (fun j => blockKey j.grp == blk) || !s.channelUp ch then s
  else
    match s.relocate ch blk dst with
    | none => s
    | some t =>
      let t := { t with fl := { t.fl with marked := setErase blk t.fl.marked, retired := setInsert blk t.fl.retired } }
      let t := (t.bumpSat .flsChStatus fFlsChStatusRetired ch).noteFree
      let g := blockLo blk
      (t.postDev { code := codeSpareSwitched
                   detail := [BitVec.ofNat 8 ch, BitVec.ofNat 8 ((g / 2 ^ 35 % 8) * 16 + g / 2 ^ 31 % 16)] ++
                     leBytes 2 (g / 2 ^ 12 % 2 ^ 19) }).flKick

/-- BLOCK_RETIRE. -/
def execBlockRetire (ch : Fin 16) (blk : FlashGroup) (grps : List FlashGroup) (s : State) : Res :=
  .next (s.doRetire ch (blockKey (s.grpKey ch blk)) (grps.map (s.grpKey ch)))

/-- READ_DISTURB_RELOCATE: a block read too often, or read with a retry, is emptied and erased (R591); so is one whose erases lag. -/
def State.doDisturb (s : State) (ch blk : Nat) (retried : Bool) (dst : List Nat) : State :=
  let due := retried || decide (s.fld .flsCfg fFlsCfgDisturbReads < tabGet 0 s.fl.reads blk) || s.wearLags ch blk
  if !s.flashOn || !due || !s.channelUp ch || s.fl.progs.any (fun j => blockKey j.grp == blk) || s.fl.erases.any (fun e => e.blk == blk) ||
      s.fl.retired.contains blk then s
  else
    match s.relocate ch blk dst with
    | none => s
    | some t =>
      let t := t.when retried (fun s => s.count 6 ch 1)
      (t.addErase ch blk t.flashReads).flKick

/-- READ_DISTURB_RELOCATE. -/
def execReadDisturbRelocate (ch : Fin 16) (blk : FlashGroup) (retried : Bool) (grps : List FlashGroup) (s : State) : Res :=
  .next (s.doDisturb ch (blockKey (s.grpKey ch blk)) retried (grps.map (s.grpKey ch)))

/-! ## Passwords (R593 to R596, R612) -/

/-- A write of a command to FLS_PW_CTL: SLOT and LEN are kept; a command written while BUSY is set is discarded. -/
def State.pwGo (s : State) (cmd slot len : Nat) : State :=
  if !s.clocked || s.fld .flsPwCtl fFlsPwCtlBusy == 1 then s
  else
    let s := (s.setFld .flsPwCtl fFlsPwCtlSlot 0 slot).setFld .flsPwCtl fFlsPwCtlLen 0 len
    let bytes := (((List.range 4).map (fun i => leBytes 8 (s.reg .flsPw i).toNat)).flatten).take len
    let j : PwJob := { cmd := cmd, slot := slot, len := len, bytes := bytes }
    ({ s with fl := { s.fl with pwJob := some j } }).setFld .flsPwCtl fFlsPwCtlBusy 0 1

/-- FLS_PW_UNLOCK. -/
def execFlsPwUnlock (slot : Fin 64) (len : BitVec 6) (s : State) : Res := .next (s.pwGo 1 slot len.toNat)

/-- FLS_PW_RELOCK. -/
def execFlsPwRelock (slot : Fin 64) (len : BitVec 6) (s : State) : Res := .next (s.pwGo 2 slot len.toNat)

/-- FLS_PW_SET. -/
def execFlsPwSet (slot : Fin 64) (len : BitVec 6) (s : State) : Res := .next (s.pwGo 3 slot len.toNat)

/-- PROTECTED follows LOCK, and a password on a flash region (R337). -/
def State.noteProtected (s : State) (r : Nat) : State :=
  let pw := match s.protSlot r with
    | some i => s.fld .flsProt fFlsProtHasPw i == 1
    | none => false
  let f : Fl := ⟨19, 19, .ro, false⟩
  s.setReg .ctxRegion r 0 (putFl f (s.reg .ctxRegion r) (if (s.region r).lock || pw then 1 else 0))

/-- The digest of a password (R595). -/
def pwDigest (salt : BitVec 128) (len : Nat) (bytes : List Byte) : BitVec 256 :=
  Config.shake256 (leBytes 16 salt.toNat ++ leBytes 1 len ++ bytes)

/-- The outcome of an UNLOCK; of a slot without a password the manual states none, and CODE is a free code. -/
def State.pwUnlock (s : State) (j : PwJob) : State × Code :=
  let p := tabGet none s.fl.pw j.slot
  if s.fld .flsProt fFlsProtLockout j.slot = 1 then (s, codePasswordLockout)
  else
    match p with
    | none => let d := s.drawCode; (d.2, d.1)
    | some p =>
      if pwDigest p.salt j.len j.bytes = p.digest then
        ((s.setFld .flsProt fFlsProtLocked j.slot 0).setFld .flsProt fFlsProtFails j.slot 0, codeOk)
      else
        let n := s.fld .flsProt fFlsProtFails j.slot + 1
        let s := s.setFld .flsProt fFlsProtFails j.slot n
        if n < 8 then (s, codeRegionLocked)
        else
          let r := s.fld .flsProt fFlsProtRegion j.slot
          ((s.setFld .flsProt fFlsProtLockout j.slot 1).postCtx (s.region r).owner { code := codePasswordLockout }, codePasswordLockout)

/-- The outcome of a SET: a new salt, and the digest. -/
def State.pwSet (s : State) (j : PwJob) : State × Code :=
  if s.fld .flsProt fFlsProtLocked j.slot = 1 then (s, codeRegionLocked)
  else
    let d1 := s.draw
    let d2 := d1.2.draw
    let salt : BitVec 128 := BitVec.ofNat 128 (d1.1.toNat + d2.1.toNat * 2 ^ 64)
    let p : Password := { salt := salt, digest := pwDigest salt j.len j.bytes }
    let s := d2.2
    let s := { s with fl := { s.fl with pw := tabSet none s.fl.pw j.slot (some p) } }
    ((s.setFld .flsProt fFlsProtHasPw j.slot 1).noteProtected (s.fld .flsProt fFlsProtRegion j.slot), codeOk)

/-- FLS_PW_COMMAND_END: the security core acts on the command; a SET waits while the entropy source fails (R690). A LEN outside
1 to 32 has no stated outcome: nothing changes, and CODE is a free code of Table 4-24 (R183, notes/assumptions/25.md). -/
def State.doPwEnd (s : State) : State :=
  match s.fl.pwJob with
  | none => s
  | some j =>
    if !s.fwOn 0 || (j.cmd == 3 && s.fld .secStatus fSecStatusEntFail == 1) then s
    else
      let r := if j.cmd = 2 then (s.when (s.fld .flsProt fFlsProtHasPw j.slot == 1) (fun s => s.setFld .flsProt fFlsProtLocked j.slot 1), codeOk)
        else if j.len = 0 ∨ 32 < j.len then let d := s.drawCode; (d.2, d.1)
        else if j.cmd = 1 then s.pwUnlock j
        else s.pwSet j
      let s := (r.1.setFld .flsPwCtl fFlsPwCtlCode 0 r.2.toNat).setFld .flsPwCtl fFlsPwCtlBusy 0 0
      let s := s.each (List.range 4) (fun s i => s.setReg .flsPw i 0 0)
      { s with fl := { s.fl with pwJob := none } }

/-- FLS_PW_COMMAND_END. -/
def execFlsPwCommandEnd (s : State) : Res := .next s.doPwEnd

/-! ## Power warning and the NOR (R597 to R599, R742, R747) -/

/-- PWRWARN_ASSERT: POWER_WARNING is posted, work that is not issued is held, and the journal is flushed on every channel. PWRWARN_N
is taken over at step 6 of the start sequence (Table 20-3). -/
def execPwrwarnAssert (s : State) : Res :=
  .next (if s.fl.warn || decide (s.start.step < 6) then s
    else
      let chs := (List.range 16).filter s.channelUp
      { (if s.fld .pwrState fPwrStateState = 3 then s else s.postDev { code := codePowerWarning }) with
        fl := { s.fl with warn := true, flushing := chs } })

/-- PWRWARN_DEASSERT: suspended erases and held work resume. -/
def execPwrwarnDeassert (s : State) : Res :=
  .next (if s.fl.warn then ({ s with fl := { s.fl with warn := false } }).flKick else s)

/-- JOURNAL_FLUSH_DONE: once the channel's issued program has ended and verified. -/
def execJournalFlushDone (ch : Fin 16) (s : State) : Res :=
  .next (if s.fl.flushing.contains ch.val && !s.fl.progs.any (fun j => j.ch == ch.val && j.issued) then
      ({ s with fl := { s.fl with flushing := setErase ch.val s.fl.flushing } }).gateNclk ch
    else s)

/-- Bytes with GENERATION replaced. -/
def withGen (b : List Byte) (g : Nat) : List Byte := b.take 8 ++ leBytes 8 g ++ b.drop 16

/-- NOR_UPDATE_DONE: the slot holds the image; a CONFIG request is DONE, a RECOVER has RECOVERED set. A read-back that fails leaves
GENERATION all ones; the request's code then is not stated and is a free code of Table 4-24. -/
def State.doNorDone (s : State) (ok : Bool) : State :=
  match s.fl.nor with
  | none => s
  | some j =>
    if !s.fwOn 0 && decide (j.req.isSome) then s
    else
      let img := if ok then j.image else withGen j.image (2 ^ 64 - 1)
      let s := ({ s with fl := { s.fl with nor := none } }).emit (.nor j.slot img)
      match j.req with
      | some q =>
        match s.flReq q with
        | none => s
        | some r =>
          if ok then ((s.flProgress q { r with done := r.units }).endFlReq q 2 0).flKick
          else let d := s.drawCode; (d.2.endFlReq q 3 d.1.toNat).flKick
      | none => if ok then s.setFld .cfgStatus fCfgStatusRecovered 0 1 else s

/-- NOR_UPDATE_DONE (R598, R625). -/
def execNorUpdateDone (ok : Bool) (s : State) : Res := .next (s.doNorDone ok)

end Sys2Proof.Machine
end

