-- ==== Sys2Proof/Machine/Parcel.lean ====
section
/-! DEFINITION. The parcel port (chapter 14): insertion by the steps of Table 14-7, removal on request, and loss of the parcel. -/

namespace Sys2Proof.Machine

/-- Firmware loading has been released: PCL_PRSNT_N and PCL_BTN_N are monitored from then on (R748). -/
def State.released (s : State) : Bool := s.fld .rstFwLoad fRstFwLoadStatus == 4

/-- Change PCL_STATUS.STATE. -/
def State.setPcl (s : State) (st : Nat) : State := s.setFld .pclStatus fPclStatusState 0 st

/-- Channels 12 to 15 are trained, or lose power. A port whose clock starts takes over a split that waits for it (R262). -/
def State.parcelTrain (s : State) (b : Nat) : State :=
  let s := s.each (rangeFrom 12 4) (fun s ch => (s.setFld .flsChStatus fFlsChStatusTrained ch b).setFld .flsChStatus fFlsChStatusFreeBlocks ch 0)
  let v := s.fld .clkStatus fClkStatusNclkLock % 2 ^ 12
  let s := s.setFld .clkStatus fClkStatusNclkLock 0 (v + b * 0xF000)
  if b = 1 then s.each ((rangeFrom 18 4).filter (fun p => s.mv.adopt.contains p)) (fun s p => s.adoptShare p) else s

/-- PARCEL_PRESENT: 50 ms of presence start parcel power, steps 1 and 2 of Table 14-7 (R600). A parcel whose power was lost does not
start again before it has been withdrawn (R750). -/
def execParcelPresent (s : State) : Res :=
  .next (if !s.released || !s.clocked || s.fld .pclStatus fPclStatusPresent == 1 then s
    else
      let s := (s.setFld .pclStatus fPclStatusPresent 0 1).setPcl 1
      { s with fl := { s.fl with parcelStep := 3, lamp := 0 } })

/-- PARCEL_PGOOD: step 4 begins. -/
def execParcelPgood (s : State) : Res := .next (if s.fl.parcelStep = 3 then { s with fl := { s.fl with parcelStep := 4 } } else s)

/-- PARCEL_TRAINED: step 5 begins. -/
def execParcelTrained (s : State) : Res :=
  .next (if s.fl.parcelStep = 4 then ({ s with fl := { s.fl with parcelStep := 5 } }).parcelTrain 1 else s)

/-! ## Draining (R602) -/

/-- A descriptor reads a region of the parcel. -/
def State.readsParcel (s : State) (d : CDesc) : Bool :=
  sideSpace d.desc.src == 4 && (s.region (sideSel d.desc.src)).home == 2

/-- A descriptor has a read outstanding. -/
def State.readsOut (s : State) (k id : Nat) : Bool :=
  s.mv.reqs.any (fun r => r.agent == .courier k && r.item == id && r.cls == .read)

/-- Bags that wait for a sector of the parcel whose read is outstanding. -/
def State.parcelBags (s : State) : List (Nat × Nat) :=
  (s.srt.bags.filter (fun b => s.srt.misses.any (fun x => x.k == b.k && x.slot == b.slot && (match s.lookupAt x with
    | some (g, off) => (s.region g.cold).home == 2 && s.sectorBusy x.k g.cold (off / 4096)
    | none => false)))).map (fun b => (b.k, b.slot))

/-- Reads outstanding on the parcel end with PARCEL_REMOVED; how many pieces of work that ended. -/
def State.endParcelReads (s : State) : State × Nat :=
  let hits := ((List.range 20).map (fun k => ((s.courier k).descs.filter (fun d => s.readsParcel d && s.readsOut k d.id)).map (fun d => (k, d.id)))).flatten
  let bags := s.parcelBags
  let s := s.each hits (fun s h => s.failDesc h.1 h.2 codeParcelRemoved 0 [])
  let s := s.each bags (fun s b => s.failBag b.1 b.2 codeParcelRemoved [])
  let gone (r : Req) : Bool := match r.agent with
    | .sorter _ => decide (16 ≤ r.item) && (s.region (r.item - 16)).home == 2
    | _ => false
  let held := s.srt.held.filter (fun (x : HeldSector) => (s.region x.region).home != 2)
  let s := { s with mv := { s.mv with reqs := s.mv.reqs.filter (fun (r : Req) => !gone r) }, srt := { s.srt with held := held } }
  (s.each (List.range 6) (fun s k => s.srtNote k), hits.length + bags.length)

/-- The sorter caches drop the parcel's lines (R393). -/
def State.dropParcelCache (s : State) : State := s.cacheInv (fun r => (s.region r).home == 2)

/-- The drain proper begins: new reads and requests find no parcel. -/
def State.beginDrain (s : State) : State := { s with fl := { s.fl with drainStep := 2, parcelOpen := false } }

/-- The operator's removal request: DRAINING, held while DEFER asks for it; in STARTING it is recorded (R506). -/
def State.pclRequest (s : State) : State :=
  if !s.clocked then s
  else if s.pclState = 2 then
    let s := s.setPcl 3
    if s.fld .pclCfg fPclCfgDefer = 1 then { s with fl := { s.fl with drainStep := 1 } } else s.beginDrain
  else if s.pclState = 1 then s.setFld .pclStatus fPclStatusPending 0 1
  else s

/-- PARCEL_BUTTON. -/
def execParcelButton (s : State) : Res := .next (if s.released then s.pclRequest else s)

/-- PCL_CMD_REQUEST. -/
def execPclCmdRequest (s : State) : Res := .next s.pclRequest

/-- PCL_CMD_RELEASE: a removal held by DEFER goes on. -/
def execPclCmdRelease (s : State) : Res := .next (if s.clocked && s.fl.drainStep == 1 then s.beginDrain else s)

/-- PARCEL_READ_DRAIN_EXPIRY: outstanding reads end, requests writing to the parcel end, its journal is flushed (steps 2 and 3). -/
def execParcelReadDrainExpiry (s : State) : Res :=
  .next (if s.fl.drainStep ≠ 2 then s
    else
      let s := s.endParcelReads.1.abortFlReqs (fun r => (s.region r).home == 2)
      let s := s.each (List.range 4) (fun s i => match s.flReq i with
        | some r => if r.op = 4 then s.abortFlReq i else s
        | none => s)
      { s with fl := { s.fl with drainStep := 3, flushing := (rangeFrom 12 4).foldl (fun l c => setInsert c l) s.fl.flushing } })

/-- The parcel has no power: its channels are down, and nothing more is decided for them. -/
def State.parcelOff (s : State) : State :=
  let s := (s.parcelTrain 0).setPcl 0
  let s := (s.setFld .pclStatus fPclStatusPending 0 0).dropParcelCache
  { s with fl := { s.fl with
      parcelStep := 0, drainStep := 0, parcelOpen := false
      progs := s.fl.progs.filter (fun (j : ProgJob) => decide (j.ch < 12))
      erases := s.fl.erases.filter (fun (e : EraseJob) => decide (e.ch < 12))
      flushing := s.fl.flushing.filter (fun c => decide (c < 12)) } }

/-- PARCEL_LATCH_PULSE_END: the parcel is OFF (steps 4 and 5), once its programs have ended and its journal is flushed. -/
def execParcelLatchPulseEnd (s : State) : Res :=
  .next (if !s.latchPulse then s
    else
      let s := s.parcelOff
      ({ s with fl := { s.fl with lamp := 6 } }).pclChange)

/-! ## Identification, failure and loss (R601, R603, R750) -/

/-- What the identified parcel's devices hold (R572), and FREE_BLOCKS of its channels. -/
def State.noteParcel (s : State) : State :=
  let g (ch : Nat) : FlashGeom := { blocks := Config.flashBlocks (s.channelParcel ch) ch, pages := Config.flashPages (s.channelParcel ch) ch }
  let s := { s with fl := { s.fl with geom := (rangeFrom 12 4).foldl (fun m ch => tabSet {} m ch (g ch)) s.fl.geom } }
  s.noteFree

/-- The parcel is ON: with its identity and capacity, or BLANK without a valid header. A removal recorded meanwhile is acted on. -/
def State.parcelOn (s : State) (h : Option ParcelHeader) : State :=
  let s := match h with
    | some h => ((s.setReg .pclId 0 0 h.id).setFld .pclStatus fPclStatusCapacity 0 h.capacityMiB.toNat).setFld .pclStatus fPclStatusBlank 0 0
    | none => ((s.setReg .pclId 0 0 0).setFld .pclStatus fPclStatusCapacity 0 0).setFld .pclStatus fPclStatusBlank 0 1
  let s := ({ s with fl := { s.fl with parcelStep := 0, parcelOpen := true } }).setPcl 2
  let s := s.pclChange.noteParcel
  if s.fld .pclStatus fPclStatusPending = 1 then (s.setFld .pclStatus fPclStatusPending 0 0).pclRequest else s

/-- PARCEL_IDENTIFIED. -/
def execParcelIdentified (header : Option ParcelHeader) (s : State) : Res := .next (if s.fl.parcelStep = 5 then s.parcelOn header else s)

/-- PARCEL_STEP_TIMEOUT: a failure at step 3 or 4 removes power; at step 5 no header has been read, and the parcel is BLANK. -/
def execParcelStepTimeout (s : State) : Res :=
  .next (if s.fl.parcelStep = 5 then s.parcelOn none
    else if s.fl.parcelStep = 3 ∨ s.fl.parcelStep = 4 then
      let s := s.parcelOff.setFld .pclStatus fPclStatusStepFail 0 1
      ({ s with fl := { s.fl with lamp := 7 } }).pclChange
    else s)

/-- The parcel is lost (R603): everything outstanding on it ends with PARCEL_REMOVED, and a page group in program keeps its previous
contents. -/
def State.loseParcel (s : State) : State :=
  let id := s.reg .pclId
  let r := s.endParcelReads
  let s := r.1
  let reqs := (List.range 4).filter (fun i => match s.flReq i with
    | some q => q.op == 4 || ((q.op == 1 || q.op == 2) && (s.region q.dstRegion).home == 2) || (q.op == 1 && q.srcRegion != 255 && (s.region q.srcRegion).home == 2)
    | none => false)
  let s := s.each reqs (fun s i => ({ s with fl := { s.fl with progs := s.fl.progs.filter (fun (j : ProgJob) =>
      j.who != ProgFor.request i || j.issued && decide (j.ch < 12)) } }).endFlReq i 3 codeParcelRemoved.toNat)
  let s := s.parcelOff.postDev { code := codeParcelRemoved, detail := leBytes 8 id.toNat ++ leBytes 4 0 ++ leBytes 4 (r.2 + reqs.length) }
  let s := s.setFld .pclStatus fPclStatusSurprise 0 1
  ({ s with fl := { s.fl with lamp := 7 } }).pclChange

/-- PARCEL_REMOVED: PCL_PRSNT_N has risen. -/
def execParcelRemoved (s : State) : Res :=
  .next (if !s.released then s
    else (if s.pclState = 0 then s else s.loseParcel).setFld .pclStatus fPclStatusPresent 0 0)

/-- PCL_PGOOD_LOSS: after step 3 it is a loss of the parcel. -/
def execPclPgoodLoss (s : State) : Res :=
  .next (if s.fl.parcelStep = 4 ∨ s.fl.parcelStep = 5 ∨ s.pclState = 2 ∨ s.pclState = 3 then s.loseParcel else s)

end Sys2Proof.Machine
end

