-- ==== Sys2Proof/Machine/Gather.lean ====
section
/-! DEFINITION. GATHER letters, the sorters and the hot-row cache (chapter 09). -/

namespace Sys2Proof.Machine

/-- Rows of the table (R380). -/
def State.gatherRows (s : State) (g : GatherSpec) : Nat :=
  if g.cold ≠ 255 then (s.region g.cold).bytes / (64 * g.rowLines) else g.hotRows

/-- The hint in force for a cold row (R340, R391). -/
def State.gatherHint (s : State) (g : GatherSpec) : Nat := if g.hint ≠ 0 then g.hint else (s.region g.cold).hint % 8

/-! ## Start (R377, R378, R384) -/

/-- What ends a GATHER at its start, in order (R377, R378, R335, R336, R765). -/
def State.gatherCheck (s : State) (l : LetterId) (x : Letter) (rd : ReadRes) : Option Code :=
  let g := gatherSpec x
  let ctx := s.letterCtx l
  let h := s.region g.hot
  let c := s.region g.cold
  let hotBad := g.hot ≠ 255 ∧ (!h.valid ∨ h.kind ≠ 4 ∨ h.home ≠ 0)
  let coldBad := g.cold ≠ 255 ∧ (!c.valid ∨ c.kind ≠ 4 ∨ c.home = 0)
  let last := leNat (s.winRead ctx (g.offs * 64 + 4 * g.bags) 4)
  let n := last * (if g.idx8 then 8 else 4)
  if unitLevel (s.queue l.q).unit ≠ 2 then some codeUnitInvalid
  else if (g.hot = 255 ∧ g.cold = 255) ∨ hotBad ∨ coldBad ∨ (g.hot = 255 ∧ g.hotRows ≠ 0) ∨
      (g.hot ≠ 255 ∧ h.bytes < g.hotRows * 64 * g.rowLines) then some codeLetterInvalid
  else if !s.doneOk l (x.field 0x1C 4) then some codeSyncInvalid
  else if !s.mapped ctx (g.offs * 64) (4 * (g.bags + 1)) then some codeAddressInvalid
  else if rd = .uncorrectable ∨ s.winPoisoned ctx (g.offs * 64) 4 ∨ s.winPoisoned ctx (g.offs * 64 + 4 * g.bags) 4 then
    some codeHbmUncorrectable
  else if !s.mapped ctx (g.idx * 64) n ∨ (g.pool = 3 ∧ !s.mapped ctx (g.wgt * 64) (4 * last)) ∨
      (!g.outCs ∧ !(List.range g.bags).all (fun b => s.mapped ctx (g.outAt b 0) (64 * g.outLines))) ∨
      (g.outCs ∧ s.storeWindow < g.outAt (g.bags - 1) g.outLines) ∨
      (g.hot ≠ 255 ∧ (s.regionFor g.hot ctx).isNone) ∨ (g.cold ≠ 255 ∧ (s.regionFor g.cold ctx).isNone) then some codeAddressInvalid
  else if !g.outCs ∧ (List.range g.bags).any (fun b => s.winLocked ctx (g.outAt b 0) (64 * g.outLines)) then some codeRegionLocked
  else none

/-- The selected sorters. -/
def GatherSpec.selected (g : GatherSpec) : List Nat := (List.range 6).filter (fun k => g.sorters.testBit k)

/-- A GATHER starts: its bags are dealt in turn to the selected sorters. -/
def State.startGather (s : State) (l : LetterId) (x : Letter) (rd : ReadRes) : State :=
  match s.gatherCheck l x rd with
  | some c =>
    let g := gatherSpec x
    (s.contained (s.letterCtx l) (some l) c (s.winDetail (s.letterCtx l) [(g.offs * 64, 4), (g.offs * 64 + 4 * g.bags, 4)])).endLetter l
      { code := c }
  | none =>
    let g := gatherSpec x
    let sel := g.selected
    let ctx := s.letterCtx l
    let s := (s.winAccess ctx (g.offs * 64) 4 false srcHub).winAccess ctx (g.offs * 64 + 4 * g.bags) 4 false srcHub
    let deal := ((List.range sel.length).zip sel).filter (fun p => decide (p.1 < g.bags))
    let s := s.setWork l (.gather 0 none)
    s.each deal (fun s p =>
      let j : GatherJob := { letter := l, next := p.1, step := sel.length }
      ({ s with srt := { s.srt with jobs := tabUpd [] s.srt.jobs p.2 (fun js => js ++ [j]) } }).srtNote p.2)

/-- GATHER (R376 to R378). -/
def execGather (q : Fin 4096) (rd : ReadRes) (s : State) : Res :=
  .next (s.startWith q 5 (fun _ => true) (fun s l x => s.startGather l x rd))

/-! ## Bags (R379 to R382, R384) -/

/-- The rows of bag `b`, or why it fails at once. -/
def State.bagRows (s : State) (ctx : Nat) (g : GatherSpec) (b : Nat) : Except Code (List BagRow) :=
  let o := g.offs * 64 + 4 * b
  let lo := leNat (s.winRead ctx o 4)
  let hi := leNat (s.winRead ctx (o + 4) 4)
  let w := if g.idx8 then 8 else 4
  let n := hi - lo
  if s.winPoisoned ctx o 8 then .error codeHbmUncorrectable
  else if hi < lo then .error codeOperandInvalid
  else if !s.mapped ctx (g.idx * 64 + lo * w) (n * w) ∨ (g.pool = 3 ∧ !s.mapped ctx (g.wgt * 64 + 4 * lo) (4 * n)) then
    .error codeAddressInvalid
  else if 0 < n ∧ (s.winPoisoned ctx (g.idx * 64 + lo * w) (n * w) ∨ (g.pool = 3 ∧ s.winPoisoned ctx (g.wgt * 64 + 4 * lo) (4 * n))) then
    .error codeHbmUncorrectable
  else
    let row (i : Nat) : BagRow :=
      { idx := leNat (s.winRead ctx (g.idx * 64 + i * w) w)
        wgt := if g.pool = 3 then BitVec.ofNat 32 (leNat (s.winRead ctx (g.wgt * 64 + 4 * i) 4)) else f32One }
    let rows := (rangeFrom lo n).map row
    if rows.any (fun r => decide (s.gatherRows g ≤ r.idx)) then .error codeGatherRowInvalid else .ok rows

/-- The window ranges that `bagRows` reads: the bag's two list entries, its indices and their weights. -/
def State.bagRanges (s : State) (ctx : Nat) (g : GatherSpec) (b : Nat) : List (Nat × Nat) :=
  let o := g.offs * 64 + 4 * b
  let lo := leNat (s.winRead ctx o 4)
  let n := leNat (s.winRead ctx (o + 4) 4) - lo
  let w := if g.idx8 then 8 else 4
  (o, 8) :: (g.idx * 64 + lo * w, n * w) :: (if g.pool = 3 then [(g.wgt * 64 + 4 * lo, 4 * n)] else [])

/-- The sorter's reads of a bag's two list entries, of its `n` indices and of their weights, as READ at their ports (R252). -/
def State.chargeBag (s : State) (k ctx : Nat) (g : GatherSpec) (b n : Nat) : State :=
  let src := agentSrc (.sorter k)
  let o := g.offs * 64 + 4 * b
  let lo := leNat (s.winRead ctx o 4)
  let w := if g.idx8 then 8 else 4
  let s := (s.winAccess ctx o 8 false src).winAccess ctx (g.idx * 64 + lo * w) (n * w) false src
  if g.pool = 3 then s.winAccess ctx (g.wgt * 64 + 4 * lo) (4 * n) false src else s

/-- The lowest free slot of a sorter. -/
def State.freeSlotOf (s : State) (k : Nat) : Option Nat := (List.range 16).find? (fun i => (s.bagAt k i).isNone)

/-- A sorter's oldest job leaves with its last bag. -/
def nextJob (bags : Nat) : List GatherJob → List GatherJob
  | [] => []
  | j :: js => if j.next + j.step < bags then { j with next := j.next + j.step } :: js else js

/-- BAG_START: the sorter's next bag takes a slot; with OUT_CS it waits for residency (R386), and a cluster out of service ends it
(R766). -/
def State.doBagStart (s : State) (k : Nat) (rd : ReadRes) : State :=
  match (tabGet [] s.srt.jobs k).head?, s.freeSlotOf k with
  | some j, some slot =>
    match s.letter j.letter with
    | none => s
    | some x =>
      let g := gatherSpec x
      let ctx := s.letterCtx j.letter
      let gone := g.outCs && !s.clusterIn g.outSel
      if g.outCs && !gone && !s.residentOn g.outSel ctx then s
      else
        let s := { s with srt := { s.srt with jobs := tabUpd [] s.srt.jobs k (nextJob g.bags) } }
        let init : F32 := if g.pool = 2 then f32NegInf else 0
        let rows := s.bagRows ctx g j.next
        let bag : Bag := { k := k, slot := slot, letter := j.letter, bag := j.next
                           rows := match rows with
                             | .ok r => r
                             | .error _ => []
                           acc := List.replicate g.elems init }
        let s := ({ s with srt := { s.srt with bags := s.srt.bags ++ [bag] } }).srtNote k
        let s := s.chargeBag k ctx g j.next bag.rows.length
        if gone then s.failBag k slot codeUnitOutOfService []
        else if rd = .uncorrectable then s.failBag k slot codeHbmUncorrectable (s.winDetail ctx [(g.offs * 64 + 4 * j.next, 8)])
        else
          match rows with
          | .error c => s.failBag k slot c (s.winDetail ctx (s.bagRanges ctx g j.next))
          | .ok _ => s
  | _, _ => s

/-- BAG_START (R384). -/
def execBagStart (k : Fin 6) (rd : ReadRes) (s : State) : Res := .next (if s.run then s.doBagStart k rd else s)

/-- Change a row of a bag. -/
def Bag.updRow (b : Bag) (i : Nat) (f : BagRow → BagRow) : Bag := { b with rows := b.rows.modify i f }

/-- A line of a cold row is present. -/
def State.giveLine (s : State) (x : Lookup) (data : List Byte) : State :=
  s.updBag x.k x.slot (fun b => b.updRow x.row (fun r => { r with got := r.got ++ [(x.line, data)] }))

/-- The tag entries of a set. -/
def State.cacheWays (s : State) (set : Nat) : List CacheWay := tabGet [] s.srt.cache set

/-- Change a set. -/
def State.setCache (s : State) (set : Nat) (ws : List CacheWay) : State :=
  { s with srt := { s.srt with cache := tabSet [] s.srt.cache set ws } }

/-- The line of a cluster store where a set begins (R389): its tag line, its seven data lines following it. -/
def State.setLine (s : State) (set : Nat) : Nat := s.storeWindow / 64 + set / 16 * 8

/-- Insert a line (R391): present, it becomes the latest used; else it takes a free way, or that of the least recently used, and its
bytes that way's data line. -/
def State.cacheInsert (s : State) (k region line : Nat) (data : List Byte) : State :=
  let set := cacheSet s.cacheSets line region
  let ws := s.cacheWays set
  match ws.find? (fun w => w.region == region && w.line == line) with
  | some w => s.setCache set (removeFirst (fun y => y == w) ws ++ [w])
  | none =>
    let free := (List.range 7).find? (fun i => !ws.any (fun w => w.way == i))
    let way := free.getD ((ws.map (·.way)).headD 0)
    let ws := ws.filter (fun (w : CacheWay) => w.way != way)
    let s := s.storeWrite (set % 16) ((s.setLine set + 1 + way) * 64) data
    (s.setCache set (ws ++ [{ region := region, line := line, way := way }])).count 4 k 4

/-- A lookup's line comes from a sector read: its bytes go to its row, and it is inserted where its hint asks (R391), unless an
invalidation of its region came after the read began (R393). -/
def State.flashLine (s : State) (x : Lookup) (stale : Bool) (sector : List Byte) : State :=
  match s.lookupAt x with
  | none => s
  | some (g, off) =>
    let bs := (sector.drop (off % 4096)).take 64
    let h := s.gatherHint g
    let s := s.giveLine x bs
    if stale = false ∧ s.cacheSets ≠ 0 ∧ (h = 2 ∨ (h = 0 ∧ g.cache)) then s.cacheInsert x.k g.cold (off / 64) bs else s

/-- A line must come from flash: it comes from a sector the sorter holds, or waits for its sector. -/
def State.coldMiss (s : State) (x : Lookup) : State :=
  match s.lookupAt x with
  | none => s
  | some (g, off) =>
    match s.srt.held.find? (fun h => h.k == x.k && h.region == g.cold && h.sector == off / 4096) with
    | some h => s.flashLine x h.stale h.data
    | none => { s with srt := { s.srt with misses := s.srt.misses ++ [x] } }

/-- A miss of a bag whose sector has not been asked for. -/
def State.openMiss (s : State) (k slot : Nat) : Option (GatherSpec × Nat) :=
  s.srt.misses.findSome? (fun x =>
    if x.k = k ∧ x.slot = slot then
      match s.lookupAt x with
      | some (g, off) => if s.sectorBusy k g.cold (off / 4096) then none else some (g, off / 4096)
      | none => none
    else none)

/-- Issue a sector read on one of the sorter's 64 flash tags (R395). -/
def State.issueSector (s : State) (k slot : Nat) (g : GatherSpec) (sector : Nat) : State :=
  match s.flashBar g.cold with
  | some c => s.failBag k slot c []
  | none =>
    if 64 ≤ (s.sorterFlash k).length then s
    else
      let (tag, s) := s.fresh
      let ch := unitChannel (s.region g.cold).home (sector / 16)
      let r : Req := { tag := tag, agent := .sorter k, item := sectorItem g.cold, line := 0, lines := 64, cls := .read
                       port := some (6 + ch), units := if s.gatherHint g = 3 then 256 else 64, stamp := s.stampNow
                       addr := sector * 4096, data := [] }
      (s.addReq r).srtNote k

/-- round(1.0 / n) for a count n (R382): correctly rounded. -/
def oneOver (n : Nat) : F32 :=
  BitVec.ofNat 32 (fmtFp32.roundMag (2 ^ 200 / n * 2 + (if 2 ^ 200 % n = 0 then 0 else 1)) (-201))

/-- The pooled row of a bag in its output format (R382). -/
def Bag.output (b : Bag) (g : GatherSpec) : List Byte :=
  let n := b.rows.length
  let acc := if n = 0 then b.acc.map (fun _ => (0 : F32))
    else if g.pool = 1 then b.acc.map (fun a => f32Mul a (oneOver n))
    else b.acc
  (convRow g.outFmt false 0 (acc.map f32Num)).1

/-- Elements of a row as FP32 (R139). -/
def rowF32 (f : Nat) : Nat → List Byte → List F32
  | 0, _ => []
  | n + 1, bs =>
    let w := elemBits f / 8
    numF32 (elemNum f (leNat (bs.take w))) :: rowF32 f n (bs.drop w)

/-- One element's step of R382. -/
def poolStep (pool : Nat) (w acc x : F32) : F32 :=
  if pool = 2 then f32Max acc x else if pool = 3 then f32Fma w x acc else f32Add acc x

/-- Pool rows in their order as far as they have arrived. -/
def Bag.pool (g : GatherSpec) : Nat → Bag → Bag
  | 0, b => b
  | n + 1, b => match b.rows[b.pooled]? with
    | some r => match r.data with
      | some bs => Bag.pool g n { b with pooled := b.pooled + 1
                                         acc := List.zipWith (poolStep g.pool r.wgt) b.acc (rowF32 g.rowFmt g.elems bs) }
      | none => b
    | none => b

/-- Every row of a bag is pooled. -/
def Bag.full (b : Bag) : Bool := b.pooled == b.rows.length

/-! ## Issuing (R375, R379, R384, R385, R390, R395) -/

/-- A sorter's request to memory, or to a cluster store. -/
def State.sorterReq (s : State) (k slot line lines : Nat) (cls : ReqClass) (port : Option Nat) (addr : Nat) (data : List Byte) : State :=
  let (tag, s) := s.fresh
  (s.addReq { tag := tag, agent := .sorter k, item := slot, line := line, lines := lines, cls := cls, port := port, units := lines
              stamp := s.stampNow, addr := addr, data := data }).srtNote k

/-- A sorter has one of its 256 memory requests free; a lookup in a cluster store holds one (R375, Table 9-2). -/
def State.sorterFree (s : State) (k : Nat) : Bool :=
  decide ((s.sorterMem k).length + (s.srt.lookups.filter (fun x => x.k == k)).length < 256)

/-- Issue the next write of a pooled bag's output. -/
def State.issueOut (s : State) (b : Bag) (g : GatherSpec) : State :=
  if !s.sorterFree b.k then s
  else
    let n := b.outIssued
    let off := g.outAt b.bag n
    let lines := chunkLines off (g.outLines - n)
    let data := ((b.output g).drop (64 * n)).take (64 * lines)
    let t := s.updBag b.k b.slot (fun x => { x with outIssued := n + lines })
    if !g.outCs && s.heldAt (s.letterCtx b.letter) off then s
    else if g.outCs then t.sorterReq b.k b.slot n lines .write none (storeAddr g.outSel off) data
    else
      match s.translate (s.letterCtx b.letter) off with
      | some a => t.sorterReq b.k b.slot n lines .write (some (hbmPort a)) a data
      | none => s.failBag b.k b.slot codeAddressInvalid []

/-- Issue the next read of hot row `i`. -/
def State.issueHot (s : State) (b : Bag) (g : GatherSpec) (i : Nat) (r : BagRow) : State :=
  if !s.sorterFree b.k then s
  else
    let rg := s.region g.hot
    let off := rg.base + g.rowAt r.idx r.issued
    let lines := chunkLines off (g.rowLines - r.issued)
    if s.heldAt rg.owner off then s else
    let t := (s.when (r.issued == 0) (fun s => s.count 4 b.k 0)).updBag b.k b.slot
      (fun x => x.updRow i (fun y => { y with issued := y.issued + lines }))
    match s.translate rg.owner off with
    | some a => t.sorterReq b.k b.slot (i * 64 + r.issued) lines .read (some (hbmPort a)) a []
    | none => s.failBag b.k b.slot codeAddressInvalid []

/-- Look up, or ask flash for, the next line of cold row `i`. -/
def State.issueCold (s : State) (b : Bag) (g : GatherSpec) (i : Nat) (r : BagRow) : State :=
  match s.flashBar g.cold with
  | some c => s.failBag b.k b.slot c []
  | none => if s.cacheSets ≠ 0 ∧ s.sorterFree b.k = false then s else
    let x : Lookup := { k := b.k, slot := b.slot, row := i, line := r.issued }
    let t := (s.when (r.issued == 0) (fun s => s.count 4 b.k 1)).updBag b.k b.slot
      (fun y => y.updRow i (fun z => { z with issued := z.issued + 1 }))
    if s.cacheSets = 0 then t.coldMiss x
    else ({ t with srt := { t.srt with lookups := t.srt.lookups ++ [x] } }).srtNote b.k

/-- A bag issues its next request: a sector a line waits for, its output once it is pooled, else its next row's next lines. -/
def State.bagIssue (s : State) (b : Bag) (g : GatherSpec) : State :=
  match s.openMiss b.k b.slot with
  | some (g', sector) => s.issueSector b.k b.slot g' sector
  | none =>
    if b.full then (if b.outIssued < g.outLines then s.issueOut b g else s)
    else
      match b.rows.findIdx? (fun r => decide (r.issued < g.rowLines)) with
      | none => s
      | some i => match b.rows[i]? with
        | none => s
        | some r => if r.idx < g.hotRows then s.issueHot b g i r else s.issueCold b g i r

/-- SORTER_REQUEST_ISSUE (R375, R673, R675). -/
def execSorterRequestIssue (k : Fin 6) (slot : Fin 16) (fault : AgentFault) (s : State) : Res :=
  .next (if !s.clocked then s
    else
      match fault with
      | .control => s.controlDetect agentSorter
      | .parity => s.failBag k slot codePortParity []
      | .none => match s.bagAt k slot with
        | none => s
        | some b => match s.bagSpec b with
          | some g => if s.run then s.bagIssue b g else s
          | none => s)

/-! ## Rows and outputs (R379, R382, R386, R387) -/

/-- The HBM reads of hot row `i` of a bag, by line. -/
def State.rowReqs (s : State) (b : Bag) (i : Nat) : List Req :=
  (s.sorterMem b.k).filter (fun r => r.item == b.slot && r.cls == .read && r.line / 64 == i)

/-- Row `i` of a bag has been read: every line of it is here, or granted. -/
def State.rowReady (s : State) (b : Bag) (g : GatherSpec) (i : Nat) : Bool :=
  match b.rows[i]? with
  | none => false
  | some r => r.data.isNone && r.issued == g.rowLines &&
      (if r.idx < g.hotRows then (s.rowReqs b i).all (fun q => q.port.isNone) else r.got.length == g.rowLines)

/-- The bytes of a cold row, its lines in order. -/
def BagRow.bytes (r : BagRow) (n : Nat) : List Byte :=
  ((List.range n).map (fun l => match r.got.find? (fun e => e.1 == l) with
    | some e => e.2
    | none => [])).flatten

/-- A row's bytes join its bag, which pools what it can. -/
def State.giveRow (s : State) (b : Bag) (g : GatherSpec) (i : Nat) (bs : List Byte) : State :=
  (s.updBag b.k b.slot (fun x => Bag.pool g x.rows.length (x.updRow i (fun r => { r with data := some bs, got := [] })))).purgeHeld

/-- The HBM reads of a row's requests, `rd` being what the first line's read finds beside the errors held in the state; and the
address of the first request with a line that cannot be read. -/
def State.readAll (s : State) : List Req → ReadRes → State × Option Nat
  | [], _ => (s, none)
  | q :: qs, rd =>
    let t := s.hbmReads (lineAddrs q.addr q.lines) rd
    let u := t.1.readAll qs .clean
    (u.1, if t.2 then some q.addr else u.2)

/-- BAG_ROW_ARRIVE: the lowest row of the bag whose lines are all here arrives. -/
def State.doRowArrive (s : State) (b : Bag) (g : GatherSpec) (rd : ReadRes) : State :=
  match (List.range b.rows.length).find? (fun i => s.rowReady b g i) with
  | none => s
  | some i => match b.rows[i]? with
    | none => s
    | some r =>
      if g.hotRows ≤ r.idx then s.giveRow b g i (r.bytes g.rowLines)
      else
        let qs := s.rowReqs b i
        let data := (qs.map (fun q => memRead s.mem.hbm q.addr (64 * q.lines))).flatten
        let t := (s.each qs (fun s q => s.dropReq q.tag)).readAll qs rd
        let s := t.1.srtNote b.k
        match t.2 with
        | some a => s.failBag b.k b.slot codeHbmUncorrectable (hbmDetail a 0)
        | none => s.giveRow b g i data

/-- BAG_ROW_ARRIVE (R382). -/
def execBagRowArrive (k : Fin 6) (slot : Fin 16) (rd : ReadRes) (s : State) : Res :=
  .next (match s.bagAt k slot with
    | none => s
    | some b => match s.bagSpec b with
      | some g => if s.clocked then s.doRowArrive b g rd else s
      | none => s)

/-- BAG_OUTPUT_ACK: the output lines of a pooled bag are written; at the last bag the GATHER completes (R386). -/
def State.doOutputAck (s : State) (b : Bag) (g : GatherSpec) : State :=
  let qs := (s.sorterMem b.k).filter (fun r => r.item == b.slot && r.cls == .write)
  if !b.full ∨ b.outIssued < g.outLines ∨ qs.any (fun q => q.port.isSome) then s
  else if !g.outCs ∧ qs.any (fun q => s.flt.hbmOut.contains (hbmStack q.addr)) then
    s.failBag b.k b.slot codeHbmUncorrectable (hbmDetail ((qs.map (·.addr)).headD 0) 0)
  else
    let s := s.each qs (fun s q => if g.outCs then s.storeWriteLines q.addr q.data q.lines else s.hbmWriteLines q.addr q.data q.lines)
    let s := (s.removeBag b.k b.slot).count 4 b.k 7
    let s := s.updLetter b.letter (fun x => match x.work with
      | .gather d f => { x with work := .gather (d + 1) f }
      | _ => x)
    s.gatherEnds b.letter

/-- BAG_OUTPUT_ACK (R386). -/
def execBagOutputAck (k : Fin 6) (slot : Fin 16) (s : State) : Res :=
  .next (match s.bagAt k slot with
    | none => s
    | some b => match s.bagSpec b with
      | some g => if s.clocked then s.doOutputAck b g else s
      | none => s)

/-! ## The hot-row cache (R389 to R394, R398) -/

/-- CACHE_LOOKUP: the oldest lookup of the bag reaches its set. A way read with an uncorrectable error is invalidated, and the line
counts as missed (R394); of a tag line, so is every way of its set (notes/assumptions/66.md). -/
def State.doCacheLookup (s : State) (x : Lookup) (ue : Bool) : State :=
  let s := ({ s with srt := { s.srt with lookups := removeFirst (fun y => y == x) s.srt.lookups } }).srtNote x.k
  match s.lookupAt x with
  | none => s
  | some (g, off) =>
    let line := off / 64
    let set := cacheSet s.cacheSets line g.cold
    let ws := s.cacheWays set
    let cl := set % 16
    let tag := s.storeReads cl [s.setLine set] .clean
    if tag.2 then (((tag.1.setCache set []).count 4 x.k 5).count 4 x.k 3).coldMiss x
    else
      let s := tag.1
      match ws.find? (fun w => w.region == g.cold && w.line == line) with
      | none => (s.count 4 x.k 3).coldMiss x
      | some w =>
        let rest := removeFirst (fun y => y == w) ws
        let at_ := s.setLine set + 1 + w.way
        let data := s.storeReads cl [at_] (if ue then .uncorrectable else .clean)
        if data.2 then (((data.1.setCache set rest).count 4 x.k 5).count 4 x.k 3).coldMiss x
        else ((data.1.setCache set (rest ++ [w])).count 4 x.k 2).giveLine x (s.storeRead cl (at_ * 64) 64)

/-- CACHE_LOOKUP (R390, R392, R394). -/
def execCacheLookup (k : Fin 6) (slot : Fin 16) (ue : Bool) (s : State) : Res :=
  .next (match s.srt.lookups.find? (fun x => x.k == k.val && x.slot == slot.val) with
    | some x => if s.clocked then s.doCacheLookup x ue else s
    | none => s)

/-- A sector is here: every line of the sorter's bags that waits for it takes its bytes, and is inserted where its hint asks
(R391, R395); a sector whose region was invalidated since is not inserted (R393). -/
def State.sectorHere (s : State) (k region sector : Nat) (stale : Bool) (data : List Byte) : State :=
  let mine (x : Lookup) : Bool := x.k == k && (match s.lookupAt x with
    | some (g, off) => g.cold == region && off / 4096 == sector
    | none => false)
  let xs := s.srt.misses.filter mine
  let hs : HeldSector := { k := k, region := region, sector := sector, data := data, stale := stale }
  let s := { s with srt := { s.srt with misses := s.srt.misses.filter (fun (x : Lookup) => !mine x), held := s.srt.held ++ [hs] } }
  (s.each xs (fun s x => s.flashLine x stale data)).purgeHeld

/-- The bags of a sorter that wait for a sector. -/
def State.sectorBags (s : State) (k region sector : Nat) : List Nat :=
  ((s.srt.misses.filter (fun x => x.k == k && (match s.lookupAt x with
    | some (g, off) => g.cold == region && off / 4096 == sector
    | none => false))).map (·.slot)).eraseDups

/-- SECTOR_READ_RETURN: the sector's data, or why it could not be read, which fails every bag that waits for it (R387). -/
def State.doSector (s : State) (k : Nat) (r : Req) (rd : ReadRes) : State :=
  let region := r.item - 16
  let sector := r.addr / 4096
  let ch := unitChannel (s.region region).home (r.addr / 65536)
  let stale := s.srt.stale.contains r.tag
  let slots := s.sectorBags k region sector
  let ctx := match slots.head? with
    | some i => match s.bagAt k i with
      | some b => s.letterCtx b.letter
      | none => 0
    | none => 0
  let s := s.dropReq r.tag
  let s := { s with srt := { s.srt with stale := s.srt.stale.filter (fun (t : Nat) => t != r.tag) } }
  let s := ((s.srtNote k).count 4 k 6).flashTouch region r.addr
  match s.lateBar region with
  | some c => s.each slots (fun s i => s.failBag k i c [])
  | none =>
    if rd = .uncorrectable ∨ s.fl.chOut.contains ch then
      let grp := (s.unitGroup region (r.addr / 65536)).getD 0
      s.each slots (fun s i => s.failBag k i codeFlashUncorrectable
        ([BitVec.ofNat 8 ch, BitVec.ofNat 8 (grp / 2 ^ 35 % 8 * 16 + grp / 2 ^ 31 % 16)] ++ leBytes 2 (grp / 2 ^ 12) ++
          leBytes 4 (r.addr / 65536) ++ leBytes 4 0 ++ [BitVec.ofNat 8 region]))
    else
      let s := if rd = .corrected then s.count 6 ch 2 else s
      let s := if slots.isEmpty then s else s.countCtx ctx 7
      s.sectorHere k region sector stale (s.flashRead region r.addr 4096)

/-- SECTOR_READ_RETURN (R395). -/
def execSectorReadReturn (k : Fin 6) (tag : Nat) (rd : ReadRes) (s : State) : Res :=
  .next (match s.answerable (.sorter k) tag with
    | some r => if s.clocked ∧ 16 ≤ r.item then s.doSector k r rd else s
    | none => s)

/-- An invalidation that the driver asks for begins; 256 stands for every region. -/
def State.beginInv (s : State) (r : Nat) : State :=
  let s := s.cacheInv (fun g => r == 256 || g == r)
  ({ s with srt := { s.srt with inv := s.srt.inv ++ [r] } }).setFld .srtCacheCtl fSrtCacheCtlBusy 0 1

/-- SRT_CACHE_INV_ALL (R398). -/
def execSrtCacheInvAll (s : State) : Res := .next (if s.clocked then s.beginInv 256 else s)

/-- SRT_CACHE_INV (R398); region 255 exists nowhere. -/
def execSrtCacheInv (r : BitVec 8) (s : State) : Res := .next (if s.clocked ∧ r ≠ 255 then s.beginInv r.toNat else s)

/-- CACHE_INVALIDATE_DONE: every set has been reached (R398). -/
def State.invDone (s : State) : State :=
  match s.srt.inv with
  | [] => s
  | _ => ({ s with srt := { s.srt with inv := [] } }).setFld .srtCacheCtl fSrtCacheCtlBusy 0 0

/-- CACHE_INVALIDATE_DONE. -/
def execCacheInvalidateDone (s : State) : Res := .next (if s.clocked then s.invDone else s)

end Sys2Proof.Machine
end

