-- ==== Sys2Proof/Machine/Regulator.lean ====
section
/-! DEFINITION. The regulated ports' commands (R251 to R262). -/

namespace Sys2Proof.Machine

/-! ## Requests from outside the die (R252, R446, R528) -/

/-- The context of a frame's request; a host access is charged to none. -/
def OutsideOp.ctx : OutsideOp → Option Nat
  | .frameWrite f _ => some f.ctx.toNat
  | .frameRead f _ _ => some f.ctx.toNat
  | _ => none

/-- The work of requests from outside. -/
def State.outsideWork (s : State) (id : Nat) : Option OutsideWork := s.mv.outside.find? (fun w => w.id == id)

/-- Change it. -/
def State.setOutside (s : State) (id : Nat) (op : OutsideOp) : State :=
  { s with mv := { s.mv with outside := updFirst (fun w => w.id == id) (fun w => { w with op := op }) s.mv.outside } }

/-- It is done. -/
def State.dropOutside (s : State) (id : Nat) : State :=
  { s with mv := { s.mv with
      outside := s.mv.outside.filter (fun (w : OutsideWork) => w.id != id)
      reqs := s.mv.reqs.filter (fun (r : Req) => !(match r.agent with
        | .outside _ => r.item == id
        | _ => false)) } }

/-- A part of it waits at its port as a REMOTE request of its source (R252, R254). -/
def State.askOutside (s : State) (src id line lines addr : Nat) : State :=
  let (tag, s) := s.fresh
  s.addReq { tag := tag, agent := .outside src, item := id, line := line, lines := lines, cls := .remote, port := some (hbmPort addr)
             units := lines, stamp := s.stampNow, addr := addr, data := [] }

/-- New work of a source. -/
def State.newOutside (s : State) (op : OutsideOp) : Nat × State :=
  let (id, s) := s.fresh
  (id, { s with mv := { s.mv with outside := s.mv.outside ++ [{ id := id, op := op }] } })

/-- Ask for `n` lines of a window from line `i` on, up to 256 B at a time. -/
def State.askLines (s : State) (src id ctx off : Nat) : Nat → Nat → Nat → State
  | 0, _, _ => s
  | fuel + 1, i, n =>
    if n ≤ i then s
    else
      let k := chunkLines (off + 64 * i) (n - i)
      (match s.translate ctx (off + 64 * i) with
        | some a => s.askOutside src id i k a
        | none => s).askLines src id ctx off fuel (i + k) n

/-- The answer to a request of another die. -/
def State.answer (s : State) (f : Frame) (code : Code) (payload : List Byte) (prot : Bool) : State :=
  (s.sendFrame 20 (s.mkFrame 3 f.src.toNat f.ctx.toNat f.addr f.tag (BitVec.ofNat 64 code.toNat) payload) prot).1

/-- The region with LOCK set whose HBM home holds an address. -/
def State.lockOf (s : State) (a : Nat) : Option Nat :=
  (List.range 255).find? (fun r =>
    let g := s.region r
    g.valid && g.lock && g.home == 0 && (match s.windowOf g.owner a with
      | some o => decide (g.base ≤ o ∧ o < g.base + g.bytes)
      | none => false))

/-- HBM_UNCORRECTABLE of a host access on the device event ring: source 2 for a read, 3 for a write (Table 16-5). -/
def State.hostUe (s : State) (a src : Nat) : State := s.postDev { code := codeHbmUncorrectable, detail := hbmDetail a src }

/-- The bytes of a partial write, each where its enable is set. -/
def mergeBytes (be : BitVec 64) (old new : List Byte) : List Byte :=
  (List.range 64).map (fun i => if be.getLsbD i then new.getD i 0 else old.getD i 0)

/-- A page of the table area (R326). -/
def State.tablePage (s : State) (h : Nat) : Bool := decide (h < s.fld .ctxHbmInfo fCtxHbmInfoTablePages)

/-- A host read of a line takes place: a poisoned or uncorrectable line is answered with poison, and reported (R666); one of the table
area is answered with poison (R528). -/
def State.readForHost (s : State) (a : Nat) (rd : ReadRes) : State :=
  let bad := s.hbmSees a rd == .uncorrectable
  let s := s.hbmNote a rd
  (if bad then s.hostUe a 2 else s).toHost (.memData a (memRead s.mem.hbm a 64) (bad || s.tablePage (a / 2 ^ 21)))

/-- A host write of a line takes place; it does not where the line is locked, lost, or poisoned and only part of it is written
(R528, R666). The host receives the completion in every case. -/
def State.writeForHost (s : State) (a : Nat) (be : BitVec 64) (data : List Byte) : State :=
  let s := match s.lockOf a with
    | some r => s.postDev { code := codeRegionLocked, detail := leBytes 8 a ++ leBytes 4 0 ++ [BitVec.ofNat 8 r] }
    | none =>
      if s.flt.hbmOut.contains (hbmStack a) ∨ (s.hbmPoisoned (a / 64) ∧ be ≠ BitVec.allOnes 64) then s.hostUe a 3
      else (s.hbmWrite a (mergeBytes be (memRead s.mem.hbm a 64) (padBytes 64 data))).1
  s.toHost (.memDone a)

/-- No part of the work waits at a port any more. -/
def State.outsideOver (s : State) (id : Nat) : Bool :=
  !s.mv.reqs.any (fun r => r.item == id && (match r.agent with
    | .outside _ => true
    | _ => false))

/-- A granted part of a request from outside takes place; the last one ends it: a frame is answered once every line is written, or
read (R446). -/
def State.serveOutside (s : State) (r : Req) : State :=
  let s := s.dropReq r.tag
  match s.outsideWork r.item with
  | none => s
  | some w => match w.op with
    | .hostRead rd => (s.dropOutside w.id).readForHost r.addr rd
    | .hostWrite be data => (s.dropOutside w.id).writeForHost r.addr be data
    | .frameWrite f bytes =>
      let s := s.each (List.range r.lines) (fun s i => (s.hbmWrite (r.addr + 64 * i) ((bytes.drop (64 * (r.line + i))).take 64)).1)
      if s.outsideOver w.id then (s.dropOutside w.id).answer f codeOk [] false else s
    | .frameRead f got bad =>
      let data := memRead s.mem.hbm r.addr (64 * r.lines)
      let t := s.hbmReads (lineAddrs r.addr r.lines) .clean
      let got := got ++ [(r.line, data)]
      let s := t.1.setOutside w.id (.frameRead f got (bad || t.2))
      if !s.outsideOver w.id then s
      else
        let s := s.dropOutside w.id
        let n := f.arg.toNat
        if bad || t.2 then s.answer f codeHbmUncorrectable [] false
        else
          let bytes := ((List.range n).map (fun i => (got.find? (fun e => e.1 == i)).map (·.2) |>.getD [])).flatten
          s.answer f codeOk bytes ((List.range n).any (fun i => s.protectedAt f.ctx.toNat (f.addr.toNat + 64 * i)))

/-- A port error ends a request from outside (R675): a frame is answered with PORT_PARITY, a host read with poison. -/
def State.failOutside (s : State) (r : Req) : State :=
  match s.outsideWork r.item with
  | none => s.dropReq r.tag
  | some w =>
    let s := s.dropOutside w.id
    match w.op with
    | .hostRead _ => let (d, s) := s.freeBytes 8; s.toHost (.memData r.addr d true)
    | .hostWrite _ _ => s.toHost (.memDone r.addr)
    | .frameWrite f _ => s.answer f codePortParity [] false
    | .frameRead f _ _ => s.answer f codePortParity [] false

/-! ## Grants -/

/-- The context that a request is charged to (R640, R715). -/
def State.reqCtx (s : State) (r : Req) : Option Nat :=
  match r.agent with
  | .courier k => (s.desc k r.item).map (fun (d : CDesc) => d.ctx)
  | .walker _ => (s.walkFor r).map (fun (e : Nat × Attn) => e.2.ctx)
  | .sorter k => (s.bagAt k r.item).map (fun b => s.letterCtx b.letter)
  | .zero => (s.tier.zero.find? (fun (z : ZeroPage) => z.page == r.item)).map (fun (z : ZeroPage) => z.ctx)
  | .outside _ => match s.outsideWork r.item with
    | some w => w.op.ctx
    | none => none

/-- A request has been chosen and goes on: the zeroing engine's write and a part of a request from outside are done at once, any other
waits for its response. -/
def State.granted (s : State) (r : Req) : State :=
  if r.agent = .zero then
    let s := (s.dropReq r.tag).zeroLines r.addr r.lines
    { s with tier := { s.tier with
        zero := updFirst (fun y => y.page == r.item) (fun (y : ZeroPage) => { y with acked := y.acked + 1 }) s.tier.zero } }
  else
    match r.agent with
    | .outside _ => s.serveOutside r
    | _ => { s with mv := { s.mv with reqs := updFirst (fun x => x.tag == r.tag) (fun (x : Req) => { x with port := none }) s.mv.reqs } }

/-- A port grants a request (R254). -/
def State.grantReq (s : State) (p : Nat) (r : Req) : State :=
  let ctx := s.reqCtx r
  let s := (s.granted r).charge p r.cls (r.cls == .write) (agentSrc r.agent) r.units
  match ctx with
  | some x => if p < 6 then s.countCtx x 6 r.units else s
  | none => s

/-- A port's choice among its requests and, at a flash port, the channel's next program or erase, which is of class WRITE (R252). -/
def State.portChoice (s : State) (p : Nat) : Option (Req ⊕ FlashJob) :=
  let reads := s.backlog p .read
  match (if p < 6 then none else s.flashJob (p - 6)) with
  | none => (s.choose p).map Sum.inl
  | some w =>
    let x := s.regPort p
    if s.fld .crrBwActive fCrrBwActiveMode p = 1 then
      match earliest reads with
      | some r => if jobBefore (w.stamp, w.seq) (r.stamp, r.tag + 1) then some (.inr w) else some (.inl r)
      | none => some (.inr w)
    else
      match nativeClass [(.read, !reads.isEmpty, s.share p .read, x.usedRead), (.write, true, s.share p .write, x.usedWrite)] with
      | some .read => (s.choose p).map Sum.inl
      | _ => some (.inr w)

/-- The request that a port error ends, at its source (R675). -/
def State.portParity (s : State) (r : Req) : State :=
  match r.agent with
  | .courier k => ((s.dropReq r.tag).failDesc k r.item codePortParity r.line []).switchGo k
  | .walker _ => match s.walkFor r with
    | some (c, a) =>
      let l := ((s.core c).cmd a.cmd).map (·.letter)
      ((s.dropReq r.tag).contained a.ctx l codePortParity []).failAttn c codePortParity
    | none => s.dropReq r.tag
  | .sorter k =>
    if r.item < 16 then s.failBag k r.item codePortParity []
    else
      let slots := s.sectorBags k (r.item - 16) (r.addr / 4096)
      ((s.dropReq r.tag).each slots (fun s i => s.failBag k i codePortParity [])).srtNote k
  | .zero => s
  | .outside _ => s.failOutside r

/-- One grant opportunity of a port. -/
def State.doGrant (s : State) (p : Nat) : State :=
  match s.portChoice p with
  | some (.inl r) => s.grantReq p r
  | some (.inr w) => (s.issueJob w).charge p .write true 0 w.units
  | none => s

/-- The number of an agent of the die that a disagreement stops it for (Table 16-10). -/
def dieAgent : DieAgent → Nat
  | .hub => agentHub
  | .mesh => agentMesh
  | .zeroing => agentZero
  | .hbmController => agentHbm
  | .flashController => agentFlash
  | .adapter => agentAdapter

/-- REGULATOR_GRANT (R254, R258, R673, R675). -/
def execRegulatorGrant (p : Fin 22) (fault : GrantFault) (s : State) : Res :=
  .next (if !s.clocked then s
    else
      match fault with
      | .control => s.controlDetect agentRegulator
      | .agent x => s.controlDetect (dieAgent x)
      | .parity => match s.choose p with
        | some r => s.portParity r
        | none => s
      | .none => s.doGrant p)

/-- REGULATOR_WINDOW_END: the used counts clear, and the port adopts a split that a commit has sent it (R254, R260). -/
def execRegulatorWindowEnd (p : Fin 22) (s : State) : Res := .next (if s.clocked then s.adoptShare p else s)

end Sys2Proof.Machine
end

