-- ==== Sys2Proof/Machine/OlaOps.lean ====
section
/-! DEFINITION. The link layer of the Olila ports (chapter 11, R415 to R418, R701 to R704): frames on the wire, reception, a port that
goes down, training and keying. CONTROL frames go out as they are formed, outside the sequence numbers (notes/assumptions/18.md). -/

namespace Sys2Proof.Machine

/-! ## Frames (R402, R416, R418, R429, R434, R435) -/

/-- The virtual channel of a frame (R435); a COLL block travels as a WRITE does. -/
def frameVc (f : Frame) : Nat :=
  match f.typ.toNat with
  | 0 | 5 => 0
  | 4 => 1
  | 6 => if f.lines = 0 then 1 else 3
  | 3 => 2
  | _ => 3

/-- The block that the device's encoder writes for 64 elements (R402). -/
def encodeLine (bs : List Byte) : List Byte :=
  let n := bs.countP (fun b => decide (b ≠ 0))
  if n = 0 then [0]
  else if n ≤ 55 then
    let bm := ((List.range 64).filter (fun i => decide (bs.getD i 0 ≠ 0))).foldl (fun a i => a + 2 ^ i) 0
    [1] ++ leBytes 8 bm ++ bs.filter (fun b => decide (b ≠ 0))
  else [2] ++ bs

/-- A payload of `n` lines, block by block (R416). -/
def compress : Nat → List Byte → List Byte
  | 0, _ => []
  | n + 1, bs => encodeLine (bs.take 64) ++ compress n (bs.drop 64)

/-- What expanding a payload gave: the lines' bytes, malformed lines (number, reason, implied size), lines without a block, and
whether bytes were left over (R418). -/
structure Expanded where
  bytes : List Byte := []
  bad : List (Nat × Nat × Nat) := []
  missing : Nat := 0
  left : Bool := false
  deriving DecidableEq, Repr

/-- Expand `n` lines from line `i` on. Nothing can be found behind a block of unknown size. -/
def expandAll : Nat → Nat → List Byte → Expanded
  | 0, _, bs => { left := !bs.isEmpty }
  | n + 1, i, bs =>
    if bs.isEmpty then { bytes := List.replicate (64 * (n + 1)) 0, missing := n + 1 }
    else
      match expandBlock { (parseIdx []) with offset := 0, size := min bs.length 72 } bs [] with
      | .ok (line, k) =>
        let r := expandAll n (i + 1) (bs.drop k)
        { r with bytes := line ++ r.bytes }
      | .error (why, k) =>
        let r := if why = 4 then expandAll n (i + 1) (bs.drop k) else { bytes := List.replicate (64 * n) 0, missing := n }
        { r with bytes := List.replicate 64 0 ++ r.bytes, bad := (i, why, k) :: r.bad }

/-- The payload lines of a frame that has reached its die. `dst` gives the window offset that line i is for; malformed lines read as
zeros and are reported and counted (R418). -/
def State.unpack (s : State) (p ctx : Nat) (f : Frame) (dst : Nat → Nat) : State × List Byte :=
  let n := f.lines.toNat
  if f.flags.toNat.testBit 0 then
    let e := expandAll n 0 f.payload
    let s := s.bumpSat .cmpLinkStatus fCmpLinkStatusOversize p (e.bad.length + e.missing)
    let s := s.when e.left (fun s => s.bumpSat .cmpLinkStatus fCmpLinkStatusUndersize p)
    let first : Option (Nat × Nat × Nat) := match e.bad with
      | b :: _ => some b
      | [] => if e.missing = 0 then none else some (n - e.missing, 1, 0)
    let s := match first with
      | some (i, why, k) => s.postCtx ctx
        { code := codeBlockOversize
          detail := leBytes 4 (2 ^ 28 + p * 2 ^ 24) ++ leBytes 4 (dst i / 64) ++ leBytes 4 0 ++ [BitVec.ofNat 8 why, 0, BitVec.ofNat 8 k, 0] }
      | none => s
    (s, e.bytes)
  else (s, padBytes (64 * n) f.payload)

/-- A port that encrypts (OLA_PORT_CFG.ENC). -/
def State.portEnc (s : State) (p : Nat) : Bool := s.fld .olaPortCfg fOlaPortCfgEnc p == 1

/-- OLA_PORT_STATUS.STATE. -/
def State.portState (s : State) (p : Nat) : Nat := s.fld .olaPortStatus fOlaPortStatusState p

/-- Set it. -/
def State.setPortState (s : State) (p st : Nat) : State := s.setFld .olaPortStatus fOlaPortStatusState p st

/-- The replay buffer once number `a` has been acknowledged. -/
def ackThrough (a : Nat) (l : List Frame) : List Frame :=
  if l.any (fun f => frameSn f == a) then (l.dropWhile (fun f => frameSn f != a)).drop 1 else l

/-- Frames up to number `a` have reached the peer. -/
def OlaPort.acked (x : OlaPort) (a : Nat) : OlaPort :=
  let rep := ackThrough a x.replay
  { x with replay := rep, again := x.again.filter (fun g => rep.any (fun h => frameSn h == frameSn g)) }

/-- ACK of what a port sends (Table 11-3): the last number received in order. -/
def OlaPort.ackNo (x : OlaPort) : Nat := (x.expected + 4095) % 4096

/-- The frame as it goes onto the wire from a port: its place in the link, compressed and encrypted where R416 and R434 say so,
with its trailer (R417, R430). -/
def OlaPort.wire (x : OlaPort) (enc : Bool) (i : TxItem) : Frame :=
  let f := i.frame
  let comp := enc && decide (i.src < 32) && !i.prot && decide (f.lines ≠ 0)
  let pay := if comp then compress f.lines.toNat f.payload else f.payload
  let fl := (if comp || f.flags.toNat.testBit 0 then 1 else 0) + (if enc then 2 else 0) + (if enc && x.keyPhase then 4 else 0)
  let g := { f with flags := BitVec.ofNat 8 fl, seq := BitVec.ofNat 16 (x.nextSeq + frameVc f * 4096)
                    ack := BitVec.ofNat 16 x.ackNo
                    counter := BitVec.ofNat 64 (if enc then x.counter + 1 else 0), payload := pay, gcmTag := 0 }
  let g := if enc then { g with payload := Config.gcmSeal x.txKey (x.txSalt ++ g.counter) (frameHeader g) pay } else g
  let g := if enc then { g with gcmTag := Config.gcmTag x.txKey (x.txSalt ++ g.counter) (frameHeader g) g.payload } else g
  { g with crc := frameCrc g }

/-- The port takes its next frame from a source and channel (R436). -/
def OlaPort.pick (x : OlaPort) (enc : Bool) : Option (Nat × TxItem) :=
  let ready (v : Nat) : Bool := decide (0 < x.credits.getD v 0) && x.tx.any (fun i => frameVc i.frame == v) &&
    (v == 0 || !enc || decide (x.counter < 2 ^ 41))
  let v := if ready 3 ∧ 3 ≤ x.passed3 then some 3 else (List.range 4).find? ready
  match v with
  | none => none
  | some v =>
    let mine := x.tx.filter (fun i => frameVc i.frame == v)
    ((nextInTurn (x.last.getD v 0) (mine.map (·.src))).bind (fun a => mine.find? (fun i => i.src == a))).map (fun i => (v, i))

/-- Send a frame: a frame to be replayed first, else the arbiter's choice. -/
def State.transmit (s : State) (p : Nat) : State :=
  let x := s.port p
  let enc := s.portEnc p
  match x.again with
  | f :: rest =>
    (((s.updPort p (fun x => { x with again := rest })).emit (.frame p f (frameWords f))).count 7 p 3).countBw (22 + p) 1 (frameBeats f)
  | [] =>
    if 128 ≤ x.replay.length then s
    else
      match x.pick enc with
      | none => s
      | some (v, i) =>
        let f := x.wire enc i
        let waits3 := v != 3 && x.tx.any (fun j => frameVc j.frame == 3)
        let s := s.updPort p (fun x => { x with
          tx := removeFirst (fun j => j == i) x.tx
          last := x.last.set v i.src
          credits := x.credits.modify v (· - 1)
          passed3 := if v = 3 then 0 else if waits3 then x.passed3 + 1 else x.passed3
          nextSeq := (x.nextSeq + 1) % 4096
          counter := if enc then x.counter + 1 else x.counter
          replay := x.replay ++ [f] })
        let s := ((((s.emit (.frame p f (frameWords f))).count 7 p 0).count 7 p 5 (64 * f.lines.toNat)).count 7 p 6 f.payload.length).countBw (22 + p) 0 (frameBeats f)
        if i.src < 32 then s.countCtx f.ctx.toNat 8 f.payload.length else s

/-! ## A port goes down (R424, R427, R433, R452) -/

/-- A request to another die ends with a code at the agent that issued it (R427, R429). -/
def State.endRemote (s : State) (tag : Nat) (code : Code) : State :=
  match s.ola.remote.find? (fun r => r.tag == tag) with
  | none => s
  | some r =>
    let s := { s with ola := { s.ola with remote := s.ola.remote.filter (fun (y : RemoteReq) => y.tag != tag) } }
    match r.agent, s.mv.reqs.find? (fun q => q.tag == tag) with
    | .courier k, some q => (s.dropReq tag).failDesc k q.item code q.line []
    | _, _ => s.dropReq tag

/-- The tag that marks a RESPONSE as the report of a signal that could not be delivered (notes/assumptions/18.md). -/
def lostTag : Nat := 2 ^ 64 - 1

/-- A frame that cannot go on: a request ends at its source with a code, a signal is reported at its source (R427, R441, R452). -/
def State.frameLost (s : State) (f : Frame) (code : Code) : State :=
  let typ := f.typ.toNat
  if f.src.toNat = s.die then
    if typ = 1 ∨ typ = 2 then s.endRemote f.tag.toNat code
    else if typ = 4 then s.signalLost f.ctx.toNat (f.addr.toNat % 2 ^ 20) f.dst.toNat code
    else s
  else if typ = 1 ∨ typ = 2 then s.answer f code [] false
  else if typ = 4 then
    (s.sendFrame 20 (s.mkFrame 3 f.src.toNat f.ctx.toNat (BitVec.ofNat 64 (f.addr.toNat % 2 ^ 20 + f.dst.toNat * 2 ^ 32))
      (BitVec.ofNat 64 lostTag) (BitVec.ofNat 64 code.toNat) [])).1
  else s

/-- A frame that has waited is handed over anew, or ends with a code. -/
def State.resend (s : State) (i : TxItem) (code : Code → Code) : State :=
    let r := s.sendFrame i.src i.frame i.prot
    match r.2 with
    | some c => s.frameLost i.frame (code c)
    | none =>
      let q := s.portFor i.frame.dst.toNat
      { r.1 with ola := { r.1.ola with remote := r.1.ola.remote.map (fun (y : RemoteReq) =>
          if y.tag = i.frame.tag.toNat ∧ i.frame.src.toNat = s.die ∧ (i.frame.typ = 1 ∨ i.frame.typ = 2) then { y with port := q } else y) } }

/-- Frames that wait at a port leave by the alternate route or end with LINK_DOWN (R427, R445). -/
def State.reroute (s : State) (p : Nat) : State :=
  let items := (s.port p).tx
  (s.updPort p (fun x => { x with tx := [] })).each items (fun s i => s.resend i (fun _ => codeLinkDown))

/-- Frames held for a links commit go on under the routes that it has set (R444). -/
def State.releaseFrames (s : State) : State :=
  let items := s.ola.held
  ({ s with ola := { s.ola with hold := false, held := [] } } : State).each items (fun s i => s.resend i (fun c => c))

/-- A COLLECTIVE that can no longer finish (R460). -/
def State.collFail (s : State) (l : LetterId) : State :=
  match s.letter l with
  | some x =>
    let s := s.endLetter l { code := codeLinkDown }
    { s with ola := { s.ola with failedColl := (s.letterCtx l, x.field 0x14 4) :: s.ola.failedColl } }
  | none => s

/-- Every other die of a unit can be reached. -/
def State.unitReachable (s : State) (u : Nat) : Bool :=
  (s.unitDies u).all (fun d => d == s.die || (match s.route d with
    | .ok _ => true
    | .error _ => false))

/-- Letters that wait on a port that is lost: TIME rounds through it, broadcast PLACEs and COLLECTIVEs with a die out of reach (R349,
R460, R462). -/
def State.lettersDown (s : State) (p : Nat) : State :=
  s.each s.liveLetters (fun s e => match e.2.work with
    | .time w => if w.port = p then s.endLetter e.1 { code := codeLinkDown, result := BitVec.ofNat 32 w.round } else s
    | .place _ (y :: _) _ => if (e.2.field 0x11 1).testBit 0 ∧ !s.unitReachable (unitIndex (s.queue e.1.q).unit) then s.placeFails e.1 y.i codeLinkDown else s
    | .coll _ => if s.unitReachable (unitIndex (s.queue e.1.q).unit) then s else s.collFail e.1
    | _ => s)

/-- The started COLLECTIVEs that frames belong to, which a port has lost, can no longer finish (R460). -/
def State.collsLost (s : State) (fs : List Frame) : State :=
  s.each s.liveLetters (fun s e => match e.2.work with
    | .coll _ =>
      if fs.any (fun f => f.ctx.toNat == s.letterCtx e.1 && f.addr.toNat % 2 ^ 32 == e.2.field 0x14 4) then s.collFail e.1 else s
    | _ => s)

/-- A port enters DOWN (R427, R433): its buffers are discarded, its requests end, what waits for it goes another way, and the event of
Table 11-5 is posted. -/
def State.portDown (s : State) (p : Nat) (code : Code) (reason : Nat) : State :=
  let x := s.port p
  let s := (s.setPortState p 5).setFld .olaPortStatus fOlaPortStatusLastError p code.toNat
  let s := s.setFld .cmpLinkStatus fCmpLinkStatusActive p 0
  let time := (s.liveLetters.filterMap (fun e => match e.2.work with
    | .time w => if w.port = p then some w.tag else none
    | _ => none))
  let waiting := (x.tx.map (fun i => i.frame.tag.toNat))
  let gone := s.ola.remote.filter (fun r => r.port == p && !waiting.contains r.tag)
  let s := s.updPort p (fun x => { x with replay := [], again := [], keying := .idle, msg1 := [], pendingRx := false
                                          tx := x.tx.filter (fun i => !(i.frame.typ == 5 && time.contains i.frame.tag.toNat)) })
  let s := s.each (x.replay.filter (fun f => f.typ == 4 || (f.src.toNat != s.die && (f.typ == 1 || f.typ == 2)))) (fun s f => s.frameLost f codeLinkDown)
  let s := s.each gone (fun s r => s.endRemote r.tag codeLinkDown)
  let s := s.collsLost (x.replay.filter (fun f => f.typ == 6 && f.src.toNat == s.die))
  let before := s.ola.remote.length
  let s := s.reroute p
  let ended := gone.length + (before - s.ola.remote.length)
  let s := s.lettersDown p
  s.postDev { code := code
              detail := [BitVec.ofNat 8 p, BitVec.ofNat 8 (s.fld .olaPortStatus fOlaPortStatusPeerDie p), BitVec.ofNat 8 reason,
                BitVec.ofNat 8 x.step] ++ leBytes 4 ended }

/-! ## Training (R423, R445) -/

/-- A port trains from step 1 if it is enabled, and is DISABLED if not. -/
def State.trainPort (s : State) (p : Nat) : State :=
  let s := s.reroute p
  let on := s.fld .olaPortCfg fOlaPortCfgEn p == 1
  let s := s.updPort p (fun _ => { step := if on then 1 else 0 })
  let err := s.fld .olaPortStatus fOlaPortStatusLastError p
  let s := (s.setReg .olaPortStatus p 0 (regReset .olaPortStatus p)).setFld .olaPortStatus fOlaPortStatusLastError p err
  (s.setPortState p (if on then 1 else 0)).setFld .cmpLinkStatus fCmpLinkStatusActive p 0

/-- Step 5: credits are initialised, sequence numbers and counters start at 0. -/
def State.activatePort (s : State) (p : Nat) : State :=
  let s := s.updPort p (fun x => { x with step := 5, credits := [16, 16, 16, 16], passed3 := 0, nextSeq := 0, replay := [], again := []
                                          expected := 0, discarding := false, nakSeq := 0, naks := 0
                                          words := 0, laneErrs := List.replicate 8 0 })
  (s.setPortState p 3).setFld .cmpLinkStatus fCmpLinkStatusActive p (if s.portEnc p then 1 else 0)

/-! ## Reception (R432 to R434, R439, R441) -/

/-- A receiving lane fails (R425, R427): the port enters REPAIR and asks the peer to steer; in REPAIR for the other direction it asks for
its own repair as well; a second lane takes it down. -/
def State.laneFails (s : State) (p lane : Nat) : State :=
  let x := s.port p
  let st := s.portState p
  if !s.clocked || (st != 3 && st != 4) || (st == 4 && x.repairLane == some lane) then s
  else if s.fld .olaPortStatus fOlaPortStatusSpareRx p = 1 ∨ x.repairLane.isSome then s.portDown p codeLinkDown 1
  else
    ((s.setPortState p 4).updPort p (fun x => { x with repairLane := some lane, agreed := false, step := 2 })).emit (.control p 2 lane 0 x.ackNo)

/-- The code's work on a frame: corrected symbols are counted, for the port and for the lane that carried each; a lane with more than
LANE_ERR_MAX of them among 2^20 codewords fails (R425, R431, Table 18-1). The 2^20 codewords are counted from one multiple of them to
the next (notes/assumptions/67.md). -/
def State.fecNote (s : State) (p : Nat) (r : RxFrame) : State :=
  let hits := r.corrected
  let s := if hits.isEmpty then s else s.count 7 p 4 hits.length
  let s := s.updPort p (fun x =>
    let n := x.words + frameWordCount r.frame
    let base := if n < 2 ^ 20 then x.laneErrs else List.replicate 8 0
    { x with words := n % 2 ^ 20
             laneErrs := (List.range 8).map (fun l => base.getD l 0 + (hits.filter (fun h => h.lane.val == l)).length) })
  match (List.range 8).find? (fun l => decide (s.fld .olaPortCfg fOlaPortCfgLaneErrMax p < (s.port p).laneErrs.getD l 0)) with
  | some l => (s.updPort p (fun x => { x with laneErrs := x.laneErrs.set l 0 })).laneFails p l
  | none => s

/-- A frame comes under the next receiving key. -/
def OlaPort.flips (x : OlaPort) (f : Frame) : Bool := f.flags.toNat.testBit 2 != x.rxPhase && x.pendingRx

/-- The receiving key and salt of a frame. -/
def OlaPort.keyFor (x : OlaPort) (f : Frame) : BitVec 256 × BitVec 32 :=
  if x.flips f then (x.newRx, x.newRxSalt) else (x.rxKey, x.rxSalt)

/-- A frame's GCM tag verifies (R430, R434). -/
def OlaPort.tagOk (x : OlaPort) (f : Frame) : Bool :=
  f.gcmTag == Config.gcmTag (x.keyFor f).1 ((x.keyFor f).2 ++ f.counter) (frameHeader f) f.payload

/-- A frame is taken up: numbers, acknowledgements, credits, and the payload decrypted. -/
def State.acceptFrame (s : State) (p : Nat) (f : Frame) : State × Frame :=
  let enc := s.portEnc p
  let x := s.port p
  let flip := enc && x.flips f
  let key := if flip then x.newRx else x.rxKey
  let salt := if flip then x.newRxSalt else x.rxSalt
  let s := s.updPort p (fun x =>
    { x.acked (f.ack.toNat % 4096) with
      expected := (x.expected + 1) % 4096, discarding := false
      rxCounter := if enc then f.counter.toNat else x.rxCounter
      rxPhase := if flip then !x.rxPhase else x.rxPhase
      rxKey := key, rxSalt := salt, pendingRx := x.pendingRx && !flip
      newRx := if flip then 0 else x.newRx, newRxSalt := if flip then 0 else x.newRxSalt })
  let s := s.emit (.control p 1 (frameVc f) 1 (s.port p).ackNo)
  let s := (((s.count 7 p 1).count 7 p 7 (64 * f.lines.toNat)).count 7 p 8 f.payload.length).countBw (34 + p) 0 (frameBeats f)
  (s, if enc then { f with payload := Config.gcmOpen key (salt ++ f.counter) (frameHeader f) f.payload } else f)

/-- Reception of a frame: a bad one is discarded and a NAK names the number expected; one whose tag fails takes the port down; one
for another die is forwarded. The frame is answered where it is this die's. -/
def State.receive (s : State) (p : Nat) (r : RxFrame) : State × Option Frame :=
  let f := r.decoded
  let enc := s.portEnc p
  if !s.clocked || !s.portUsable p then (s, none) else
  let s := s.fecNote p r
  let x := s.port p
  if !s.portUsable p then (s, none)
  else if !r.crcOk ∨ frameSn f ≠ x.expected then
    let s := s.countBw (34 + p) 1 (frameBeats f)
    if x.discarding ∧ r.crcOk then (s, none)
    else (((s.updPort p (fun x => { x with discarding := true })).emit (.control p 0 x.expected 0 x.ackNo)).count 7 p 2, none)
  else if enc ∧ !x.tagOk f then (s.portDown p codeLinkAuthFail 5, none)
  else if enc ∧ f.counter.toNat ≤ (if x.flips f then 0 else x.rxCounter) then
    (s.countBw (34 + p) 1 (frameBeats f), none)
  else
    let (s, g) := s.acceptFrame p f
    let d := g.dst.toNat
    if d = s.die then (s, some g)
    else if g.hops = 0 ∨ s.fld .olaRoute fOlaRouteValid d = 0 then (s.frameLost g codeRouteInvalid, none)
    else
      let g := { g with hops := g.hops - 1, counter := 0, seq := 0, ack := 0, flags := BitVec.ofNat 8 (g.flags.toNat % 2) }
      match s.sendFrame (32 + p) g with
      | (s, none) => (s, none)
      | (s, some c) => (s.frameLost g c, none)

/-! ## Keying (R701 to R704) -/

/-- A 256-bit random value: four draws. -/
def State.rand256 (s : State) : BitVec 256 × State :=
  (Config.freeWord s.drawn ++ Config.freeWord (s.drawn + 1) ++ Config.freeWord (s.drawn + 2) ++ Config.freeWord (s.drawn + 3),
    { s with drawn := s.drawn + 4 })

/-- The bytes of a keying message (Table 17-7). -/
def keyMsgBytes (m : KeyMsg) : List Byte := m.pub ++ m.body ++ leBytes 32 m.rand.toNat ++ m.sig

/-- The security core is there and its entropy source delivers. -/
def State.keyingOn (s : State) : Bool := s.clocked && s.fwOn 0 && s.fld .secStatus fSecStatusEntFail == 0

/-- This end is the initiator: the end with the lower die number. -/
def State.initiator (s : State) (p : Nat) : Bool := decide (s.die < s.fld .olaPortStatus fOlaPortStatusPeerDie p)

/-- What message 1 signs: both die numbers, both port numbers, the encapsulation key and n_I, the initiator's first. -/
def message1Signed (dieI dieR portI portR : Nat) (body : List Byte) (rand : BitVec 256) : List Byte :=
  leBytes 1 dieI ++ leBytes 1 dieR ++ leBytes 1 portI ++ leBytes 1 portR ++ body ++ leBytes 32 rand.toNat

/-- A message's key is the one admitted for the peer's die, and its signature over `signed` holds (Table 17-7, R703). -/
def State.peerOk (s : State) (p : Nat) (m : KeyMsg) (msg : List Byte) : Bool :=
  let d := s.fld .olaPortStatus fOlaPortStatusPeerDie p
  let lo := s.reg .secPeerLo d
  let hi := s.reg .secPeerHi d
  let dig := (Config.shake256 m.pub).toNat
  (lo != 0 || hi != 0) && decide (dig % 2 ^ 64 = lo.toNat ∧ dig / 2 ^ 64 % 2 ^ 64 = hi.toNat) &&
    Config.mldsaVerify m.pub (ascii "SV2-OLA") msg m.sig

/-- The initiator sends message 1, where the security core can draw a key pair. -/
def State.keyStart (s : State) (p : Nat) : State :=
  if !s.keyingOn || !s.initiator p || (s.port p).keying != .idle then s
  else
    let (r, s) := s.rand256
    let n := s.drawn
    let ek := Config.mlkemKey n
    let msg := message1Signed s.die (s.fld .olaPortStatus fOlaPortStatusPeerDie p) p (s.fld .olaPortStatus fOlaPortStatusPeerPort p) ek r
    let m : KeyMsg := { pub := Config.identityKey, body := ek, rand := r, sig := Config.mldsaSign (ascii "SV2-OLA") msg s.sec.signs }
    let s := { s with drawn := s.drawn + 1, sec := { s.sec with signs := s.sec.signs + 1 } }
    (s.updPort p (fun x => { x with keying := .wait2, msg1 := (keyMsgBytes m), kemDraw := n })).emit (.keyMsg p 1 m)

/-- Ports whose keying waits for the security core or for entropy go on, re-keying that fell due meanwhile among them (R502, R704). -/
def State.keyKick (s : State) : State :=
  s.each (List.range 12) (fun s p =>
    if s.portState p = 2 ∨ (s.portEnc p ∧ s.portState p = 3 ∧ 2 ^ 40 ≤ (s.port p).counter) then s.keyStart p else s)

/-- h of Table 17-7. -/
def keyDigest (m1 ct : List Byte) (rand : BitVec 256) : BitVec 256 := Config.shake256 (m1 ++ ct ++ leBytes 32 rand.toNat)

/-- S of Table 17-7, as the two keys and the two salts, initiator to responder first (R702). -/
def keySecrets (k h : BitVec 256) : BitVec 256 × BitVec 256 × BitVec 32 × BitVec 32 :=
  let b := padBytes 72 (Config.shakeBytes 72 (leBytes 32 k.toNat ++ leBytes 32 h.toNat ++ ascii "SV2-OLA-KDF"))
  (BitVec.ofNat 256 (leField b 0 32), BitVec.ofNat 256 (leField b 32 32), BitVec.ofNat 32 (leField b 64 4), BitVec.ofNat 32 (leField b 68 4))

/-- Message 1 reaches the responder. -/
def State.key1 (s : State) (p : Nat) (m : KeyMsg) : State :=
  let st := s.portState p
  if !s.keyingOn || !s.portEnc p || (st != 2 && st != 3) || s.initiator p || (s.port p).keying != .idle then s
  else if !s.peerOk p m (message1Signed (s.fld .olaPortStatus fOlaPortStatusPeerDie p) s.die
      (s.fld .olaPortStatus fOlaPortStatusPeerPort p) p m.body m.rand) then s.portDown p codeLinkAuthFail 4
  else
    let (r, s) := s.rand256
    let (ct, k) := Config.mlkemEncap m.body s.drawn
    let h := keyDigest (keyMsgBytes m) ct r
    let (ir, ri, sir, sri) := keySecrets k h
    let a : KeyMsg := { pub := Config.identityKey, body := ct, rand := r
                        sig := Config.mldsaSign (ascii "SV2-OLA") (leBytes 32 h.toNat) s.sec.signs }
    let s := { s with drawn := s.drawn + 1, sec := { s.sec with signs := s.sec.signs + 1 } }
    (s.updPort p (fun x => { x with keying := .wait4, newRx := ir, newTx := ri, newRxSalt := sir, newTxSalt := sri })).emit (.keyMsg p 2 a)

/-- Message 2 reaches the initiator: the new keys are loaded, and message 4 is the first frame under them. -/
def State.key2 (s : State) (p : Nat) (m : KeyMsg) : State :=
  let x := s.port p
  if !s.clocked || !s.fwOn 0 || x.keying != .wait2 then s
  else
    let h := keyDigest x.msg1 m.body m.rand
    match (if s.peerOk p m (leBytes 32 h.toNat) then Config.mlkemDecap x.kemDraw m.body else none) with
    | none => s.portDown p codeLinkAuthFail 4
    | some k =>
      let (ir, ri, sir, sri) := keySecrets k h
      let m4 : KeyMsg := { pub := [], body := [], rand := 0, sig := [] }
      if s.portState p = 3 then
        (s.updPort p (fun x => { x with keying := .idle, msg1 := [], kemDraw := 0, txKey := ir, txSalt := sir, keyPhase := !x.keyPhase
                                        counter := 1, newRx := ri, newRxSalt := sri, pendingRx := true })).emit (.keyMsg p 4 m4)
      else
        ((s.updPort p (fun x => { x with keying := .idle, msg1 := [], kemDraw := 0, txKey := ir, txSalt := sir, keyPhase := false
                                         counter := 1, rxKey := ri, rxSalt := sri, rxPhase := false, rxCounter := 0 })).emit
          (.keyMsg p 4 m4)).activatePort p

/-- Message 4 reaches the responder: its own keys are loaded. -/
def State.key4 (s : State) (p : Nat) (tagOk : Bool) : State :=
  if !s.clocked || (s.port p).keying != .wait4 then s
  else if !tagOk then s.portDown p codeLinkAuthFail 4
  else
    let again := s.portState p == 3
    let s := s.updPort p (fun x => { x with
      keying := .idle, txKey := x.newTx, txSalt := x.newTxSalt, rxKey := x.newRx, rxSalt := x.newRxSalt
      newTx := 0, newRx := 0, newTxSalt := 0, newRxSalt := 0, counter := 0, rxCounter := 1
      keyPhase := again && !x.keyPhase, rxPhase := again && !x.rxPhase })
    if again then s else s.activatePort p

end Sys2Proof.Machine
end

