-- ==== Sys2Proof/Machine/Collectives.lean ====
section
/-! DEFINITION. COLLECTIVE and TIME letters (chapter 11, R454 to R462). A COLL frame with payload carries part of a block, its TAG
the offset in bytes; one without is a handshake, or for BROADCAST the root's word that every line is written
(notes/assumptions/19.md). -/

namespace Sys2Proof.Machine

/-! ## Fields (Table 11-6) -/

/-- A COLLECTIVE letter's fields. -/
structure CollSpec where
  op : Nat
  fmt : Nat
  root : Nat
  crr : Nat
  id : Nat
  src : Nat
  dst : Nat
  bytes : Nat
  done : Nat
  deriving DecidableEq, Repr

/-- The fields of a letter. -/
def collSpec (x : Letter) : CollSpec :=
  { op := x.field 0x10 1, fmt := x.field 0x11 1, root := x.field 0x12 1, crr := x.field 0x13 1 % 4, id := x.field 0x14 4
    src := x.field 0x18 8, dst := x.field 0x20 8, bytes := x.field 0x28 8, done := x.field 0x30 4 }

/-- The dies of the letter's unit in ring order, and this die's position. -/
def State.collDies (s : State) (l : LetterId) : List Nat := s.unitDies (unitIndex (s.queue l.q).unit)
def State.collPos (s : State) (l : LetterId) : Nat := (s.collDies l).findIdx (fun d => d == s.die)

/-- Position `k` steps back in a ring of `n`. -/
def back (n p k : Nat) : Nat := (p + n * (k / n + 1) - k) % n

/-- Bytes of an element of an ALL_REDUCE vector. -/
def CollSpec.elem (g : CollSpec) : Nat := elemBits g.fmt / 8

/-- Bytes of the result that this die holds. -/
def CollSpec.resultBytes (g : CollSpec) (n : Nat) : Nat := if g.op = 0 then n * g.bytes else g.bytes

/-- Bytes that this die reads from SRC: none on a BROADCAST's other members. -/
def CollSpec.sourceBytes (g : CollSpec) (p : Nat) : Nat := if g.op = 2 ∧ p ≠ g.root then 0 else g.bytes

/-- What ends a COLLECTIVE at its start (R454, R455, R460, R765). -/
def State.collCheck (s : State) (l : LetterId) (x : Letter) : Option Code :=
  let u := (s.queue l.q).unit
  let g := collSpec x
  let n := (s.collDies l).length
  let ctx := s.letterCtx l
  if unitLevel u < 3 ∨ s.fld .olaUnit fOlaUnitValid (unitIndex u) = 0 ∨ s.fld .olaUnit fOlaUnitLevel (unitIndex u) ≠ unitLevel u ∨
      !(s.collDies l).contains s.die then some codeUnitInvalid
  else if (g.op = 1 ∧ g.bytes % (64 * n) ≠ 0) ∨ (g.op = 2 ∧ n ≤ g.root) then some codeLetterInvalid
  else if !s.doneOk l g.done then some codeSyncInvalid
  else if !s.mapped ctx g.src (g.sourceBytes (s.collPos l)) ∨ !s.mapped ctx g.dst (g.resultBytes n) then some codeAddressInvalid
  else if s.winLocked ctx g.dst (g.resultBytes n) then some codeRegionLocked
  else if s.ola.failedColl.contains (ctx, g.id) ∨ !s.unitReachable (unitIndex u) then some codeLinkDown
  else none

/-! ## Data -/

/-- FP32 lanes of elements of FP32 or BF16 (R139). -/
def collLanes (f : Nat) (bs : List Byte) : List F32 := rowF32 f (bs.length / (elemBits f / 8)) bs

/-- Result bytes of FP32 lanes (Table 3-6, SAT = 0). -/
def collBytes (f : Nat) (xs : List F32) : List Byte := if f = 12 then lanesBytes xs else (convRow f false 0 (xs.map f32Num)).1

/-- Write bytes to a window, line by line, each charged at its port to a class and a source (R252, R253). -/
def State.winWrite (s : State) (ctx off : Nat) (bs : List Byte) (c : ReqClass) (src : Nat) : State :=
  s.each (List.range (bs.length / 64)) (fun s i => match s.translate ctx (off + 64 * i) with
    | some a => (((s.charge (hbmPort a) c true src 1).countCtx ctx 6 1).hbmWrite a ((bs.drop (64 * i)).take 64)).1
    | none => s)

/-- The first line of a window range whose controller has left service: a write there ends with HBM_UNCORRECTABLE (Table 16-6). -/
def State.winOut (s : State) (ctx off n : Nat) : Option Nat :=
  ((List.range (n / 64)).filterMap (fun i => s.translate ctx (off + 64 * i))).find? (fun a => s.flt.hbmOut.contains (hbmStack a))

/-- The courier of a COLLECTIVE (Table 11-6). -/
def CollSpec.courier (g : CollSpec) : Nat := 16 + g.crr

/-- This die's own block `c` of an ALL_REDUCE, in FP32. -/
def State.ownBlock (s : State) (ctx : Nat) (g : CollSpec) (n c : Nat) : List F32 :=
  collLanes g.fmt (s.winRead ctx (g.src + c * (g.bytes / n)) (g.bytes / n))

/-- Steps that a die of a ring takes part in. -/
def CollSpec.steps (g : CollSpec) (n : Nat) : Nat := if g.op = 0 then n - 1 else if g.op = 1 then 2 * (n - 1) else 1

/-- Bytes of the block that step `t` carries. -/
def CollSpec.blockBytes (g : CollSpec) (n t : Nat) : Nat :=
  if g.op = 0 then g.bytes else if t < n - 1 then g.bytes / n / g.elem * 4 else g.bytes / n

/-- The block that this die sends in step `t`. -/
def State.collBlock (s : State) (ctx : Nat) (g : CollSpec) (w : CollWork) (n p t : Nat) : List Byte :=
  if g.op = 0 then s.winRead ctx (g.dst + back n p t * g.bytes) g.bytes
  else if t = 0 then lanesBytes (s.ownBlock ctx g n (back n p 1))
  else if t < n - 1 then w.part
  else s.winRead ctx (g.dst + back n p (t - (n - 1)) * (g.bytes / n)) (g.bytes / n)

/-- The lines of this die's window that the block of step `t` is read from, as offset and bytes: on step 0 of SRC. -/
def CollSpec.reads (g : CollSpec) (n p t : Nat) : Nat × Nat :=
  if g.op = 0 then (if t = 0 then (g.src, g.bytes) else (g.dst + back n p t * g.bytes, g.bytes))
  else if t = 0 then (g.src + back n p 1 * (g.bytes / n), g.bytes / n)
  else if t < n - 1 then (0, 0)
  else (g.dst + back n p (t - (n - 1)) * (g.bytes / n), g.bytes / n)

/-- The lines of SRC that are added to what arrives in step `t` of an ALL_REDUCE (R458), as offset and bytes. -/
def CollSpec.adds (g : CollSpec) (n p t : Nat) : Nat × Nat :=
  if g.op = 1 ∧ t < n - 1 then (g.src + back n p (t + 2) * (g.bytes / n), g.bytes / n) else (0, 0)

/-- Where in DST what arrives in step `t` is put, as offset and bytes: a sum that goes on to the next die is put nowhere. -/
def CollSpec.puts (g : CollSpec) (n p t : Nat) : Nat × Nat :=
  if g.op = 0 then (g.dst + back n p (t + 1) * g.bytes, g.bytes)
  else if t + 1 = n - 1 then (g.dst + p * (g.bytes / n), g.bytes / n)
  else if t < n - 1 then (0, 0)
  else (g.dst + back n p (t + 1 - (n - 1)) * (g.bytes / n), g.bytes / n)

/-- Where in DST this die's own input goes at the start, as offset and bytes. -/
def CollSpec.ownPut (g : CollSpec) (n p : Nat) : Nat × Nat :=
  if g.op = 0 then (g.dst + p * g.bytes, g.bytes) else if g.op = 1 ∧ n = 1 then (g.dst, g.bytes) else (0, 0)

/-- A line that a COLLECTIVE needs is lost: it ends with HBM_UNCORRECTABLE (R666). -/
def State.collLost (s : State) (l : LetterId) (a : Nat) : State :=
  (s.contained (s.letterCtx l) (some l) codeHbmUncorrectable (hbmDetail a 0)).endLetter l { code := codeHbmUncorrectable }

/-- The frames of a block: at most 32 lines each. -/
def State.blockFrames (s : State) (ctx dst id step : Nat) : Nat → Nat → List Byte → List Frame
  | 0, _, _ => []
  | k + 1, off, bs =>
    if bs.isEmpty then []
    else
      s.mkFrame 6 dst ctx (BitVec.ofNat 64 (id + step % 256 * 2 ^ 32)) (BitVec.ofNat 64 off) 0 (bs.take 2048) ::
        s.blockFrames ctx dst id step k (off + 2048) (bs.drop 2048)

/-- A handshake, or the root's last word, for a step. -/
def State.shake (s : State) (l : LetterId) (ctx dst id step : Nat) : State :=
  let r := s.sendFrame 20 (s.mkFrame 6 dst ctx (BitVec.ofNat 64 (id + step % 256 * 2 ^ 32)) 0 0 [])
  match r.2 with
  | none => r.1
  | some _ => s.collFail l

/-- Send the step's block once the next die has shaken hands (R456). -/
def State.collSend (s : State) (l : LetterId) (x : Letter) (w : CollWork) : State :=
  let g := collSpec x
  let ds := s.collDies l
  let n := ds.length
  let p := s.collPos l
  let ctx := s.letterCtx l
  let next := ds.getD ((p + 1) % n) 0
  if g.steps n ≤ w.sent ∨ !w.shakes.contains next ∨ w.recv < w.sent then s
  else
    let bs := s.collBlock ctx g w n p w.sent
    let rd := g.reads n p w.sent
    match s.winLost ctx rd.1 rd.2 with
    | some a => s.collLost l a
    | none =>
      let s := s.winAccess ctx rd.1 rd.2 false g.courier
      let prot := (List.range (rd.2 / 64)).any (fun i => s.protectedAt ctx (rd.1 + 64 * i))
      let s := s.setWork l (.coll { w with sent := w.sent + 1, shakes := w.shakes.filter (fun d => d != next) })
      s.each (s.blockFrames ctx next g.id w.sent (bs.length / 2048 + 1) 0 bs) (fun s f =>
        let r := s.sendFrame g.crr f prot
        match r.2 with
        | none => r.1
        | some _ => s.collFail l)

/-- Work in a block that has arrived whole, once this die has sent its own of the step. -/
def State.collRecv (s : State) (l : LetterId) (x : Letter) (w : CollWork) : State :=
  let g := collSpec x
  let ds := s.collDies l
  let n := ds.length
  let p := s.collPos l
  let ctx := s.letterCtx l
  let r := w.recv
  if g.steps n ≤ r ∨ w.inb.length < g.blockBytes n r ∨ w.sent ≤ r then s
  else
    let add := g.adds n p r
    let put := g.puts n p r
    match (s.winLost ctx add.1 add.2).or (s.winOut ctx put.1 put.2) with
    | some a => s.collLost l a
    | none =>
      let sum := if add.2 = 0 then [] else List.zipWith f32Add (lanes w.inb) (s.ownBlock ctx g n (back n p (r + 2)))
      let s := s.winAccess ctx add.1 add.2 false g.courier
      let s := if put.2 = 0 then s
        else s.winWrite ctx put.1 (if g.op = 1 ∧ r + 1 = n - 1 then collBytes g.fmt sum else w.inb) .remote (srcOlila w.port)
      let s := s.setWork l (.coll { w with recv := r + 1, inb := [], part := lanesBytes sum })
      if r + 1 < g.steps n then s.shake l ctx (ds.getD (back n p 1) 0) g.id (r + 1) else s

/-- A ring's COLLECTIVE completes when its result is whole (R455). -/
def State.collEnds (s : State) (l : LetterId) : State :=
  match s.letter l with
  | some x => match x.work with
    | .coll w =>
      let g := collSpec x
      if x.ended.isNone ∧ g.steps (s.collDies l).length ≤ w.recv then (s.letterDone l g.done engHub).endLetter l { code := codeOk } else s
    | _ => s
  | none => s

/-- A BROADCAST's root sends its lines once every other member has shaken hands (R459). -/
def State.castSend (s : State) (l : LetterId) (x : Letter) (w : CollWork) : State :=
  let g := collSpec x
  let others := (s.collDies l).filter (fun d => d != s.die)
  if w.sent ≠ 0 ∨ !s.courierRoom (16 + g.crr) ∨ s.collPos l ≠ g.root ∨ !others.all (fun d => w.shakes.contains d) then s
  else
    let lines := g.bytes / 64
    let rows := if lines = 2 ^ 32 then 2 else 1
    let d : Desc := { src := sideWord 0 0 g.src, dst := sideWord 0 0 g.dst, rowLines := BitVec.ofNat 32 (lines / rows)
                      rows := BitVec.ofNat 32 rows, srcStride := BitVec.ofNat 32 (lines / rows), dstStride := BitVec.ofNat 32 (lines / rows)
                      fan := others }
    (s.setWork l (.coll { w with sent := 1 })).queueDesc (16 + g.crr) (.coll l) d (s.letterCtx l) l.q x.phase x.hint none

/-- A COLLECTIVE goes on as far as it can (R456). -/
def State.collPush (s : State) (l : LetterId) : State :=
  let go (s : State) (f : State → Letter → CollWork → State) : State := match s.letter l with
    | some x => match x.work with
      | .coll w => if x.ended.isNone then f s x w else s
      | _ => s
    | none => s
  let op := match s.letter l with
    | some x => (collSpec x).op
    | none => 0
  if op = 2 then (go s (fun s x w => s.castSend l x w)).collEnds l
  else
    let s := go s (fun s x w => s.collSend l x w)
    let s := go s (fun s x w => s.collRecv l x w)
    (go s (fun s x w => s.collSend l x w)).collEnds l

/-! ## The letters -/

/-- A COLLECTIVE starts (R455, R456): it takes up early handshakes, puts its own input in place and shakes hands for the first step. -/
def State.startColl (s : State) (l : LetterId) (x : Letter) : State :=
  match s.collCheck l x with
  | some c => s.endLetter l { code := c }
  | none =>
    let g := collSpec x
    let ds := s.collDies l
    let n := ds.length
    let p := s.collPos l
    let ctx := s.letterCtx l
    let put := g.ownPut n p
    match (s.winLost ctx g.src (g.sourceBytes p)).or (s.winOut ctx put.1 put.2) with
    | some a => s.collLost l a
    | none =>
      if g.bytes = 0 then (s.letterDone l g.done engHub).endLetter l { code := codeOk }
      else
        let early := s.ola.shakes.filter (fun k => k.ctx == ctx && k.id == g.id)
        let s := { s with ola := { s.ola with shakes := s.ola.shakes.filter (fun (k : Shake) => !(k.ctx == ctx && k.id == g.id)) } }
        let s := s.setWork l (.coll { shakes := (early.filter (fun k => k.step == 0)).map (·.die) })
        let own := s.winRead ctx g.src (g.sourceBytes p)
        let s := if put.2 = 0 then s
          else (s.winAccess ctx g.src (g.sourceBytes p) false g.courier).winWrite ctx put.1
            (if g.op = 0 then own else collBytes g.fmt (collLanes g.fmt own)) .write g.courier
        let s := if g.op = 2 then (if p = g.root then s else s.shake l ctx (ds.getD g.root 0) g.id 0)
          else if n = 1 then s else s.shake l ctx (ds.getD (back n p 1) 0) g.id 0
        s.collPush l

/-- The broadcasts of a queue that wait for room on their courier, while the die's clocks run. -/
def State.castsWaiting (s : State) (q : Nat) : List (LetterId × Letter) :=
  if s.clocked then s.liveLetters.filter (fun e => e.1.q == q && (match e.2.work with
    | .coll w => w.sent == 0 && (collSpec e.2).op == 2
    | _ => false)) else []

/-- COLLECTIVE with a given operation: it starts once every earlier letter of its queue has completed (R455); a broadcast that waits
for room on its courier goes on (R235). -/
def State.collStart (s : State) (q op : Nat) : State :=
  let s := s.each (s.castsWaiting q) (fun s e => s.collPush e.1)
  s.startWith q 0x0B (fun x => x.field 0x10 1 == op) (fun s l x => s.startColl l x)

/-- COLLECTIVE_ALL_GATHER (R457), COLLECTIVE_ALL_REDUCE (R458), COLLECTIVE_BROADCAST (R459). -/
def execCollectiveAllGather (q : Fin 4096) (s : State) : Res := .next (s.collStart q 0)
def execCollectiveAllReduce (q : Fin 4096) (s : State) : Res := .next (s.collStart q 1)
def execCollectiveBroadcast (q : Fin 4096) (s : State) : Res := .next (s.collStart q 2)

/-- The started COLLECTIVE of a context with a COLL_ID. -/
def State.liveColl (s : State) (ctx id : Nat) : Option LetterId :=
  (s.liveLetters.find? (fun e => s.letterCtx e.1 == ctx && e.2.field 0x14 4 == id && (match e.2.work with
    | .coll _ => true
    | _ => false))).map (·.1)

/-- Where in DST the bytes of step `t` go: for a partial sum, where its block ends up. -/
def CollSpec.lands (g : CollSpec) (n p t : Nat) : Nat :=
  if g.op = 0 then g.dst + back n p (t + 1) * g.bytes
  else if t < n - 1 then g.dst + back n p (t + 2) * (g.bytes / n)
  else g.dst + back n p (t + 1 - (n - 1)) * (g.bytes / n)

/-- A COLL frame of this die: a handshake for the step at hand, the root's last word, or a part of the step's block. -/
def State.collArrive (s : State) (p : Nat) (f : Frame) : State :=
  let ctx := f.ctx.toNat
  let id := f.addr.toNat % 2 ^ 32
  let step := f.addr.toNat / 2 ^ 32 % 256
  let from_ := f.src.toNat
  match s.liveColl ctx id with
  | none =>
    if f.lines = 0 then { s with ola := { s.ola with shakes := s.ola.shakes ++ [{ ctx := ctx, id := id, step := step, die := from_ }] } }
    else (s.unpack p ctx f (fun i => f.tag.toNat + 64 * i)).1
  | some l =>
    let (s, bytes) := s.unpack p ctx f (fun i => (match s.letter l with
      | some x => match x.work with
        | .coll w => (collSpec x).lands (s.collDies l).length (s.collPos l) w.recv
        | _ => (collSpec x).dst
      | none => 0) + f.tag.toNat + 64 * i)
    let s := s.updLetter l (fun x => match x.work with
      | .coll w =>
        let g := collSpec x
        if f.lines = 0 then
          if g.op = 2 ∧ step = 1 then { x with work := .coll { w with recv := 1 } }
          else if g.op = 2 ∨ step = w.sent % 256 then { x with work := .coll { w with shakes := setInsert from_ w.shakes } }
          else x
        else if step = w.recv % 256 ∧ f.tag.toNat = w.inb.length then { x with work := .coll { w with inb := w.inb ++ bytes, port := p } }
        else x
      | _ => x)
    s.collPush l

/-! ## TIME (Table 11-7, R461, R462) -/

/-- What ends a TIME letter at its start. -/
def State.timeCheck (s : State) (l : LetterId) (x : Letter) : Option Code :=
  let u := (s.queue l.q).unit
  let ctx := s.letterCtx l
  let out := x.field 0x18 8
  let n := 32 * x.field 0x11 1
  if unitLevel u ≠ 2 then some codeUnitInvalid
  else if !s.doneOk l (x.field 0x14 4) then some codeSyncInvalid
  else if !s.mapped ctx out n then some codeAddressInvalid
  else if s.winLocked ctx out n then some codeRegionLocked
  else if x.field 0x10 1 = s.die then none
  else
    match s.route (x.field 0x10 1) with
    | .ok _ => none
    | .error c => some c

/-- The bit of TAG that marks a reply (notes/assumptions/19.md). -/
def timeReply : Nat := 2 ^ 63

/-- Send the request of a round: t1 is stamped as it goes to its port. -/
def State.timeAsk (s : State) (l : LetterId) (peer round : Nat) : State :=
  let now := s.reg .olaFclkNow
  let (tag, s) := s.fresh
  match s.route peer with
  | .error c => s.endLetter l { code := c, result := BitVec.ofNat 32 round }
  | .ok p =>
    let s := s.setWork l (.time { round := round, t1 := now, tag := tag, port := p })
    (s.sendFrame 20 (s.mkFrame 5 peer (s.letterCtx l) now (BitVec.ofNat 64 tag) 0 [])).1

/-- Write a round's record (R462); the code tells why it could not be. -/
def State.timeRecord (s : State) (l : LetterId) (x : Letter) (round : Nat) (bs : List Byte) : State × Option Code :=
  match s.translate (s.letterCtx l) (x.field 0x18 8 + 32 * round) with
  | none => (s, some codeAddressInvalid)
  | some a =>
    let r := (s.hbmAccess (some (s.letterCtx l)) a true srcHub 1).hbmWrite a bs
    if r.2 then (r.1.contained (s.letterCtx l) (some l) codeHbmUncorrectable (hbmDetail a 4), some codeHbmUncorrectable) else (r.1, none)

/-- A round's record is written; the letter goes on to the next round or completes. -/
def State.timeRound (s : State) (l : LetterId) (round : Nat) (t1 t2 t3 t4 : BitVec 64) : State :=
  match s.letter l with
  | none => s
  | some x =>
    let bs := leBytes 8 t1.toNat ++ leBytes 8 t2.toNat ++ leBytes 8 t3.toNat ++ leBytes 8 t4.toNat
    match s.timeRecord l x round bs with
    | (s, some c) => s.endLetter l { code := c, result := BitVec.ofNat 32 round }
    | (s, none) =>
      if round + 1 = x.field 0x11 1 then
        (s.letterDone l (x.field 0x14 4) engHub).endLetter l { code := codeOk, result := BitVec.ofNat 32 (round + 1) }
      else s.timeAsk l (x.field 0x10 1) (round + 1)

/-- The last `n` rounds of a TIME letter that names the die itself: each writes its record (R462). -/
def State.timeOwn (s : State) (l : LetterId) (x : Letter) : Nat → List Byte → State
  | 0, _ => (s.letterDone l (x.field 0x14 4) engHub).endLetter l { code := codeOk, result := BitVec.ofNat 32 (x.field 0x11 1) }
  | n + 1, bs =>
    let round := x.field 0x11 1 - (n + 1)
    match s.timeRecord l x round bs with
    | (s, some c) => s.endLetter l { code := c, result := BitVec.ofNat 32 round }
    | (s, none) => s.timeOwn l x n bs

/-- A TIME letter starts. The die's own number needs no frame: every stamp is the count of this FCLK. -/
def State.startTime (s : State) (l : LetterId) (x : Letter) : State :=
  match s.timeCheck l x with
  | some c => s.endLetter l { code := c }
  | none =>
    if x.field 0x10 1 = s.die then
      let now := s.reg .olaFclkNow
      s.timeOwn l x (x.field 0x11 1) (List.replicate 4 (leBytes 8 now.toNat)).flatten
    else s.timeAsk l (x.field 0x10 1) 0

/-- TIME (R462). -/
def execTime (q : Fin 4096) (s : State) : Res := .next (s.startWith q 0x0A (fun _ => true) (fun s l x => s.startTime l x))

/-- A TIME frame of this die: a request is answered in hardware, a reply ends its round. -/
def State.timeArrive (s : State) (f : Frame) : State :=
  let now := s.reg .olaFclkNow
  let tag := f.tag.toNat
  if tag < timeReply then
    (s.sendFrame 20 (s.mkFrame 5 f.src.toNat f.ctx.toNat now (BitVec.ofNat 64 (tag + timeReply)) now [])).1
  else
    match s.liveLetters.find? (fun e => match e.2.work with
      | .time w => w.tag + timeReply == tag
      | _ => false) with
    | some e => match e.2.work with
      | .time w => s.timeRound e.1 w.round w.t1 f.addr f.arg now
      | _ => s
    | none => s

end Sys2Proof.Machine
end

