-- ==== Sys2Proof/Machine/Olila.lean ====
section
/-! DEFINITION. The commands of the Olila ports (chapter 11, R701 to R704). -/

namespace Sys2Proof.Machine

/-! ## Training and repair (R423 to R428) -/

/-- OLA_TRAIN_STEP_DONE (Table 11-2): `peer` says what the step found. Step 3 begins with this end's CONTROL frame: die number, port
number, ENC and ROUTE_EPOCH. -/
def State.trainStep (s : State) (p : Nat) (peer : PeerInfo) : State :=
  let x := s.port p
  if !s.clocked || s.portState p != 1 then s
  else if x.step = 1 then
    if 2 ≤ peer.badLanes.eraseDups.length ∨ 2 ≤ peer.badTx.eraseDups.length then s.portDown p codeLinkDown 3
    else
      let s := match peer.badLanes.head? with
        | some lane => (s.setFld .olaPortStatus fOlaPortStatusSpareRx p 1).setFld .olaPortStatus fOlaPortStatusSpareRxLane p lane.val
        | none => s
      let s := match peer.badTx.head? with
        | some lane => (s.setFld .olaPortStatus fOlaPortStatusSpareTx p 1).setFld .olaPortStatus fOlaPortStatusSpareTxLane p lane.val
        | none => s
      s.updPort p (fun x => { x with step := 2 })
  else if x.step = 2 then
    (s.updPort p (fun x => { x with step := 3 })).emit (.train p s.die (s.portEnc p) (s.reg .olaRouteEpoch))
  else
    let s := (s.setFld .olaPortStatus fOlaPortStatusPeerDie p peer.die.toNat).setFld .olaPortStatus fOlaPortStatusPeerPort p peer.port.toNat
    let s := s.updPort p (fun x => { x with peerEpoch := peer.epoch })
    if peer.enc ≠ s.portEnc p ∨ peer.die.toNat = s.die then s.portDown p codeLinkDown 3
    else if s.portEnc p then ((s.updPort p (fun x => { x with step := 4 })).setPortState p 2).keyStart p
    else s.activatePort p

/-- OLA_TRAIN_STEP_DONE. -/
def execOlaTrainStepDone (p : Fin 12) (peer : PeerInfo) (s : State) : Res := .next (s.trainStep p peer)

/-- OLA_TRAIN_TIMEOUT (R423, R424, R427, R703): a training step, a repair or a keying exceeds its limit. -/
def State.trainTimeout (s : State) (p : Nat) : State :=
  match s.portState p with
  | 1 => s.portDown p codeLinkDown 3
  | 2 => s.portDown p codeLinkAuthFail 4
  | 3 => if (s.port p).keying = .idle then s else s.portDown p codeLinkAuthFail 4
  | 4 => s.portDown p codeLinkDown 3
  | _ => s

/-- OLA_TRAIN_TIMEOUT. -/
def execOlaTrainTimeout (p : Fin 12) (s : State) : Res := .next (if s.clocked then s.trainTimeout p else s)

/-- LANE_ERROR_LIMIT (R425): the lane's count, that of codewords which carry no frame of the model with it, exceeds LANE_ERR_MAX. -/
def execLaneErrorLimit (p : Fin 12) (lane : Fin 8) (s : State) : Res := .next (s.laneFails p lane)

/-- LANE_LOCK_LOSS (R425). -/
def execLaneLockLoss (p : Fin 12) (lane : Fin 8) (s : State) : Res := .next (s.laneFails p lane)

/-- CONTROL_REPAIR: the peer agrees to this end's repair, and the spare replaces the receiving lane; or the peer asks for one of its
own, and the spare replaces the transmitting lane. -/
def State.repairFrame (s : State) (p lane : Nat) : State :=
  let x := s.port p
  let st := s.portState p
  if !s.clocked || (st != 3 && st != 4) then s
  else if st = 4 ∧ x.repairLane = some lane ∧ x.agreed = false then
    ((s.setFld .olaPortStatus fOlaPortStatusSpareRx p 1).setFld .olaPortStatus fOlaPortStatusSpareRxLane p lane).updPort p
      (fun x => { x with agreed := true })
  else if s.fld .olaPortStatus fOlaPortStatusSpareTx p = 1 then s.portDown p codeLinkDown 1
  else
    ((((s.setPortState p 4).setFld .olaPortStatus fOlaPortStatusSpareTx p 1).setFld .olaPortStatus fOlaPortStatusSpareTxLane p lane).updPort p
      (fun x => { x with agreed := x.repairLane.isNone || x.agreed, step := 2 })).emit (.control p 2 lane 0 x.ackNo)

/-- CONTROL_REPAIR (R425). -/
def execControlRepair (p : Fin 12) (lane : Fin 8) (s : State) : Res := .next (s.repairFrame p lane)

/-- REPAIR_DONE: step 2 is complete again; everything of the link is kept (R426). -/
def execRepairDone (p : Fin 12) (s : State) : Res :=
  .next (if s.clocked ∧ s.portState p = 4 ∧ (s.port p).agreed then
      (s.setPortState p 3).updPort p (fun x => { x with repairLane := none, agreed := false, step := 5 })
    else s)

/-- AUTO_RETRAIN (R428). -/
def execAutoRetrain (p : Fin 12) (s : State) : Res :=
  .next (if s.clocked ∧ s.portState p = 5 ∧ s.fld .olaPortCfg fOlaPortCfgAutoRetrain p = 1 then s.trainPort p else s)

/-! ## Frames -/

/-- FRAME_TRANSMIT (R436); a port in REPAIR holds transmission. -/
def execFrameTransmit (p : Fin 12) (s : State) : Res := .next (if s.clocked && s.portState p == 3 then s.transmit p else s)

/-- CONTROL_NAK (R432): frames before the one named are acknowledged and the rest are resent; the eighth NAK in a row for one number
takes the port down. -/
def State.nakFrame (s : State) (p n : Nat) : State :=
  let x := s.port p
  let naks := if x.nakSeq = n ∧ x.naks ≠ 0 then x.naks + 1 else 1
  if !s.clocked || !s.portUsable p || !(x.replay.any (fun f => frameSn f == n) || n == x.nextSeq) then s
  else if 8 ≤ naks then s.portDown p codeLinkDown 2
  else
    s.updPort p (fun x =>
      let rep := x.replay.dropWhile (fun f => frameSn f != n)
      { x with replay := rep, again := rep, nakSeq := n, naks := naks })

/-- CONTROL_NAK. -/
def execControlNak (p : Fin 12) (expected : BitVec 12) (s : State) : Res := .next (s.nakFrame p expected.toNat)

/-- Credits of a channel come back; they never exceed the 16 of the receiver's buffer (R435). -/
def OlaPort.withCredits (x : OlaPort) (vc n : Nat) : OlaPort := { x with credits := x.credits.modify vc (fun c => min 16 (c + n)) }

/-- CONTROL_CREDIT (R435); its header acknowledges as every frame's does (Table 11-3). -/
def execControlCredit (p : Fin 12) (vc : Fin 4) (f : CreditFrame) (s : State) : Res :=
  .next (if s.clocked && s.portUsable p then
      s.updPort p (fun x => (x.acked f.ack.toNat).withCredits vc f.n)
    else s)

/-- A received frame of a type is taken up where it is this die's. -/
def State.withFrame (s : State) (p typ : Nat) (r : RxFrame) (go : State → Frame → State) : State :=
  if r.frame.typ.toNat ≠ typ then s
  else
    match s.receive p r with
    | (s, some f) => go s f
    | (s, none) => s

/-- Why a request of another die is refused here (R335, R336, Table 16-6); none where it is served. -/
def State.windowBars (s : State) (ctx off n : Nat) (write : Bool) : Option Code :=
  if off % 64 ≠ 0 ∨ !s.mapped ctx off n then some codeAddressInvalid
  else if write ∧ s.winLocked ctx off n then some codeRegionLocked
  else if (List.range (n / 64)).any (fun i => match s.translate ctx (off + 64 * i) with
      | some a => s.flt.hbmOut.contains (hbmStack a)
      | none => true) then some codeHbmUncorrectable
  else none

/-- A WRITE of another die: its lines wait at their ports, and it is answered only once they are written (R446). -/
def State.writeArrive (s : State) (p : Nat) (f : Frame) : State :=
  let ctx := f.ctx.toNat
  let off := f.addr.toNat
  let (s, bytes) := s.unpack p ctx f (fun i => off + 64 * i)
  let n := f.lines.toNat
  match s.windowBars ctx off (64 * n) true with
  | some c => s.answer f c [] false
  | none =>
    if n = 0 then s.answer f codeOk [] false
    else
      let (id, s) := s.newOutside (.frameWrite f bytes)
      s.askLines (srcOlila p) id ctx off n 0 n

/-- FRAME_WRITE (R446). -/
def execFrameWrite (p : Fin 12) (f : RxFrame) (s : State) : Res := .next (s.withFrame p 1 f (fun s f => s.writeArrive p f))

/-- A READ_REQ of another die: 1 to 32 lines of the window, which wait at their ports. -/
def State.readArrive (s : State) (p : Nat) (f : Frame) : State :=
  let ctx := f.ctx.toNat
  let off := f.addr.toNat
  let n := f.arg.toNat
  if n = 0 ∨ 32 < n then s.answer f codeAddressInvalid [] false
  else
    match s.windowBars ctx off (64 * n) false with
    | some c => s.answer f c [] false
    | none =>
      let (id, s) := s.newOutside (.frameRead f [] false)
      s.askLines (srcOlila p) id ctx off n 0 n

/-- FRAME_READ_REQ (R429). -/
def execFrameReadReq (p : Fin 12) (f : RxFrame) (s : State) : Res := .next (s.withFrame p 2 f (fun s f => s.readArrive p f))

/-- The code that a RESPONSE carries; a peer's value outside Table 4-24, which no device reports, stands for LINK_DOWN (R183,
notes/assumptions/68.md). -/
def frameCode (f : Frame) : Code :=
  let c : Code := BitVec.ofNat 16 f.arg.toNat
  if codeTable.contains c then c else codeLinkDown

/-- A RESPONSE ends the request whose tag it carries, or reports a signal that was lost on its way (R429, R452). -/
def State.responseArrive (s : State) (p : Nat) (f : Frame) : State :=
  let code := frameCode f
  let tag := f.tag.toNat
  if tag = lostTag then s.signalLost f.ctx.toNat (f.addr.toNat % 2 ^ 20) (f.addr.toNat / 2 ^ 32 % 256) code
  else
    match s.ola.remote.find? (fun r => r.tag == tag && r.die == f.src.toNat), s.mv.reqs.find? (fun q => q.tag == tag) with
    | some rr, some q =>
      match rr.agent with
      | .courier k =>
        if code ≠ codeOk then s.endRemote tag code
        else
          match s.desc k q.item with
          | none => s.endRemote tag codeOk
          | some d =>
            let kind := if k < 16 then 1 else 2
            let inst := if k < 16 then k else k - 16
            let (s, bytes) := s.unpack p d.ctx f (fun i => d.desc.dstLine (q.line + i))
            let s := { s with ola := { s.ola with remote := s.ola.remote.filter (fun (y : RemoteReq) => y.tag != tag) } }
            let s := (s.dropReq tag).crrNote k
            if q.cls = .write then
              let s := (s.count kind inst 1 q.lines).countCtx d.ctx 5 q.lines
              (s.updDesc k d.id (fun x => { x with acked := x.acked + q.lines, acks := tabUpd 0 x.acks rr.die (· + q.lines) })).settleDesc k d.id []
            else
              let s := s.count kind inst 0 q.lines
              if d.fail.isSome then s.settleDesc k d.id []
              else
                let s := s.updDesc k d.id (fun x => { x with buf := x.buf ++ splitLines q.lines q.line (padBytes (64 * q.lines) bytes) })
                match d.desc.feedCluster with
                | some cl => s.feedEntry k d.id cl 4
                | none => s
      | _ => s.endRemote tag code
    | _, _ => (s.unpack p f.ctx.toNat f (fun i => 64 * i)).1

/-- FRAME_RESPONSE (R429). -/
def execFrameResponse (p : Fin 12) (f : RxFrame) (s : State) : Res := .next (s.withFrame p 3 f (fun s f => s.responseArrive p f))

/-- A SIGNAL of another die goes to its object's home (R448); one that names no object here changes nothing. -/
def State.signalArrive (s : State) (f : Frame) : State :=
  let ref : BitVec 20 := BitVec.ofNat 20 f.addr.toNat
  let sop : Option Sop := match f.addr.toNat / 2 ^ 20 % 4 with
    | 0 => some .add
    | 1 => some .sub
    | 2 => some .set
    | _ => none
  match sop, (if ref.toNat / 2 ^ 18 = 2 then s.resolveRef f.ctx.toNat 0 0 ref else none) with
  | some op, some k =>
    s.sendSync { who := .frame, act := .signal op, key := k, ref := ref, cl := 0, mem := 0, value := BitVec.ofNat 32 f.arg.toNat, q := 0 }
  | _, _ => s

/-- FRAME_SIGNAL (R448). -/
def execFrameSignal (p : Fin 12) (f : RxFrame) (s : State) : Res := .next (s.withFrame p 4 f (fun s f => s.signalArrive f))

/-- TIME_FRAME (R461). -/
def execTimeFrame (p : Fin 12) (f : RxFrame) (s : State) : Res := .next (s.withFrame p 5 f (fun s f => s.timeArrive f))

/-- COLL_FRAME (R456). -/
def execCollFrame (p : Fin 12) (f : RxFrame) (s : State) : Res := .next (s.withFrame p 6 f (fun s f => s.collArrive p f))

/-! ## Keying -/

/-- COUNTER_REKEY (R434, R704): the initiator of the port begins a new exchange once COUNTER has reached 2^40. -/
def execCounterRekey (p : Fin 12) (s : State) : Res :=
  .next (if s.clocked ∧ s.portEnc p ∧ s.portState p = 3 ∧ 2 ^ 40 ≤ (s.port p).counter then s.keyStart p else s)

/-- KEYING_MESSAGE_1 (R701). -/
def execKeyingMessage1 (p : Fin 12) (m : KeyMsg) (s : State) : Res := .next (s.key1 p m)

/-- KEYING_MESSAGE_2 (R701, R702). -/
def execKeyingMessage2 (p : Fin 12) (m : KeyMsg) (s : State) : Res := .next (s.key2 p m)

/-- KEYING_MESSAGE_4 (R701, R702). -/
def execKeyingMessage4 (p : Fin 12) (tagOk : Bool) (s : State) : Res := .next (s.key4 p tagOk)

end Sys2Proof.Machine
end

