-- ==== Sys2Proof/Machine/Contexts.lean ====
section
/-! DEFINITION. Contexts: residency, switches, reset, disable and enable (chapter 12). -/

namespace Sys2Proof.Machine

/-! ## Who wants a cluster (R472, R476, R480) -/

/-- A context is bound to a cluster (R472). -/
def State.boundTo (s : State) (x cl : Nat) : Bool := (s.queuesOf x).any (fun q => (s.unitClusters (s.queue q).unit).contains cl)

/-- The letter at a queue's head that could start but for residency. -/
def State.headLetter (s : State) (q : Nat) : Option Letter := ((s.queue q).nextStart).bind (fun l => s.nextLetter q l.opcode)

/-- A queued chained descriptor, which starts only under residency. -/
def CDesc.chained (d : CDesc) : Bool := !d.active && (match d.origin with
  | .move _ n => n != 0
  | _ => false)

/-- A context is ready on a cluster (R480). -/
def State.ctxReady (s : State) (cl x : Nat) : Bool :=
  (s.queuesOf x).any (fun q => match s.headLetter q with
    | some l => (s.letterNeeds q l).contains cl
    | none => false) ||
    (List.range 20).any (fun k => (s.courier k).descs.any (fun d => d.chained && d.ctx == x && d.desc.residence.contains cl)) ||
    ((tabGet none s.cx.images (16 * x + cl)).isSome && (List.range 16).any (fun m => (s.seqr x (16 * cl + m)).waitDone.isSome))

/-- Everything that needs several clusters at once now, with its context and clusters. -/
def State.needySets (s : State) : List ResSet :=
  (s.queues.filterMap (fun e => match s.headLetter e.1 with
    | some l =>
      let cs := s.letterNeeds e.1 l
      if 2 ≤ cs.length then some { want := .letter ⟨e.1, l.pm⟩, ctx := e.2.ctx.toNat, clusters := cs } else none
    | none => none)) ++
  ((List.range 20).map (fun k => (s.courier k).descs.filterMap (fun d =>
    let cs := d.desc.residence.filter s.clusterIn
    if d.chained && decide (2 ≤ cs.length) then some { want := .desc k d.id, ctx := d.ctx, clusters := cs } else none))).flatten

/-- A set is complete: its context is resident on each of its clusters. -/
def State.setWhole (s : State) (b : ResSet) : Bool := b.clusters.all (fun cl => s.residentOn cl b.ctx)

/-- The scheduler core's view of sets: arrivals join in order, a set that is complete or no longer wanted ends, and the next is
built (R476). -/
def State.schedule (s : State) : State :=
  let sets := s.needySets
  let wants := s.cx.wants.filter (fun w => sets.any (fun b => b.want == w))
  let wants := wants ++ ((sets.map (·.want)).filter (fun w => !wants.contains w))
  let build := match s.cx.build with
    | some b => if s.setWhole b || !wants.contains b.want then none else some b
    | none => none
  let build := match build with
    | some b => some b
    | none => (wants.filterMap (fun w => sets.find? (fun b => b.want == w))).find? (fun b => !s.setWhole b)
  { s with cx := { s.cx with wants := wants, build := build } }

/-- The context whose set is being built over a cluster: once it is resident there, the cluster is held for it (R476). -/
def State.heldFor (s : State) (cl : Nat) : Option Nat :=
  match s.cx.build with
  | some b => if b.clusters.contains cl then some b.ctx else none
  | none => none

/-! ## Pre-emption points (R477 to R479) -/

/-- Work of context `x` other than its cores touches cluster `cl`: descriptors, walks, bags with output there, operations on their
way to its fast-path objects. -/
def State.touches (s : State) (x cl : Nat) : Bool :=
  (List.range 20).any (fun k => (s.courier k).descs.any (fun d => d.active && d.ctx == x && (d.desc.clusters.contains cl || d.feeds cl))) ||
    s.mv.reqs.any (fun r => r.agent == .walker cl) ||
    s.srt.bags.any (fun b => s.letterCtx b.letter == x && (match s.bagSpec b with
      | some g => g.outCs && g.outSel == cl
      | none => false)) ||
    s.sync.ops.any (fun o => !o.key.hub && o.key.cl == cl && o.key.ctx == x)

/-- An idle point (R477). -/
def State.idlePoint (s : State) (x cl : Nat) : Bool :=
  !(s.liveLetters.any (fun e => s.letterCtx e.1 == x && (s.letterNeeds e.1.q e.2).contains cl)) && !s.touches x cl &&
    (rangeFrom (17 * cl) 17).all (fun c => (s.core c).attn.isNone)

/-- A member is at a wait, or has no stream (R478). -/
def State.memberWaits (s : State) (x cm : Nat) : Bool :=
  let q := s.seqr x cm
  q.streams.isEmpty || (q.waiting.isSome && q.sigq.isEmpty && (match s.coreOf (cmCl cm) (cmMem cm) with
    | some c => (s.core c).cmds.isEmpty && (s.core c).attn.isNone
    | none => true))

/-- A wait point (R478). -/
def State.waitPoint (s : State) (x cl : Nat) : Bool :=
  (rangeFrom (16 * cl) 16).all (fun cm => s.memberWaits x cm) && !s.touches x cl

/-! ## Choosing (R481, R482) -/

/-- CTX_ENTRY.PRIO. -/
def State.prio (s : State) (x : Nat) : Nat := s.fld .ctxEntry fCtxEntryPrio x

/-- Contexts ready on a cluster: those of R480, and the context whose set holds the cluster (R476). -/
def State.readyOn (s : State) (cl : Nat) : List Nat :=
  let xs := ((s.queues.filter (fun e => e.2.log2 != 0)).map (fun e => e.2.ctx.toNat)).eraseDups
  ((xs.filter (fun x => s.ctxState x == 2 && s.ctxReady cl x)) ++ (s.heldFor cl).toList).eraseDups

/-- The ready context of highest PRIO, of equals the one least recently resident on the cluster. -/
def State.bestOf (s : State) (cl : Nat) (xs : List Nat) : Option Nat :=
  xs.foldl (fun b x => match b with
    | none => some x
    | some y =>
      if s.prio y < s.prio x ∨ (s.prio x = s.prio y ∧ tabGet 0 s.cx.lastOn (16 * x + cl) < tabGet 0 s.cx.lastOn (16 * y + cl)) then some x
      else some y) none

/-- A switch is ordered: the cluster shows SWITCHING with the incoming context. -/
def State.orderSwitch (s : State) (cl : Nat) (out : Option Nat) (inn : Nat) : State :=
  let w : Switch := { out := out, inn := inn }
  let s := { s with cx := { s.cx with switch := tabSet none s.cx.switch cl (some w) } }
  (s.setFld .ctxResident fCtxResidentState cl 2).setFld .ctxResident fCtxResidentContext cl inn

/-- The scheduler core judges a cluster (R481). -/
def State.preempt (s : State) (cl : Nat) : State :=
  let s := s.schedule
  let ready := s.readyOn cl
  match s.resident cl with
  | none => match s.bestOf cl ready with
    | some x => s.orderSwitch cl none x
    | none => s
  | some r =>
    let idle := s.idlePoint r cl
    let wait := s.waitPoint r cl && s.fld .ctxEntry fCtxEntrySave r == 1
    let s := if s.waitPoint r cl then s else { s with cx := { s.cx with yielded := setErase cl s.cx.yielded } }
    let others := ready.filter (fun x => x != r)
    let higher := others.any (fun x => decide (s.prio r < s.prio x))
    let spent := s.cx.used.contains cl && s.fld .ctxEntry fCtxEntrySlice r != 0 && others.any (fun x => s.prio x == s.prio r)
    let yields := s.waitPoint r cl && s.cx.yielded.contains cl && s.fld .ctxSchedCfg fCtxSchedCfgWaitYield != 0 && !others.isEmpty
    if s.heldFor cl = some r ∨ !(idle || wait) ∨ !(higher || spent || yields) then s
    else
      match s.bestOf cl others with
      | some x => s.orderSwitch cl (some r) x
      | none => s

/-- The scheduler core and the cluster's control core are there, and no switch is under way (Table 12-6). -/
def State.schedOn (s : State) (cl : Nat) : Bool :=
  s.run && s.clusterIn cl && s.fwOn 2 && s.fwOn (3 + cl) && (tabGet none s.cx.switch cl).isNone

/-- PREEMPTION_POINT (R481). -/
def execPreemptionPoint (cl : Fin 16) (s : State) : Res := .next (if s.schedOn cl then s.preempt cl else s)

/-- SLICE_EXPIRY (R481, R482): a cluster held for a set counts no slice. -/
def execSliceExpiry (cl : Fin 16) (s : State) : Res :=
  .next (match s.resident cl with
    | some x =>
      if s.clocked ∧ s.heldFor cl ≠ some x ∧ s.fld .ctxEntry fCtxEntrySlice x ≠ 0 then
        { s with cx := { s.cx with used := setInsert cl s.cx.used } }
      else s
    | none => s)

/-- WAIT_YIELD_EXPIRY (R481). -/
def execWaitYieldExpiry (cl : Fin 16) (s : State) : Res :=
  .next (match s.resident cl with
    | some x =>
      if s.clocked ∧ s.waitPoint x cl ∧ s.fld .ctxSchedCfg fCtxSchedCfgWaitYield ≠ 0 then
        { s with cx := { s.cx with yielded := setInsert cl s.cx.yielded } }
      else s
    | none => s)

/-! ## The switch (R483) -/

/-- CONTEXT_SWITCH (R483). -/
def execContextSwitch (cl : Fin 16) (s : State) : Res :=
  .next (match tabGet none s.cx.switch cl.val with
    | some _ => if s.clocked then s.doSwitch cl else s
    | none => s)

/-- Step 5 of R483: the cluster becomes resident and its slice count starts (R482). -/
def State.switchDone (s : State) (cl : Nat) (w : Switch) : State :=
  let s := (s.setFld .ctxResident fCtxResidentState cl 1).setFld .ctxResident fCtxResidentContext cl w.inn
  let s := (s.bump .ctxResident fCtxResidentSwitches cl).countCtx w.inn 10
  let s := s.each (s.phasesNow cl) (fun s ph => s.notePhase cl ph)
  { s with cx := { s.cx with
      switch := tabSet none s.cx.switch cl none
      used := setErase cl s.cx.used
      yielded := setErase cl s.cx.yielded
      turns := s.cx.turns + 1
      lastOn := tabSet 0 s.cx.lastOn (16 * w.inn + cl) (s.cx.turns + 1) } }

/-- CONTEXT_SWITCH_DONE (R483). -/
def execContextSwitchDone (cl : Fin 16) (s : State) : Res :=
  .next (match tabGet none s.cx.switch cl.val with
    | some w => if s.clocked && w.phase == .moved then s.switchDone cl w else s
    | none => s)

/-! ## Reset (R489, R490) -/

/-- Regions that a context owns. -/
def State.regionsOf (s : State) (x : Nat) : List Nat := (List.range 255).filter (fun r => (s.region r).valid && (s.region r).owner == x)

/-- Steps 1 to 4 of a reset, flash requests into the context's regions included (R590). -/
def State.beginReset (s : State) (x : Nat) : State :=
  (s.resetContext x).abortFlReqs (fun r => (s.regionsOf x).contains r)

/-- CTX_CMD_RESET (R489): CONTEXT is written in any case. -/
def execCtxCmdReset (x : Fin 1024) (s : State) : Res :=
  .next (if !s.clocked then s
    else
      let busy := s.fld .ctxCmd fCtxCmdBusy == 1
      let s := s.setFld .ctxCmd fCtxCmdContext 0 x
      if busy || s.ctxState x != 2 then s else (s.setFld .ctxCmd fCtxCmdBusy 0 1).beginReset x)

/-- Nothing issued for a context is still on its way, flash operations for its regions included (R490). -/
def State.resetQuiet (s : State) (x : Nat) : Bool :=
  s.contextQuiet x && !(s.fl.progs.any (fun j => (s.regionsOf x).contains j.region))

/-- Step 5: saved images go, and the clusters on which the context is resident are zeroed and left empty; its objects there, in no
saved set, are fresh at its next residency (R189, R483). -/
def State.leaveClusters (s : State) (x : Nat) : State :=
  let s := { s with cx := { s.cx with
    images := tabClear s.cx.images (16 * x) (16 * x + 16)
    resetting := s.cx.resetting.filter (fun (y : Nat) => y != x) } }
  s.each ((List.range 16).filter (fun cl => s.residentOn cl x)) (fun s cl =>
    let own := (s.sync.objs.map (fun (e : Nat × SyncObj) => keySync e.1)).filter (fun k => !k.hub && k.cl == cl && k.ctx == x)
    ((s.each own (fun s k => (s.dropWaits k).setObj k {})).zeroCluster cl).setFld .ctxResident fCtxResidentState cl 0)

/-- CONTEXT_RESET_DONE (R490): the reset asked for in CTX_CMD ends. -/
def execContextResetDone (s : State) : Res :=
  .next (match s.cx.resetting.find? (fun x => s.ctxState x == 2 && s.resetQuiet x) with
    | some x => if s.clocked then (s.leaveClusters x).setFld .ctxCmd fCtxCmdBusy 0 0 else s
    | none => s)

/-! ## Enable and disable (R187, R491, R504 to R506) -/

/-- The lowest slab numbers that no context holds, failed slabs last. -/
def State.freeSlabs (s : State) : List Nat :=
  let free := (List.range 384).filter (fun p => !s.sync.slabsOf.any (fun e => e.2.contains p))
  let bad (p : Nat) : Bool := s.sync.failed.contains (slabKey 16 p)
  free.filter (fun p => !bad p) ++ free.filter bad

/-- A context is allotted `n` slabs in the hub (R187): it keeps those it holds; added slabs are written fresh (R189), and waits on
objects of removed slabs end with ORPHAN. -/
def State.allotSlabs (s : State) (x n : Nat) : State :=
  let cur := tabGet [] s.sync.slabsOf x
  let gone := (s.sync.objs.map (fun e => keySync e.1)).filter (fun k => k.hub && k.ctx == x && decide (512 * min cur.length n ≤ k.idx))
  let s := s.each gone (fun s k => (s.dropWaits k).setObj k {})
  let now := if n ≤ cur.length then cur.take n else cur ++ s.freeSlabs.take (n - cur.length)
  { s with sync := { s.sync with slabsOf := tabSet [] s.sync.slabsOf x now } }

/-- A context enters STARTING: its slabs are allotted and its counters start at 0 (R504, R713). -/
def State.ctxStart (s : State) (x : Nat) : State :=
  let s := { s with pmc := tabClear s.pmc (pmcCtx x 0) (pmcCtx (x + 1) 0) }
  (s.setFld .ctxEntry fCtxEntryState x 1).allotSlabs x (s.fld .ctxEntry fCtxEntrySyncSlabs x)

/-- A context enters DRAINING and goes through R490. -/
def State.ctxDrain (s : State) (x : Nat) : State := (s.setFld .ctxEntry fCtxEntryState x 3).beginReset x

/-- An enable or a disable of a context (R504 to R506). -/
def State.ctxRequest (s : State) (x : Nat) (on : Bool) : State :=
  let st := s.ctxState x
  if s.fld .ctxEntry fCtxEntryPending x = 1 then
    if (on && st == 1) || (!on && st == 3) then s.setFld .ctxEntry fCtxEntryPending x 0 else s
  else if on then
    if st = 0 then s.ctxStart x else if st = 3 then s.setFld .ctxEntry fCtxEntryPending x 1 else s
  else if st = 2 then s.ctxDrain x
  else if st = 1 then s.setFld .ctxEntry fCtxEntryPending x 1
  else s

/-- CONTEXT_START_DONE (R504): ON, or on to DRAINING where a disable was recorded. -/
def execContextStartDone (x : Fin 1024) (s : State) : Res :=
  .next (if s.clocked ∧ s.ctxState x = 1 then
      let p := s.fld .ctxEntry fCtxEntryPending x
      let s := (s.setFld .ctxEntry fCtxEntryState x 2).setFld .ctxEntry fCtxEntryPending x 0
      if p = 1 then s.ctxDrain x else s
    else s)

/-- CTX_ENTRY.CLUSTERS as the bound queues give it (Table 12-9). -/
def State.noteClusters (s : State) (x : Nat) : State :=
  s.setFld .ctxEntry fCtxEntryClusters x (((List.range 16).filter (s.boundTo x)).foldl (fun a cl => a + 2 ^ cl) 0)

/-- The pages of HBM that an extent maps. -/
def State.extentPages (s : State) (i : Nat) : List Nat :=
  if s.fld .ctxExtent fCtxExtentValid i = 1 then rangeFrom (s.fld .ctxExtent fCtxExtentHpage i) (s.fld .ctxExtent fCtxExtentPages i) else []

/-- A protection slot is emptied: its password goes with it (R589, R593). -/
def State.clearProt (s : State) (i : Nat) : State :=
  { s.setReg .flsProt i 0 0 with fl := { s.fl with pw := tabSet none s.fl.pw i none } }

/-- Bytes of table area that a region takes (R767): 8 for each stripe unit of a flash region, and the state of its experts. -/
def regionTables (g : Region) : Nat :=
  if !g.valid then 0
  else (if g.home = 0 then 0 else 8 * g.units) + (if g.kind = 2 then g.layers * g.experts * Config.expertBytes else 0)

/-- Table area is given back or taken. -/
def State.retable (s : State) (old new : Nat) : State := { s with kv := { s.kv with tableUsed := s.kv.tableUsed - old + new } }

/-- The experts of a region are forgotten. -/
def State.forgetExperts (s : State) (r : Nat) : State :=
  { s with tier := { s.tier with
      experts := tabClear s.tier.experts (expertKey r 0) (expertKey (r + 1) 0)
      marks := tabClear s.tier.marks (r * 2 ^ 16) ((r + 1) * 2 ^ 16) } }

/-- What goes with a region's descriptor: cache entries (R393), experts, table area; a board region's units are trimmed and its
protection slot is cleared, a parcel region is unbound and its content stays (R589). -/
def State.unmakeRegion (s : State) (r : Nat) : State :=
  let g := s.region r
  let s := ((s.cacheInv (fun x => x == r)).forgetExperts r).retable (regionTables g) 0
  let s := if g.home = 1 then
      let s := s.trimUnits r 0 g.units
      match s.protSlot r with
      | some i => s.clearProt i
      | none => s
    else s
  { s with
    fl := { s.fl with regionParcel := tabSet 0 s.fl.regionParcel r 0 }
    srt := { s.srt with held := s.srt.held.filter (fun (h : HeldSector) => h.region != r) } }

/-- A region's descriptor is deleted with its context (R491). -/
def State.dropRegion (s : State) (r : Nat) : State :=
  ((s.unmakeRegion r).each (List.range 8) (fun s w => s.setReg .ctxRegion r w 0)).noteFree

/-- What a disabled context gives back (R491): queue bindings, slabs with every object, proxies, pages, regions. -/
def State.releaseContext (s : State) (x : Nat) : State :=
  let s := s.each (s.queuesOf x) (fun s q => s.updQ q (fun _ => {}))
  let s := (s.allotSlabs x 0).noteClusters x
  let fast := (s.sync.objs.map (fun e => keySync e.1)).filter (fun k => k.ctx == x)
  let s := s.each fast (fun s k => (s.dropWaits k).setObj k {})
  let s := s.each (rangeFrom (64 * x) 64) (fun s i => s.setReg .olaProxy i 0 0)
  let pages := ((rangeFrom (64 * x) 64).map s.extentPages).flatten
  let s := s.each (rangeFrom (64 * x) 64) (fun s i => s.setReg .ctxExtent i 0 0)
  let s := s.each pages (fun s p => s.queueZero p x)
  s.each (s.regionsOf x) (fun s r => s.dropRegion r)

/-- CONTEXT_DRAIN_DONE (R491): OFF, or on to STARTING where an enable was recorded. -/
def execContextDrainDone (x : Fin 1024) (s : State) : Res :=
  .next (if s.clocked ∧ s.ctxState x = 3 ∧ s.cx.resetting.contains x.val ∧ s.resetQuiet x then
      let s := (s.leaveClusters x).releaseContext x
      let p := s.fld .ctxEntry fCtxEntryPending x
      let s := (s.setFld .ctxEntry fCtxEntryState x 0).setFld .ctxEntry fCtxEntryPending x 0
      if p = 1 then s.ctxStart x else s
    else s)

end Sys2Proof.Machine
end

