-- ==== Sys2Proof/Machine/Registers.lean ====
section
/-! DEFINITION. Register accesses from the host (R3 to R9, chapter 13, Tables 19-1 and 19-2): where an offset lies, what a read
answers, and the writes that have no behaviour of their own. -/

namespace Sys2Proof.Machine

/-! ## Where an offset lies -/

/-- The register, instance and word at an offset of context window `c` (Table 19-2). -/
def locateU (c off : Nat) : Option (RegName × Nat × Nat) :=
  let o := off / 8 * 8
  if 0x8000 ≤ o then some (.hifDoorbell, (o - 0x8000) / 8, 0)
  else if 0x800 ≤ o ∧ o < 0x800 + 64 * 255 then some (.ctxRegion, (o - 0x800) / 64, o % 64 / 8)
  else if 0x400 ≤ o ∧ o < 0x600 then some (.olaProxy, 64 * c + (o - 0x400) / 8, 0)
  else if 0x200 ≤ o ∧ o < 0x400 then some (.ctxExtent, 64 * c + (o - 0x200) / 8, 0)
  else
    match o with
    | 0x0000 => some (.synPortRef, 0, 0)
    | 0x0008 => some (.synPortData, 0, 0)
    | 0x0010 => some (.seqPortRef, 0, 0)
    | 0x0018 => some (.seqPortData, 0, 0)
    | 0x0020 => some (.pmcRef, 0, 0)
    | 0x0028 => some (.pmcData, 0, 0)
    | 0x0030 => some (.hifQportRef, 0, 0)
    | 0x0038 => some (.hifQportD, 0, 0)
    | 0x0040 => some (.hifQportD, 1, 0)
    | 0x0048 => some (.hifQportD, 2, 0)
    | 0x0050 => some (.hifQportD, 3, 0)
    | 0x0100 => some (.kvpGeom, c, 0)
    | 0x0108 => some (.kvpPool, c, 0)
    | 0x0110 => some (.kvpPoolBase, c, 0)
    | 0x0118 => some (.ctxEntry, c, 0)
    | 0x0120 => some (.ctxSaveBase, c, 0)
    | 0x0128 => some (.pwrCtxEnergy, c, 0)
    | 0x0130 => some (.hifRingCfg, c, 0)
    | 0x0138 => some (.hifRingCfg, 1024 + c, 0)
    | 0x0140 => some (.hifRingCons, c, 0)
    | 0x0148 => some (.hifRingCons, 1024 + c, 0)
    | 0x0150 => some (.hifHostWin, c, 0)
    | _ => none

/-- The register, instance and word that an access of a view reaches (R524, R525). -/
def locate (v : View) (off : Nat) : Option (RegName × Nat × Nat) :=
  match v with
  | .P => if off < 0x1000000 then regAt (off / 8 * 8) else none
  | .U => if off < 0x4000000 then locateU (off / 0x10000) (off % 0x10000) else none

/-- The context window of an access; the P-view has none. -/
def winOf (off : Nat) : Nat := off / 0x10000 % 1024

/-- An access touches the aperture RST_FW_WINDOW, or lies wholly inside it (R755). -/
def inAperture (v : View) (off len : Nat) : Bool := v == .P && decide (0x1000000 ≤ off ∧ off + len ≤ 0x1100000)
def touchesAperture (v : View) (off len : Nat) : Bool := v == .P && decide (off < 0x1100000 ∧ 0x1000000 < off + len)

/-- An access that R4 governs: its width or its alignment is none that R3 allows, or it lies partly inside the aperture. -/
def badAccess (v : View) (off len : Nat) : Bool :=
  !inAperture v off len && (touchesAperture v off len || !(len == 4 || len == 8) || off % len != 0)

/-- REG_ACCESS_MALFORMED (R4, Table 0-6). -/
def State.postMalformed (s : State) (v : View) (off len : Nat) (write : Bool) : State :=
  s.postDev
    { code := codeRegAccessMalformed
      detail := leBytes 4 off ++ leBytes 2 len ++ [BitVec.ofNat 8 ((if write then 1 else 0) + (if v == .U then 2 else 0))] }

/-- The bits that an access of `len` bytes at `off` covers of its register (R3). -/
def coverMask (off len : Nat) : Word := BitVec.ofNat 64 ((2 ^ (8 * len) - 1) * 2 ^ (8 * (off % 8)))

/-- The bits of a register's fields that a predicate picks. -/
def fieldMask (l : List Fl) (p : Fl → Bool) : Word :=
  BitVec.ofNat 64 ((l.filter p).foldl (fun a f => a + (2 ^ (f.hi + 1) - 2 ^ f.lo)) 0)

/-- A view lists a field (R9). -/
def Fl.seen (f : Fl) (v : View) : Bool := v == .P || f.u

/-- The selected image's FLAGS (Table 15-2): TEST_ENABLE and CTR_USER. -/
def State.testEnable (s : State) : Bool := (s.fld .cfgStatus fCfgStatusFlags).testBit 1
def State.ctrUser (s : State) : Bool := (s.fld .cfgStatus fCfgStatusFlags).testBit 2

/-- A register of the awl. -/
def isAwl (r : RegName) : Bool := [.awlCtl, .awlStatus, .awlInjAddr, .awlInjCtl, .awlXdelay, .awlBp, .awlSync, .awlArb].contains r

/-- A register of the blocks that run while STOPPED (R643), and one of the FLT registers. -/
def runsStopped (r : RegName) : Bool :=
  [.cfgStatus, .cfgCtl, .cfgDigest, .cfgLastCore, .cfgLastCluster, .cfgLastDie, .cfgLastUnit, .clkStatus, .rstFwCfg, .rstFwLoad,
   .rstFwStatus, .pwrCapCfg, .pwrThermCfg, .pwrBudget, .pwrStatus, .pwrState, .pwrCtxEnergy].contains r
def isFlt (r : RegName) : Bool :=
  [.fltDieStatus, .fltScrubCfg, .fltCeCfg, .fltCoreStatus, .fltArraySteer, .fltCoreCtl, .fltSramSpare, .fltHbmRowlog].contains r

/-! ## The selections of the port registers (R738) -/

/-- The number of a register that each view holds for itself. -/
def ownRef : RegName → Option Nat
  | .synPortRef => some 0
  | .seqPortRef => some 1
  | .pmcRef => some 2
  | .hifQportRef => some 3
  | _ => none

/-- A REF register of a view. In a U-view window CONTEXT reads the window's context, and CTX of PMC_REF reads 1 (R221, R728). -/
def State.refReg (s : State) (v : View) (win : Nat) (r : RegName) : Word :=
  match v, ownRef r with
  | .U, some k =>
    let w := tabGet 0 s.uregs (win * 8 + k)
    match r with
    | .synPortRef => putFl fSynPortRefContext w win
    | .pmcRef => putFl fPmcRefCtx (putFl fPmcRefContext w win) 1
    | _ => w
  | _, _ => s.reg r

/-- The counter that PMC_REF of a view selects (R714, R715, R718, R728). -/
def State.pmcSel (s : State) (v : View) (win : Nat) : Option Nat :=
  let r := s.refReg v win .pmcRef
  let ev := getFl fPmcRefEvent r
  let inst := getFl fPmcRefInstance r
  if v = .U ∧ s.ctrUser = false then none
  else if getFl fPmcRefCtx r = 1 then (if ev < 11 then some (pmcCtx (getFl fPmcRefContext r) ev) else none)
  else
    let size : Nat × Nat := match getFl fPmcRefKind r with
      | 0 => (272, 18)
      | 1 => (16, 5)
      | 2 => (4, 4)
      | 3 => (16, 3)
      | 4 => (6, 8)
      | 5 => (6, 6)
      | 6 => (16, 6)
      | 7 => (12, 9)
      | 8 => (1, 4)
      | 9 => (17, 3)
      | _ => (0, 0)
    if inst < size.1 ∧ ev < size.2 then some (pmcAgent (getFl fPmcRefKind r) inst ev) else none

/-- A word of a queue's descriptor (Table 4-9). -/
def State.qdescWord (s : State) (q w : Nat) : Word :=
  let x := s.queue q
  let st := match x.state with
    | .disabled => 0
    | .active => 1
    | .halted => 2
    | .paused => 3
  match w with
  | 0 => x.ringBase
  | 1 => BitVec.ofNat 64 (x.log2.toNat + 2 ^ 8 * x.loc.toNat + 2 ^ 16 * x.ctx.toNat + 2 ^ 32 * x.unit.toNat + 2 ^ 48 * st)
  | 2 => BitVec.ofNat 64 (x.head.toNat + 2 ^ 32 * x.tail.toNat)
  | _ => BitVec.ofNat 64 (x.accepted.toNat + 2 ^ 32 * x.completed.toNat)

/-- SEQ_PORT_DATA of a sequence (Table 7-17). -/
def State.seqWord (s : State) (n : Nat) : Word :=
  let q := s.sequence n
  let st := match q.state with
    | .free => 0
    | .idle => 1
    | .stepping => 2
    | .parking => 3
    | .parked => 4
    | .failed => 5
  BitVec.ofNat 64 (st * 2 ^ 61 + (if q.hungry then 2 ^ 60 else 0) + q.ctx % 1024 * 2 ^ 50 + q.epoch.toNat * 2 ^ 34 +
    q.pending % 512 * 2 ^ 25 + q.length % 2 ^ 25)

/-- SYN_PORT_DATA: the image of the object that SYN_PORT_REF names (R222). -/
def State.synWord (s : State) (v : View) (win : Nat) : Word :=
  match s.portObj v win with
  | some k => objImage k (s.obj k)
  | none => 0

/-! ## Reads -/

/-- The 64 bits of a register instance as a view shows them, before R643 and R721. -/
def State.shown (s : State) (v : View) (win : Nat) (r : RegName) (i w : Nat) : Word :=
  match r with
  | .synPortRef => s.refReg v win r
  | .seqPortRef => s.refReg v win r
  | .pmcRef => if v = .U ∧ s.ctrUser = false then 0 else s.refReg v win r
  | .hifQportRef => s.refReg v win r
  | .synPortData => s.synWord v win
  | .seqPortData =>
    let n := getFl fSeqPortRefSeq (s.refReg v win .seqPortRef)
    if v = .U ∧ (s.sequence n).ctx ≠ win then 0 else s.seqWord n
  | .pmcData => match s.pmcSel v win with
    | some k =>
      let c := (tabGet 0 s.pmc k).toNat
      BitVec.ofNat 64 (c % 2 ^ 48 + c / 2 ^ 48 * 2 ^ 63)
    | none => 0
  | .hifQportD =>
    let q := getFl fHifQportRefQueue (s.refReg v win .hifQportRef)
    if v = .P ∨ (s.queue q).seen v win then s.qdescWord q i else 0
  | .hifQdesc => s.qdescWord i w
  | .ctxRegion =>
    let g := s.region i
    if v = .U ∧ !(g.valid && (g.owner == win || g.shared)) then 0 else s.reg r i w
  | .cfgLastUnit => if s.fld .olaUnit fOlaUnitValid i = 1 then s.reg r i w else 0
  | .secPubData =>
    let k := s.fld .secPubIdx fSecPubIdxIdx
    if k ≤ 243 ∧ s.fld .secStatus fSecStatusIdReady = 1 then BitVec.ofNat 64 (leField Config.identityKey (8 * k) 8) else 0
  | .secAttData =>
    let k := s.fld .secAttIdx fSecAttIdxIdx
    if k ≤ 469 ∧ s.fld .secAttCtl fSecAttCtlBusy = 0 then BitVec.ofNat 64 (leField s.sec.report (8 * k) 8) else 0
  | _ => s.reg r i w

/-- A register answers reads now (R643, R721). -/
def State.answers (s : State) (v : View) (r : RegName) : Bool :=
  (s.clocked || (v == .P && (runsStopped r || (isFlt r && s.fld .fltDieStatus fFltDieStatusFatal == 1)))) &&
    (!isAwl r || r == .awlStatus || s.testEnable)

/-- What a well-formed read of `len` bytes at an offset answers (R3, R5, R7, R9, R524, R735, R755). -/
def State.readReg (s : State) (v : View) (off len : Nat) : Nat :=
  match locate v off with
  | some (r, i, w) =>
    if s.answers v r ∧ (v = .P ∨ (regRow r).u) then
      let m := fieldMask (regFields r) (fun f => f.seen v && f.acc != .wo)
      natBits ((s.shown v (winOf off) r i w) &&& m).toNat (8 * (off % 8) + 8 * len - 1) (8 * (off % 8))
    else 0
  | none => 0

/-! ## Writes -/

/-- A write changes the RW bits and clears the W1C bits it covers, as far as the view lists them (R3, R7, R9). An event that sets such a
bit in the FCLK of the write is queued behind it and leaves the bit set (R8, notes/assumptions/7.md). -/
def writeBits (l : List Fl) (v : View) (m old x : Word) : Word :=
  let rw := fieldMask l (fun f => f.acc == .rw && f.seen v) &&& m
  let w1c := fieldMask l (fun f => f.acc == .w1c && f.seen v) &&& m
  ((old &&& ~~~rw) ||| (x &&& rw)) &&& ~~~(x &&& w1c)

/-- A write whose trigger, or whose register, has a command of its own: not this command's. A trigger of a value without an effect is
ignored, and the write's other fields are taken (R7): CMD 5 to 7 of HIF_QPORT_REF, and, DESIGN CHOICE
(notes/assumptions/25.md), a GO with OP 0 or 5 to 7, which R608 discards. DESIGN CHOICE (notes/assumptions/71.md): HIF_LEASE takes no
write but a claim, a renewal and a release, so that a write of PERIOD without an ID is discarded. A write of
PWR_STATE clears REFUSED whatever its CMD; that of RESUME is this command with PWR_STATE_RESUME behind it
(notes/assumptions/79.md). -/
def ownCommand (r : RegName) (m x : Word) : Bool :=
  let t := x &&& m
  match r with
  | .hifDoorbell | .hifLease | .hifRingCons | .synPortData => true
  | .flsPw => false
  | .hifQportRef => decide (1 ≤ getFl fHifQportRefCmd t ∧ getFl fHifQportRefCmd t ≤ 4)
  | .pwrState => false
  | .flsReqCtl => getFl fFlsReqCtlGo t == 1 && decide (1 ≤ getFl fFlsReqCtlOp t ∧ getFl fFlsReqCtlOp t ≤ 4)
  | _ => t &&& fieldMask (regFields r) (fun f => f.acc == .wo) != 0

/-- A DUTY or a SKEW above 60 is written as 60 (R732). -/
def clampAwl (r : RegName) (x : Word) : Word :=
  match r with
  | .awlBp => putFl fAwlBpDuty x (min (getFl fAwlBpDuty x) 60)
  | .awlArb => putFl fAwlArbSkew x (min (getFl fAwlArbSkew x) 60)
  | _ => x

/-- A write of a register with no behaviour of its own; `m` are the bits it covers. -/
def State.writeReg (s : State) (v : View) (win : Nat) (r : RegName) (i w : Nat) (m x : Word) : State :=
  let l := regFields r
  let plain (s : State) : State := s.setReg r i w (writeBits l v m (s.reg r i w) x)
  if isAwl r then
    if v ≠ .P ∨ r = .awlStatus then s
    else if s.testEnable = false then s.setFld .awlStatus fAwlStatusCode 0 codeTestDenied.toNat
    else if r = .awlCtl ∧ getFl fAwlCtlEn (writeBits l v m (s.reg r) x) ≠ s.fld .awlCtl fAwlCtlEn then s
    else (s.setReg r i w (clampAwl r (writeBits l v m (s.reg r i w) x))).setFld .awlStatus fAwlStatusCode 0 codeOk.toNat
  else
    match r with
    | .pmcData => match s.pmcSel v win with
      | some k => if (x &&& m).toNat.testBit 63 then { s with pmc := tabUpd 0 s.pmc k (fun c => BitVec.ofNat 49 (c.toNat % 2 ^ 48)) } else s
      | none => s
    | .pmcBwCfg =>
      let n := getFl fPmcBwCfgLog2Window (writeBits l v m (s.reg r i w) x)
      if 10 ≤ n ∧ n ≤ 20 then plain s else s
    | .flsPw => s.setReg r i w ((s.reg r i w &&& ~~~m) ||| (x &&& m))
    | .rstFwLoad => if s.released then s else plain s
    | _ => match v, ownRef r with
      | .U, some k =>
        if r = .pmcRef ∧ s.ctrUser = false then s
        else { s with uregs := tabUpd 0 s.uregs (win * 8 + k) (fun old => writeBits l v m old x) }
      | _, _ => plain s

/-- REGISTER_WRITE. -/
def State.registerWrite (s : State) (v : View) (off len value : Nat) : State :=
  if inAperture v off len then s
  else if badAccess v off len then (if s.clocked then s.postMalformed v off len true else s)
  else
    match locate v off with
    | some (r, i, w) =>
      let m := coverMask off len
      let x := BitVec.ofNat 64 (value % 2 ^ (8 * len) * 2 ^ (8 * (off % 8)))
      if !(s.clocked || (v == .P && runsStopped r)) || (v == .U && !(regRow r).u) || ownCommand r m x then s
      else s.writeReg v (winOf off) r i w m x
    | none => s

/-- REGISTER_WRITE. -/
def execRegisterWrite (v : View) (off len value : Nat) (s : State) : Res := .next (s.registerWrite v off len value)

/-- MALFORMED_READ (R4, R755): all ones, and the access is logged. -/
def execMalformedRead (v : View) (off len : Nat) (s : State) : Res :=
  .next (if badAccess v off len then
      (if s.clocked then s.postMalformed v off len false else s).toHost (.regData (List.replicate len 0xFF))
    else s)

end Sys2Proof.Machine
end

