-- ==== Sys2Proof/Machine/Firmware.lean ====
section
/-! DEFINITION. The Herja firmware: loading, restarts and what waits for a core (chapter 12). -/

namespace Sys2Proof.Machine

/-! ## Loading (R494 to R496, R755) -/

/-- RST_FW_WINDOW_WRITE (R755): the bytes of a write that lies wholly inside the aperture, `off` counting from its base, until loading
has been released (R496); one that lies partly inside is discarded and logged (R4). -/
def execRstFwWindowWrite (off : Nat) (data : List Byte) (s : State) : Res :=
  .next (if 2 ^ 20 < off + data.length then
      if s.clocked then s.postMalformed .P (0x1000000 + off) data.length true else s
    else if s.released then s
    else { s with fw := { s.fw with window := memWrite s.fw.window off data } })

/-- RST_FW_LOAD_GO (R495, R496): IMAGE and BYTES are written, and the image is taken for verification. -/
def execRstFwLoadGo (image : Fin 4) (bytes : BitVec 21) (s : State) : Res :=
  .next (if s.released then s
    else
      let st := s.fld .rstFwLoad fRstFwLoadStatus
      let s := (s.setFld .rstFwLoad fRstFwLoadImage 0 image).setFld .rstFwLoad fRstFwLoadBytes 0 bytes.toNat
      if st = 1 ∨ st = 3 then
        { s.setFld .rstFwLoad fRstFwLoadStatus 0 2 with
          fw := { s.fw with verifying := some (image.val, memRead s.fw.window 0 (min bytes.toNat (2 ^ 20))) } }
      else s)

/-- A firmware core's bookkeeping. -/
def State.fwCore (s : State) (f : Nat) : FwCore := tabGet {} s.fw.cores f
def State.updFw (s : State) (f : Nat) (g : FwCore → FwCore) : State :=
  { s with fw := { s.fw with cores := tabUpd {} s.fw.cores f g } }

/-- RST_FW_STATUS.STATE. -/
def State.setFwState (s : State) (f st : Nat) : State := s.setFld .rstFwStatus fRstFwStatusState f st

/-- All four images are verified (R496): the cores are released and go through phases 2 to 4 of their start (Table 12-8). -/
def State.releaseFw (s : State) : State :=
  if s.fld .rstFwLoad fRstFwLoadVerified = 15 then
    (s.setFld .rstFwLoad fRstFwLoadStatus 0 4).each (List.range 19) (fun s f => (s.setFwState f 1).updFw f (fun c => { c with phase := 2 }))
  else s

/-- No image is being verified. -/
def State.endVerify (s : State) : State := { s with fw := { s.fw with verifying := none } }

/-- The hub holds the image of a kind with its digest. -/
def State.keepImage (s : State) (kind : Nat) (b : List Byte) : State :=
  { s with
    fw := { s.fw with copies := tabSet none s.fw.copies kind (some (b, Config.shake256 b)) }
    flt := { s.flt with fwPoison := setErase kind s.flt.fwPoison } }

/-- VERIFIED shows one more image. -/
def State.markVerified (s : State) (kind : Nat) : State :=
  s.setFld .rstFwLoad fRstFwLoadVerified 0 (s.fld .rstFwLoad fRstFwLoadVerified ||| 2 ^ kind)

/-- The verification of an image ends (R495, R695). -/
def State.fwVerified (s : State) (kind : Nat) (b : List Byte) : State :=
  match fwReason b kind b.length with
  | 0 => (((s.endVerify.keepImage kind b).markVerified kind).setFld .rstFwLoad fRstFwLoadStatus 0 1).releaseFw
  | r => (s.endVerify.setFld .rstFwLoad fRstFwLoadStatus 0 3).postSignature (2 + kind) r

/-- FW_VERIFY_DONE (R495, R496). -/
def execFwVerifyDone (s : State) : Res :=
  .next (match s.fw.verifying with
    | some (kind, b) => s.fwVerified kind b
    | none => s)

/-! ## Restarts (R497 to R503) -/

/-- FIRMWARE_RESTART (Table 12-7). -/
def State.fwEvent (s : State) (f cause outcome : Nat) (cclk : BitVec 32) : State :=
  s.postDev { code := codeFirmwareRestart
              detail := [BitVec.ofNat 8 f, BitVec.ofNat 8 cause, BitVec.ofNat 8 outcome, 0] ++ leBytes 4 cclk.toNat ++ leBytes 4 0 ++
                leBytes 4 (s.fwCore f).restarts }

/-- A cause of R497 meets a core that runs or starts: it restarts, or is held for good where it has been restarted RESTART_MAX times
within 800,000,000 CCLK (R500). How many of its restarts fall into that time is free, up to their number. -/
def State.fwRestart (s : State) (f cause : Nat) : State :=
  let st := s.fld .rstFwStatus fRstFwStatusState f
  if !s.clocked ∨ (st ≠ 2 ∧ st ≠ 1) then s
  else
    let n := (s.fwCore f).restarts
    let (w, s) := s.draw
    let recent := w.toNat % (n + 1)
    let s := s.setFld .rstFwStatus fRstFwStatusLastCause f cause
    if s.fld .rstFwCfg fRstFwCfgRestartMax ≤ recent then
      (((s.setFwState f 0).setFld .rstFwStatus fRstFwStatusGivenUp f 1).updFw f (fun c => { c with phase := 0, cause := cause })).fwEvent
        f cause 2 0
    else
      ((s.setFwState f 1).bumpSat .rstFwStatus fRstFwStatusRestarts f).updFw f
        (fun c => { c with phase := 1, cause := cause, restarts := c.restarts + 1 })

/-- The four causes of R497. -/
def execFwWatchdogExpiry (f : Fin 19) (s : State) : Res := .next (s.fwRestart f 1)
def execFwComparisonFail (f : Fin 19) (s : State) : Res := .next (s.fwRestart f 2)
def execFwException (f : Fin 19) (s : State) : Res := .next (s.fwRestart f 3)
def execFwLocalMemoryUe (f : Fin 19) (s : State) : Res := .next (s.fwRestart f 4)

/-- The image of a core (Table 12-4). -/
def fwImage (f : Nat) : Nat := min f 3

/-- The digest of phase 3 agrees: the hub's copy reads as verified (R499, Table 16-7). -/
def State.fwDigestOk (s : State) (f : Nat) : Bool :=
  !s.flt.fwPoison.contains (fwImage f) && (match tabGet none s.fw.copies (fwImage f) with
    | some (b, d) => Config.shake256 b == d
    | none => false)

/-- FW_RESTART_PHASE_DONE (R498, R499). -/
def State.fwPhase (s : State) (f : Nat) : State :=
  let c := s.fwCore f
  if c.phase = 1 ∨ c.phase = 2 then s.updFw f (fun c => { c with phase := c.phase + 1 })
  else if c.phase = 3 then
    if s.fwDigestOk f then s.updFw f (fun c => { c with phase := 4 })
    else
      (((s.setFwState f 0).setFld .rstFwStatus fRstFwStatusDigestFail f 1).updFw f (fun c => { c with phase := 0 })).fwEvent f c.cause 1 0
  else s

/-- FW_RESTART_PHASE_DONE. -/
def execFwRestartPhaseDone (f : Fin 19) (s : State) : Res := .next (if s.clocked then s.fwPhase f else s)

/-- The security core appends the margin changes to the trim block (R639). -/
def State.appendTrim (s : State) : State := { s with pw := { s.pw with trim := s.pw.margin } }

/-- A core reports ready: what waited for it goes on (R498, R502, R503). -/
def State.fwUp (s : State) (f : Nat) (cclk : BitVec 32) : State :=
  let c := s.fwCore f
  let s := (s.setFwState f 2).updFw f (fun c => { c with phase := 0 })
  let s := if c.cause = 0 then s else s.fwEvent f c.cause 0 cclk
  if f = 0 then s.appendTrim.flKick.keyKick else s

/-- FW_READY. -/
def execFwReady (f : Fin 19) (cclk : BitVec 32) (s : State) : Res :=
  .next (if s.clocked ∧ (s.fwCore f).phase = 4 then s.fwUp f cclk else s)

end Sys2Proof.Machine
end

