-- ==== Sys2Proof/Machine/HostLink.lean ====
section
/-! DEFINITION. The host's accesses to HBM, its snoops, and its freeing of ring records (R520 to R529, R545, R546, R666). -/

namespace Sys2Proof.Machine

/-! ## CXL.mem (R520, R527, R528, R665, R666) -/

/-- The last HBM byte that the HDM decoder reaches (R527). -/
def hdmLimit : Nat := 0x323FFFFFFF

/-- The CXL.cache request that carries an access of the device to host memory (R521). -/
inductive D2h | rdCurr | itoMWr | woWrInv
  deriving DecidableEq, Repr

/-- A read uses RdCurr, a write of whole lines ItoMWr, one of a part of a line WOWrInv with byte enables (R521). -/
def d2h : Out → Option D2h
  | .hostRead _ _ => some .rdCurr
  | .hostWrite a bs => some (if a % 64 = 0 ∧ bs.length % 64 = 0 then .itoMWr else .woWrInv)
  | _ => none

/-- A host read of a line of HBM (R527): it waits at the line's port. -/
def State.hostRead (s : State) (addr : Nat) (rd : ReadRes) : State :=
  let a := addr / 64 * 64
  if !s.clocked ∨ hdmLimit < addr then s
  else
    let (id, s) := s.newOutside (.hostRead rd)
    s.askOutside srcHost id 0 1 a

/-- A host write of a line of HBM, or of the part of it that `be` enables (R528): it waits at the line's port; one of the table area is
discarded. -/
def State.hostWrite (s : State) (addr : Nat) (be : BitVec 64) (data : List Byte) : State :=
  let a := addr / 64 * 64
  if !s.clocked ∨ hdmLimit < addr then s
  else if s.tablePage (a / 2 ^ 21) then s.toHost (.memDone a)
  else
    let (id, s) := s.newOutside (.hostWrite be data)
    s.askOutside srcHost id 0 1 a

/-- MEM_RD. -/
def execMemRd (addr : Nat) (rd : ReadRes) (s : State) : Res := .next (s.hostRead addr rd)

/-- MEM_RDDATA. -/
def execMemRdData (addr : Nat) (rd : ReadRes) (s : State) : Res := .next (s.hostRead addr rd)

/-- MEM_WR. -/
def execMemWr (addr : Nat) (data : List Byte) (s : State) : Res := .next (s.hostWrite addr (BitVec.allOnes 64) data)

/-- MEM_WRPTL (R666). -/
def execMemWrPtl (addr : Nat) (be : BitVec 64) (data : List Byte) (s : State) : Res := .next (s.hostWrite addr be data)

/-- MEM_SPECRD: accepted and ignored (R520). -/
def execMemSpecRd (_addr : Nat) (s : State) : Res := .next s

/-- H2D_SNOOP: answered RspIHitI (R520, R521). -/
def execH2dSnoop (addr : Nat) (s : State) : Res := .next (s.toHost (.snoopRsp addr))

/-! ## Freeing records (R545, R546) -/

/-- A ring is seen from a view: a U-view window sees its context's two rings. -/
def ringSeen (v : View) (win ring : Nat) : Bool := v == .P || ring == win || ring == 1024 + win

/-- CONS moves on where it stays between its present value and PROD; the write arms the ring again, and a ring that still holds
records sends its message at once. -/
def State.freeRecords (s : State) (ring : Nat) (cons : BitVec 32) : State :=
  let cur : BitVec 32 := BitVec.ofNat 32 (s.fld .hifRingCons fHifRingConsCons ring)
  let prod : BitVec 32 := BitVec.ofNat 32 (s.fld .hifRingCons fHifRingConsProd ring)
  let s := if (cons - cur).toNat ≤ (prod - cur).toNat then s.setFld .hifRingCons fHifRingConsCons ring cons.toNat else s
  let s := s.setFld .hifRingCfg fHifRingCfgArmed ring 1
  if s.fld .hifRingCfg fHifRingCfgIrqEn ring = 1 ∧ s.fld .hifRingCons fHifRingConsCons ring ≠ prod.toNat then
    ((s.setFld .hifRingCfg fHifRingCfgArmed ring 0).toHost (.msix (ringVector ring))).count 8 0 3
  else s

/-- HIF_RING_CONS_WRITE. -/
def execHifRingConsWrite (v : View) (win : Fin 1024) (ring : Fin 2049) (cons : BitVec 32) (s : State) : Res :=
  .next (if s.clocked && ringSeen v win ring then s.freeRecords ring cons else s)

end Sys2Proof.Machine
end

