-- ==== Sys2Proof/Machine/Txn.lean ====
section
/-! DEFINITION. The life of transactions up to their check, driver leases, and the host link's modules (R515 to R519, R532 to R534,
R547 to R559). -/

namespace Sys2Proof.Machine

/-! ## Slots (R547, R557, R558) -/

/-- A transaction slot. -/
def State.txn (s : State) (i : Nat) : Txn := tabGet {} s.host.txns i

/-- Change a transaction slot. -/
def State.updTxn (s : State) (i : Nat) (f : Txn → Txn) : State :=
  { s with host := { s.host with txns := tabUpd {} s.host.txns i f } }

/-- TXN_STATUS.STATE: 0 IDLE, 1 OPEN, 2 CHECKING, 3 ADOPTING. -/
def State.txnState (s : State) (i : Nat) : Nat := s.fld .txnStatus fTxnStatusState i

/-- Set TXN_STATUS.STATE and CODE. -/
def State.setTxnState (s : State) (i st : Nat) : State := s.setFld .txnStatus fTxnStatusState i st
def State.setTxnCode (s : State) (i : Nat) (c : Code) : State := s.setFld .txnStatus fTxnStatusCode i c.toNat

/-- A transaction rolls back with a code; a timeout and the loss of the owner are posted (R557, R558). -/
def State.rollback (s : State) (i : Nat) (c : Code) : State :=
  let t := s.txn i
  let s := if c = codeTxnTimeout ∨ c = codeTxnOwnerLost then
      s.postDev
        { code := c
          detail := [BitVec.ofNat 8 i, BitVec.ofNat 8 t.domains] ++ leBytes 2 (s.fld .txnStatus fTxnStatusWrites i) ++
            List.replicate 8 0 ++ [BitVec.ofNat 8 t.owner] }
    else s
  ((s.updTxn i (fun _ => {})).setTxnState i 0).setTxnCode i c

/-- Some slot holds a domain of a mask. -/
def State.domainsHeld (s : State) (mask : Nat) : Bool := (List.range 8).any (fun j => s.txnState j != 0 && (s.txn j).domains &&& mask != 0)

/-- A lease slot is held. -/
def State.leaseLive (s : State) (k : Nat) : Bool := s.fld .hifLease fHifLeaseId k != 0

/-- The OWNER and DOMAINS that a write of TXN_CTL carries. -/
def State.keepCtl (s : State) (i owner domains : Nat) : State :=
  (s.setFld .txnCtl fTxnCtlOwner i owner).setFld .txnCtl fTxnCtlDomains i domains

/-- OPEN (R552). -/
def State.txnOpen (s : State) (i owner domains : Nat) : State :=
  if s.txnState i ≠ 0 then s.setTxnCode i codeTxnBusy
  else
    let s := s.keepCtl i owner domains
    if s.domainsHeld domains then s.setTxnCode i codeTxnBusy
    else if !s.leaseLive owner then s.setTxnCode i codeTxnOwnerLost
    else if domains = 0 then s.setTxnCode i codeTxnAborted
    else
      let s := (s.updTxn i (fun _ => { domains := domains, owner := owner })).setTxnState i 1
      let s := s.bump .txnStatus fTxnStatusSeq i
      (s.setFld .txnStatus fTxnStatusAdopted i 0).setFld .txnStatus fTxnStatusWrites i 0

/-- TXN_OPEN. -/
def execTxnOpen (slot : Fin 8) (owner : Fin 16) (domains : BitVec 7) (s : State) : Res :=
  .next (if s.clocked then s.txnOpen slot owner domains.toNat else s)

/-- TXN_COMMIT (R555). -/
def execTxnCommit (slot : Fin 8) (owner : Fin 16) (domains : BitVec 7) (s : State) : Res :=
  .next (if !s.clocked then s
    else
      let s := s.keepCtl slot owner domains.toNat
      if s.txnState slot = 1 then s.setTxnState slot 2 else s)

/-- TXN_ABORT (R557). -/
def execTxnAbort (slot : Fin 8) (owner : Fin 16) (domains : BitVec 7) (s : State) : Res :=
  .next (if !s.clocked then s
    else
      let s := s.keepCtl slot owner domains.toNat
      if s.txnState slot = 1 then s.rollback slot codeTxnAborted else s)

/-- TXN_TIMEOUT (R558): a TIMEOUT of 0 sets no limit. -/
def execTxnTimeout (slot : Fin 8) (s : State) : Res :=
  .next (if s.clocked ∧ s.txnState slot = 1 ∧ s.fld .txnCfg fTxnCfgTimeout ≠ 0 then s.rollback slot codeTxnTimeout else s)

/-! ## Shadow writes (R553, R554, R562) -/

/-- The domain of a register, by its bit (Table 13-5). -/
def domainOf : RegName → Nat → Option Nat
  | .olaPortCfg, _ => some 6
  | .olaRoute, _ => some 6
  | .olaUnit, _ => some 6
  | .olaRouteEpoch, _ => some 6
  | .fltCoreCtl, _ => some 0
  | .ctxEntry, _ => some 4
  | .ctxSaveBase, _ => some 4
  | .ctxExtent, _ => some 4
  | .ctxRegion, _ => some 4
  | .kvpGeom, _ => some 4
  | .kvpPool, _ => some 4
  | .kvpPoolBase, _ => some 4
  | .olaProxy, _ => some 4
  | .hifQdesc, w => if w < 2 then some 4 else none
  | .hifRingCfg, _ => some 4
  | .hifHostWin, _ => some 4
  | .flsProt, _ => some 3
  | .kvpEdit, _ => some 5
  | .crrBwSplit, _ => some 2
  | .pwrCapCfg, _ => some 1
  | .pwrThermCfg, _ => some 1
  | .synFillerCfg, _ => some 1
  | _, _ => none

/-- The OPEN slot that holds a domain. -/
def State.openFor (s : State) (d : Nat) : Option Nat := (List.range 8).find? (fun j => s.txnState j == 1 && (s.txn j).domains.testBit d)

/-- A P-view write to a register of a domain: recorded by the OPEN transaction that holds the domain, discarded where none does. -/
def State.shadowWrite (s : State) (off len value : Nat) : State :=
  if inAperture .P off len then s
  else if badAccess .P off len then (if s.clocked then s.postMalformed .P off len true else s)
  else
    match locate .P off with
    | none => s
    | some (r, _, w) =>
      match (domainOf r w).bind s.openFor with
      | none => s
      | some i =>
        if !s.clocked then s
        else if 256 ≤ s.fld .txnStatus fTxnStatusWrites i then s.rollback i codeTxnFull
        else
          let e : Shadow := { off := off, len := len, value := value % 2 ^ (8 * len) }
          (s.updTxn i (fun t => { t with shadow := t.shadow ++ [e] })).bump .txnStatus fTxnStatusWrites i

/-- SHADOW_WRITE. -/
def execShadowWrite (off len value : Nat) (s : State) : Res := .next (s.shadowWrite off len value)

/-! ## Leases (R519, R532 to R534) -/

/-- A lease is lost: its slot is free, and its owner's open transactions roll back. -/
def State.loseLease (s : State) (k : Nat) : State :=
  let s := s.setFld .hifLease fHifLeaseId k 0
  s.each (List.range 8) (fun s i => if s.txnState i = 1 ∧ (s.txn i).owner = k then s.rollback i codeTxnOwnerLost else s)

/-- A write of HIF_LEASE claims a free slot or renews its own (R532, R533). -/
def execHifLeaseClaim (slot : Fin 16) (id period : BitVec 16) (s : State) : Res :=
  .next (
    let cur := s.fld .hifLease fHifLeaseId slot
    if !s.clocked ∨ period = 0 ∨ id = 0 ∨ (cur ≠ 0 ∧ cur ≠ id.toNat) then s
    else (s.setFld .hifLease fHifLeaseId slot id.toNat).setFld .hifLease fHifLeasePeriod slot period.toNat)

/-- A write of HIF_LEASE with RELEASE frees the slot. -/
def execHifLeaseRelease (slot : Fin 16) (id : BitVec 16) (s : State) : Res :=
  .next (
    let cur := s.fld .hifLease fHifLeaseId slot
    if !s.clocked ∨ cur = 0 ∨ cur ≠ id.toNat then s else s.loseLease slot)

/-- LEASE_EXPIRY. -/
def execLeaseExpiry (slot : Fin 16) (s : State) : Res := .next (if s.clocked ∧ s.leaseLive slot then s.loseLease slot else s)

/-- Every lease ends (R519). -/
def State.endLeases (s : State) : State := s.each (List.range 16) (fun s k => if s.leaseLive k then s.loseLease k else s)

/-- HOST_HOT_RESET: the data path keeps running. -/
def execHostHotReset (s : State) : Res := .next s.endLeases

/-! ## The modules of the host link (R516 to R519) -/

/-- A module's width and redundant lanes: SPARE_SWITCHED where a lane comes newly into use or the width changes (R518), and every
lease ends where no module is left (R519); what waits for the host goes out once the link is up. -/
def State.ucieSet (s : State) (m w tx rx : Nat) : State :=
  let new := (tx - s.fld .hifLinkStatus fHifLinkStatusTxRed m) + (rx - s.fld .hifLinkStatus fHifLinkStatusRxRed m)
  let changed := s.ucieWidth m ≠ w ∨ new ≠ 0
  let s := (s.setFld .hifLinkStatus fHifLinkStatusWidth m w).bumpSat .hifLinkStatus fHifLinkStatusRepairs m new
  let s := (s.setFld .hifLinkStatus fHifLinkStatusTxRed m tx).setFld .hifLinkStatus fHifLinkStatusRxRed m rx
  let s := { s with host := { s.host with retraining := setErase m s.host.retraining } }
  let s := if changed then (s.hostFlush).spareSwitched (0x40 + m) w (tx + rx) else s.hostFlush
  if (List.range 4).all (fun k => s.ucieWidth k == 0) then s.endLeases else s

/-- UCIE_MODULE_TRAIN (R516): at start, and at the end of a retrain. -/
def execUcieModuleTrain (m : Fin 4) (t : LaneTest) (s : State) : Res :=
  .next (if s.ucieWidth m ≠ 0 ∧ !s.host.retraining.contains m.val then s
    else if t.txBad ≤ 4 ∧ t.rxBad ≤ 4 then s.ucieSet m 2 t.txBad t.rxBad
    else if t.halfUsable then s.ucieSet m 1 0 0
    else s.ucieSet m 0 0 0)

/-- UCIE_RETRAIN (R517). -/
def execUcieRetrain (m : Fin 4) (s : State) : Res :=
  .next (if s.ucieWidth m = 0 ∨ s.host.retraining.contains m.val then s
    else
      let s := s.bumpSat .hifLinkStatus fHifLinkStatusRetrains m
      { s with host := { s.host with retraining := setInsert m s.host.retraining } })

/-- UCIE_RETRAIN_TIMEOUT (R517). -/
def execUcieRetrainTimeout (m : Fin 4) (s : State) : Res :=
  .next (if s.host.retraining.contains m.val then s.ucieSet m 0 0 0 else s)

end Sys2Proof.Machine
end

