-- ==== Sys2Proof/Machine/TxnCheck.lean ====
section
/-! DEFINITION. The checks of a commit (R555): the shadow writes applied to a copy of the state, and what each domain's chapter
refuses. -/

namespace Sys2Proof.Machine

/-! ## Shadow writes on a copy (R553, R555) -/

/-- The bits of a register that a transaction may set: all but those that only the device writes. -/
def cfgMask (r : RegName) (w : Nat) : Word :=
  match r with
  | .ctxEntry => fieldMask [fCtxEntryEn, fCtxEntrySave, fCtxEntryPrio, fCtxEntrySlice, fCtxEntrySyncSlabs] (fun _ => true)
  | .kvpPool => fieldMask [fKvpPoolPolicy, fKvpPoolPinAuto, fKvpPoolFlashRegion, fKvpPoolPoolPages] (fun _ => true)
  | .hifRingCfg => fieldMask [fHifRingCfgIrqEn, fHifRingCfgLoc, fHifRingCfgLog2Entries, fHifRingCfgRingBase] (fun _ => true)
  | .crrBwSplit => fieldMask [fCrrBwSplitMode, fCrrBwSplitRemote, fCrrBwSplitWrite, fCrrBwSplitRead, fCrrBwSplitWindow] (fun _ => true)
  | .flsProt => fieldMask [fFlsProtValid, fFlsProtRegion] (fun _ => true)
  | .ctxRegion => if w = 0 then ~~~(BitVec.ofNat 64 (2 ^ 19)) else BitVec.allOnes 64
  | _ => fieldMask (regFields r) (fun _ => true)

/-- The bits and the value of a shadow write within its register. -/
def Shadow.mask (e : Shadow) : Word := coverMask e.off e.len
def Shadow.word (e : Shadow) : Word := BitVec.ofNat 64 (e.value * 2 ^ (8 * (e.off % 8)))

/-- The register of a shadow write. -/
def Shadow.reg (e : Shadow) : Option (RegName × Nat × Nat) := locate .P e.off

/-- The domain of a shadow write. -/
def Shadow.domain (e : Shadow) : Option Nat := e.reg.bind (fun x => domainOf x.1 x.2.2)

/-- A word with a shadow write's half replaced. -/
def Shadow.on (e : Shadow) (old : Word) : Word := (old &&& ~~~e.mask) ||| (e.word &&& e.mask)

/-- A shadow write of a plain register changes the bits that it covers and that a transaction may set. -/
def State.applyShadow (t : State) (e : Shadow) : State :=
  match e.reg with
  | some (r, i, w) =>
    if r = .hifQdesc ∨ r = .kvpEdit then t
    else
      let c := cfgMask r w
      let old := t.reg r i w
      t.setReg r i w ((old &&& ~~~c) ||| (e.on old &&& c))
  | none => t

/-- The shadow writes of a domain. -/
def Txn.of (t : Txn) (d : Nat) : List Shadow := t.shadow.filter (fun e => e.domain == some d)

/-- The copy after the plain registers of a domain. -/
def State.copyDomain (s : State) (t : Txn) (d : Nat) : State := s.each (t.of d) (fun c e => c.applyShadow e)

/-- A queue as a commit plans it: D0 and D1 (STATE left out), whether it is bound, whether an earlier shadow write unbound it, and
whether R549 refuses a write of it. -/
structure QPlan where
  d0 : Word
  d1 : Word
  bound : Bool
  unb : Bool := false
  bad : Bool := false
  deriving DecidableEq, Repr

/-- D1 without STATE. -/
def noState (w : Word) : Word := w &&& ~~~(BitVec.ofNat 64 (0xFF * 2 ^ 48))

/-- A queue's plan before the commit. -/
def State.qStart (s : State) (q : Nat) : QPlan := { d0 := s.qdescWord q 0, d1 := noState (s.qdescWord q 1), bound := (s.queue q).bound }

/-- A shadow write of D0 or D1 (R549, R562). -/
def QPlan.write (p : QPlan) (w : Nat) (e : Shadow) : QPlan :=
  if w = 0 then
    if p.bound && !p.unb then { p with bad := true } else { p with d0 := e.on p.d0 }
  else
    let d1 := noState (e.on p.d1)
    if d1.toNat % 256 = 0 then { p with d1 := d1, bound := false, unb := p.unb || p.bound }
    else if p.bound then { p with bad := true }
    else { p with d1 := d1, bound := true }

/-- The plans of the queues that a transaction writes. -/
def State.qPlans (s : State) (t : Txn) : Tab (Option QPlan) :=
  (t.of 4).foldl (fun m e => match e.reg with
    | some (.hifQdesc, q, w) => tabSet none m q (some (((tabGet none m q).getD (s.qStart q)).write w e))
    | _ => m) []

/-- The queue that a plan leaves: newly bound (R537), unbound, or as it was. -/
def QPlan.queue (p : QPlan) (old : Queue) : Queue :=
  let n := p.d1.toNat
  if p.bound then
    if old.bound && !p.unb then old
    else
      { ringBase := p.d0, log2 := BitVec.ofNat 8 (n % 256), loc := BitVec.ofNat 8 (n / 2 ^ 8), ctx := BitVec.ofNat 16 (n / 2 ^ 16)
        unit := BitVec.ofNat 16 (n / 2 ^ 32), state := .active }
  else if old.bound && !p.unb then old
  else { ringBase := p.d0 }

/-- A queue is newly bound, or unbound, by its plan. -/
def QPlan.binds (p : QPlan) (old : Queue) : Bool := p.bound && (!old.bound || p.unb)
def QPlan.unbinds (p : QPlan) (old : Queue) : Bool := old.bound && p.unb

/-- The copy with the planned queues. -/
def State.copyQueues (s : State) (m : Tab (Option QPlan)) : State :=
  s.each m (fun c e => match e.2 with
    | some p => c.updQ e.1 (fun old => p.queue old)
    | none => c)

/-! ## The context table (R329, R334, R473, R508, R549, R550, R567, R762, R763, R767) -/

/-- VALID extents: context, first HBM page, first window page, pages. -/
def State.extents (s : State) : List (Nat × Nat × Nat × Nat) :=
  (s.regs.filter (fun e => decide (0x300000 ≤ e.1 ∧ e.1 < 0x380000) && getFl fCtxExtentValid e.2 == 1)).map (fun e =>
    ((e.1 - 0x300000) / 512, getFl fCtxExtentHpage e.2, getFl fCtxExtentWpage e.2, getFl fCtxExtentPages e.2))

/-- Every two elements of a list stand in a relation. -/
def allPairs {α : Type} (p : α → α → Bool) : List α → Bool
  | [] => true
  | x :: xs => xs.all (p x) && allPairs p xs

/-- Two ranges of numbers share none. -/
def apart (a n b m : Nat) : Bool := decide (a + n ≤ b ∨ b + m ≤ a)

/-- A page counted in FREE_PAGES: outside the table area, mapped by no extent, and not waiting to be zeroed. -/
def State.pageFree (s : State) (h : Nat) : Bool :=
  !s.tablePage h && decide (h < s.fld .ctxHbmInfo fCtxHbmInfoTotalPages) && !s.extents.any (fun e => decide (e.2.1 ≤ h ∧ h < e.2.1 + e.2.2.2)) &&
    !s.tier.zero.any (fun z => z.page == h)

/-- Extents after the commit. -/
def extentsOk (s t : State) : Bool :=
  let new := t.extents
  let old := s.extents
  new.all (fun e => decide (1 ≤ e.2.2.2 ∧ e.2.1 + e.2.2.2 ≤ s.fld .ctxHbmInfo fCtxHbmInfoTotalPages ∧ e.2.2.1 + e.2.2.2 ≤ 131072) &&
    !s.tablePage e.2.1) &&
    allPairs (fun a b => apart a.2.1 a.2.2.2 b.2.1 b.2.2.2 && (a.1 != b.1 || apart a.2.2.1 a.2.2.2 b.2.2.1 b.2.2.2)) new &&
    (new.filter (fun e => !old.contains e)).all (fun e =>
      (rangeFrom e.2.1 e.2.2.2).all (fun h => s.pageFree h || old.any (fun o => o.1 == e.1 && decide (o.2.1 ≤ h ∧ h < o.2.1 + o.2.2.2))))

/-- The save area of a context (R483). -/
def saveBytes : Nat := 512 * 2 ^ 20

/-- Contexts whose settings a commit touches, the owners of regions that it writes among them. -/
def State.touched (s t : State) (w : Txn) : List Nat :=
  ((w.of 4).map (fun e => match e.reg with
    | some (.ctxExtent, i, _) => [i / 64]
    | some (.olaProxy, i, _) => [i / 64]
    | some (.hifRingCfg, i, _) => if i = devRing then [] else [i % 1024]
    | some (.hifQdesc, i, _) => [(s.queue i).ctx.toNat % 1024, (t.queue i).ctx.toNat % 1024]
    | some (.ctxRegion, i, _) => [(s.region i).owner, (t.region i).owner]
    | some (_, i, _) => [i]
    | none => [])).flatten.eraseDups

/-- Context entries and save areas after the commit. -/
def entriesOk (s t : State) (xs : List Nat) : Bool :=
  decide (((List.range 1024).map (fun x => t.fld .ctxEntry fCtxEntrySyncSlabs x)).sum ≤ 384) &&
    xs.all (fun x =>
      let base := t.fld .ctxSaveBase fCtxSaveBaseBase x
      let save := t.fld .ctxEntry fCtxEntrySave x
      base % 2 ^ 21 == 0 && (save == 0 || t.mapped x base saveBytes) &&
        (s.ctxState x == 0 || (save == s.fld .ctxEntry fCtxEntrySave x && base == s.fld .ctxSaveBase fCtxSaveBaseBase x)))

/-- No cluster has more than 16 contexts bound to it (R472, R473). -/
def bindingsOk (t : State) : Bool :=
  (List.range 16).all (fun cl =>
    decide ((((t.queues.filter (fun e => e.2.bound && (t.unitClusters e.2.unit).contains cl)).map (fun e => e.2.ctx)).eraseDups).length ≤ 16))

/-- A context has a sequence that is not FREE. -/
def State.hasSeqs (s : State) (x : Nat) : Bool := s.kv.seqs.any (fun e => e.2.state != .free && e.2.ctx == x)

/-- KV geometry and pool of a context after the commit (R319, R763). -/
def kvpOk (s t : State) (x : Nat) : Bool :=
  let same (r : RegName) : Bool := s.reg r x == t.reg r x
  let pool := t.fld .kvpPool fKvpPoolPoolPages x
  let base := t.fld .kvpPoolBase fKvpPoolBaseBase x
  let rg := t.fld .kvpPool fKvpPoolFlashRegion x
  let pin := t.fld .kvpGeom fKvpGeomPinMax x
  ((same .kvpGeom && same .kvpPool && same .kvpPoolBase) || !s.hasSeqs x) &&
    decide (t.fld .kvpGeom fKvpGeomHeadBase x + t.fld .kvpGeom fKvpGeomKvHeads x + 1 ≤ 16) &&
    decide (pin ≤ 256 ∧ t.fld .kvpPool fKvpPoolPinAuto x ≤ pin) &&
    (pool == 0 || [1, 2, 3, 10, 11].contains (t.fld .kvpGeom fKvpGeomKvfmt x)) &&
    (rg == 255 || ((t.region rg).valid && (t.region rg).kind == 3 && (t.region rg).owner == x)) && base % 65536 == 0 &&
    (pool == 0 || (decide (base + pool * t.kvPageBytes x ≤ 2 ^ 38) && t.mapped x base (pool * t.kvPageBytes x)))

/-- A host window after the commit (R567, Table 13-14). -/
def hostWinOk (t : State) (x : Nat) : Bool :=
  let k := t.fld .hifHostWin fHifHostWinLog2Pages x
  decide (k ≤ 36) && t.fld .hifHostWin fHifHostWinBase x % 2 ^ k == 0

/-- A ring's bytes lie in its context's window (R762). -/
def State.ringInside (t : State) (x loc base n : Nat) : Bool :=
  if loc = 0 then decide (base + n ≤ 2 ^ 38) && t.mapped x base n else (t.hostAddr x base n).isSome

/-- A completion or event ring after the commit (Table 13-12, R149, R762). -/
def ringOk (t : State) (i : Nat) : Bool :=
  let k := t.fld .hifRingCfg fHifRingCfgLog2Entries i
  let base := t.fld .hifRingCfg fHifRingCfgRingBase i
  let loc := t.fld .hifRingCfg fHifRingCfgLoc i
  let n := (if i < 1024 then 16 else 32) * 2 ^ k
  k == 0 || (decide (6 ≤ k ∧ k ≤ 16) && base % n == 0 && (if i = devRing then loc == 1 else t.ringInside (i % 1024) loc base n))

/-- A queue stays bound through the commit. -/
def stays (s : State) (m : Tab (Option QPlan)) (x : Nat) : Bool :=
  s.queues.any (fun e => e.2.bound && e.2.ctx.toNat == x && (match tabGet none m e.1 with
    | some p => !p.unb
    | none => true))

/-- Completion rings do not move under bound queues (R550). -/
def ringStays (s t : State) (m : Tab (Option QPlan)) (x : Nat) : Bool :=
  let f (u : State) : Nat × Nat × Nat :=
    (u.fld .hifRingCfg fHifRingCfgLog2Entries x, u.fld .hifRingCfg fHifRingCfgLoc x, u.fld .hifRingCfg fHifRingCfgRingBase x)
  f s == f t || !stays s m x

/-- Queues after the commit (R549, R550, R762). -/
def queuesOk (s t : State) (m : Tab (Option QPlan)) (xs : List Nat) : Bool :=
  m.all (fun e => match e.2 with
    | none => true
    | some p =>
      let q := p.queue (s.queue e.1)
      !p.bad && (!p.binds (s.queue e.1) ||
        (decide (4 ≤ q.log2.toNat ∧ q.log2.toNat ≤ 16 ∧ q.loc.toNat ≤ 1 ∧ q.ctx.toNat < 1024) && p.d1.toNat / 2 ^ 56 == 0 &&
          t.fld .ctxEntry fCtxEntryEn q.ctx.toNat == 1 && q.ringBase.toNat % (64 * 2 ^ q.log2.toNat) == 0))) &&
    t.queues.all (fun e => !e.2.bound || !xs.contains e.2.ctx.toNat ||
      (t.fld .hifRingCfg fHifRingCfgLog2Entries e.2.ctx.toNat != 0 &&
        t.ringInside e.2.ctx.toNat e.2.loc.toNat e.2.ringBase.toNat (64 * 2 ^ e.2.log2.toNat)))

/-- The form of a region's descriptor (Table 8-2, R334). -/
def regionForm (b : List Byte) : Bool :=
  let g := parseRegion b
  let layered := g.kind == 1 || g.kind == 2
  let slots := layered && g.slots != 0
  decide (g.kind ≤ 4 ∧ g.home ≤ 2) && bitsClear (leField b 2 1) 4 && decide (g.hint ≤ 3) && bitsClear (leField b 4 2) 10 && zeroAt b 6 2 &&
    zeroAt b 0x38 8 && g.bytes % 64 == 0 && (if g.home = 0 then g.base % 64 == 0 else g.base == 0) &&
    (if layered then decide (1 ≤ g.layers ∧ g.layers ≤ 1024) && g.unitBytes % 64 == 0 else g.layers == 0 && g.unitBytes == 0) &&
    (if g.kind = 2 then decide (1 ≤ g.experts ∧ g.experts ≤ 4096 ∧ 1 ≤ g.slots ∧ g.slots ≤ 65535) else g.experts == 0) &&
    (layered || g.slots == 0) && g.slotBase % 64 == 0 && g.slotStride % 64 == 0 && (!slots || decide (g.unitBytes ≤ g.slotStride)) &&
    bitsClear g.syncBase 20 && (!slots || g.syncBase / 2 ^ 18 == 2) && (g.kind != 3 || g.home == 1) && (g.kind != 2 || g.home != 0) &&
    (if g.kind = 1 then decide (g.layers * g.unitBytes ≤ g.bytes) else true) &&
    (if g.kind = 2 then decide (g.layers * g.experts * g.unitBytes ≤ g.bytes) else true)

/-- A region's HBM home and its slots lie in the owner's extents. -/
def State.regionMapped (t : State) (g : Region) : Bool :=
  (g.home != 0 || g.bytes == 0 || t.mapped g.owner g.base g.bytes) &&
    (g.slots == 0 || t.mapped g.owner g.slotBase ((g.slots - 1) * g.slotStride + g.unitBytes))

/-- A PLACE, SWAP or PROMOTE that has not completed, or a sequence, is using a region. -/
def State.regionUsed (s : State) (r : Nat) : Bool :=
  s.openLetters.any (fun e => match e.2.opcode with
    | 7 => e.2.field 0x10 1 == r
    | 8 => e.2.field 0x10 1 == r || e.2.field 0x11 1 == r
    | 9 => e.2.field 0x10 1 == r
    | _ => false) ||
    s.tier.promos.any (fun p => p.r == r) || s.tier.promWaits.any (fun p => p.r == r) || s.tier.held.any (fun p => p.r == r) ||
    s.tier.ready.any (fun p => p.r == r) ||
    (List.range 1024).any (fun x => s.fld .kvpPool fKvpPoolFlashRegion x == r && s.hasSeqs x)

/-- Regions whose descriptors the commit writes anew. -/
def changedRegions (s t : State) : List Nat := (List.range 255).filter (fun r => s.regionRaw r != t.regionRaw r)

/-- The flash homes have space for the regions after the commit, with those that are new (R334, R592). -/
def State.flashSpace (t : State) (journal : List Nat) : Bool :=
  ((List.range 16).filter (fun ch => t.fld .flsChStatus fFlsChStatusTrained ch == 1)).all (fun ch => t.spaceOn ch (journal.getD ch 0))

/-- Regions after the commit. -/
def regionsOk (s t : State) (xs journal : List Nat) : Bool :=
  let live := (List.range 255).filter (fun r => (t.region r).valid)
  let ch := changedRegions s t
  let grown := ch.any (fun r => let g := t.region r; g.valid && g.home != 0 && (!(s.region r).valid || decide ((s.region r).units < g.units)))
  let tables (u : State) : Nat := (ch.map (fun r => regionTables (u.region r))).sum
  ch.all (fun r => !((s.region r).valid && s.regionUsed r) && (!(t.region r).valid || regionForm (t.regionRaw r))) &&
    (live.filter (fun r => xs.contains (t.region r).owner)).all (fun r => t.regionMapped (t.region r)) &&
    allPairs (fun a b =>
      let g := t.region a
      let h := t.region b
      g.home != 0 || h.home != 0 || g.owner != h.owner || apart g.base g.bytes h.base h.bytes) live &&
    decide ((live.filter (fun r => (t.region r).lock)).length ≤ 32) && (!grown || t.flashSpace journal) &&
    decide (s.kv.tableUsed + tables t ≤ s.tableBytes + tables s)

/-- The context-table domain's checks, each on the contexts that the commit touches. -/
def ctxTableOk (s t : State) (w : Txn) (m : Tab (Option QPlan)) (journal : List Nat) : Bool :=
  let xs := s.touched t w
  let rings := (xs ++ xs.map (1024 + ·)) ++ [devRing]
  extentsOk s t && entriesOk s t xs && bindingsOk t && xs.all (kvpOk s t) && xs.all (hostWinOk t) && rings.all (ringOk t) &&
    xs.all (ringStays s t m) && queuesOk s t m xs && regionsOk s t xs journal

/-! ## The other domains -/

/-- VALID units by number. -/
def State.units (t : State) : List Nat := (List.range 64).filter (fun u => t.fld .olaUnit fOlaUnitValid u == 1)

/-- A unit's dies: the first, and how many. -/
def State.unitSpan (t : State) (u : Nat) : Nat × Nat := (t.fld .olaUnit fOlaUnitFirstDie u, t.fld .olaUnit fOlaUnitDies u)

/-- Members of a unit: its dies at level 3, and above it the units of the level below that share dies with it. -/
def State.unitParts (t : State) (u : Nat) : List (Nat × Nat) :=
  let lv := t.fld .olaUnit fOlaUnitLevel u
  let sp := t.unitSpan u
  if lv ≤ 3 then (rangeFrom sp.1 sp.2).map (fun d => (d, 1))
  else ((t.units.filter (fun v => t.fld .olaUnit fOlaUnitLevel v + 1 == lv)).map t.unitSpan).filter (fun v => !apart v.1 v.2 sp.1 sp.2)

/-- A links transaction's checks (R443). -/
def linksOk (s t : State) : Bool :=
  t.units.all (fun u =>
    let lv := t.fld .olaUnit fOlaUnitLevel u
    let sp := t.unitSpan u
    let ms := t.unitParts u
    decide (sp.2 ≤ 256 ∧ (lv ≠ 3 ∨ sp.2 ≤ 64) ∧ t.fld .olaUnit fOlaUnitMembers u ≤ 64) &&
      ms.all (fun m => decide (sp.1 ≤ m.1 ∧ m.1 + m.2 ≤ sp.1 + sp.2)) && allPairs (fun a b => apart a.1 a.2 b.1 b.2) ms &&
      (ms.map (·.2)).sum == sp.2 && ms.length == t.fld .olaUnit fOlaUnitMembers u &&
      decide (sp.1 ≤ t.fld .olaUnit fOlaUnitRootDie u ∧ t.fld .olaUnit fOlaUnitRootDie u < sp.1 + sp.2) &&
      (rangeFrom sp.1 sp.2).all (fun d => decide (d < 256) && t.fld .olaRoute fOlaRouteValid d == 1)) &&
    decide ((s.reg .olaRouteEpoch).toNat < (t.reg .olaRouteEpoch).toNat)

/-- A spares transaction's checks (R680). -/
def sparesOk (s t : State) : Bool :=
  (List.range 272).all (fun c =>
    let ret := t.fld .fltCoreCtl fFltCoreCtlRetire c == 1
    let res := t.fld .fltCoreCtl fFltCoreCtlRestore c == 1
    !(ret && res) && (!ret || ((s.memberOf c).isSome && (s.spareCore (c / 17)).isSome)) &&
      (!res || (s.fld .fltCoreStatus fFltCoreStatusFailed c == 1 && (s.spareCore (c / 17)).isNone)))

/-- A protection transaction's checks (R593). -/
def protectionOk (s t : State) : Bool :=
  let valid (i : Nat) : Bool := t.fld .flsProt fFlsProtValid i == 1
  (List.range 64).all (fun i =>
    let r := t.fld .flsProt fFlsProtRegion i
    (!(s.fld .flsProt fFlsProtValid i == 1 && s.fld .flsProt fFlsProtLocked i == 1) || (valid i && r == s.fld .flsProt fFlsProtRegion i)) &&
      (!valid i || (decide (r < 255) && (t.region r).valid && (t.region r).home != 0))) &&
    allPairs (fun i j => !(valid i && valid j) || t.fld .flsProt fFlsProtRegion i != t.fld .flsProt fFlsProtRegion j) (List.range 64)

/-- A bandwidth-split transaction's checks (R259). -/
def bandwidthOk (t : State) : Bool :=
  (List.range 22).all (fun p =>
    let w := t.fld .crrBwSplit fCrrBwSplitWindow p
    decide (t.fld .crrBwSplit fCrrBwSplitRead p + t.fld .crrBwSplit fCrrBwSplitWrite p + t.fld .crrBwSplit fCrrBwSplitRemote p ≤ 256) &&
      (w == 0 || decide (256 ≤ w)) && decide (t.fld .crrBwSplit fCrrBwSplitMode p < 2))

/-- CAP_MAX as the selected image left it. -/
def State.imageCap (s : State) : Nat :=
  getFl fPwrCapCfgCapMax ((imgRecords s.start.image).foldl (fun w r => match regAt r.1 with
    | some (.pwrCapCfg, _, _) => BitVec.ofNat 64 r.2
    | _ => w) (regReset .pwrCapCfg 0))

/-- A power transaction's checks (chapter 15, Registers; Table 15-9). -/
def powerOk (s t : State) : Bool :=
  t.fld .pwrCapCfg fPwrCapCfgSafeCap == s.fld .pwrCapCfg fPwrCapCfgSafeCap && decide (t.fld .pwrCapCfg fPwrCapCfgCapMax ≤ s.imageCap) &&
    decide (t.fld .pwrCapCfg fPwrCapCfgPrio < 6) && t.fld .pwrThermCfg fPwrThermCfgThermTrip == s.fld .pwrThermCfg fPwrThermCfgThermTrip &&
    t.fld .pwrThermCfg fPwrThermCfgThermResume == s.fld .pwrThermCfg fPwrThermCfgThermResume

/-- The edits of a page-tables transaction, with their sequences (R306, R553): each shadow write of KVP_EDIT is one. -/
def Txn.edits (t : Txn) : List (Nat × Edit) :=
  ((t.of 5).foldl (fun (a : Word × List (Nat × Edit)) e =>
    let w := e.on a.1
    let d : Edit :=
      { op := getFl fKvpEditOp w, allLayers := getFl fKvpEditAllLayers w == 1, layer := getFl fKvpEditLayer w
        slot := getFl fKvpEditSlot w, arg := getFl fKvpEditArg w }
    (w, a.2 ++ [(getFl fKvpEditSeq w, d)])) (0, [])).2

/-- One edit may be adopted in a state (Table 7-10, R306). -/
def State.editOk (s : State) (n : Nat) (e : Edit) : Bool :=
  let q := s.sequence n
  let x := q.ctx
  q.state != .free && q.state != .failed && (e.allLayers || decide (e.layer < s.kvLayers x)) &&
    (match e.op with
     | 0 => decide (e.slot < s.kvPinMax x) && (s.editLayers x e).all (fun l => s.pageHeld x n l e.arg)
     | 1 => decide (e.slot < s.kvPinMax x)
     | 2 => e.allLayers && decide (e.arg < q.length) && q.state != .stepping
     | 3 => q.state == .idle && s.kvRegion x != 255
     | _ => false)

/-- A page-tables transaction's checks: each edit against what the earlier ones leave. -/
def editsOk : State → List (Nat × Edit) → Bool
  | _, [] => true
  | t, (n, e) :: l => t.editOk n e && editsOk (t.adoptEdit n e) l

/-- The copy after a domain has been applied, or none where its checks refuse it. -/
def State.checkDomain (s c : State) (t : Txn) (journal : List Nat) (d : Nat) : Option State :=
  let n := c.copyDomain t d
  let ok (b : Bool) : Option State := if b then some n else none
  match d with
  | 6 => ok (linksOk c n)
  | 0 => ok (sparesOk c n)
  | 4 =>
    let m := s.qPlans t
    let n := n.copyQueues m
    if ctxTableOk c n t m journal then some n else none
  | 3 => ok (protectionOk c n)
  | 5 => ok (editsOk n t.edits)
  | 2 => ok (bandwidthOk n)
  | _ => ok (powerOk c n)

/-- The domains of a mask in the order of Table 13-5. -/
def domainOrder (mask : Nat) : List Nat := [6, 0, 4, 3, 5, 2, 1].filter (fun d => mask.testBit d)

/-- Every domain of a transaction passes its checks (R555). -/
def State.txnPasses (s : State) (t : Txn) (journal : List Nat) : Bool :=
  ((domainOrder t.domains).foldl (fun (c : Option State) d => c.bind (fun c => s.checkDomain c t journal d)) (some s)).isSome

/-- Instances of a register that a domain's shadow writes name. -/
def Txn.instances (t : Txn) (d : Nat) (r : RegName) : List Nat :=
  ((t.of d).filterMap (fun e => match e.reg with
    | some (r', i, _) => if r' = r then some i else none
    | none => none)).eraseDups

/-- Extents that a commit removes or changes; `n` is the state with its changes. -/
def State.lostExtents (s n : State) (t : Txn) : List Nat :=
  (t.instances 4 .ctxExtent).filter (fun i => s.fld .ctxExtent fCtxExtentValid i == 1 && s.reg .ctxExtent i != n.reg .ctxExtent i)

/-- A domain has come to hand: frames are held for the links (R444), translation through the extents that go is held for the context
table (R548), and the power settings wait for the next control period (Table 13-5). -/
def State.atHand (s : State) (i : Nat) : State :=
  let t := s.txn i
  match t.todo with
  | 6 :: _ => { s with ola := { s.ola with hold := true } }
  | 4 :: _ => { s with cx := { s.cx with heldExt := s.lostExtents (s.copyDomain t 4) t } }
  | 1 :: _ => s.updTxn i (fun t => { t with mark := s.pw.periods })
  | _ => s

/-- TXN_CHECK_DONE (R555, R556). -/
def execTxnCheckDone (slot : Fin 8) (journal : List Nat) (s : State) : Res :=
  .next (if !s.clocked ∨ s.txnState slot ≠ 2 then s
    else
      let t := s.txn slot
      if s.txnPasses t journal then
        ((s.setTxnState slot 3).updTxn slot (fun t => { t with todo := domainOrder t.domains, begun := false })).atHand slot
      else s.rollback slot codeTxnAborted)

end Sys2Proof.Machine
end

