-- ==== Sys2Proof/Machine/TxnAdopt.lean ====
section
/-! DEFINITION. The adoption of a transaction, domain by domain in the order of Table 13-5 (R556): the safe point of each domain,
what it changes there, and when it counts as adopted. -/

namespace Sys2Proof.Machine

/-! ## Links (R13, R444, R445) -/

/-- The word of the last of unit `u` of level 3 or above (Table 1-2, R444). -/
def State.unitLastWord (s : State) (u w : Nat) : Word :=
  let lv := s.fld .olaUnit fOlaUnitLevel u
  let me := s.die
  let die := s.reg .cfgLastDie 0 w
  let sp := s.unitSpan u
  match w with
  | 0 => BitVec.ofNat 64 (die.toNat % 2 ^ 16 + lv * 2 ^ 16 + (lv - 1) * 2 ^ 24 + s.fld .olaUnit fOlaUnitMembers u * 2 ^ 32)
  | 1 =>
    let own := s.reg .cfgLastDie 0 1
    let cores := ((rangeFrom sp.1 sp.2).map (fun d => if d = me then own.toNat % 2 ^ 32 else Config.dieCores d)).sum
    BitVec.ofNat 64 (cores % 2 ^ 32 + own.toNat / 2 ^ 32 * 2 ^ 32)
  | 2 => BitVec.ofNat 64 (sp.2 * 2 ^ 38)
  | 3 => die
  | 4 => die
  | 5 => s.reg .olaRouteEpoch
  | _ => 0

/-- The lasts of the level-3 and higher units are built anew. -/
def State.buildUnitLasts (s : State) : State :=
  s.each s.units (fun s u => s.each (List.range 8) (fun s w => s.setReg .cfgLastUnit u w (s.unitLastWord u w)))

/-- Every frame handed to a transmit port has left (R444). -/
def State.portsDrained (s : State) : Bool := (List.range 12).all (fun p => (s.port p).tx.isEmpty)

/-- The links domain adopts: tables, units, ports and epoch at once, then the lasts; ports whose EN or ENC changed train anew, and
the frames that were held go on. -/
def State.adoptLinks (s : State) (t : Txn) : State :=
  let n := (s.copyDomain t 6).buildUnitLasts
  let moved := (List.range 12).filter (fun p =>
    s.fld .olaPortCfg fOlaPortCfgEn p != n.fld .olaPortCfg fOlaPortCfgEn p || s.portEnc p != n.portEnc p)
  (n.each moved (fun s p => s.trainPort p)).releaseFrames

/-! ## Spares (R680) -/

/-- RETIRE and RESTORE are set; the control cores act on them. -/
def State.adoptSpares (s : State) (t : Txn) : State := s.copyDomain t 0

/-- Every affected core has changed. -/
def State.sparesDone (s : State) (t : Txn) : Bool :=
  (t.instances 0 .fltCoreCtl).all (fun c => s.fld .fltCoreCtl fFltCoreCtlRetire c == 0 && s.fld .fltCoreCtl fFltCoreCtlRestore c == 0)

/-! ## The context table (R187, R334, R338, R393, R488, R491, R504, R537, R548) -/

/-- HBM pages of a context's extents. -/
def State.pagesOf (s : State) (x : Nat) : List Nat := ((rangeFrom (64 * x) 64).map s.extentPages).flatten

/-- A request that was translated through an extent which the commit removes or changes has not returned. -/
def State.extentBusy (s n : State) (t : Txn) : Bool :=
  let gone := (s.lostExtents n t).map s.extentPages
  s.mv.reqs.any (fun r => gone.flatten.contains (r.addr / 2 ^ 21))

/-- The pages that contexts lose go to the zeroing queue, and those that they gain are free no more. -/
def State.movePages (s : State) (old : State) (xs : List Nat) : State :=
  s.each xs (fun s x =>
    let was := old.pagesOf x
    let now := s.pagesOf x
    let gained := (now.filter (fun p => !was.contains p)).length
    let s := s.setFld .ctxHbmInfo fCtxHbmInfoFreePages 0 (s.fld .ctxHbmInfo fCtxHbmInfoFreePages - gained)
    s.each (was.filter (fun p => !now.contains p)) (fun s p => s.queueZero p x))

/-- A region's descriptor has been written. `g` is what it was. -/
def State.remakeRegion (s old : State) (r : Nat) : State :=
  let g := old.region r
  let n := s.region r
  if g.valid ∧ (!n.valid ∨ n.home ≠ g.home) then
    -- What the old descriptor held goes, as at a deletion, and the new one stands.
    let raw := (List.range 8).map (fun w => s.reg .ctxRegion r w)
    let u := ((s.each (List.range 8) (fun s w => s.setReg .ctxRegion r w (old.reg .ctxRegion r w))).unmakeRegion r).each (raw.zip (List.range 8))
      (fun s e => s.setReg .ctxRegion r e.2 e.1)
    let u := u.retable 0 (regionTables n)
    let u := if n.valid ∧ n.home = 2 then { u with fl := { u.fl with regionParcel := tabSet 0 u.fl.regionParcel r (u.reg .pclId) } } else u
    u.noteProtected r
  else
    let s := (s.cacheInv (fun x => x == r)).retable (regionTables g) (regionTables n)
    let s := if n.kind ≠ g.kind ∨ n.layers ≠ g.layers ∨ n.experts ≠ g.experts ∨ n.slots ≠ g.slots then s.forgetExperts r else s
    let s := if n.valid ∧ n.home = 1 ∧ n.units < g.units then s.trimUnits r n.units (g.units - n.units) else s
    let s := if n.valid ∧ !g.valid ∧ n.home = 2 then { s with fl := { s.fl with regionParcel := tabSet 0 s.fl.regionParcel r (s.reg .pclId) } } else s
    s.noteProtected r

/-- A ring that is bound anew, moved or unbound starts its counts at 0 (R155). -/
def State.rebindRing (s old : State) (i : Nat) : State :=
  let f (u : State) : Nat × Nat × Nat :=
    (u.fld .hifRingCfg fHifRingCfgLog2Entries i, u.fld .hifRingCfg fHifRingCfgLoc i, u.fld .hifRingCfg fHifRingCfgRingBase i)
  if f s == f old then s else s.setReg .hifRingCons i 0 0

/-- A context's entry has been written: slabs of a context that is not OFF, then its enable or disable. -/
def State.remakeContext (s old : State) (x : Nat) : State :=
  let n := s.fld .ctxEntry fCtxEntrySyncSlabs x
  let s := if n ≠ old.fld .ctxEntry fCtxEntrySyncSlabs x ∧ s.ctxState x ≠ 0 then s.allotSlabs x n else s
  let en := s.fld .ctxEntry fCtxEntryEn x
  if en = old.fld .ctxEntry fCtxEntryEn x then s else s.ctxRequest x (en == 1)

/-- The context-table domain adopts in one FCLK; slabs are given up before any are taken (R187). -/
def State.adoptContexts (s : State) (t : Txn) : State :=
  let m := s.qPlans t
  let reset := (m.filter (fun e => match e.2 with
    | some p => p.unbinds (s.queue e.1)
    | none => false)).map (·.1)
  let xs := (s.touched (s.copyQueues m) t).filter (· < 1024)
  let s := s.each reset (fun s q => s.resetQueue q)
  let old := s
  let s := (s.copyDomain t 4).copyQueues m
  let s := { s with cx := { s.cx with heldExt := [] } }
  let s := s.movePages old ((t.instances 4 .ctxExtent).map (· / 64)).eraseDups
  let s := s.each (changedRegions old s) (fun s r => s.remakeRegion old r)
  let s := if (changedRegions old s).isEmpty then s else s.noteFree
  let s := s.each (t.instances 4 .kvpPool) (fun s x =>
    let n := s.fld .kvpPool fKvpPoolPoolPages x
    if n = old.fld .kvpPool fKvpPoolPoolPages x then s else s.setFld .kvpPool fKvpPoolFreePages x n)
  let s := s.each (t.instances 4 .hifRingCfg) (fun s i => s.rebindRing old i)
  let s := s.each xs (fun s x => s.noteClusters x)
  let es := t.instances 4 .ctxEntry
  let shrinks (x : Nat) : Bool := decide (s.fld .ctxEntry fCtxEntrySyncSlabs x < old.fld .ctxEntry fCtxEntrySyncSlabs x)
  s.each (es.filter shrinks ++ es.filter (fun x => !shrinks x)) (fun s x => s.remakeContext old x)

/-- Contexts whose EN a commit clears. -/
def State.disabledBy (s : State) (t : Txn) : List Nat :=
  let n := s.copyDomain t 4
  (t.instances 4 .ctxEntry).filter (fun x => s.fld .ctxEntry fCtxEntryEn x == 1 && n.fld .ctxEntry fCtxEntryEn x == 0)

/-! ## Protection (R337, R593) -/

/-- A region that the protection slots before or after the commit name. -/
def State.protRegions (s n : State) (t : Txn) : List Nat :=
  ((t.instances 3 .flsProt).map (fun i => [s.fld .flsProt fFlsProtRegion i, n.fld .flsProt fFlsProtRegion i])).flatten.eraseDups.filter (· < 255)

/-- The protection domain adopts: a newly valid slot, one that is moved and one that is no longer valid hold no password. -/
def State.adoptProtection (s : State) (t : Txn) : State :=
  let n := s.copyDomain t 3
  let rs := s.protRegions n t
  let fresh := (t.instances 3 .flsProt).filter (fun i =>
    s.fld .flsProt fFlsProtValid i != n.fld .flsProt fFlsProtValid i || s.fld .flsProt fFlsProtRegion i != n.fld .flsProt fFlsProtRegion i)
  let n := n.each fresh (fun n i =>
    let v := n.fld .flsProt fFlsProtValid i
    let g := n.fld .flsProt fFlsProtRegion i
    ((n.clearProt i).setFld .flsProt fFlsProtValid i v).setFld .flsProt fFlsProtRegion i g)
  n.each rs (fun s r => s.noteProtected r)

/-! ## Page tables (R303 to R307) -/

/-- An edit is adopted at once, or staged while its sequence has a step open. -/
def State.stageEdit (s : State) (n : Nat) (e : Edit) : State :=
  if (s.sequence n).state = .stepping ∨ s.kv.ops.any (fun o => o.seq == n && o.op == 1 && o.granted) then
    s.updSequence n (fun q => { q with edits := q.edits ++ [e] })
  else (s.adoptEdit n e).epochSince s n

/-- The page-tables domain's edits. -/
def State.adoptPages (s : State) (t : Txn) : State := s.each t.edits (fun s e => s.stageEdit e.1 e.2)

/-! ## Bandwidth split and power (R259 to R262, Table 13-5) -/

/-- Ports that a commit changes. -/
def State.splitPorts (s : State) (t : Txn) : List Nat :=
  let n := s.copyDomain t 2
  (t.instances 2 .crrBwSplit).filter (fun p => s.reg .crrBwSplit p != n.reg .crrBwSplit p)

/-- The new splits stand in CRR_BW_SPLIT with a new EPOCH, on their way to the ports. -/
def State.adoptSplit (s : State) (t : Txn) : State :=
  let ps := s.splitPorts t
  let n := (s.copyDomain t 2).each ps (fun s p => s.bump .crrBwSplit fCrrBwSplitEpoch p)
  { n with mv := { n.mv with adopt := ps.foldl (fun l p => setInsert p l) n.mv.adopt } }

/-- A port's clock is stopped: that of an HBM controller or a flash channel out of service (R262). -/
def State.portStopped (s : State) (p : Nat) : Bool :=
  if p < 6 then s.flt.hbmOut.contains p else s.fl.chOut.contains (p - 6) || s.fld .flsChStatus fFlsChStatusTrained (p - 6) == 0

/-! ## A domain's adoption -/

/-- The safe point of a domain holds. -/
def State.safePoint (s : State) (t : Txn) (d : Nat) : Bool :=
  match d with
  | 6 => s.portsDrained
  | 0 => true
  | 4 => s.fwOn 2 && !s.extentBusy (s.copyDomain t 4) t
  | 3 =>
    let rs := s.protRegions (s.copyDomain t 3) t
    s.fwOn 0 && !s.fl.progs.any (fun j => rs.contains j.region) && !s.fl.reqs.any (fun e => match e.2 with
      | some q => rs.contains q.srcRegion || rs.contains q.dstRegion
      | none => false)
  | 1 => s.fwOn 1 && decide (t.mark < s.pw.periods)
  | _ => true

/-- What a domain changes at its safe point. -/
def State.adoptDomain (s : State) (t : Txn) (d : Nat) : State :=
  match d with
  | 6 => s.adoptLinks t
  | 0 => s.adoptSpares t
  | 4 => s.adoptContexts t
  | 3 => s.adoptProtection t
  | 5 => s.adoptPages t
  | 2 => s.adoptSplit t
  | _ => s.copyDomain t d

/-- What the end of a domain's adoption waits for. -/
def State.waitsFor (s : State) (t : Txn) (d : Nat) : List Nat :=
  match d with
  | 4 => s.disabledBy t
  | 5 => (t.edits.map (·.1)).eraseDups
  | 2 => s.splitPorts t
  | _ => []

/-- A domain counts as adopted. -/
def State.adopted (s : State) (t : Txn) (d : Nat) : Bool :=
  match d with
  | 0 => s.sparesDone t
  | 4 => t.waits.all (fun x => s.ctxState x == 0 || s.ctxState x == 3)
  | 5 => t.waits.all (fun n => (s.sequence n).edits.isEmpty)
  | 2 => t.waits.all (fun p => !s.mv.adopt.contains p || s.portStopped p)
  | _ => true

/-- A domain has adopted: the next is at hand, or the transaction ends with OK (R556). -/
def State.endDomain (s : State) (i d : Nat) (rest : List Nat) : State :=
  let s := s.setFld .txnStatus fTxnStatusAdopted i (s.fld .txnStatus fTxnStatusAdopted i ||| 2 ^ d)
  if rest.isEmpty then ((s.updTxn i (fun _ => {})).setTxnState i 0).setTxnCode i codeOk
  else (s.updTxn i (fun t => { t with todo := rest, begun := false, waits := [] })).atHand i

/-- A domain begins to adopt at its safe point. -/
def State.beginDomain (s : State) (i d : Nat) : State :=
  let t := s.txn i
  if t.begun || !s.safePoint t d then s
  else
    let w := s.waitsFor t d
    (s.adoptDomain t d).updTxn i (fun t => { t with begun := true, waits := w })

/-- TXN_DOMAIN_ADOPT (R556): the domain at hand begins where its safe point holds, and ends where it counts as adopted. -/
def execTxnDomainAdopt (slot : Fin 8) (s : State) : Res :=
  .next (if !s.clocked ∨ s.txnState slot ≠ 3 then s
    else
      match (s.txn slot).todo with
      | [] => s
      | d :: rest =>
        let s := s.beginDomain slot d
        let t := s.txn slot
        if t.begun && s.adopted t d then s.endDomain slot d rest else s)

end Sys2Proof.Machine
end

