-- ==== Sys2Proof/Machine/Start.lean ====
section
/-! DEFINITION. Reset, the start sequence, recovery and the I3C target (chapters 15 and 20). -/

namespace Sys2Proof.Machine

/-! ## Reset (R617, R618, R744) -/

/-- FLS_PROT as the protection block keeps it: the slots, with LOCKED and the counters of failures cleared (R596). -/
def State.protBlock (s : State) : Tab Word :=
  (List.range 64).foldl (fun m i =>
    let w := s.reg .flsProt i
    let v : Word := BitVec.ofNat 64 (getFl fFlsProtValid w * 2 ^ 63 + getFl fFlsProtHasPw w * 2 ^ 18 + getFl fFlsProtRegion w)
    tabSet 0 m i (if getFl fFlsProtValid w = 1 then v else 0)) s.fl.prot

/-- The die after RESET_N is asserted: all is as after a full restart but for what lies outside the reset: NAND and NOR contents with
the records kept there, the trim block, the owner fuse, the COOLANT_OK pin, DRAM and SRAM cells, the test port, and what has been
sent out. Erases that are under way are completed at the next start (R597). -/
def State.afterReset (s : State) : State :=
  { State.reset with
    pending := s.pending
    out := s.out
    drawn := s.drawn
    mem := { s.mem with hbmBad := [], storeBad := [], benchBad := [], hubBad := [] }
    fl := { data := s.fl.data, map := s.fl.map, metas := s.fl.metas, notErased := s.fl.notErased, programs := s.fl.programs
            reads := s.fl.reads, eraseCnt := s.fl.eraseCnt, marked := s.fl.marked, retired := s.fl.retired
            erases := s.fl.erases.map (fun (e : EraseJob) => { e with waits := [], issued := false, stamp := 0, seq := 0 })
            prot := if s.start.step < 7 then s.fl.prot else s.protBlock, pw := s.fl.pw }
    pw := { trim := s.pw.trim }
    sec := { ownerDigest := s.sec.ownerDigest, signs := s.sec.signs }
    start := { coolant := s.start.coolant }
    test := { boundary := s.test.boundary, instruction := s.test.instruction } }

/-- RESET_N_ASSERT (R617, R744). -/
def execResetNAssert (s : State) : Res := .next s.afterReset

/-- CFG_STATUS.STAGE. -/
def State.stage (s : State) : Nat := s.fld .cfgStatus fCfgStatusStage
def State.setStage (s : State) (n : Nat) : State := s.setFld .cfgStatus fCfgStatusStage 0 n

/-- Begin a step of Table 15-1. -/
def State.toStep (s : State) (k stage : Nat) : State := ({ s with start := { s.start with step := k } }).setStage stage

/-- RESET_N_DEASSERT (R618). -/
def execResetNDeassert (s : State) : Res := .next (if s.start.step = 0 then s.toStep 1 1 else s)

/-! ## Failure (R619) -/

/-- A step fails: STAGE 15, FAIL_STEP and CODE. -/
def State.startFails (s : State) (code : Nat) : State :=
  ((s.setFld .cfgStatus fCfgStatusFailStep 0 s.start.step).setFld .cfgStatus fCfgStatusCode 0 code).setStage 15

/-- A step of Table 15-1 is at work. -/
def State.starting (s : State) : Bool :=
  decide (1 ≤ s.start.step ∧ s.start.step ≤ 10) && s.stage != 15 && s.fld .pwrState fPwrStateState == 0

/-- START_STEP_TIMEOUT: steps 9 and 10 have no limit, and waiting for coolant at step 8 does not count (R745). -/
def execStartStepTimeout (code : BitVec 16) (s : State) : Res :=
  .next (if s.starting ∧ s.start.step ≤ 8 ∧ (s.start.step ≠ 8 ∨ s.start.coolant) then s.startFails code.toNat else s)

/-! ## The image (R12, R19, R620 to R624) -/

/-- Step 4: the two slots are read, and the candidates ordered by GENERATION, A first on a tie. -/
def State.readNor (s : State) (a b : List Byte) : State :=
  let a := a.take 65536
  let b := b.take 65536
  let both := [(1, a), (2, b)].filter (fun e => imgCandidate e.2)
  let cands := if imgCandidate a ∧ imgCandidate b ∧ imgGen a < imgGen b then both.reverse else both
  { s with start := { s.start with cands := cands, maxGen := (both.map (fun e => imgGen e.2)).foldl max 0 } }

/-- Step 5 selects an image: its flags, its guard and its digest are shown. -/
def State.takeImage (s : State) (slot : Nat) (b : List Byte) : State :=
  let d := (Config.shake256 b).toNat
  let s := { s with start := { s.start with image := b, cands := [] } }
  let s := (s.setFld .cfgStatus fCfgStatusSlot 0 slot).setFld .cfgStatus fCfgStatusFlags 0 (imgFlags b)
  let s := s.setFld .fltDieStatus fFltDieStatusGuard 0 (imgFlags b % 2)
  let s := s.each (List.range 4) (fun s i => s.setReg .cfgDigest i 0 (BitVec.ofNat 64 (d / 2 ^ (64 * i))))
  s.toStep 6 5

/-- Step 5: the first candidate that passes is selected; each one rejected is reported (R695). -/
def State.selectImage (s : State) : List (Nat × List Byte) → State
  | [] => s.startFails codeSignatureInvalid.toNat
  | e :: rest =>
    if s.cfgReason e.2 = 0 then s.takeImage e.1 (e.2.take (imgBytes e.2))
    else (s.postSignature (e.1 - 1) (s.cfgReason e.2)).selectImage rest

/-- Step 6: the PLLs lock, board channels are trained and count their free blocks, the ageing trim and the protection block are
applied (R596, R639). -/
def State.boardUp (s : State) (trained : BitVec 16) : State :=
  let chs := (List.range 12).filter (fun c => trained.getLsbD c)
  let s := s.setReg .clkStatus 0 0 (s.reg .clkStatus ||| 3)
  let s := s.setFld .clkStatus fClkStatusNclkLock 0 (trained.toNat % 2 ^ 12)
  let s := s.each chs (fun s c =>
    let g : FlashGeom := { blocks := Config.flashBlocks 0 c, pages := Config.flashPages 0 c }
    ({ s with fl := { s.fl with geom := tabSet {} s.fl.geom c g } }).setFld .flsChStatus fFlsChStatusTrained c 1)
  let s := s.noteFree
  let s := s.each s.fl.prot (fun s e => s.setReg .flsProt e.1 0 (putFl fFlsProtLocked e.2 (getFl fFlsProtHasPw e.2)))
  { s with pw := { s.pw with margin := s.pw.trim }, fl := { s.fl with prot := [] } }

/-- The spare map of an image: members in ascending order of position, FAILED marks, off-ring positions and array spares (R622). -/
def State.applySpares (s : State) (b : List Byte) : State :=
  s.each (List.range 16) (fun s cl =>
    let e := imgSpare b cl
    let ps := imgPositions b cl
    let s := s.setFld .laceStatus fLaceStatusOffPos cl e.1
    s.each (List.range 17) (fun s p =>
      let c := 17 * cl + p
      let s := s.setFld .fltCoreStatus fFltCoreStatusMember c (if ps.contains p then ps.idxOf p else 0x1F)
      let s := s.setFld .fltCoreStatus fFltCoreStatusFailed c (if e.2.testBit p then 1 else 0)
      s.setReg .fltArraySteer c 0 (BitVec.ofNat 64 (imgSteer b c))))

/-- A register record, written as the device writes (R622): of CTX_HBM_INFO the start sequence loads TABLE_PAGES (R370), and SETS of
SRT_CACHE_CFG follows from SIZE (R389, R397). DESIGN CHOICE (notes/assumptions/70.md): a value outside the limits that its chapter gives,
such as OLA_UNIT records of more than 256 dies (R25), CAP_MAX above 0x8C0 (R31) or a reserved SIZE, is applied as it stands. -/
def State.applyRecord (s : State) (r : Nat × Nat) : State :=
  let v : Word := BitVec.ofNat 64 r.2
  match regAt r.1 with
  | some (.ctxHbmInfo, _, _) => s.setFld .ctxHbmInfo fCtxHbmInfoTablePages 0 (getFl fCtxHbmInfoTablePages v)
  | some (.srtCacheCfg, _, _) =>
    let s := s.setFld .srtCacheCfg fSrtCacheCfgSize 0 (getFl fSrtCacheCfgSize v)
    s.setFld .srtCacheCfg fSrtCacheCfgSets 0 s.cacheSets
  | some (n, i, w) => s.setReg n i w v
  | none => s

/-- The last of a core, of a cluster and of the die (Table 1-2): level, members, cores, cores on one lace, bytes of the window,
sync objects and queue entries. -/
def lastWords (level members cores lace window sync entries : Nat) : List Word :=
  [BitVec.ofNat 64 (2 + level * 2 ^ 16 + (if level = 0 then 0xFF else level - 1) * 2 ^ 24 + members * 2 ^ 32),
    BitVec.ofNat 64 (cores + lace * 2 ^ 32), BitVec.ofNat 64 window, BitVec.ofNat 64 (sync + entries * 2 ^ 32), 0x3FFF, 0, 0, 0]

/-- The lasts of levels 0 to 2 are built (R12). -/
def State.buildLasts (s : State) : State :=
  let put (s : State) (r : RegName) (l : List Word) : State := s.each (l.zip (List.range 8)) (fun s e => s.setReg r 0 e.2 e.1)
  let s := put s .cfgLastCore (lastWords 0 0 1 0 (2 ^ 20) 64 512)
  let s := put s .cfgLastCluster (lastWords 1 16 16 16 s.storeWindow 4096 (Config.queueEntries 1).toNat)
  put s .cfgLastDie (lastWords 2 16 256 16 (2 ^ 38) 196608 (Config.queueEntries 2).toNat)

/-- Step 7: spare map, register records, lasts; the splits are in force at once (chapter 06, Registers). -/
def State.configure (s : State) : State :=
  let b := s.start.image
  let s := ((s.applySpares b).each (imgRecords b) (fun s r => s.applyRecord r)).buildLasts
  s.each (List.range 22) (fun s p => s.setReg .crrBwActive p 0 (s.reg .crrBwSplit p))

/-- Step 8: HBM is trained at the RATE of each stack and its rows are repaired (R622, R626, Table 16-8). -/
def State.hbmUp (s : State) : State :=
  let b := s.start.image
  ({ s with start := { s.start with rates := (List.range 6).map (imgRate b), rowRepairs := (List.range 6).map (imgRepairs b) } } : State).setFld
    .clkStatus fClkStatusMclkLock 0 0x3F

/-- Step 9: ports that are enabled begin to train, the table area takes the erased-state map (R326), every page outside it waits to
be zeroed (R488), and firmware may be loaded (R494). -/
def State.fabricUp (s : State) : State :=
  let s := s.each ((List.range 12).filter (fun p => s.fld .olaPortCfg fOlaPortCfgEn p == 1)) (fun s p => s.trainPort p)
  let lo := s.fld .ctxHbmInfo fCtxHbmInfoTablePages
  let n := s.fld .ctxHbmInfo fCtxHbmInfoTotalPages - lo
  let s := s.setFld .ctxZeroStatus fCtxZeroStatusQueued 0 n
  let pages := (rangeFrom lo n).map (fun p => ({ page := p, issued := 0, acked := 0, ctx := 1024 } : ZeroPage))
  { s with tier := { s.tier with zero := pages }, kv := { s.kv with tableUsed := Config.erasedMapBytes } }

/-- Step 1: the security core derives the identity and shows the owner fuse (R689, R696, R697). -/
def State.identify (s : State) : State :=
  let id := Config.shake256 Config.identityKey
  let s := s.each [0, 1] (fun s i => s.setReg .secDeviceId i 0 (BitVec.ofNat 64 (id.toNat / 2 ^ (64 * i))))
  (s.setFld .secStatus fSecStatusIdReady 0 1).setFld .secStatus fSecStatusOwnerFused 0 (if s.sec.ownerDigest.isSome then 1 else 0)

/-! ## The steps (R618, R745) -/

/-- A step of Table 15-1 that needs nothing from outside. -/
def State.plainStep (s : State) : State :=
  if s.start.step = 1 then s.identify.toStep 2 2
  else if s.start.step = 2 then (s.setFld .clkStatus fClkStatusCclkLock 0 1).toStep 3 3
  else if s.start.step = 3 then
    if (List.range 4).all (fun m => s.ucieWidth m == 0) then s else (s.setFld .clkStatus fClkStatusUclkLock 0 1).toStep 4 4
  else if s.start.step = 5 then s.selectImage s.start.cands
  else if s.start.step = 7 then s.configure.toStep 8 6
  else if s.start.step = 8 then if s.start.coolant then s.hbmUp.toStep 9 7 else s
  else if s.start.step = 9 then (s.fabricUp.toStep 10 7).setFld .rstFwLoad fRstFwLoadStatus 0 1
  else if s.start.step = 10 ∧ s.released then (s.toStep 11 8).setFld .pwrState fPwrStateState 0 1
  else s

/-- The work of the step at hand ends, and the next step begins. -/
def State.bootStep (s : State) (d : StartData) : State :=
  match d with
  | .plain => s.plainStep
  | .nor a b => if s.start.step = 4 then (s.readNor a b).toStep 5 4 else s
  | .boardFlash t => if s.start.step = 6 then (s.boardUp t).toStep 7 5 else s

/-- START_STEP_DONE. -/
def execStartStepDone (d : StartData) (s : State) : Res := .next (if s.starting then s.bootStep d else s)

/-! ## Recovery (R625, R648) -/

/-- CFG_CTL_RECOVER: after a failure at step 4 or 5, the image in the window is verified and goes to slot A. -/
def State.recover (s : State) : State :=
  let f := s.fld .cfgStatus fCfgStatusFailStep
  if s.stage ≠ 15 ∨ (f ≠ 4 ∧ f ≠ 5) ∨ s.fl.nor.isSome then s
  else
    let b := memRead s.fw.window 0 65536
    if s.cfgReason b = 0 then
      { s with fl := { s.fl with nor := some { slot := 1, image := withGen (b.take (imgBytes b)) (s.start.maxGen + 1), req := none } } }
    else s.postSignature 7 (s.cfgReason b)

/-- CFG_CTL_RECOVER. -/
def execCfgCtlRecover (s : State) : Res := .next s.recover

/-! ## The I3C target (R628, R629), taken over at step 2 (Table 20-3) -/

/-- The target answers. -/
def State.i3cOn (s : State) : Bool := decide (2 ≤ s.start.step)

/-- The hottest sensor; before any conversion its value is free. -/
def State.hottest (s : State) : Nat × State :=
  if s.start.sensors.isEmpty then let d := s.draw; (d.1.toNat % 2 ^ 16, d.2)
  else ((s.start.sensors.map (·.toNat)).foldl max 0, s)

/-- I3C_ENTDAA. -/
def execI3cEntdaa (addr : BitVec 7) (s : State) : Res :=
  .next (if s.i3cOn then { s with start := { s.start with i3cAddr := addr.toNat } } else s)

/-- I3C_READ_STATUS. -/
def execI3cReadStatus (s : State) : Res := .next (if s.i3cOn then s.emit (.i3c (leBytes 8 (s.reg .pwrStatus).toNat)) else s)

/-- I3C_READ_TEMP. -/
def execI3cReadTemp (s : State) : Res :=
  .next (if s.i3cOn then
      let r := s.hottest
      r.2.emit (.i3c (leBytes 2 r.1))
    else s)

/-- I3C_WRITE_BUDGET. -/
def execI3cWriteBudget (w : BitVec 16) (s : State) : Res :=
  .next (if s.i3cOn then s.setFld .pwrBudget fPwrBudgetI3cW 0 w.toNat else s)

/-- I3C_READ_CAP. -/
def execI3cReadCap (s : State) : Res := .next (if s.i3cOn then s.emit (.i3c (leBytes 2 (s.fld .pwrStatus fPwrStatusCap))) else s)

end Sys2Proof.Machine
end

