-- ==== Sys2Proof/Machine/Power.lean ====
section
/-! DEFINITION. The power controller, the monitors, the cold stop and the resume (chapter 15). -/

namespace Sys2Proof.Machine

/-! ## The control period (R628, R630 to R632, R637, R641) -/

/-- min(CAP_MAX, B): B is the lower of the nonzero budgets, or CAP_MAX where both are 0 (R628). -/
def State.budgetCap (s : State) : Nat :=
  let m := s.fld .pwrCapCfg fPwrCapCfgCapMax
  let bs := [s.fld .pwrBudget fPwrBudgetHostW, s.fld .pwrBudget fPwrBudgetI3cW].filter (· != 0)
  min m (minList m bs)

/-- The hottest sensor lies above THERM_WARN. -/
def State.warm (s : State) : Bool := s.start.sensors.any (fun t => decide (s.fld .pwrThermCfg fPwrThermCfgThermWarn < t.toNat))

/-- How far the cap is lowered for heat: by 5 % of CAP_MAX each period while warm (R637). -/
def State.nextDrop (s : State) : Nat := if s.warm then s.pw.drop + s.fld .pwrCapCfg fPwrCapCfgCapMax / 20 else 0

/-- The cap in force: lowered for heat, but not below SAFE_CAP. -/
def State.nextCap (s : State) : Nat :=
  let b := s.budgetCap
  if s.nextDrop = 0 then b else min b (max (s.fld .pwrCapCfg fPwrCapCfgSafeCap) (b - s.nextDrop))

/-- The need of a phase for a cluster: learned, or PHASE0_W (R630). -/
def State.need (s : State) (ph : Nat) : Nat :=
  (if ph = 0 then none else tabGet none s.pw.need ph).getD (s.fld .pwrCapCfg fPwrCapCfgPhase0W)

/-- The need of a cluster's current phase. -/
def State.needOf (s : State) (cl : Nat) : Nat := s.need (tabGet 0 s.pw.cur cl)

/-- Learn the need of a phase that a cluster ran alone and without throttle, with weight 1/16 (R630). -/
def State.learn (s : State) (cl measured : Nat) : State :=
  match tabGet [] s.pw.ran cl with
  | [ph] =>
    if ph = 0 ∨ s.pw.throttled.contains cl then s
    else
      let n := match tabGet none s.pw.need ph with
        | some n => (15 * n + measured) / 16
        | none => measured
      { s with pw := { s.pw with need := tabSet none s.pw.need ph (some n) } }
  | _ => s

/-- The classes in the order that PRIO gives: 0 compute, 1 memory, 2 links. -/
def prioOrder : Nat → List Nat
  | 0 => [0, 1, 2]
  | 1 => [0, 2, 1]
  | 2 => [1, 0, 2]
  | 3 => [1, 2, 0]
  | 4 => [2, 0, 1]
  | _ => [2, 1, 0]

/-- Grants to the classes in order: each its demand, or what remains (R631). -/
def grants : List (Nat × Nat) → Nat → List (Nat × Nat)
  | [], _ => []
  | (k, want) :: l, left => (k, min want left) :: grants l (left - min want left)

/-- A class's grant. -/
def grantOf (l : List (Nat × Nat)) (k : Nat) : Nat := ((l.find? (fun e => e.1 == k)).map (·.2)).getD 0

/-- 64ths left idle by a class that gets `g` of `want`, with `most` at its floor (Table 15-4). -/
def idleShare (g want most : Nat) : Nat := if want ≤ g then 0 else min most (64 - 64 * g / want)

/-- The measured density of a cluster: the highest over its arrays (R212, R632). -/
def State.density (s : State) (cl : Nat) : Nat :=
  ((rangeFrom (17 * cl) 17).map (fun c => ((s.core c).arrs.map (·.density)).foldl max 0)).foldl max 0

/-- The throttle level at density `d` of a cluster whose grant is to its need as `a` is to `n`, at most 60 (R632). -/
def throttleLevel (d a n : Nat) : Nat := if n = 0 then 0 else min 60 (64 - d * a / n)

/-- The shares of the cap in a control period. -/
def State.shareCap (s : State) (m : PowerMeas) (cap : Nat) : State :=
  let cls := (List.range 16).filter s.clusterIn
  let compute := (cls.map s.needOf).sum
  let want (k : Nat) : Nat := if k = 0 then compute else if k = 1 then m.memory else m.links
  let short := decide (cap < m.base + m.memory + m.links + compute)
  let gs := grants ((prioOrder (s.fld .pwrCapCfg fPwrCapCfgPrio)).map (fun k => (k, want k))) (cap - m.base)
  let g (k : Nat) : Nat := if short then grantOf gs k else want k
  let targets := cls.foldl (fun t cl =>
    tabSet 0 t cl (if short then throttleLevel (s.density cl) (g 0) compute else 0)) []
  { s with pw := { s.pw with
      targets := targets, memIdle := idleShare (g 1) m.memory 16, linkIdle := idleShare (g 2) m.links 32 } }

/-- The accounts' energies of the period in microjoules: each meter's reading is free (R640, R641). -/
def State.meterEnergy (s : State) : State :=
  let xs := ((List.range 1024).filter (fun x => s.ctxState x != 0)) ++ [1024]
  s.each xs (fun s x =>
    let d := s.draw
    d.2.setReg .pwrCtxEnergy x 0 (d.2.reg .pwrCtxEnergy x + d.1))

/-- A new period: each cluster has run the phases that its streams are in (R630). -/
def State.ranAnew (s : State) : Tab (List Nat) := (List.range 16).foldl (fun t cl => tabSet [] t cl (s.phasesNow cl)) []

/-- POWER_CONTROL_PERIOD, while the power core is present (Table 12-6). -/
def execPowerControlPeriod (m : PowerMeas) (s : State) : Res :=
  .next (if !s.clocked ∨ !s.fwOn 1 then s
    else
      let s := s.each (List.range 16) (fun s cl => s.learn cl (m.clusters.getD cl 0))
      let cap := s.nextCap
      let s := (s.shareCap m cap).meterEnergy
      let s := (s.setFld .pwrStatus fPwrStatusCap 0 cap).setFld .pwrStatus fPwrStatusPower 0 m.total.toNat
      let drop := s.nextDrop
      { s with pw := { s.pw with periods := s.pw.periods + 1, drop := drop, ran := s.ranAnew, throttled := (List.range 16).filter (fun cl => s.level cl != 0) } })

/-! ## The limiter and the ramp (R633, R634, R636) -/

/-- The limiter's limit. -/
def State.limit (s : State) : Nat := if s.fwOn 1 then s.fld .pwrCapCfg fPwrCapCfgCapMax else s.fld .pwrCapCfg fPwrCapCfgSafeCap

/-- The floor after a comparison. -/
def nextFloor (floor power limit : Nat) : Nat :=
  if limit < power then min 60 (floor + 4) else if 100 * power < 95 * limit then floor - 1 else floor

/-- LIMITER_COMPARE; meters and limiter are duplicated (R673). -/
def execLimiterCompare (power : BitVec 12) (fault : AgentFault) (s : State) : Res :=
  .next (if !s.clocked then s
    else if fault = .control then s.controlDetect agentPower
    else
      let f := nextFloor s.pw.floor power.toNat s.limit
      let s := { s with pw := { s.pw with floor := f } }
      (s.setFld .pwrStatus fPwrStatusPower 0 power.toNat).setFld .pwrStatus fPwrStatusLimiter 0 (if f = 0 then 0 else 1))

/-- The level that a cluster is to apply (R633). -/
def State.wantLevel (s : State) (cl : Nat) : Nat :=
  max (max (tabGet 0 s.pw.targets cl) s.pw.floor) (if s.pw.droops.contains cl then s.fld .pwrCapCfg fPwrCapCfgDroopT else 0)

/-- A cluster applies a level; one that is not 0 leaves the period without a lesson (R630). -/
def State.setLevel (s : State) (cl v : Nat) : State :=
  { s with pw := { s.pw with
      levels := tabSet 0 s.pw.levels cl v
      throttled := if v = 0 then s.pw.throttled else setInsert cl s.pw.throttled } }

/-- THROTTLE_RAMP_FRAME: by at most 4 in a frame. -/
def execThrottleRampFrame (cl : Fin 16) (s : State) : Res :=
  .next (if !s.clocked then s
    else
      let v := s.level cl
      let w := s.wantLevel cl
      s.setLevel cl (if v < w then min w (v + 4) else max w (v - 4)))

/-- DROOP_TRIP: at once to DROOP_T. -/
def execDroopTrip (cl : Fin 16) (s : State) : Res :=
  .next (if !s.clocked then s
    else
      let s := s.bumpSat .pwrStatus fPwrStatusDroops 0
      { s with pw := { s.pw with droops := setInsert cl s.pw.droops } }.setLevel cl (max (s.level cl) (s.fld .pwrCapCfg fPwrCapCfgDroopT)))

/-- DROOP_HOLD_EXPIRY. -/
def execDroopHoldExpiry (cl : Fin 16) (s : State) : Res :=
  .next (if s.clocked then { s with pw := { s.pw with droops := setErase cl s.pw.droops } } else s)

/-! ## Ageing (R638, R639) -/

/-- The margin of a cluster rises to what its slowest oscillator needs, at most twelve steps of 5 mV. -/
def State.age (s : State) (need : List Nat) : State :=
  let m := (List.range 16).foldl (fun t cl => tabUpd 0 t cl (fun v => max v (min 12 (need.getD cl 0)))) s.pw.margin
  let s := { s with pw := { s.pw with margin := m } }
  if (List.range 16).any (fun cl => tabGet 0 m cl == 12) then s.setFld .pwrStatus fPwrStatusAgeLimit 0 1 else s

/-- AGEING_MEASURE: the security core appends the changes to the trim block. -/
def execAgeingMeasure (need : List Nat) (s : State) : Res :=
  .next (if !s.clocked ∨ !s.fwOn 1 then s
    else
      let s := s.age need
      if s.fwOn 0 then s.appendTrim else s)

/-! ## The cold stop (R637, R642, R643, R672, R745) -/

/-- A stop begins with a cause; a resume under way is abandoned, and a stop under way keeps its stages, and its cause unless that is HOST
(R646). -/
def State.beginStop (s : State) (cause : Nat) : State :=
  let st := s.fld .pwrState fPwrStateState
  if s.fld .fltDieStatus fFltDieStatusFatal = 1 ∨ st = 3 then s
  else if st = 2 then if s.fld .pwrState fPwrStateCause = 3 then s.setFld .pwrState fPwrStateCause 0 cause else s
  else
    let s := (s.setFld .pwrState fPwrStateState 0 2).setFld .pwrState fPwrStateCause 0 cause
    { s with pw := { s.pw with stopStage := 1 } }

/-- COOLANT_OK_DEASSERT: a cold stop from step 8 on. -/
def execCoolantOkDeassert (s : State) : Res :=
  .next (
    let was := s.start.coolant
    let s := { s with start := { s.start with coolant := false } }
    if was ∧ 8 ≤ s.start.step then s.beginStop 1 else s)

/-- COOLANT_OK_ASSERT. -/
def execCoolantOkAssert (s : State) : Res := .next { s with start := { s.start with coolant := true } }

/-- THERMAL_CONVERSION: the 96 sensors; one above THERM_TRIP twice in a row drives THERMTRIP_N and stops the die (R637, R751). -/
def execThermalConversion (temps : List (BitVec 16)) (s : State) : Res :=
  .next (if s.start.step < 2 ∨ temps.length ≠ 96 then s
    else
      let hot := (List.range 96).filter (fun i => decide (s.fld .pwrThermCfg fPwrThermCfgThermTrip < (temps.getD i 0).toNat))
      let twice := hot.any (fun i => s.start.hotOnce.contains i)
      let fresh := twice && !s.start.tripped
      let s := { s with start := { s.start with sensors := temps, hotOnce := hot, tripped := s.start.tripped || twice } }
      if fresh then s.beginStop 2 else s)

/-- A port goes down with the clocks; Table 11-5 names no reason for it, so that byte is free. -/
def State.portStops (s : State) (p : Nat) : State :=
  let st := s.fld .olaPortStatus fOlaPortStatusState p
  if st = 0 ∨ st = 5 then s
  else
    let d := s.draw
    d.2.portDown p codeLinkDown (d.1.toNat % 256)

/-- Stage 4: the cause is posted, unless the die stops for the host or after a DIE detection (Table 15-5, R672). -/
def State.postStop (s : State) : State :=
  match s.fld .pwrState fPwrStateCause with
  | 1 => s.postDev { code := codeCoolantStop }
  | 2 => s.postDev { code := codeThermalTrip }
  | _ => s

/-- The stop reaches the scheduler and control cores: those that run are DRAINING (R643). -/
def State.coresDrain (s : State) : State :=
  s.each (rangeFrom 2 17) (fun s f =>
    let st := s.fld .rstFwStatus fRstFwStatusState f
    if st = 1 ∨ st = 2 then (s.setFwState f 3).updFw f (fun c => { c with phase := 0 }) else s)

/-- Scheduler and control cores go OFF with their clocks (R643). -/
def State.coresOff (s : State) : State :=
  s.each (rangeFrom 2 17) (fun s f => (s.setFwState f 0).updFw f (fun c => { c with phase := 0 }))

/-- Stage 5: clocks are gated but for the channels whose last program or flush is under way (R642, R747). -/
def State.gateClocks (s : State) : State :=
  let s := (s.setFld .clkStatus fClkStatusAclkLock 0 0).setFld .clkStatus fClkStatusFclkLock 0 0
  let s := s.setFld .clkStatus fClkStatusMclkLock 0 0
  let s := (s.coresOff).setFld .pwrState fPwrStateState 0 3
  s.each (List.range 16) (fun s ch => s.gateNclk ch)

/-! ## Resume (R643 to R646) -/

/-- Every sensor lies below THERM_RESUME. -/
def State.cool (s : State) : Bool := s.start.sensors.all (fun t => decide (t.toNat < s.fld .pwrThermCfg fPwrThermCfgThermResume))

/-- A warm resume starts: the scheduler and control cores go through phases 2 to 4, those that R499 or R500 holds excepted. -/
def State.beginResume (s : State) : State :=
  let s := s.setFld .pwrState fPwrStateState 0 4
  s.each (rangeFrom 2 17) (fun s f =>
    if s.fld .rstFwStatus fRstFwStatusGivenUp f = 1 ∨ s.fld .rstFwStatus fRstFwStatusDigestFail f = 1 ∨ !s.released then s
    else (s.setFwState f 1).updFw f (fun c => { c with phase := 2, cause := 0 }))

/-- A stop of cause HOST whose function is back in D0 (Table 15-6). -/
def State.hostBack (s : State) : State :=
  if s.fld .pwrState fPwrStateState ≠ 3 ∨ s.fld .pwrState fPwrStateCause ≠ 3 ∨ s.start.d3hot then s
  else if s.start.coolant ∧ s.cool then s.beginResume
  else s.setFld .pwrState fPwrStateCause 0 1

/-- A request that stage 3 waits for: one to HBM, SRAM or flash (Table 15-5). -/
def State.drains (s : State) (r : Req) : Bool := !s.hostReq r

/-- COLD_STOP_STAGE_DONE. Stage 3 begins with the ports going down, and ends once every request to HBM, SRAM or flash has returned;
after a DIE detection it ends in any case (R672). -/
def State.stopStageDone (s : State) : State :=
  let next (s : State) (k : Nat) : State := { s with pw := { s.pw with stopStage := k } }
  match s.pw.stopStage with
  | 1 => next s.coresDrain 2
  | 2 => next (s.each (List.range 12) (fun s p => s.portStops p)) 3
  | 3 => if s.mv.reqs.any s.drains ∧ s.fld .fltDieStatus fFltDieStatusFatal = 0 then s else next s 4
  | 4 => next s.postStop 5
  | 5 => (next s.gateClocks 0).hostBack
  | _ => s

/-- COLD_STOP_STAGE_DONE. -/
def execColdStopStageDone (s : State) : Res := .next s.stopStageDone

/-- PWR_STATE_RESUME (R644). REFUSED of the write that commands it is REGISTER_WRITE's, in front of it (`ownCommand`). -/
def execPwrStateResume (s : State) : Res :=
  .next (
    let cause := s.fld .pwrState fPwrStateCause
    if s.fld .pwrState fPwrStateState = 3 ∧ s.start.coolant ∧ s.cool ∧ s.fld .fltDieStatus fFltDieStatusFatal = 0 ∧
        ((cause = 1 ∨ cause = 2) → s.fld .cfgStatus fCfgStatusFlags / 8 = 1) then s.beginResume
    else s.setFld .pwrState fPwrStateRefused 0 1)

/-- RESUME_DONE: clocks are locked, the cores that restart are ready, THERMTRIP_N is released, and the stop is lifted (R645, R751). -/
def State.resumed (s : State) : State :=
  let s := s.setReg .clkStatus 0 0 (s.reg .clkStatus ||| 3)
  let s := s.setFld .clkStatus fClkStatusMclkLock 0
    (((List.range 6).filter (fun k => !s.flt.hbmOut.contains k)).foldl (fun a k => a + 2 ^ k) 0)
  let s := s.setFld .clkStatus fClkStatusNclkLock 0 (((List.range 16).filter s.channelUp).foldl (fun a c => a + 2 ^ c) 0)
  let s := (s.setFld .pwrState fPwrStateState 0 (if s.start.step = 11 then 1 else 0)).setFld .pwrState fPwrStateCause 0 0
  let s := s.each s.mv.adopt (fun s p => s.adoptShare p)
  ({ s with start := { s.start with tripped := false, hotOnce := [] } }).flKick

/-- RESUME_DONE. -/
def execResumeDone (s : State) : Res :=
  .next (if s.fld .pwrState fPwrStateState = 4 ∧ (rangeFrom 2 17).all (fun f => s.fld .rstFwStatus fRstFwStatusState f != 1) then s.resumed
    else s)

/-- D3HOT_ENTRY (R646): from RUN, the stages of the stop with cause HOST. -/
def execD3hotEntry (s : State) : Res :=
  .next (
    let s := { s with start := { s.start with d3hot := true } }
    if s.run then s.beginStop 3 else s)

/-- D0_RETURN (R646). -/
def execD0Return (s : State) : Res := .next ({ s with start := { s.start with d3hot := false } }).hostBack

end Sys2Proof.Machine
end

