-- ==== Sys2Proof/Machine/Reliability.lean ====
section
/-! DEFINITION. Scrubbing, clock monitors, response timeouts and the switching-in of SRAM spares (chapter 16). -/

namespace Sys2Proof.Machine

/-! ## Scrubbing (R664 to R666, R671, R676, R678, R681, R682) -/

/-- The context whose extents map an HBM address. -/
def State.pageOwner (s : State) (a : Nat) : Option Nat :=
  let h := a / 2 ^ 21
  ((s.extents.find? (fun e => decide (e.2.1 ≤ h ∧ h < e.2.1 + e.2.2.2))).map (·.1))

/-- A scrub's finding goes to the ring of the context that owns the line, or to the device event ring where none does. -/
def State.postOwner (s : State) (owner : Option Nat) (e : Event) : State :=
  match owner with
  | some x => s.postCtx x e
  | none => s.postDev e

/-- A line that an injection made fail is poisoned now. -/
def State.noFresh (s : State) (store line : Nat) : State :=
  { s with test := { s.test with fresh := s.test.fresh.filter (fun f => f != (store, line)) } }

/-- A scrub poisons a line: its code is posted unless the line was poisoned before (R665). -/
def State.poisons (s : State) (store line : Nat) (known : Bool) (bad : State → State) (post : State → State) : State :=
  if known && !s.test.fresh.contains (store, line) then s
  else post (bad (((s.noFresh store line).mend store (fun l => l == line))))

/-- The scrub passes line 0 of an SRAM and counts its banks' rows anew (R678). -/
def State.newPeriod (s : State) (line bank banks : Nat) : State :=
  if line = 0 then { s with flt := { s.flt with sramRows := tabClear s.flt.sramRows (bank * 2 ^ 16) ((bank + banks) * 2 ^ 16) } } else s

/-- Scrub of a bench line: a corrected word is written back; a line that cannot be corrected is poisoned (R94, R96). -/
def State.scrubBench (s : State) (c line : Nat) (rd : ReadRes) : State :=
  let s := s.newPeriod line (c * 16) 16
  let key := benchKey c line
  match s.benchSees c line rd with
  | .clean => s
  | .corrected => ((s.count 0 c 17).mend 0 (fun l => l == key)).sramCorrected (benchRow c line)
  | .uncorrectable => s.poisons 0 key (s.mem.benchBad.contains key)
      (fun s => { s with mem := { s.mem with benchBad := setInsert key s.mem.benchBad } })
      (fun s => (s.benchUe c).postOwner (s.resident (c / 17)) { code := codeBenchUncorrectable })

/-- Scrub of a cluster-store line. -/
def State.scrubStore (s : State) (cl line : Nat) (rd : ReadRes) : State :=
  let s := s.newPeriod line (5000 + cl * 16) 16
  let key := cl * 65536 + line
  match s.storeSees cl line rd with
  | .clean => s
  | .corrected => (s.storeCorrected cl line).mend 1 (fun l => l == key)
  | .uncorrectable => s.poisons 1 key (s.storePoisoned cl line)
      (fun s => { s with mem := { s.mem with storeBad := setInsert key s.mem.storeBad } })
      (fun s => s.postOwner (s.resident cl) { code := codeSramUncorrectable, detail := sramDetail 0 cl line 1 })

/-- A context whose hub structure is lost is reset (Table 16-7). -/
def State.structReset (s : State) (x : Nat) : State := if s.ctxState x = 2 then s.beginReset x else s

/-- What the loss of a hub structure leads to (Table 16-7). -/
def State.hubLost (s : State) : HubStruct → State
  | .context x => s.structReset x
  | .queue q => if (s.queue q).log2 = 0 then s else s.structReset (s.queue q).ctx.toNat
  | .sequence n => if (s.sequence n).state = .free then s else s.structReset (s.sequence n).ctx
  | .extent x => s.structReset x
  | .proxy x => s.structReset x
  | .savedSet x => s.structReset x
  | .posteRestante x => s.structReset x
  | .region r => if (s.region r).valid then s.structReset (s.region r).owner else s
  | .fwCopy k => { s with flt := { s.flt with fwPoison := setInsert k s.flt.fwPoison } }
  | .fwBlock f => s.fwRestart f 4
  | .txnShadow t => if s.txnState t = 1 ∨ s.txnState t = 2 then s.rollback t codeTxnAborted else s

/-- Scrub of a hub line that holds a structure. -/
def State.scrubHub (s : State) (h : HubStruct) (line : Nat) (rd : ReadRes) : State :=
  let s := s.newPeriod line 6000 24
  match (if s.mem.hubBad.contains line then ReadRes.uncorrectable else s.flipSees 2 line rd) with
  | .clean => s
  | .corrected => ((s.count 9 16 0).mend 2 (fun l => l == line)).sramCorrected (hubRow line)
  | .uncorrectable => s.poisons 2 line (s.mem.hubBad.contains line)
      (fun s => { s with mem := { s.mem with hubBad := setInsert line s.mem.hubBad } })
      (fun s => (s.postDev { code := codeSramUncorrectable, detail := sramDetail 1 0 line 1 }).hubLost h)

/-- The scrub passes object 0 of a sync store and counts its slabs anew (R682). -/
def State.newSyncPeriod (s : State) (home idx : Nat) : State :=
  if idx % 2 ^ 18 = 0 then
    { s with sync := { s.sync with ce := s.sync.ce.filter (fun (e : Nat × Nat) =>
        !(List.range 400).any (fun p => slabKey home p == e.1)) } }
  else s

/-- Scrub of a sync object (R188, R219, R682). -/
def State.scrubObj (s : State) (k : ObjKey) (rd : ReadRes) : State :=
  match s.slabOf k with
  | none => s
  | some (home, slab) =>
    if s.copying home slab || s.sync.failed.contains (slabKey home slab) then s
    else
      let at_ := syncLine home slab k.idx
      let f := s.flipSees 3 at_ rd
      let s := s.mend 3 (fun l => l == at_)
      match f with
      | .clean => s
      | .corrected => s.objCorrected home slab
      | .uncorrectable => s.objFails k home slab k.cl 0 k.ref 1

/-- Scrub of an HBM line, one READ source at its port, and a WRITE source for what it writes back (R664); a controller out of service
scrubs nothing. -/
def State.scrubHbm (s : State) (line : Nat) (rd : ReadRes) : State :=
  let a := 64 * line
  let s := if line = 0 then { s with flt := { s.flt with hbmRows := [] } } else s
  if hdmLimit < a ∨ s.flt.hbmOut.contains (hbmStack a) then s
  else
    let s := s.hbmAccess none a false srcScrub 1
    match s.hbmSees a rd with
    | .clean => s
    | .corrected => (((s.hbmAccess none a true srcScrub 1).hbmCorrected a).count 5 (hbmStack a) 5).mend 4 (fun l => l == line)
    | .uncorrectable => s.poisons 4 line (s.hbmPoisoned line)
        (fun s =>
          let s := (s.hbmAccess none a true srcScrub 1).logRow a true (tabGet 0 s.flt.hbmRows (hbmRowKey a))
          { s with mem := { s.mem with hbmBad := setInsert line s.mem.hbmBad } })
        (fun s => s.postOwner (s.pageOwner a) { code := codeHbmUncorrectable, detail := hbmDetail a 1 })

/-- SCRUB_READ. -/
def State.scrub (s : State) (t : ScrubTarget) (rd : ReadRes) : State :=
  match t with
  | .bench c line => s.scrubBench c line rd
  | .store cl line => s.scrubStore cl line rd
  | .hub h line => s.scrubHub h line rd
  | .syncCluster cl idx => match (s.newSyncPeriod cl idx).resident cl with
      | some x => (s.newSyncPeriod cl idx).scrubObj { hub := false, cl := cl, ctx := x, idx := idx } rd
      | none => s.newSyncPeriod cl idx
  | .syncHub x idx => (s.newSyncPeriod 16 idx).scrubObj { hub := true, cl := 0, ctx := x, idx := idx } rd
  | .hbm line => s.scrubHbm line rd

/-- SCRUB_READ. -/
def execScrubRead (t : ScrubTarget) (rd : ReadRes) (s : State) : Res := .next (if s.clocked then s.scrub t rd else s)

/-! ## Clock monitors (R627, R667, Table 16-6) -/

/-- The bit of FLT_DIE_STATUS.CLK_FAULT of a domain; SCLK has none. -/
def clkBit : ClockDom → Nat
  | .aclk => 0
  | .fclk => 1
  | .cclk => 2
  | .mclk => 3
  | .uclk => 4
  | .oclk => 5
  | .nclk => 6
  | .refclk => 7
  | .sclk => 8

/-- The monitor of a clock acts: its PLL has locked and is not gated. -/
def State.watched (s : State) (d : ClockDom) (inst : Nat) : Bool :=
  let v := (s.reg .clkStatus).toNat
  match d with
  | .aclk => inst == 0 && v.testBit 0
  | .fclk => inst == 0 && v.testBit 1
  | .cclk => inst == 0 && v.testBit 2
  | .mclk => decide (inst < 6) && v.testBit (4 + inst)
  | .uclk => inst == 0 && v.testBit 3
  | .oclk => decide (inst < 12) && s.clocked && s.fld .olaPortStatus fOlaPortStatusState inst != 0 && s.fld .olaPortStatus fOlaPortStatusState inst != 5
  | .nclk => decide (inst < 16) && v.testBit (10 + inst)
  | .refclk => inst == 0 && s.start.step != 0
  | .sclk => inst == 0 && s.start.step == 4 && s.stage != 15

/-- CLOCK_FAULT: domain, instance and kind (1 stopped, 2 off frequency). -/
def clockEvent (d : ClockDom) (inst kind : Nat) : Event :=
  { code := codeClockFault, detail := [BitVec.ofNat 8 (clkBit d), BitVec.ofNat 8 inst, BitVec.ofNat 8 kind] }

/-- A clock has failed. Its lock bit in CLK_STATUS goes, and its domain's outcome of Table 16-6 follows. -/
def State.clockFault (s : State) (d : ClockDom) (inst kind : Nat) : State :=
  let ev := clockEvent d inst kind
  let mark (s : State) : State := s.setFld .fltDieStatus fFltDieStatusClkFault 0 (s.fld .fltDieStatus fFltDieStatusClkFault ||| 2 ^ clkBit d)
  let unlock (s : State) (b : Nat) : State := s.setReg .clkStatus 0 0 (s.reg .clkStatus &&& ~~~(BitVec.ofNat 64 (2 ^ b)))
  match d with
  | .aclk => (mark (unlock s 0)).dieDetect agentClock ev
  | .fclk => (mark (unlock s 1)).dieDetect agentClock ev
  | .cclk => (mark (unlock s 2)).dieDetect agentClock ev
  | .refclk => (mark s).dieDetect agentClock ev
  | .mclk =>
    let s := (mark (unlock s (4 + inst))).postDev ev
    { s with flt := { s.flt with hbmOut := setInsert inst s.flt.hbmOut } }
  | .uclk => ((mark (unlock s 3)).postDev ev).each (List.range 4) (fun s m => s.ucieSet m 0 0 0)
  | .oclk => ((mark s).postDev ev).portStops inst
  | .nclk =>
    let s := (mark (unlock s (10 + inst))).postDev ev
    { s with fl := { s.fl with chOut := setInsert inst s.fl.chOut } }
  | .sclk => s.startFails codeClockFault.toNat

/-- CLOCK_MONITOR_WINDOW: the third failing window in a row is a fault. -/
def execClockMonitorWindow (d : ClockDom) (inst : Nat) (obs : ClockObs) (s : State) : Res :=
  .next (if !s.watched d inst then s
    else
      let k := clkBit d * 16 + inst
      let put (s : State) (n : Nat) : State := { s with flt := { s.flt with windows := tabSet 0 s.flt.windows k n } }
      match obs with
      | .good => put s 0
      | o =>
        let n := tabGet 0 s.flt.windows k + 1
        if n = 3 then (put s 0).clockFault d inst (if o = .stopped then 1 else 2) else put s n)

/-! ## Response timeout (R674) -/

/-- A request goes to HBM or to on-die SRAM: not to flash, to the host or to another die. -/
def State.localReq (s : State) (r : Req) : Bool :=
  match r.agent with
  | .courier _ => match s.reqSpace r with
    | some sp => sp != 4 && sp != 5 && sp != 6
    | none => false
  | .sorter _ => decide (r.item < 16)
  | _ => true

/-- RESPONSE_TIMEOUT. -/
def execResponseTimeout (tag : Nat) (s : State) : Res :=
  .next (match s.mv.reqs.find? (fun r => r.tag == tag) with
    | some r => if s.clocked && s.localReq r then s.controlDetect agentTimeout else s
    | none => s)

/-! ## SRAM spares (R677 to R679) -/

/-- A copied row is replaced by its bank's spare row, and its errors are counted anew. -/
def State.rowSpared (s : State) (r : SramRow) : State :=
  let b := sramBank r
  let used := tabGet 0 s.flt.rowsUsed b + 1
  let s := { s with flt := { s.flt with
      rowCopies := s.flt.rowCopies.filter (fun (x : SramRow) => x != r)
      rowsUsed := tabSet 0 s.flt.rowsUsed b used
      sramRows := tabSet 0 s.flt.sramRows (sramKey r) 0 } }
  let left := sramSpares r - used
  match r with
  | .bench c bank _ => (s.bump .fltSramSpare fFltSramSpareBenchRows (c / 17)).spareSwitched (0x80 + c / 17) bank left
  | .store cl bank _ => ((s.bump .fltSramSpare fFltSramSpareStoreRows cl).count 9 cl 2).spareSwitched (0x80 + cl) bank left
  | .hub bank _ => ((s.bump .fltSramSpare fFltSramSpareStoreRows 16).count 9 16 2).spareSwitched 0x90 bank left

/-- SRAM_ROW_SPARE_DONE. -/
def execSramRowSpareDone (r : SramRow) (s : State) : Res :=
  .next (if s.clocked && s.flt.rowCopies.contains r then s.rowSpared r else s)

/-- HUB_BANK_COPY_DONE: the spare bank is steered in until the next full restart. -/
def execHubBankCopyDone (bank : Fin 24) (s : State) : Res :=
  .next (if s.clocked && s.flt.bankCopies.contains bank.val then
      let s := { s with flt := { s.flt with bankCopies := setErase bank.val s.flt.bankCopies } }
      (s.setFld .fltSramSpare fFltSramSpareHubBank 16 bank).spareSwitched 0x50 bank 0
    else s)

end Sys2Proof.Machine
end

