-- ==== Sys2Proof/Machine/Security.lean ====
section
/-! DEFINITION. Entropy, attestation, bandwidth windows, the awl and the test access port (chapters 17, 18 and 20). -/

namespace Sys2Proof.Machine

/-! ## Entropy (R690) -/

/-- ENTROPY_HEALTH_FAIL. -/
def execEntropyHealthFail (s : State) : Res := .next (s.setFld .secStatus fSecStatusEntFail 0 1)

/-- ENTROPY_HEALTH_PASS: keying that waited begins. -/
def execEntropyHealthPass (s : State) : Res :=
  .next (
    let s := s.setFld .secStatus fSecStatusEntFail 0 0
    if s.keyingOn then s.keyKick else s)

/-! ## Attestation (R698 to R700, Table 17-6) -/

/-- The current spare map in the form of R622. -/
def State.spareMap (s : State) : List Byte :=
  ((List.range 16).map (fun cl =>
    let failed := ((List.range 17).filter (fun p => s.fld .fltCoreStatus fFltCoreStatusFailed (17 * cl + p) == 1)).foldl (fun a p => a + 2 ^ p) 0
    leBytes 8 (s.fld .laceStatus fLaceStatusOffPos cl + failed * 256))).flatten

/-- The image of a firmware kind, and its digest. -/
def State.fwImageOf (s : State) (k : Nat) : List Byte × Nat :=
  match tabGet none s.fw.copies k with
  | some (b, d) => (b, d.toNat)
  | none => ([], 0)

/-- Bytes 0x000 to 0x1BF of the report, with the number of the report. -/
def State.reportBody (s : State) (n : Nat) : List Byte :=
  let flags := s.fld .cfgStatus fCfgStatusFlags + (if s.sec.ownerDigest.isSome then 16 else 0)
  let words (r : RegName) (k : Nat) : List Byte := ((List.range k).map (fun i => leBytes 8 (s.reg r i).toNat)).flatten
  leBytes 4 0x53564154 ++ leBytes 2 1 ++ leBytes 2 0xB1 ++ words .secDeviceId 2 ++ leBytes 1 s.die ++
    leBytes 1 (s.fld .cfgStatus fCfgStatusSlot) ++ leBytes 2 flags ++ leBytes 4 0 ++ leBytes 8 (imgGen s.start.image) ++ leBytes 8 n ++
    words .secNonce 4 ++ words .cfgDigest 4 ++ ((List.range 4).map (fun k => leBytes 32 (s.fwImageOf k).2)).flatten ++
    ((List.range 4).map (fun k => leBytes 4 (leField (s.fwImageOf k).1 8 4))).flatten ++ s.spareMap ++
    leBytes 32 (Config.shake256 (words .fltArraySteer 272)).toNat ++ List.replicate 32 0

/-- SEC_ATT_GO: every state field is taken at once. -/
def execSecAttGo (s : State) : Res :=
  .next (if !s.clocked ∨ s.fld .secAttCtl fSecAttCtlBusy = 1 then s
    else
      let n := s.sec.reports + 1
      let body := s.reportBody n
      ({ s with sec := { s.sec with building := some body, reports := n } }).setFld .secAttCtl fSecAttCtlBusy 0 1)

/-- ATTESTATION_DONE: the security core is present and has random values. -/
def execAttestationDone (s : State) : Res :=
  .next (match s.sec.building with
    | some b =>
      if !s.fwOn 0 ∨ s.fld .secStatus fSecStatusEntFail = 1 then s
      else
        let sig := padBytes 3309 (Config.mldsaSign (ascii "SV2-ATT") b s.sec.signs)
        let s := { s with sec := { s.sec with building := none, report := b ++ sig ++ [0, 0, 0], signs := s.sec.signs + 1 } }
        (s.setFld .secAttCtl fSecAttCtlCode 0 codeOk.toNat).setFld .secAttCtl fSecAttCtlBusy 0 0
    | none => s)

/-! ## Bandwidth windows (R719) -/

/-- PMC_BW_WINDOW_END. -/
def execPmcBwWindowEnd (p : Fin 48) (s : State) : Res :=
  .next (if !s.clocked then s
    else
      let a := tabGet 0 s.bwc (2 * p.val)
      let b := tabGet 0 s.bwc (2 * p.val + 1)
      let s := (s.setFld .pmcBw fPmcBwAUnits p a).setFld .pmcBw fPmcBwBUnits p b
      let s := s.bump .pmcBw fPmcBwSeq p
      { s with bwc := tabSet 0 (tabSet 0 s.bwc (2 * p.val) 0) (2 * p.val + 1) 0 })

/-! ## The awl (R504 to R506, R721 to R726) -/

/-- A write to an AWL register is taken, or refused with TEST_DENIED. -/
def State.awlWrite (s : State) (f : State → State) : State :=
  if !s.clocked then s
  else if s.testEnable then (f s).setFld .awlStatus fAwlStatusCode 0 codeOk.toNat
  else s.setFld .awlStatus fAwlStatusCode 0 codeTestDenied.toNat

/-- AWL_CTL.STATE: 0 OFF, 1 STARTING, 2 ON, 3 DRAINING. -/
def State.awlState (s : State) : Nat := s.fld .awlCtl fAwlCtlState
def State.setAwl (s : State) (st : Nat) : State := s.setFld .awlCtl fAwlCtlState 0 st
def State.awlPending (s : State) (b : Nat) : State := s.setFld .awlCtl fAwlCtlPending 0 b

/-- An enable or a disable of the awl (R504 to R506). -/
def State.awlRequest (s : State) (on : Bool) : State :=
  let st := s.awlState
  if s.fld .awlCtl fAwlCtlPending = 1 then
    if (on && st == 1) || (!on && st == 3) then s.awlPending 0 else s
  else if on then
    if st = 0 then s.setAwl 1 else if st = 3 then s.awlPending 1 else s
  else if st = 2 then s.setAwl 3
  else if st = 1 then s.awlPending 1
  else s

/-- AWL_ENABLE. -/
def execAwlEnable (s : State) : Res := .next (s.awlWrite (fun s => (s.setFld .awlCtl fAwlCtlEn 0 1).awlRequest true))

/-- AWL_DISABLE. -/
def execAwlDisable (s : State) : Res := .next (s.awlWrite (fun s => (s.setFld .awlCtl fAwlCtlEn 0 0).awlRequest false))

/-- AWL_START_DONE: ON, or on to DRAINING where a disable was recorded. -/
def execAwlStartDone (s : State) : Res :=
  .next (if s.clocked ∧ s.awlState = 1 then
      if s.fld .awlCtl fAwlCtlPending = 1 then (s.awlPending 0).setAwl 3 else s.setAwl 2
    else s)

/-- AWL_DRAIN_DONE: OFF, or on to STARTING where an enable was recorded. -/
def execAwlDrainDone (s : State) : Res :=
  .next (if s.clocked ∧ s.awlState = 3 then
      if s.fld .awlCtl fAwlCtlPending = 1 then (s.awlPending 0).setAwl 1 else s.setAwl 0
    else s)

/-! ## Injection (R725, R733) -/

/-- Lines, and words of a line, that a store has; instances count as Table 18-12 gives them. None where INSTANCE, WORD or BIT lies
outside the store. -/
def injPlace (store inst word bit : Nat) : Option (Nat × Nat) :=
  match store with
  | 0 => if inst < 272 ∧ word < 131072 ∧ bit < 72 then some (benchKey inst (word / 8), word % 8) else none
  | 1 => if inst < 16 ∧ word < 524288 ∧ bit < 72 then some (inst * 65536 + word / 8, word % 8) else none
  | 2 => if inst = 0 ∧ word < 3145728 ∧ bit < 72 then some (word / 8, word % 8) else none
  | 3 =>
    if bit < 72 ∧ ((inst < 16 ∧ word < 4096) ∨ (inst = 16 ∧ word < 196608)) then some (syncLine inst (word / 512) word, 0) else none
  | 4 => if inst = 0 ∧ 64 * word ≤ hdmLimit ∧ bit < 512 then some (word, 0) else none
  | _ => none

/-- A bit of a stored word is inverted; inverted twice it is as it was. -/
def State.flipBit (s : State) (f : Flip) : State :=
  { s with test := { s.test with flips := if s.test.flips.contains f then s.test.flips.filter (fun g => g != f) else s.test.flips ++ [f] } }

/-- A line of a bench, a cluster store or HBM that its code can no longer correct reads as failed from now on. -/
def State.settleFlips (s : State) (store line : Nat) : State :=
  if (store = 0 ∨ store = 1 ∨ store = 4) ∧ s.flipSees store line .clean = .uncorrectable then
    let s := s.mend store (fun l => l == line)
    let s := { s with test := { s.test with fresh := s.test.fresh ++ [(store, line)] } }
    { s with mem := { s.mem with
        benchBad := if store = 0 then setInsert line s.mem.benchBad else s.mem.benchBad
        storeBad := if store = 1 then setInsert line s.mem.storeBad else s.mem.storeBad
        hbmBad := if store = 4 then setInsert line s.mem.hbmBad else s.mem.hbmBad } }
  else s

/-- An injection: bit BIT, and with BITS 2 the bit 8 positions higher, modulo the word's length. -/
def State.inject (s : State) (store bits : Nat) : State :=
  let inst := s.fld .awlInjAddr fAwlInjAddrInstance
  let word := s.fld .awlInjAddr fAwlInjAddrWord
  let bit := s.fld .awlInjAddr fAwlInjAddrBit
  match injPlace store inst word bit with
  | none => s.setFld .awlStatus fAwlStatusCode 0 codeAddressInvalid.toNat
  | some (line, w) =>
    let n := if store = 4 then 512 else 72
    let s := s.flipBit ⟨store, line, w, bit⟩
    let s := if bits = 2 then s.flipBit ⟨store, line, w, (bit + 8) % n⟩ else s
    (s.settleFlips store line).bump .awlStatus fAwlStatusInjected 0

/-- AWL_INJ_GO: performed at once while the awl is ON. Reserved values of STORE and BITS inject nothing. -/
def execAwlInjGo (store : BitVec 4) (bits : BitVec 2) (s : State) : Res :=
  .next (if !s.clocked ∨ !s.testEnable then s.awlWrite (fun s => s)
    else
      let s := s.awlWrite (fun s => (s.setFld .awlInjCtl fAwlInjCtlStore 0 store.toNat).setFld .awlInjCtl fAwlInjCtlBits 0 bits.toNat)
      if s.awlState = 2 ∧ store.toNat < 5 ∧ (bits = 1 ∨ bits = 2) then s.inject store.toNat bits.toNat else s)

/-! ## The test access port (R752, R753) -/

/-- Put an instruction in force. -/
def State.tap (s : State) (n : Nat) : State := { s with test := { s.test with instruction := n } }

/-- TAP_BYPASS. -/
def execTapBypass (s : State) : Res := .next (s.tap 0)

/-- TAP_SAMPLE_PRELOAD: the boundary register takes the VIO18 signals, whose levels are free, and is loaded. -/
def execTapSamplePreload (preload : BitVec 64) (s : State) : Res :=
  .next (
    let d := s.draw
    let s := (d.2.tap 1).emit (.tap d.1)
    { s with test := { s.test with boundary := preload } })

/-- TAP_EXTEST: the boundary register drives the signals, and what they show is shifted out. -/
def execTapExtest (drive : BitVec 64) (s : State) : Res :=
  .next (
    let d := s.draw
    let s := (d.2.tap 2).emit (.tap d.1)
    { s with test := { s.test with boundary := drive } })

/-- TAP_OWNER_FUSE: only while RESET_N is low, VPP_FUSE is at 1.8 V and the digest is unprogrammed; TDO then shifts the digest out. -/
def execTapOwnerFuse (digest : BitVec 256) (vpp : Bool) (s : State) : Res :=
  .next (
    let s := s.tap 3
    if s.start.step = 0 ∧ vpp ∧ s.sec.ownerDigest = none then
      let s := { s with sec := { s.sec with ownerDigest := some digest } }
      s.each (List.range 4) (fun s i => s.emit (.tap (BitVec.ofNat 64 (digest.toNat / 2 ^ (64 * i)))))
    else s)

end Sys2Proof.Machine
end

