-- ==== Sys2Proof/Machine/Dispatch.lean ====
section
/-! DEFINITION. One arm per command: each calls its meaning. -/

namespace Sys2Proof.Machine

/-- What a command does to everything but the queue of waiting commands. -/
def exec (i : Instr) (s : State) : Host.Outcome State Fault Refusal :=
  match i with
  | .registerWrite v off len value => Sys2Proof.Machine.execRegisterWrite v off len value s
  | .rstFwWindowWrite off data => Sys2Proof.Machine.execRstFwWindowWrite off data s
  | .shadowWrite off len value => Sys2Proof.Machine.execShadowWrite off len value s
  | .hifDoorbell v win q tail => Sys2Proof.Machine.execHifDoorbell v win q tail s
  | .letterFetch q host rd => Sys2Proof.Machine.execLetterFetch q host rd s
  | .nopLetter q => Sys2Proof.Machine.execNopLetter q s
  | .run q rd => Sys2Proof.Machine.execRun q rd s
  | .signalLetter q => Sys2Proof.Machine.execSignalLetter q s
  | .waitLetter q => Sys2Proof.Machine.execWaitLetter q s
  | .move q => Sys2Proof.Machine.execMove q s
  | .gather q rd => Sys2Proof.Machine.execGather q rd s
  | .seqOpen q => Sys2Proof.Machine.execSeqOpen q s
  | .seqStep q frames => Sys2Proof.Machine.execSeqStep q frames s
  | .seqEnd q => Sys2Proof.Machine.execSeqEnd q s
  | .seqClose q => Sys2Proof.Machine.execSeqClose q s
  | .seqTableWritesDone n => Sys2Proof.Machine.execSeqTableWritesDone n s
  | .place q => Sys2Proof.Machine.execPlace q s
  | .swap q => Sys2Proof.Machine.execSwap q s
  | .promoteRoute q rd => Sys2Proof.Machine.execPromoteRoute q rd s
  | .promoteFetch q => Sys2Proof.Machine.execPromoteFetch q s
  | .promotePin q => Sys2Proof.Machine.execPromotePin q s
  | .promoteUnpin q => Sys2Proof.Machine.execPromoteUnpin q s
  | .time q => Sys2Proof.Machine.execTime q s
  | .collectiveAllGather q => Sys2Proof.Machine.execCollectiveAllGather q s
  | .collectiveAllReduce q => Sys2Proof.Machine.execCollectiveAllReduce q s
  | .collectiveBroadcast q => Sys2Proof.Machine.execCollectiveBroadcast q s
  | .letterComplete q pm hostErr => Sys2Proof.Machine.execLetterComplete q pm hostErr s
  | .completionRecordWrite q hostErr => Sys2Proof.Machine.execCompletionRecordWrite q hostErr s
  | .streamBegin c => Sys2Proof.Machine.execStreamBegin c s
  | .streamFetch c n rd => Sys2Proof.Machine.execStreamFetch c n rd s
  | .nop c => Sys2Proof.Machine.execNop c s
  | .endCmd c => Sys2Proof.Machine.execEndCmd c s
  | .phase c => Sys2Proof.Machine.execPhase c s
  | .ldt c => Sys2Proof.Machine.execLdt c s
  | .lds c => Sys2Proof.Machine.execLds c s
  | .mac c => Sys2Proof.Machine.execMac c s
  | .drain c => Sys2Proof.Machine.execDrain c s
  | .vecAdd c => Sys2Proof.Machine.execVecAdd c s
  | .vecSub c => Sys2Proof.Machine.execVecSub c s
  | .vecMul c => Sys2Proof.Machine.execVecMul c s
  | .vecFma c => Sys2Proof.Machine.execVecFma c s
  | .vecMin c => Sys2Proof.Machine.execVecMin c s
  | .vecMax c => Sys2Proof.Machine.execVecMax c s
  | .vecCmplt c => Sys2Proof.Machine.execVecCmplt c s
  | .vecCmpeq c => Sys2Proof.Machine.execVecCmpeq c s
  | .vecSel c => Sys2Proof.Machine.execVecSel c s
  | .vecCvt c => Sys2Proof.Machine.execVecCvt c s
  | .vecSum c => Sys2Proof.Machine.execVecSum c s
  | .vecHmax c => Sys2Proof.Machine.execVecHmax c s
  | .vecExp2 c => Sys2Proof.Machine.execVecExp2 c s
  | .vecRcp c => Sys2Proof.Machine.execVecRcp c s
  | .vecRsq c => Sys2Proof.Machine.execVecRsq c s
  | .vecStateL c => Sys2Proof.Machine.execVecStateL c s
  | .vecStateM c => Sys2Proof.Machine.execVecStateM c s
  | .vmemLoad c rd => Sys2Proof.Machine.execVmemLoad c rd s
  | .vmemStore c => Sys2Proof.Machine.execVmemStore c s
  | .attnPipelined c => Sys2Proof.Machine.execAttnPipelined c s
  | .attnSequenced c => Sys2Proof.Machine.execAttnSequenced c s
  | .attnNormalise c => Sys2Proof.Machine.execAttnNormalise c s
  | .xferBenchToRemote c => Sys2Proof.Machine.execXferBenchToRemote c s
  | .xferRemoteToBench c => Sys2Proof.Machine.execXferRemoteToBench c s
  | .wait c => Sys2Proof.Machine.execWait c s
  | .signal c => Sys2Proof.Machine.execSignal c s
  | .commandComplete c eng fault => Sys2Proof.Machine.execCommandComplete c eng fault s
  | .signalQueueRelease c => Sys2Proof.Machine.execSignalQueueRelease c s
  | .streamEnd c => Sys2Proof.Machine.execStreamEnd c s
  | .vectorIssue c a fault => Sys2Proof.Machine.execVectorIssue c a fault s
  | .stationaryLoadCycle c a rd fault => Sys2Proof.Machine.execStationaryLoadCycle c a rd fault s
  | .vectorAccumulate c a upsets fault => Sys2Proof.Machine.execVectorAccumulate c a upsets fault s
  | .tileSwap c => Sys2Proof.Machine.execTileSwap c s
  | .wPortChunk c rd fault => Sys2Proof.Machine.execWPortChunk c rd fault s
  | .drainRowRead c a fault => Sys2Proof.Machine.execDrainRowRead c a fault s
  | .oPortTake c fault => Sys2Proof.Machine.execOPortTake c fault s
  | .feederLineArrive c a f rd fault => Sys2Proof.Machine.execFeederLineArrive c a f rd fault s
  | .blockExpand c a f fault => Sys2Proof.Machine.execBlockExpand c a f fault s
  | .benchCorrectedWriteback c line => Sys2Proof.Machine.execBenchCorrectedWriteback c line s
  | .softmaxRowEnter c => Sys2Proof.Machine.execSoftmaxRowEnter c s
  | .softmaxRowDeliver c fault => Sys2Proof.Machine.execSoftmaxRowDeliver c fault s
  | .coreSelfTest c finding => Sys2Proof.Machine.execCoreSelfTest c finding s
  | .syncSignalAdd j rd => Sys2Proof.Machine.execSyncSignalAdd j rd s
  | .syncSignalSub j rd => Sys2Proof.Machine.execSyncSignalSub j rd s
  | .syncSignalSet j rd => Sys2Proof.Machine.execSyncSignalSet j rd s
  | .syncWaitArrive j rd => Sys2Proof.Machine.execSyncWaitArrive j rd s
  | .syncSlabCopyDone home slab => Sys2Proof.Machine.execSyncSlabCopyDone home slab s
  | .synPortDataWrite v win value => Sys2Proof.Machine.execSynPortDataWrite v win value s
  | .fillerHoldExpiry c a => Sys2Proof.Machine.execFillerHoldExpiry c a s
  | .fillerStepExpiry c a => Sys2Proof.Machine.execFillerStepExpiry c a s
  | .fillerRiseFrame c a => Sys2Proof.Machine.execFillerRiseFrame c a s
  | .descriptorStart k => Sys2Proof.Machine.execDescriptorStart k s
  | .chainDescriptorRead q pm rd => Sys2Proof.Machine.execChainDescriptorRead q pm rd s
  | .courierRequestIssue k fault => Sys2Proof.Machine.execCourierRequestIssue k fault s
  | .courierResponse k tag reply rd fault => Sys2Proof.Machine.execCourierResponse k tag reply rd fault s
  | .descriptorComplete k id => Sys2Proof.Machine.execDescriptorComplete k id s
  | .laceChunkSend cl fault => Sys2Proof.Machine.execLaceChunkSend cl fault s
  | .laceChunkForward cl m fault => Sys2Proof.Machine.execLaceChunkForward cl m fault s
  | .laceChunkReturn cl => Sys2Proof.Machine.execLaceChunkReturn cl s
  | .regulatorGrant p fault => Sys2Proof.Machine.execRegulatorGrant p fault s
  | .regulatorWindowEnd p => Sys2Proof.Machine.execRegulatorWindowEnd p s
  | .walkerReadReturn cl tag rd => Sys2Proof.Machine.execWalkerReadReturn cl tag rd s
  | .stepFramesGranted n frames => Sys2Proof.Machine.execStepFramesGranted n frames s
  | .victimDemotion x slot grp => Sys2Proof.Machine.execVictimDemotion x slot grp s
  | .pageDemoted n ok slot grp => Sys2Proof.Machine.execPageDemoted n ok slot grp s
  | .pageReadback n rd => Sys2Proof.Machine.execPageReadback n rd s
  | .placeLayerCopied q pm => Sys2Proof.Machine.execPlaceLayerCopied q pm s
  | .swapGroupStaged q pm => Sys2Proof.Machine.execSwapGroupStaged q pm s
  | .swapGateTaken q pm => Sys2Proof.Machine.execSwapGateTaken q pm s
  | .swapGroupCopied q pm => Sys2Proof.Machine.execSwapGroupCopied q pm s
  | .routeRecordRelease r j => Sys2Proof.Machine.execRouteRecordRelease r j s
  | .promotionStart => Sys2Proof.Machine.execPromotionStart s
  | .promotionDone r u => Sys2Proof.Machine.execPromotionDone r u s
  | .zeroRequestIssue => Sys2Proof.Machine.execZeroRequestIssue s
  | .zeroPageComplete => Sys2Proof.Machine.execZeroPageComplete s
  | .bagStart k rd => Sys2Proof.Machine.execBagStart k rd s
  | .bagRowArrive k slot rd => Sys2Proof.Machine.execBagRowArrive k slot rd s
  | .bagOutputAck k slot => Sys2Proof.Machine.execBagOutputAck k slot s
  | .cacheLookup k slot ue => Sys2Proof.Machine.execCacheLookup k slot ue s
  | .sectorReadReturn k tag rd => Sys2Proof.Machine.execSectorReadReturn k tag rd s
  | .srtCacheInvAll => Sys2Proof.Machine.execSrtCacheInvAll s
  | .srtCacheInv r => Sys2Proof.Machine.execSrtCacheInv r s
  | .cacheInvalidateDone => Sys2Proof.Machine.execCacheInvalidateDone s
  | .olaTrainStepDone p peer => Sys2Proof.Machine.execOlaTrainStepDone p peer s
  | .olaTrainTimeout p => Sys2Proof.Machine.execOlaTrainTimeout p s
  | .laneErrorLimit p lane => Sys2Proof.Machine.execLaneErrorLimit p lane s
  | .laneLockLoss p lane => Sys2Proof.Machine.execLaneLockLoss p lane s
  | .repairDone p => Sys2Proof.Machine.execRepairDone p s
  | .autoRetrain p => Sys2Proof.Machine.execAutoRetrain p s
  | .frameTransmit p => Sys2Proof.Machine.execFrameTransmit p s
  | .controlNak p expected => Sys2Proof.Machine.execControlNak p expected s
  | .controlCredit p vc f => Sys2Proof.Machine.execControlCredit p vc f s
  | .controlRepair p lane => Sys2Proof.Machine.execControlRepair p lane s
  | .frameWrite p f => Sys2Proof.Machine.execFrameWrite p f s
  | .frameReadReq p f => Sys2Proof.Machine.execFrameReadReq p f s
  | .frameResponse p f => Sys2Proof.Machine.execFrameResponse p f s
  | .frameSignal p f => Sys2Proof.Machine.execFrameSignal p f s
  | .timeFrame p f => Sys2Proof.Machine.execTimeFrame p f s
  | .collFrame p f => Sys2Proof.Machine.execCollFrame p f s
  | .counterRekey p => Sys2Proof.Machine.execCounterRekey p s
  | .keyingMessage1 p m => Sys2Proof.Machine.execKeyingMessage1 p m s
  | .keyingMessage2 p m => Sys2Proof.Machine.execKeyingMessage2 p m s
  | .keyingMessage4 p tagOk => Sys2Proof.Machine.execKeyingMessage4 p tagOk s
  | .preemptionPoint cl => Sys2Proof.Machine.execPreemptionPoint cl s
  | .sliceExpiry cl => Sys2Proof.Machine.execSliceExpiry cl s
  | .waitYieldExpiry cl => Sys2Proof.Machine.execWaitYieldExpiry cl s
  | .contextSwitch cl => Sys2Proof.Machine.execContextSwitch cl s
  | .contextSwitchDone cl => Sys2Proof.Machine.execContextSwitchDone cl s
  | .ctxCmdReset x => Sys2Proof.Machine.execCtxCmdReset x s
  | .contextResetDone => Sys2Proof.Machine.execContextResetDone s
  | .contextDrainDone x => Sys2Proof.Machine.execContextDrainDone x s
  | .rstFwLoadGo image bytes => Sys2Proof.Machine.execRstFwLoadGo image bytes s
  | .fwVerifyDone => Sys2Proof.Machine.execFwVerifyDone s
  | .fwWatchdogExpiry f => Sys2Proof.Machine.execFwWatchdogExpiry f s
  | .fwComparisonFail f => Sys2Proof.Machine.execFwComparisonFail f s
  | .fwException f => Sys2Proof.Machine.execFwException f s
  | .fwLocalMemoryUe f => Sys2Proof.Machine.execFwLocalMemoryUe f s
  | .fwRestartPhaseDone f => Sys2Proof.Machine.execFwRestartPhaseDone f s
  | .fwReady f cclk => Sys2Proof.Machine.execFwReady f cclk s
  | .ucieModuleTrain m t => Sys2Proof.Machine.execUcieModuleTrain m t s
  | .ucieRetrain m => Sys2Proof.Machine.execUcieRetrain m s
  | .ucieRetrainTimeout m => Sys2Proof.Machine.execUcieRetrainTimeout m s
  | .hostHotReset => Sys2Proof.Machine.execHostHotReset s
  | .h2dSnoop addr => Sys2Proof.Machine.execH2dSnoop addr s
  | .memRd addr rd => Sys2Proof.Machine.execMemRd addr rd s
  | .memRdData addr rd => Sys2Proof.Machine.execMemRdData addr rd s
  | .memWr addr data => Sys2Proof.Machine.execMemWr addr data s
  | .memWrPtl addr be data => Sys2Proof.Machine.execMemWrPtl addr be data s
  | .memSpecRd addr => Sys2Proof.Machine.execMemSpecRd addr s
  | .hifLeaseClaim slot id period => Sys2Proof.Machine.execHifLeaseClaim slot id period s
  | .hifLeaseRelease slot id => Sys2Proof.Machine.execHifLeaseRelease slot id s
  | .leaseExpiry slot => Sys2Proof.Machine.execLeaseExpiry slot s
  | .queueRestart v win q => Sys2Proof.Machine.execQueueRestart v win q s
  | .queuePause v win q => Sys2Proof.Machine.execQueuePause v win q s
  | .queueResume v win q => Sys2Proof.Machine.execQueueResume v win q s
  | .queueReset v win q => Sys2Proof.Machine.execQueueReset v win q s
  | .queueWindback q => Sys2Proof.Machine.execQueueWindback q s
  | .hifRingConsWrite v win ring cons => Sys2Proof.Machine.execHifRingConsWrite v win ring cons s
  | .txnOpen slot owner domains => Sys2Proof.Machine.execTxnOpen slot owner domains s
  | .txnCommit slot owner domains => Sys2Proof.Machine.execTxnCommit slot owner domains s
  | .txnAbort slot owner domains => Sys2Proof.Machine.execTxnAbort slot owner domains s
  | .txnCheckDone slot journal => Sys2Proof.Machine.execTxnCheckDone slot journal s
  | .txnDomainAdopt slot => Sys2Proof.Machine.execTxnDomainAdopt slot s
  | .txnTimeout slot => Sys2Proof.Machine.execTxnTimeout slot s
  | .flsReqWrite slot units grp => Sys2Proof.Machine.execFlsReqWrite slot units grp s
  | .flsReqTrim slot units => Sys2Proof.Machine.execFlsReqTrim slot units s
  | .flsReqConfig slot units => Sys2Proof.Machine.execFlsReqConfig slot units s
  | .flsReqFormat slot units => Sys2Proof.Machine.execFlsReqFormat slot units s
  | .flProgramDone ch res grp => Sys2Proof.Machine.execFlProgramDone ch res grp s
  | .flEraseDone ch blank => Sys2Proof.Machine.execFlEraseDone ch blank s
  | .blockRetire ch blk grps => Sys2Proof.Machine.execBlockRetire ch blk grps s
  | .readDisturbRelocate ch blk retried grps => Sys2Proof.Machine.execReadDisturbRelocate ch blk retried grps s
  | .flsPwUnlock slot len => Sys2Proof.Machine.execFlsPwUnlock slot len s
  | .flsPwRelock slot len => Sys2Proof.Machine.execFlsPwRelock slot len s
  | .flsPwSet slot len => Sys2Proof.Machine.execFlsPwSet slot len s
  | .pwrwarnAssert => Sys2Proof.Machine.execPwrwarnAssert s
  | .pwrwarnDeassert => Sys2Proof.Machine.execPwrwarnDeassert s
  | .journalFlushDone ch => Sys2Proof.Machine.execJournalFlushDone ch s
  | .parcelPresent => Sys2Proof.Machine.execParcelPresent s
  | .parcelPgood => Sys2Proof.Machine.execParcelPgood s
  | .parcelTrained => Sys2Proof.Machine.execParcelTrained s
  | .parcelIdentified header => Sys2Proof.Machine.execParcelIdentified header s
  | .parcelStepTimeout => Sys2Proof.Machine.execParcelStepTimeout s
  | .parcelButton => Sys2Proof.Machine.execParcelButton s
  | .pclCmdRequest => Sys2Proof.Machine.execPclCmdRequest s
  | .pclCmdRelease => Sys2Proof.Machine.execPclCmdRelease s
  | .parcelReadDrainExpiry => Sys2Proof.Machine.execParcelReadDrainExpiry s
  | .parcelLatchPulseEnd => Sys2Proof.Machine.execParcelLatchPulseEnd s
  | .parcelRemoved => Sys2Proof.Machine.execParcelRemoved s
  | .pclPgoodLoss => Sys2Proof.Machine.execPclPgoodLoss s
  | .resetNAssert => Sys2Proof.Machine.execResetNAssert s
  | .resetNDeassert => Sys2Proof.Machine.execResetNDeassert s
  | .startStepDone d => Sys2Proof.Machine.execStartStepDone d s
  | .startStepTimeout code => Sys2Proof.Machine.execStartStepTimeout code s
  | .cfgCtlRecover => Sys2Proof.Machine.execCfgCtlRecover s
  | .i3cEntdaa addr => Sys2Proof.Machine.execI3cEntdaa addr s
  | .i3cReadStatus => Sys2Proof.Machine.execI3cReadStatus s
  | .i3cReadTemp => Sys2Proof.Machine.execI3cReadTemp s
  | .i3cWriteBudget w => Sys2Proof.Machine.execI3cWriteBudget w s
  | .i3cReadCap => Sys2Proof.Machine.execI3cReadCap s
  | .powerControlPeriod m => Sys2Proof.Machine.execPowerControlPeriod m s
  | .limiterCompare power fault => Sys2Proof.Machine.execLimiterCompare power fault s
  | .droopTrip cl => Sys2Proof.Machine.execDroopTrip cl s
  | .droopHoldExpiry cl => Sys2Proof.Machine.execDroopHoldExpiry cl s
  | .thermalConversion temps => Sys2Proof.Machine.execThermalConversion temps s
  | .ageingMeasure need => Sys2Proof.Machine.execAgeingMeasure need s
  | .coolantOkDeassert => Sys2Proof.Machine.execCoolantOkDeassert s
  | .coolantOkAssert => Sys2Proof.Machine.execCoolantOkAssert s
  | .coldStopStageDone => Sys2Proof.Machine.execColdStopStageDone s
  | .pwrStateResume => Sys2Proof.Machine.execPwrStateResume s
  | .resumeDone => Sys2Proof.Machine.execResumeDone s
  | .d3hotEntry => Sys2Proof.Machine.execD3hotEntry s
  | .d0Return => Sys2Proof.Machine.execD0Return s
  | .scrubRead t rd => Sys2Proof.Machine.execScrubRead t rd s
  | .clockMonitorWindow d inst obs => Sys2Proof.Machine.execClockMonitorWindow d inst obs s
  | .responseTimeout tag => Sys2Proof.Machine.execResponseTimeout tag s
  | .sramRowSpareDone r => Sys2Proof.Machine.execSramRowSpareDone r s
  | .hubBankCopyDone bank => Sys2Proof.Machine.execHubBankCopyDone bank s
  | .entropyHealthFail => Sys2Proof.Machine.execEntropyHealthFail s
  | .secAttGo => Sys2Proof.Machine.execSecAttGo s
  | .attestationDone => Sys2Proof.Machine.execAttestationDone s
  | .pmcBwWindowEnd p => Sys2Proof.Machine.execPmcBwWindowEnd p s
  | .awlEnable => Sys2Proof.Machine.execAwlEnable s
  | .awlDisable => Sys2Proof.Machine.execAwlDisable s
  | .awlStartDone => Sys2Proof.Machine.execAwlStartDone s
  | .awlDrainDone => Sys2Proof.Machine.execAwlDrainDone s
  | .awlInjGo store bits => Sys2Proof.Machine.execAwlInjGo store bits s
  | .tapBypass => Sys2Proof.Machine.execTapBypass s
  | .tapSamplePreload preload => Sys2Proof.Machine.execTapSamplePreload preload s
  | .tapExtest drive => Sys2Proof.Machine.execTapExtest drive s
  | .tapOwnerFuse digest vpp => Sys2Proof.Machine.execTapOwnerFuse digest vpp s
  | .malformedRead v off len => Sys2Proof.Machine.execMalformedRead v off len s
  | .entropyHealthPass => Sys2Proof.Machine.execEntropyHealthPass s
  | .contextStartDone x => Sys2Proof.Machine.execContextStartDone x s
  | .walkerRequestIssue cl fault => Sys2Proof.Machine.execWalkerRequestIssue cl fault s
  | .walkerAppendAck cl tag => Sys2Proof.Machine.execWalkerAppendAck cl tag s
  | .sorterRequestIssue k slot fault => Sys2Proof.Machine.execSorterRequestIssue k slot fault s
  | .throttleRampFrame cl => Sys2Proof.Machine.execThrottleRampFrame cl s
  | .flsPwCommandEnd => Sys2Proof.Machine.execFlsPwCommandEnd s
  | .norUpdateDone ok => Sys2Proof.Machine.execNorUpdateDone ok s

end Sys2Proof.Machine
end

