-- ==== Sys2Proof/Machine/Signals.lean ====
section
/-! DEFINITION. What the die's outputs show (chapter 20): each bump group and control output in its Reset state, in use, or in its Stop
state (R740 to R743, R751, Tables 20-2 and 20-3). Nothing of this is state of its own: a signal is a function of the state. -/

namespace Sys2Proof.Machine

/-- How an output stands: driven low or high, released or not driven, in electrical idle, holding a memory in self-refresh, blinking at
1 Hz or 4 Hz, or in use. -/
inductive Drive
  | low
  | high
  | highZ
  | idle
  | selfRefresh
  | slow
  | fast
  | used
  deriving DecidableEq, Repr

/-- What a signal shows: `reset` until the start step that takes it over, `stop` while STATE is STOPPED, `used` otherwise (R741). -/
def State.signal (s : State) (step : Nat) (reset used stop : Drive) : Drive :=
  if s.start.step < step then reset else if s.fld .pwrState fPwrStateState = 3 then stop else used

/-- The outputs of the UCIe modules: the adapter runs while the die is stopped (Table 20-2). -/
def State.ucieBumps (s : State) : Drive := s.signal 3 .low .used .used

/-- The outputs of the HBM PHYs but for HMk_RESET_N, and HMk_RESET_N (Table 20-2). -/
def State.hbmBumps (s : State) : Drive := s.signal 8 .low .used .selfRefresh
def State.hbmResetN (s : State) : Drive := s.signal 8 .low .high .high

/-- The transmitters of the Olila ports (Table 20-2). -/
def State.olilaBumps (s : State) : Drive := s.signal 9 .idle .used .idle

/-- The lamps, green, amber and blue, by the row of Table 14-8 (R604). -/
def lampDrives : Nat → Drive × Drive × Drive
  | 1 => (.low, .slow, .low)
  | 2 => (.high, .low, .low)
  | 3 => (.high, .high, .low)
  | 4 => (.low, .slow, .slow)
  | 5 => (.low, .fast, .low)
  | 6 => (.low, .low, .high)
  | 7 => (.low, .fast, .fast)
  | _ => (.low, .low, .low)

/-- The outputs of Table 20-3. TDO is not among them: what it shifts out is what the port's commands send. -/
inductive OutPin
  | thermtripN
  | norSck
  | norCsN
  | norSi
  | norWpN
  | i3c
  | pclPwrEn
  | pclLatchRel
  | lampG
  | lampA
  | lampB
  deriving DecidableEq, Repr

/-- A level. -/
def driveOf (b : Bool) : Drive := if b then .high else .low

/-- What an output of Table 20-3 shows: THERMTRIP_N is open-drain and released until a trip (R751); NOR_WP_N is high only during FL_NOR;
PCL_LATCH_REL is high during the pulse of R602. -/
def State.outPin (s : State) : OutPin → Drive
  | .thermtripN => if s.start.tripped then .low else .highZ
  | .norSck => s.signal 4 .low .used .low
  | .norCsN => s.signal 4 .high .used .high
  | .norSi => s.signal 4 .low .used .low
  | .norWpN => s.signal 4 .low (driveOf s.fl.nor.isSome) .low
  | .i3c => s.signal 2 .highZ .used .used
  | .pclPwrEn => driveOf s.pclPwrEn
  | .pclLatchRel => s.signal 10 .low (driveOf s.latchPulse) .low
  | .lampG => (lampDrives s.lampRow).1
  | .lampA => (lampDrives s.lampRow).2.1
  | .lampB => (lampDrives s.lampRow).2.2

end Sys2Proof.Machine
end

