-- ==== Sys2Proof/Safety.lean ====
section
/-! DEFINITION. What the statements mean by a sound state. -/

namespace Sys2Proof.Machine

/-- The memories and the state's other tables are in canonical form. -/
def State.wf (s : State) : Bool :=
  memWf s.mem.hbm && memWf s.mem.store && memWf s.mem.bench && memWf s.mem.vreg

/-- The state once a queue has started a letter. -/
def State.begun (s : State) (q : Nat) (x : Letter) : State := s.updLetter ⟨q, x.pm⟩ (fun y => { y with started := true })

/-- The state differs from another in registers alone, and there in those at the keys listed. -/
def RegsOnly (ks : List Nat) (s t : State) : Prop :=
  t = { s with regs := t.regs } ∧ ∀ r i w, regKey r i w ∉ ks → t.reg r i w = s.reg r i w

/-- Command `r` of stream `t` stands at the head of core `c`, at its place `p`; what it goes to has room, and the checks at dispatch
accept it (R163, R169, R173, R176). -/
def State.Dispatches (s : State) (c : Nat) (p : CorePlace) (t : Stream) (r : BitVec 128) : Prop :=
  s.head c = some (p, t, r) ∧ s.dispatchCheck p r = none ∧ s.headRoom p r = true

/-- A field lies in a 64-bit word. -/
def Fl.ok (f : Fl) : Bool := decide (f.lo ≤ f.hi ∧ f.hi < 64)

/-- Two fields share no bit. -/
def Fl.apart (f g : Fl) : Bool := decide (f.hi < g.lo ∨ g.hi < f.lo)

end Sys2Proof.Machine
end

