-- ==== Sys2Proof/Certificates/Slice0/Obligations.lean ====
section
/-! DEFINITION. The statements for the provers. A statement of several parts is the conjunction of the claims it names; each claim says what
the commands it is about do, as an equality whose right side is all that changes. -/

open Sys2Proof Sys2Proof.Machine

namespace Sys2Proof.Claims

/-! ## What the claims are about -/

/-- The rows of Table 4-22 and their numbers. -/
def vecRows (c : Fin 272) : List (Instr × Nat) :=
  [(.vecAdd c, 0x00), (.vecSub c, 0x01), (.vecMul c, 0x02), (.vecFma c, 0x03), (.vecMin c, 0x04), (.vecMax c, 0x05), (.vecCmplt c, 0x06),
   (.vecCmpeq c, 0x07), (.vecSel c, 0x08), (.vecCvt c, 0x09), (.vecSum c, 0x0A), (.vecHmax c, 0x0B), (.vecExp2 c, 0x0C), (.vecRcp c, 0x0D),
   (.vecRsq c, 0x0E), (.vecStateL c, 0x0F), (.vecStateM c, 0x10)]

/-- The core `c` holds a place and the die's clocks run. -/
def AtWork (s : State) (c : Nat) : Prop := s.clocked = true ∧ (s.place c).isSome = true

/-- The object's home can be read: it lies in no slab, or in one that works and is not being copied (R219, R224). -/
def Served (s : State) (k : ObjKey) : Prop :=
  (s.slabOf k = none ∧ k.hub = false) ∨ ∃ home slab, s.slabOf k = some (home, slab) ∧ s.copying home slab = false ∧
    s.sync.failed.contains (slabKey home slab) = false ∧ s.flipSees 3 (syncLine home slab k.idx) .clean = .clean

/-- A SEQ letter of one OP stands at the front of its queue's work, no operation or abort holds its sequence, and its DONE is valid. -/
def SeqLetter (s : State) (q op : Nat) (x : Letter) : Prop :=
  s.startable q 6 = some x ∧ x.field 0x10 1 = op ∧ s.seqAwaited (x.field 0x12 2) = false ∧ (s.sequence (x.field 0x12 2)).abort = false ∧
    (s.begun q x).doneOk ⟨q, x.pm⟩ (x.field 0x18 4) = true

/-- The commands that a STOPPED die still acts on (R600, R603, R627, R643, R744, R747, R751 to R753): resets and the start, the host link's
modules, the security and power cores' work, thermal and clock monitors, the cold stop and the resume, writes of the registers that run and
malformed accesses, the parcel's pins and steps under way, the last flash programs and flushes, the I3C target and the test port. -/
def worksStopped : Instr → Bool
  | .registerWrite _ _ _ _ => true
  | .rstFwWindowWrite _ _ => true
  | .rstFwLoadGo _ _ => true
  | .fwVerifyDone => true
  | .ucieModuleTrain _ _ => true
  | .ucieRetrain _ => true
  | .ucieRetrainTimeout _ => true
  | .hostHotReset => true
  | .h2dSnoop _ => true
  | .flProgramDone _ _ _ => true
  | .pwrwarnAssert => true
  | .pwrwarnDeassert => true
  | .journalFlushDone _ => true
  | .parcelPgood => true
  | .parcelTrained => true
  | .parcelIdentified _ => true
  | .parcelStepTimeout => true
  | .parcelReadDrainExpiry => true
  | .parcelLatchPulseEnd => true
  | .parcelRemoved => true
  | .pclPgoodLoss => true
  | .resetNAssert => true
  | .resetNDeassert => true
  | .startStepDone _ => true
  | .startStepTimeout _ => true
  | .cfgCtlRecover => true
  | .i3cEntdaa _ => true
  | .i3cReadStatus => true
  | .i3cReadTemp => true
  | .i3cWriteBudget _ => true
  | .i3cReadCap => true
  | .thermalConversion _ => true
  | .coolantOkDeassert => true
  | .coolantOkAssert => true
  | .coldStopStageDone => true
  | .pwrStateResume => true
  | .resumeDone => true
  | .d3hotEntry => true
  | .d0Return => true
  | .clockMonitorWindow _ _ _ => true
  | .entropyHealthFail => true
  | .attestationDone => true
  | .tapBypass => true
  | .tapSamplePreload _ => true
  | .tapExtest _ => true
  | .tapOwnerFuse _ _ => true
  | .malformedRead _ _ _ => true
  | .entropyHealthPass => true
  | .flsPwCommandEnd => true
  | .norUpdateDone _ => true
  | _ => false

/-! ## The parts of the statements -/

/-- Right after a full restart every register holds its stated reset value, no command waits, no queue is bound, no context, sequence,
transaction, lease or port is active, and the start has not begun; and asserting RESET_N leads there from every state, but for what lies
outside the reset: memory cells, NAND contents, the owner fuse, the pins and what has been sent (R6, R596, R617, R689, R744). -/
def MachineAtReset : Prop :=
  (∀ r i w, State.reset.reg r i w = regReset r i) ∧ State.reset.pending = [] ∧ State.reset.start.step = 0 ∧
  (∀ q, (State.reset.queue q).state = .disabled ∧ (State.reset.queue q).bound = false) ∧
  (∀ x : Fin 1024, State.reset.ctxState x = 0) ∧ (∀ n, (State.reset.sequence n).state = .free) ∧
  (∀ i : Fin 8, State.reset.txnState i = 0) ∧ (∀ k : Fin 16, State.reset.leaseLive k = false) ∧ (∀ p : Fin 12, State.reset.portState p = 0) ∧
  State.reset.fld .pwrThermCfg fPwrThermCfgThermWarn = 400 ∧ State.reset.fld .fltCoreStatus fFltCoreStatusMember = 31 ∧
  State.reset.fld .synPortData fSynPortDataOwner = 4095 ∧
  (∀ s : State, ∃ t, exec .resetNAssert s = .next t ∧ (∀ r i w, t.reg r i w = regReset r i) ∧ t.queues = [] ∧ t.kv = {} ∧ t.cs = {} ∧
    t.pending = s.pending ∧ t.out = s.out ∧ t.mem.hbm = s.mem.hbm ∧ t.fl.data = s.fl.data ∧ t.fl.map = s.fl.map ∧
    t.sec.ownerDigest = s.sec.ownerDigest ∧ t.start.step = 0 ∧ t.start.coolant = s.start.coolant)

/-- The memories are in canonical form at reset. -/
def ResetIsCanonical : Prop := State.reset.wf = true

/-- A wait that arrives at an orphaned object ends with ORPHAN; one whose condition holds completes with COUNT before it consumes; any other
is registered behind the waits before it (R194, R195, R205). -/
def WaitsHoldOrRegisterOnArrival : Prop :=
  ∀ (s : State) (i : Nat) (op : SyncOp) (cond : Cond) (consume : Bool), s.opReady i = some op → op.act = .wait cond consume →
    Served s op.key →
    let o := s.obj op.key
    let t := s.takeOp i
    let w : Wait := { who := op.who, cond := cond, consume := consume, value := op.value }
    (o.orphaned = true → exec (.syncWaitArrive i .clean) s = .next (t.tellWaiter op.who codeOrphan o.count)) ∧
    (o.orphaned = false → w.holds o.count = true → consume = false →
      exec (.syncWaitArrive i .clean) s = .next (t.tellWaiter op.who codeOk o.count)) ∧
    (o.orphaned = false → w.holds o.count = true → consume = true → o.waits = [] → exec (.syncWaitArrive i .clean) s = .next
      ((t.tellWaiter op.who codeOk o.count).setObj op.key { o with count := o.count - op.value })) ∧
    (o.orphaned = false → w.holds o.count = false → exec (.syncWaitArrive i .clean) s = .next
      (t.setObj op.key { o with waits := o.waits ++ [w] }))

/-- After an update the waits registered are evaluated in their order: the oldest that holds completes with the COUNT it found and, with
CONSUME, takes VALUE from it in that step, and the rest are evaluated again for what that leaves; the end finds no wait that holds, and one
that did not hold stays registered (R194 to R196). -/
def WaitsAreReevaluated : Prop :=
  (∀ (s : State) (k : ObjKey) (o : SyncObj), o.waits.find? (fun w => w.holds o.count) = none → s.settle k o = s.setObj k o) ∧
  (∀ (n : Nat) (ws : List Wait) (c : BitVec 32), ws.find? (fun w => w.holds c) = none → evalWaits n ws c = (ws, c, [])) ∧
  (∀ (n : Nat) (w : Wait) (ws : List Wait) (c d : BitVec 32), ws.find? (fun w => w.holds c) = some w →
    (w.consume = true → d = c - w.value) → (w.consume = false → d = c) →
    let r := evalWaits n (removeFirst (fun w => w.holds c) ws) d
    evalWaits (n + 1) ws c = (r.1, r.2.1, (w.who, c) :: r.2.2)) ∧
  (∀ (n : Nat) (ws : List Wait) (c : BitVec 32), ∀ w ∈ (evalWaits n ws c).1, w ∈ ws) ∧
  (∀ (ws : List Wait) (c : BitVec 32),
    (evalWaits ws.length ws c).1.find? (fun w => w.holds (evalWaits ws.length ws c).2.1) = none) ∧
  (∀ (ws : List Wait) (c : BitVec 32), (∀ w ∈ ws, w.consume = false) →
    (evalWaits ws.length ws c).2.1 = c ∧ (∀ w ∈ ws, w.holds c = true → (w.who, c) ∈ (evalWaits ws.length ws c).2.2))

/-- A doorbell sets TAIL of a queue that the view shows, and is discarded for one that is not bound or, in a U-view, that another context
holds; TAIL further than the ring's size ahead of HEAD halts an ACTIVE queue and posts QUEUE_OVERRUN (R151, R535). Nothing but the queue,
and the event, changes. -/
def DoorbellSetsTail : Prop :=
  (∀ (s : State) (v : View) (win : Fin 1024) (q : Fin 4096) (tail : BitVec 32),
    s.clocked = true → (s.queue q).bound = true → (v = .P ∨ (s.queue q).ctx.toNat = win) →
    exec (.hifDoorbell v win q tail) s = .next (
      let t := s.updQ q (fun x => { x with tail := tail })
      if (s.queue q).state = .active ∧ 2 ^ (s.queue q).log2.toNat < (tail - (s.queue q).head).toNat then
        (t.updQ q (fun x => { x with state := .halted, windback := true, letters := x.letters.filter (·.started) })).postCtx
          (s.queue q).ctx.toNat
          { code := codeQueueOverrun, pm := (s.queue q).completed, queue := some q, unit := (s.queue q).unit.toNat }
      else t)) ∧
  (∀ (s : State) (v : View) (win : Fin 1024) (q : Fin 4096) (tail : BitVec 32),
    (s.queue q).bound = false ∨ (v ≠ .P ∧ (s.queue q).ctx.toNat ≠ win) → exec (.hifDoorbell v win q tail) s = .next s)

/-- A letter that arrives clean from a ring in the die window with the postmark that is due is accepted; the read is counted at its port
(R252). HEAD and ACCEPTED advance by 1 and the letter joins the queue, ended with LETTER_INVALID where the checks of R146 reject it. With
another postmark the queue halts and the letter is refused (R539). -/
def FetchedLetterIsAccepted : Prop :=
  ∀ (s : State) (q : Fin 4096) (host : HostReply) (rd : ReadRes) (a : Nat),
    s.run = true → (s.queue q).state = .active → (s.queue q).refusal = none → (s.queue q).ahead ≠ 0 →
    ((s.queue q).letters.filter (fun y => !y.started)).length < 16 → (s.queue q).loc ≠ 1 →
    s.translate (s.queue q).ctx.toNat
      ((s.queue q).ringBase.toNat + (s.queue q).head.toNat % 2 ^ (s.queue q).log2.toNat * 64) = some a →
    s.hbmSees a rd = .clean →
    exec (.letterFetch q host rd) s = .next (
      let t := s.hbmAccess (some (s.queue q).ctx.toNat) a false srcHub 1
      let raw := t.winRead (s.queue q).ctx.toNat
        ((s.queue q).ringBase.toNat + (s.queue q).head.toNat % 2 ^ (s.queue q).log2.toNat * 64) 64
      let pm : BitVec 32 := BitVec.ofNat 32 (leField raw 0 4)
      let ok := letterForm raw && leField raw 8 2 == (s.queue q).ctx.toNat && leField raw 10 2 == (s.queue q).unit.toNat
      if pm = (s.queue q).accepted + 1 then
        t.updQ q (fun x => { x with
          head := x.head + 1, accepted := x.accepted + 1
          letters := x.letters ++ [{ pm := pm, raw := raw, ended := if ok then none else some { code := codeLetterInvalid } }] })
      else
        (t.updQ q (fun x => { x with state := .halted, windback := true, letters := x.letters.filter (·.started) })).updQ q
          (fun x => { x with refusal := some (pm, x.accepted + 1) }))

/-- What RESTART, PAUSE, RESUME and the wind-back do to a queue that the P-view names, and that the number written stays in the port's
register (R541, R542, R738). -/
def QueueCommandsMoveTheQueue : Prop :=
  (∀ (s : State) (win : Fin 1024) (q : Fin 4096), s.clocked = true → (s.queue q).bound = true → (s.queue q).state = .active →
    exec (.queuePause .P win q) s = .next
      ((s.setFld .hifQportRef fHifQportRefQueue 0 q).updQ q (fun x => { x with state := .paused }))) ∧
  (∀ (s : State) (win : Fin 1024) (q : Fin 4096), s.clocked = true → (s.queue q).bound = true → (s.queue q).state = .paused →
    (s.queue q).ahead ≤ 2 ^ (s.queue q).log2.toNat →
    exec (.queueResume .P win q) s = .next
      ((s.setFld .hifQportRef fHifQportRefQueue 0 q).updQ q (fun x => { x with state := .active, heldRestart := false }))) ∧
  (∀ (s : State) (win : Fin 1024) (q : Fin 4096), s.clocked = true → (s.queue q).bound = true → (s.queue q).state = .halted →
    (s.queue q).windback = false → (s.queue q).ahead ≤ 2 ^ (s.queue q).log2.toNat →
    exec (.queueRestart .P win q) s = .next
      ((s.setFld .hifQportRef fHifQportRefQueue 0 q).updQ q (fun x => { x with state := .active, heldRestart := false }))) ∧
  (∀ (s : State) (win : Fin 1024) (q : Fin 4096), s.clocked = true → (s.queue q).bound = true → (s.queue q).state = .halted →
    (s.queue q).windback = true →
    exec (.queueRestart .P win q) s = .next
      ((s.setFld .hifQportRef fHifQportRefQueue 0 q).updQ q (fun x => { x with heldRestart := true }))) ∧
  (∀ (s : State) (q : Fin 4096), s.clocked = true → (s.queue q).state = .halted → (s.queue q).windback = true →
    (s.queue q).letters = [] → (s.queue q).heldRestart = false →
    exec (.queueWindback q) s = .next
      (s.updQ q (fun x => { x with windback := false, head := x.completed, accepted := x.completed })))

/-- A RESET through a window that sees the queue ends the letters of it and empties it, HALTED; a queue that is DISABLED stays as it is; and
the number written stays in the window's register (R542, R564, R758). -/
def QueuesReset : Prop :=
  ∀ (s : State) (v : View) (win : Fin 1024) (q : Fin 4096) (u : State), s.clocked = true → s.keepQport v win q = u →
    (u.queue q).seen v win = true →
      ((u.queue q).state ≠ .disabled → exec (.queueReset v win q) s = .next (u.resetQueue q)) ∧
      ((u.queue q).state = .disabled → exec (.queueReset v win q) s = .next u)

/-- NOP, END and PHASE complete at dispatch: the head leaves the command queue; END ends the stream's dispatch, PHASE sets the member's
phase ID (R164, R171, R179). -/
def NopEndAndPhase : Prop :=
  ∀ (s : State) (c : Fin 272) (p : CorePlace) (t : Machine.Stream) (r : BitVec 128), s.Dispatches c p t r →
    (opc r = 0x00 → exec (.nop c) s = .next (s.popHead p)) ∧
    (opc r = 0x01 → exec (.endCmd c) s = .next ((s.popHead p).updSeqr p.x p.cm (fun q => { q with
      streams := updFirst (fun e => e.letter == t.letter) (fun e => { e with ended := true }) q.streams }))) ∧
    (opc r = 0x02 → exec (.phase c) s = .next
      (((s.popHead p).updSeqr p.x p.cm (fun q => { q with phase := BitVec.ofNat 8 (cb r 121 114) })).notePhase (cmCl p.cm)
        (cb r 121 114)))

/-- LDT, LDS, MAC and DRAIN leave the command queue and join their engine as the core's youngest command (R43, R49, R57, R63); an LDS names
the format of the arrays it loads. The drain and the transfer engine then hand the cluster courier the descriptor of the command that they
start: of a DRAIN to the external port, or an XFER, that is the only command of the core, at once where the courier has room (R234). -/
def CommandsReachTheirEngines : Prop :=
  ∀ (s : State) (c : Fin 272) (p : CorePlace) (t : Machine.Stream) (r : BitVec 128), s.Dispatches c p t r →
    let joins (e : Engine) : State := (s.popHead p).updCore p.c (fun k => { k with
      cmds := k.cmds ++ [{ id := k.nextCmd, raw := r, eng := e, letter := t.letter }]
      nextCmd := k.nextCmd + 1 })
    (opc r = 0x04 → exec (.ldt c) s = .next (joins .weight)) ∧
    (opc r = 0x05 → exec (.lds c) s = .next ((joins .array).updCore p.c (fun k => { k with
      ldsFmt := (List.range 4).map (fun a => if (ldsMask r).testBit a then some (ldsFmt r) else k.ldsFmt.getD a none) }))) ∧
    (opc r = 0x08 → exec (.mac c) s = .next (joins .array)) ∧
    (opc r = 0x09 → exec (.drain c) s = .next ((joins .drain).engineHands p .drain)) ∧
    (opc r = 0x14 → cb r 121 121 = 0 → exec (.xferBenchToRemote c) s = .next ((joins .transfer).engineHands p .transfer)) ∧
    (opc r = 0x14 → cb r 121 121 = 1 → exec (.xferRemoteToBench c) s = .next ((joins .transfer).engineHands p .transfer)) ∧
    (let hands (e : Engine) (o : Origin) (d : Desc) (hint : Nat) : State :=
      (((joins e).updCmd p.c (s.core p.c).nextCmd (fun y => { y with handed := true })).queueDesc (cmCl p.cm) o d p.x t.letter.q
        (s.seqr p.x p.cm).phase.toNat hint none)
    (s.core p.c).cmds = [] →
      (opc r = 0x09 → drDest r ≠ 2 → (joins .drain).engineHands p .drain = joins .drain) ∧
      (opc r = 0x09 → drDest r = 2 → maskArrays (drMask r) ≠ [] → drN r ≠ 0 → (joins .drain).courierRoom (cmCl p.cm) = true →
        (joins .drain).engineHands p .drain = hands .drain (.drain p.cm (s.core p.c).nextCmd) (drainDesc p.cm r) 0) ∧
      ((joins .transfer).courierRoom (cmCl p.cm) = true →
        (joins .transfer).engineHands p .transfer = hands .transfer (.xfer p.cm (s.core p.c).nextCmd) (xferDesc p.cm r) (cb r 119 117)))

/-- A vector command whose results stand completes: its registers are written, it counts as one completed vector command, and it leaves the
core; a finished command of another engine leaves the core. In either case the transfer and the drain engine hand over what they start then,
and nothing else happens (R82, R171, R234). -/
def CommandsComplete : Prop :=
  (∀ (s : State) (c : Fin 272) (p : CorePlace) (x : Cmd) (o : VecOut), s.clocked = true → s.place c = some p → p.c = c →
    (s.core c).cmds = [x] → x.eng = .vector → x.done = false → x.fail = none → x.out = some o → opc x.raw = 0x0C →
    exec (.commandComplete c .vector .none) s = .next (
      let u := ((s.each o.regs.reverse (fun s e => s.setVreg c e.1 0 e.2)).updCmd c x.id (fun y => { y with done := true })).count 0 c 10
      (u.updCore c (fun k => { k with cmds := removeFirst (fun y => y.id == x.id) k.cmds })).coreHands c)) ∧
  (∀ (s : State) (c : Fin 272) (p : CorePlace) (x : Cmd) (rest : List Cmd), s.clocked = true → s.place c = some p → p.c = c →
    (s.core c).cmds = x :: rest → x.eng = .weight ∨ x.eng = .array ∨ x.eng = .drain → x.done = true → x.fail = none →
    exec (.commandComplete c x.eng .none) s = .next
      ((s.updCore c (fun k => { k with cmds := removeFirst (fun y => y.id == x.id) k.cmds })).coreHands c))

/-- A VEC of any operation of Table 4-22 that meets an idle core joins the vector engine, takes its sources at once and holds the results of
its operation; a CVT counts the losses of R128, and no other operation counts any (R82, R128). -/
def VecTakesItsSources : Prop :=
  ∀ (s : State) (c : Fin 272) (p : CorePlace) (t : Machine.Stream) (r : BitVec 128), s.Dispatches c p t r → opc r = 0x0C →
    (s.core p.c).cmds = [] → (s.core p.c).attn = none → (s.core p.c).smRows = [] →
    ∀ e ∈ vecRows c, vecVop r = e.2 →
      exec e.1 s = .next ((((s.handOver p t r .vector).updCmd p.c (s.core p.c).nextCmd (fun x => { x with rd := .clean })).vecCounts
        p.c r).updCmd p.c (s.core p.c).nextCmd (fun x => { x with out := some ⟨s.vecResults p.c r⟩ })) ∧
      (vecVop r ≠ 0x09 → ∀ u : State, u.vecCounts p.c r = u)

/-- What the operations of Table 4-22 compute, for a VEC without repeats: lane by lane on 128 FP32 lanes, or across them (R136, R137, R83,
R85, R90, R177). Results within a bound are free values (notes/assumptions/3.md); a conversion between two formats other than FP32 goes
through FP32 (notes/assumptions/14.md). -/
def VecResultsByOperation : Prop :=
  ∀ (s : State) (c : Nat) (r : BitVec 128), vecRep r = 0 → vecBimm r = false →
    let a := lanes (s.vreg c (vecVa r))
    let b := lanes (s.vreg c (vecVb r))
    let d := lanes (s.vreg c (vecVc r))
    let is (xs : List F32) : Prop := s.vecResults c r = [(vecVd r, lanesBytes xs)]
    (vecVop r = 0x00 → is (List.zipWith f32Add a b)) ∧
    (vecVop r = 0x01 → is (List.zipWith f32Sub a b)) ∧
    (vecVop r = 0x02 → is (List.zipWith f32Mul a b)) ∧
    (vecVop r = 0x03 → is (List.zipWith (fun (x : F32 × F32) z => f32Fma x.1 x.2 z) (a.zip b) d)) ∧
    (vecVop r = 0x04 → is (List.zipWith f32Min a b)) ∧
    (vecVop r = 0x05 → is (List.zipWith f32Max a b)) ∧
    (vecVop r = 0x06 → is (List.zipWith f32Cmplt a b)) ∧
    (vecVop r = 0x07 → is (List.zipWith f32Cmpeq a b)) ∧
    (vecVop r = 0x08 → is (List.zipWith (fun (x : F32 × F32) z => if z = 0 then x.2 else x.1) (a.zip b) d)) ∧
    (vecVop r = 0x0A → is (f32Sum a :: List.replicate 127 0)) ∧
    (vecVop r = 0x0B → is (f32Hmax a :: List.replicate 127 0)) ∧
    (vecVop r = 0x0C → is (a.map f32Exp2)) ∧
    (vecVop r = 0x0D → is (a.map f32Rcp)) ∧
    (vecVop r = 0x0E → is (a.map f32Rsq)) ∧
    (vecVop r = 0x0F → is ((List.range 128).map (fun k => tabGet 0 s.cs.smL (256 * c + ((vecImm r).toNat + k) % 256)))) ∧
    (vecVop r = 0x10 → is ((List.range 128).map (fun k => tabGet 0 s.cs.smM (256 * c + ((vecImm r).toNat + k) % 256)))) ∧
    (vecVop r = 0x09 → vecSfmt r ≠ 12 → vecDfmt r = 12 →
      s.vecResults c r = [(vecVd r, cvtToF32 (vecSfmt r) (s.vreg c (vecVa r)) (s.vreg c (vecVs r)))])

/-- A VMEM load that meets an idle core takes 512 B of the bench for each register, and a store the registers (R82). -/
def VmemTakesItsSources : Prop :=
  ∀ (s : State) (c : Fin 272) (p : CorePlace) (t : Machine.Stream) (r : BitVec 128), s.Dispatches c p t r → opc r = 0x0D →
    (s.core p.c).cmds = [] → (s.core p.c).attn = none →
    let id := (s.core p.c).nextCmd
    (vmStore r = false → (∀ l ∈ vmLines r, s.benchSees p.c l .clean = .clean) →
      exec (.vmemLoad c .clean) s = .next (((s.handOver p t r .vector).updCmd p.c id (fun x => { x with rd := .clean })).updCmd p.c id
        (fun x => { x with out := some ⟨(List.range (vmCnt r + 1)).map (fun i =>
          (vmReg r + i, memRead s.mem.bench (benchAddr p.c (vmLine r i)) 512))⟩ }))) ∧
    (vmStore r = true →
      exec (.vmemStore c) s = .next (((s.handOver p t r .vector).updCmd p.c id (fun x => { x with rd := .clean })).updCmd p.c id
        (fun x => { x with out := some ⟨(rangeFrom (vmReg r) (vmCnt r + 1)).map (fun v => (v, s.vreg p.c v))⟩ })))

/-- A RUN reads its image's header and stream table, which counts at the port; one whose image is admitted gives each member of this die
that is in service its stream of the image, and waits for them (R160, R163). -/
def RunAdmitsItsImage : Prop :=
  ∀ (s : State) (q : Fin 4096) (rd : ReadRes) (x : Letter), s.startable q 1 = some x →
    let u := s.begun q x
    let l : LetterId := ⟨q, x.pm⟩
    let ctx := u.letterCtx l
    let unit := (u.queue q).unit
    let base := x.field 0x10 8
    let bytes := x.field 0x18 8
    base + bytes ≤ 2 ^ 38 → u.mapped ctx base bytes = true → u.hbmSees ((u.translate ctx base).getD 0) rd = .clean →
    let hdr := min bytes (0x80 + 16 * leField (u.winRead ctx base 128) 0x44 4)
    u.winPoisoned ctx base hdr = false →
    let v := u.hbmAccess (some ctx) ((u.translate ctx base).getD 0) false srcHub ((hdr + 63) / 64)
    v.checkImage ctx base bytes unit = none →
    exec (.run q rd) s = .next (
      let tab := v.streamTable ctx base (leField (v.winRead ctx base 128) 0x44 4)
      let ms := (v.unitMembers unit).filterMap (fun m => (tab.find? (fun e => e.member == m.2)).map (fun e => (m.1, m.2, e)))
      State.runEnds (l := l) <| (v.setWork l (.run base (ms.map (fun m => (m.1, StreamEnd.waiting))))).each ms (fun s m =>
        s.updSeqr ctx m.1 (fun q => { q with streams := q.streams ++
          [{ letter := l, ctx := ctx, offset := base + m.2.2.offset, commands := m.2.2.commands, path := BitVec.ofNat 32 m.2.1 }] })))

/-- A member begins its stream: the argument line is written to the last line of its bench, and its phase is the letter's. Commands arrive
in the stream's queue in order. A stream that has dispatched END ends with OK once none of its commands is in the core (R161 to R164). -/
def StreamsBeginFetchAndEnd : Prop :=
  (∀ (s : State) (c : Fin 272) (p : CorePlace) (t : Machine.Stream) (x : Letter), s.place c = some p →
    (s.seqr p.x p.cm).disp = some t → s.run = true → t.begun = false → t.fail = none → t.abort = false →
    s.fld .fltCoreCtl fFltCoreCtlRetire c ≠ 1 → s.letter t.letter = some x →
    exec (.streamBegin c) s = .next (
      let u := (s.benchWrite c (16383 * 64) (argLine x)).1.updLetter t.letter (fun y => match y.work with
        | .run b st => { y with work := .run b (st.map (fun e => if e.1 = p.cm then (e.1, StreamEnd.running) else e)) }
        | _ => y)
      (u.updSeqr p.x p.cm (fun q => { q.updDisp (fun t => { t with begun := true }) with phase := BitVec.ofNat 8 x.phase })).notePhase
        (cmCl p.cm) x.phase)) ∧
  (∀ (s : State) (c : Fin 272) (n : Nat) (rd : ReadRes) (p : CorePlace) (t : Machine.Stream) (a : Nat), s.place c = some p →
    (s.seqr p.x p.cm).fetching = some t → s.run = true → n ≠ 0 → t.fetched + n ≤ t.commands →
    ((s.seqr p.x p.cm).streams.map (fun t => t.queue.length)).foldl (· + ·) 0 + n ≤ 512 →
    s.translate p.x (t.offset + 16 * t.fetched) = some a → s.mapped p.x (t.offset + 16 * t.fetched) (16 * n) = true →
    s.hbmSees a rd = .clean → s.winPoisoned p.x (t.offset + 16 * t.fetched) (16 * n) = false →
    exec (.streamFetch c n ⟨rd, .none⟩) s = .next (
      let u := s.hbmAccess (some p.x) a false (srcCore c) ((16 * n + 63) / 64)
      let new := (List.range n).map (fun i => BitVec.ofNat 128 (leNat (s.winRead p.x (t.offset + 16 * t.fetched + 16 * i) 16)))
      u.updSeqr p.x p.cm (fun q => { q with
        streams := updFirst (fun e => e.letter == t.letter) (fun e => { e with fetched := e.fetched + n, queue := e.queue ++ new })
          q.streams }))) ∧
  (∀ (s : State) (c : Fin 272) (p : CorePlace) (t : Machine.Stream), s.seat c = some p → (s.seqr p.x p.cm).cur = some t → s.clocked = true →
    t.fail = none → t.ended = true → (s.core c).cmds.any (fun x => x.letter == t.letter) = false →
    exec (.streamEnd c) s = .next (
      (s.updSeqr p.x p.cm (fun q => { q with streams := removeFirst (fun e => e.letter == t.letter) q.streams, waitDone := none })).reportStream
        t.letter p.cm (some codeOk)))

/-- A WAIT holds dispatch and sends its wait to the object; a SIGNAL enters the signal queue of 8 with the commands of the engines that its
AFTER mask names, and leaves for the object once none of them is in the core (R172, R173). -/
def WaitAndSignalCommands : Prop :=
  (∀ (s : State) (c : Fin 272) (p : CorePlace) (t : Machine.Stream) (r : BitVec 128) (k : ObjKey), s.Dispatches c p t r → opc r = 0x18 →
    s.cmdRef p (cb r 117 98) = some k →
    exec (.wait c) s = .next (
      (((s.popHead p).updSeqr p.x p.cm (fun q => { q with waiting := some (cb r 118 118 == 1) })).startFiller p.c).sendSync
        { who := .core p.x p.cm, act := .wait (if cb r 121 120 = 0 then .ge else .eq) (cb r 119 119 == 1), key := k
          ref := BitVec.ofNat 20 (cb r 117 98), cl := cmCl p.cm, mem := cmMem p.cm, value := BitVec.ofNat 32 (cb r 95 64), q := t.letter.q })) ∧
  (∀ (s : State) (c : Fin 272) (p : CorePlace) (t : Machine.Stream) (r : BitVec 128) (k : ObjKey), s.Dispatches c p t r → opc r = 0x19 →
    s.cmdRef p (cb r 113 94) = some k → (s.seqr p.x p.cm).sigq.length < 8 →
    exec (.signal c) s = .next ((s.popHead p).updSeqr p.x p.cm (fun q => { q with
      sigq := q.sigq ++ [⟨{ who := .core p.x p.cm
                            act := .signal (match cb r 121 120 with
                              | 0 => .add
                              | 1 => .sub
                              | _ => .set)
                            key := k, ref := BitVec.ofNat 20 (cb r 113 94), cl := cmCl p.cm, mem := cmMem p.cm
                            value := BitVec.ofNat 32 (cb r 63 32), q := t.letter.q },
          ((s.core p.c).cmds.filter (fun x => (cb r 119 114).testBit (engineBit x.eng))).map (·.id)⟩] }))) ∧
  (∀ (s : State) (c : Fin 272) (p : CorePlace) (g : QSig) (gs : List QSig), s.place c = some p → (s.seqr p.x p.cm).sigq = g :: gs →
    s.clocked = true → (s.core c).cmds.any (fun x => g.after.contains x.id) = false →
    exec (.signalQueueRelease c) s = .next ((s.updSeqr p.x p.cm (fun q => { q with sigq := gs })).sendSync g.op))

/-- An issue slot of an array that is neither held back nor replaying takes the next vectors of its MAC from their feeders, counts them, and
leaves the feeders without them; one that the throttle or a cap refuses carries a throttle bubble; a tile swap gives every array the shadow
tile, once each has issued the tile before (R38, R47, R48, R57, R407). -/
def ArraysIssueAndSwap : Prop :=
  (∀ (s : State) (c : Fin 272) (a : Fin 4) (x : Cmd) (vs : List FeedVec), AtWork s c → ((s.core c).arr a).pipe.length < 5 →
    ((s.core c).arr a).again = [] → s.refusesSlot c a = false → s.macIssue c a = .ok (x, vs) →
    exec (.vectorIssue c a .none) s = .next (
      (((s.issueSlot c a (vs.map (s.macVec c x))).count 0 c 0 vs.length).updCore c (fun k => k.updArr a (fun (r : Arr) =>
        vs.foldl (fun r v => r.updFeeder (v.t * macN x.raw + v.v) (fun (f : Feeder) => { f with queue := f.queue.tail })) r))).updCmd c x.id
          (fun y => { y with issued := bumpAt y.issued a vs.length }))) ∧
  (∀ (s : State) (c : Fin 272) (a : Fin 4), AtWork s c → ((s.core c).arr a).pipe.length < 5 → ((s.core c).arr a).again = [] →
    s.refusesSlot c a = true → exec (.vectorIssue c a .none) s = .next (s.bubble c a 5)) ∧
  (∀ (s : State) (c : Fin 272) (t : Tile) (x : Cmd), AtWork s c → (s.core c).shadow = some t → (s.core c).asksTile = some x →
    (s.core c).arrs.all Arr.tileIdle = true → t.fmt = macWfmt x.raw →
    exec (.tileSwap c) s = .next (
      (s.updCore c (fun k => { k with shadow := none, arrs := k.arrs.map (fun (a : Arr) => { a with active := some t }) })).updCmd c x.id
        (fun y => { y with tile := y.tile + 1 })))

/-- A slot at its accumulate stage commits where its check passes, counted as a replay where it is a reissued one; where the check first
fails it and the four after it are issued again; a slot that fails twice halts the core (R74 to R81). -/
def AccumulateCommitsReplaysOrHalts : Prop :=
  ∀ (s : State) (c : Fin 272) (a : Fin 4) (ups : List Upset) (x : Slot) (rest : List Slot), AtWork s c →
    ((s.core c).arr a).pipe = x :: rest → rest.length = 4 → x.squashed = false →
    let ok := (x.vecs.zipIdx).all (fun e => checkPasses e.1.2 e.2 (s.upsetsOf c a x ups))
    (ok = true → x.suspect = false → exec (.vectorAccumulate c a ups .none) s = .next (
      (s.updCore c (fun k => k.updArr a (fun (r : Arr) => { r with pipe := rest }))).each x.vecs (fun s e => s.commitVec c a e.1 e.2))) ∧
    (ok = true → x.suspect = true → exec (.vectorAccumulate c a ups .none) s = .next (
      ((s.updCore c (fun k => k.updArr a (fun (r : Arr) => { r with pipe := rest }))).bumpSat .fltCoreStatus fFltCoreStatusReplays c).each x.vecs
        (fun s e => s.commitVec c a e.1 e.2))) ∧
    (ok = false → x.suspect = false → exec (.vectorAccumulate c a ups .none) s = .next (
      (s.updCore c (fun k => k.updArr a (fun (r : Arr) => { r with
        pipe := rest.map (fun (y : Slot) => { y with squashed := true })
        again := { x with suspect := true } :: rest ++ r.again }))).count 0 c 6 4)) ∧
    (ok = false → x.suspect = true → exec (.vectorAccumulate c a ups .none) s = .next (s.haltCore c a .aligner))

/-- An LDS takes 128 B of the bench in each of its cycles; with the last of them the array's stationary buffer holds the tile (R49, R51,
R114). -/
def StationaryLoadsFillTheBuffer : Prop :=
  ∀ (s : State) (c : Fin 272) (a : Fin 4) (x : Cmd), AtWork s c → ((s.core c).arr a).pipe.length < 5 → ((s.core c).arr a).again = [] →
    (s.core c).arrayCmd = some x → s.macIssue c a = .error 7 →
    let cause := if s.refusesSlot c a then 5 else 7
    let got := match ((s.core c).arr a).statLoad with
      | some (id, b) => if id = x.id then b else []
      | none => []
    let line := ldsLine x.raw a + got.length / 64
    let all := got ++ (s.benchLine c line ++ s.benchLine c (line + 1))
    let size := tileBytes (ldsFmt x.raw) + (if isMx (ldsFmt x.raw) then 128 else 0)
    (s.core c).readFree x.id line = true → (s.core c).readFree x.id (line + 1) = true → s.benchSees c line .clean = .clean →
    s.benchSees c (line + 1) .clean = .clean →
    (all.length < size → exec (.stationaryLoadCycle c a .clean .none) s = .next (
      (s.bubble c a cause).updCore c (fun k => k.updArr a (fun (r : Arr) => { r with statLoad := some (x.id, all) })))) ∧
    (size ≤ all.length → exec (.stationaryLoadCycle c a .clean .none) s = .next (
      (((s.bubble c a cause).updCore c (fun k => k.updArr a (fun (r : Arr) =>
        { r with statLoad := none, stat := some (statTile (ldsFmt x.raw) all) }))).countTile c (statTile (ldsFmt x.raw) all)).updCmd c x.id
          (fun y =>
            let is := bumpAt y.issued a 1
            { y with issued := is, done := (maskArrays (ldsMask x.raw)).all (fun i => cnt is i != 0) })))

/-- The W port takes 256 B of a tile from four bench lines and, with the first eight chunks of a microscaling tile, 16 scale bytes (R36,
R44). -/
def WPortTakesChunks : Prop :=
  ∀ (s : State) (c : Fin 272) (x : Cmd), AtWork s c → (s.core c).loading = some x → ldtLace x.raw = false →
    let n := (s.core c).load.length / 256
    let line := ldtLine x.raw x.tile + 4 * n
    let mx := isMx (ldtFmt x.raw) ∧ n < 8
    let scaleLine := ldtLine x.raw x.tile + tileBytes (ldtFmt x.raw) / 64 + n / 4
    let reads := rangeFrom line 4 ++ (if mx then [scaleLine] else [])
    reads.all (fun i => (s.core c).readFree x.id i) = true → (∀ i ∈ reads, s.benchSees c i .clean = .clean) →
    exec (.wPortChunk c .clean .none) s = .next (s.acceptChunk c x (((rangeFrom line 4).map (s.benchLine c)).flatten)
      (if mx then ((s.benchLine c scaleLine).drop (16 * (n % 4))).take 16 else []))

/-- A line that a feeder read joins what it holds, or with the vector's last line completes it; one of a compressed vector joins the array's
fetch unit; a compressed vector whose lines are held is expanded, and one that does not fit its block enters as zeros, is counted and, once
for a command, reported (R403 to R414). -/
def FeedersFetchAndExpand : Prop :=
  (∀ (s : State) (c : Fin 272) (a : Fin 4) (f : Fin 2) (x : Cmd) (idx line : Nat) (rest : List Nat), AtWork s c →
    (s.core c).needLines a f = some (x, idx, line :: rest) → (((s.core c).arr a).feeder f).queue.length < 4 →
    (s.core c).readFree x.id line = true → s.benchSees c line .clean = .clean →
    let addr := macAddr x.raw a (idx / macN x.raw) (idx % macN x.raw)
    let g := ((s.core c).arr a).feeder f
    let lines := (if g.cmd = x.id then g.lines else []) ++ [(line, s.benchLine c line)]
    let run := exec (.feederLineArrive c a f .clean .none) s
    (macCmp x.raw = false → rest = [] → run = .next (s.feedVec c a f x idx ((heldLine lines addr).getD [])
      (if isMx (macAfmt x.raw) then ((heldLine lines (addr + 1)).getD []).take 2 else []))) ∧
    (macCmp x.raw = false → rest ≠ [] → run = .next (s.updCore c (fun k => k.updArr a (fun (r : Arr) => r.updFeeder f (fun (g : Feeder) =>
      { g with cmd := x.id, fetched := if g.cmd = x.id then g.fetched else 0, lines := lines }))))) ∧
    (macCmp x.raw = true → run = .next (s.updCore c (fun k => k.updArr a (fun (r : Arr) => { r with
      fetch := r.fetch.take x.id (entryOf (((s.core c).arr a).indexFor x.id) addr).isNone (line, s.benchLine c line) }))))) ∧
  (∀ (s : State) (c : Fin 272) (a : Fin 4) (f : Fin 2) (x : Cmd) (idx : Nat) (e : IdxEntry), AtWork s c →
    (s.core c).needLines a f = some (x, idx, []) → (((s.core c).arr a).feeder f).queue.length < 4 → macCmp x.raw = true →
    let addr := macAddr x.raw a (idx / macN x.raw) (idx % macN x.raw)
    let held := ((s.core c).arr a).heldFor x.id
    entryOf (((s.core c).arr a).indexFor x.id) addr = some e →
    let all := (e.lines.map (fun i => (heldLine held i).getD [])).flatten
    let after := memRead s.mem.bench (c * 2 ^ 20 + e.offset + e.size) (min 9 (2 ^ 20 - (e.offset + e.size)))
    let block := expandBlock e ((all.drop (e.offset % 64)).take e.size) after
    let u := (s.count 0 c 15).count 0 c 16 (if e.bad then 0 else e.size)
    let v := u.bumpSat .cmpFeedStatus fCmpFeedStatusOversize c
    let scales := if isMx (macAfmt x.raw) then [e.scale0, e.scale1] else []
    let detail (why n : Nat) : List Byte :=
      leBytes 4 (c / 17 * 2 ^ 24 + (v.memberOf c).getD 0 * 2 ^ 20 + a * 2 ^ 18 + f * 2 ^ 17) ++ leBytes 4 addr ++ leBytes 4 0 ++
        [BitVec.ofNat 8 why, BitVec.ofNat 8 e.size, BitVec.ofNat 8 n, 0]
    (∀ bytes n, block = .ok (bytes, n) →
      exec (.blockExpand c a f .none) s = .next ((u.when (n < e.size) (fun s => s.bumpSat .cmpFeedStatus fCmpFeedStatusUndersize c)).feedVec
        c a f x idx bytes scales)) ∧
    (∀ why n, block = .error (why, n) → (s.core c).oversize.contains x.id = true →
      exec (.blockExpand c a f .none) s = .next (v.feedVec c a f x idx (List.replicate 64 0) scales)) ∧
    (∀ why n, block = .error (why, n) → (s.core c).oversize.contains x.id = false →
      exec (.blockExpand c a f .none) s = .next (((v.postCtx (v.letterCtx x.letter)
        (v.letterEvent x.letter codeBlockOversize 0 (detail why n))).updCore c (fun k =>
          { k with oversize := k.oversize.filter (fun i => k.cmds.any (fun y => y.id == i)) ++ [x.id] })).feedVec c a f x idx
            (List.replicate 64 0) scales)))

/-- What a block of each kind of Table 10-3 expands to, and the reasons of Table 10-4 (R399 to R402, R413). -/
def BlocksExpandByKind : Prop :=
  ∀ (e : IdxEntry) (b after : List Byte),
    let bm := leField (b ++ after) 1 8
    let n := (List.range 64).countP (fun i => bm.testBit i)
    let is (k : Nat) : Prop := e.bad = false ∧ (b.headD 0).toNat = k
    (e.bad = true → expandBlock e b after = .error (3, 0)) ∧
    (is 0 → expandBlock e b after = .ok (List.replicate 64 0, 1)) ∧
    (is 1 → n < 64 → 9 + n ≤ e.size → expandBlock e b after = .ok (spread bm (b.drop 9), 9 + n)) ∧
    (is 1 → e.size < 9 ∨ (n < 64 ∧ e.size < 9 + n) → expandBlock e b after = .error (1, 9 + n)) ∧
    (is 1 → n = 64 → 9 ≤ e.size → expandBlock e b after = .error (4, 9 + n)) ∧
    (is 2 → 65 ≤ e.size → expandBlock e b after = .ok ((b.drop 1).take 64, 65)) ∧
    (is 2 → e.size < 65 → expandBlock e b after = .error (1, 65)) ∧
    (∀ k, is k → 3 ≤ k → expandBlock e b after = .error (2, 0))

/-- A DRAIN converts one row of an array once its vectors are committed, and with CLEAR zeroes it; the O port writes a row to the bench, to
the vector registers or to its courier's descriptor, and retires it (R61, R63, R66, R769, R770). -/
def DrainsConvertAndDeliver : Prop :=
  (∀ (s : State) (c : Fin 272) (a : Fin 4) (x : Cmd), AtWork s c →
    (s.core c).cmds.find? (fun x => x.eng == .drain && !x.done &&
      (maskArrays (drMask x.raw)).any (fun i => decide (cnt x.issued i < drN x.raw))) = some x →
    let i := cnt x.issued a
    let row := drBase x.raw + i
    (drMask x.raw).testBit a = true → i < drN x.raw → ((s.core c).arr a).orows.length < 2 → ((s.core c).arr a).refused = false →
    (s.core c).rowDone x a row = true →
    exec (.drainRowRead c a .none) s = .next (
      let xs := (List.range 64).map (fun j => if drInt x.raw then intNum (s.accGet c a row j).toInt 0 else f32Num (s.accGet c a row j))
      let out := convRow (drFmt x.raw) (drSat x.raw) (drShift x.raw) xs
      let excess := convExcess (drFmt x.raw) (drSat x.raw) (drShift x.raw) xs
      ((((s.when (excess != 0) (fun s => s.count 0 c 14 excess)).when (drClear x.raw)
        (fun s => s.each (List.range 64) (fun s j => s.accSet c a row j 0))).updCore c (fun k => k.updArr a (fun (q : Arr) =>
          { q with orows := q.orows ++ [{ cmd := x.id, pos := arrayPos (drMask x.raw) a, r := i, bytes := out.1, scales := out.2 }] }))).updCmd
        c x.id (fun y => { y with issued := bumpAt y.issued a 1 })).coreHands c)) ∧
  (∀ (s : State) (c : Fin 272) (p : CorePlace) (x : Cmd) (o : ORow), s.clocked = true → s.place c = some p →
    ((s.core p.c).arr 0).orows = [o] → (s.core p.c).cmd o.cmd = some x → x.done = false →
    let n := o.pos * drN x.raw + o.r
    let takes (u : State) : Prop :=
      let v := ((u.deliverScales p x o).updCore p.c (fun k => k.updArr 0 (fun (q : Arr) => { q with orows := q.orows.tail, refused := false }))).updCmd
        p.c x.id (fun y =>
          let cs := bumpAt y.committed 0 1
          { y with committed := cs, done := drDest x.raw != 2 && (maskArrays (drMask x.raw)).all (fun i => decide (drN x.raw ≤ cnt cs i)) })
      (∀ a ∈ [1, 2, 3], ((v.core p.c).arr a).orows = []) → exec (.oPortTake c .none) s = .next v
    (let line := drLine x.raw + o.pos * cb x.raw 63 50 + o.r * cb x.raw 71 64
     drDest x.raw = 0 → (rangeFrom line (drRowLines x.raw)).all (fun l => (s.core p.c).writeFree x.id l) = true →
      takes (s.benchWriteAll p.c (line * 64) o.bytes 4)) ∧
    (drDest x.raw = 1 → takes (s.setVreg p.c (cb x.raw 76 72 + n * rowBytes (drFmt x.raw) / 512) (n * rowBytes (drFmt x.raw) % 512) o.bytes)) ∧
    (∀ d : CDesc, drDest x.raw = 2 → (s.courier (cmCl p.cm)).descs.find? (fun d => d.origin == .drain p.cm x.id) = some d → d.active = true →
      takes (s.updDesc (cmCl p.cm) d.id (fun e => if e.fail.isSome then e else { e with
        buf := e.buf ++ (List.range (drRowLines x.raw)).map (fun i => ⟨n * drRowLines x.raw + i, (o.bytes.drop (64 * i)).take 64⟩) }))))

/-- Filler work's timers: the hold ends and with STEP 0 the level drops to FLOOR, the level falls by one to FLOOR, the cap rises by RISE and
ends at 64 (R213, R217); a corrected bench line is written back (R95). -/
def FillerTimersAndWriteback : Prop :=
  ∀ (s : State) (c : Fin 272) (a : Fin 4), s.clocked = true →
    let f := ((s.core c).arr a).filler
    (f.on = true →
      exec (.fillerHoldExpiry c a) s = .next (s.updFiller c a (fun g => { g with
        hold := false
        k := if getFl fSynFillerCfgStep g.cfg = 0 then min g.k (getFl fSynFillerCfgFloor g.cfg) else g.k }))) ∧
    (f.on = true → f.hold = false → getFl fSynFillerCfgFloor f.cfg < f.k →
      exec (.fillerStepExpiry c a) s = .next (s.updFiller c a (fun f => { f with k := f.k - 1 }))) ∧
    (f.k ≤ getFl fSynFillerCfgFloor f.cfg → exec (.fillerStepExpiry c a) s = .next s) ∧
    (∀ m, f.cap = some m → m + getFl fSynFillerCfgRise f.cfg < 64 →
      exec (.fillerRiseFrame c a) s = .next (s.updFiller c a (fun g => { g with cap := some (m + getFl fSynFillerCfgRise f.cfg) }))) ∧
    (∀ m, f.cap = some m → 64 ≤ m + getFl fSynFillerCfgRise f.cfg →
      exec (.fillerRiseFrame c a) s = .next (s.updFiller c a (fun g => { g with cap := none }))) ∧
    (∀ line : Fin 16384, (s.core c).writeback.contains line.val = true → exec (.benchCorrectedWriteback c line) s =
      .next (s.updCore c (fun k => { k with writeback := k.writeback.filter (fun l => l != line.val) })))

/-- The self-test of a halted core acts by Table 2-14: no fault brings the core back, a free spare row or column is steered in, the spare
core takes the member's number over, or the cluster leaves service; each posts its event (R99 to R101, R670). -/
def SelfTestActsByItsFinding : Prop :=
  ∀ (s : State) (c : Fin 272) (m : Nat) (code : List Code) (status : Nat), s.clocked = true → s.fwOn (3 + c / 17) = true →
    s.memberOf c = some m → s.halted c = true → (s.core c).halt = some (code, status) →
    let back (u : State) : State := ((u.setFld .fltCoreStatus fFltCoreStatusHalted c 0).updCore c (fun k => { k with halt := none })).thawLace
      (c / 17)
    exec (.coreSelfTest c .noFault) s = .next ((back s).coreEvent c m 0 m code status) ∧
    (∀ l, s.steerFree c l = true → exec (.coreSelfTest c (.steer l)) s = .next
      (((back (s.steerIn c l)).spareSwitched (0x20 + c / 17) (c % 17) 0).coreEvent c m 1 m code status)) ∧
    (∀ d, s.spareCore (c / 17) = some d → exec (.coreSelfTest c .other) s = .next
      (((s.takeSpare c d m).thawLace (c / 17)).coreEvent c m 2 m code status)) ∧
    (s.spareCore (c / 17) = none → exec (.coreSelfTest c .other) s = .next
      (((s.clusterOut (c / 17)).setFld .fltCoreStatus fFltCoreStatusMember c 0x1F).coreEvent c m 3 0xFF code status))

/-- An ATTN of either implementation that meets a core without one joins the attention engine and starts: its online-softmax entries become
m = −∞ and l = 0, the bench lines that it reads and writes are known (R271), and LDS formats of the arrays it uses are forgotten (R87, R276,
R284, R768). -/
def AttnStarts : Prop :=
  ∀ (s : State) (c : Fin 272) (p : CorePlace) (t : Machine.Stream) (r : BitVec 128), s.Dispatches c p t r → opc r = 0x10 →
    s.attnCheck p r = none → (s.core p.c).cmds = [] → (s.core p.c).attn = none →
    let id := (s.core p.c).nextCmd
    let D := s.kvDim p.x
    let lines (f : Nat) : Nat := D * (elemBits f / 8) / 64
    let reads := (atQline r, atQn r * lines (atQfmt r) + 2 * (atQn r / s.kvGroup p.x) * lines (atKvfmt r))
    let writes := (atOline r, atQn r * (D / 32))
    let u := ((s.handOver p t r .attention).updCmd p.c id (fun x => { x with reads := reads, writes := writes })).updCore p.c (fun k => { k with
      ldsFmt := (List.range 4).map (fun a => if atImpl r = 0 ∨ a < 2 then none else k.ldsFmt.getD a none) })
    let es := (rangeFrom (atQbase r) (atQn r)).map (fun i => 256 * p.c + i % 256)
    let v := ({ u with cs := { u.cs with
        smM := es.foldl (fun t k => tabSet 0 t k f32NegInf) u.cs.smM
        smL := es.foldl (fun t k => tabSet 0 t k 0) u.cs.smL } }).updCore p.c (fun k => { k with
      attn := some (u.newAttn p { id := id, raw := r, eng := .attention, letter := t.letter, reads := reads, writes := writes }), smRows := [] })
    (atImpl r = 0 → exec (.attnPipelined c) s = .next v) ∧ (atImpl r = 1 → exec (.attnSequenced c) s = .next v)

/-- A row's scores enter the online-softmax stage once they are committed and its block's place in the p buffer is free; the stage updates m
and l by the recurrence of R86 and delivers α and p in the command's format; ATTN_NORMALISE writes an output row after the last block, and
after the last row the ATTN is done and the next may start (R86 to R88, R274, R282, R284). -/
def SoftmaxTakesAndDeliversRows : Prop :=
  (∀ (s : State) (c : Fin 272) (a : Attn), AtWork s c → (s.core c).attn = some a →
    let b := a.entered / a.qn
    let r := a.entered % a.qn
    b < a.blocks → a.scored b r = true → b < minList 0 ((a.arrays.filter (fun i => !a.scores i)).map (fun i => (a.at_ i).blk)) + 2 →
    (s.core c).smRows.length < 2 →
    exec (.softmaxRowEnter ⟨c, .none⟩) s = .next ((s.updCore c (fun k => { k with smRows := k.smRows ++ [⟨b, r, s.scoreRow c a r⟩] })).updAttn c
      (fun a => { a with entered := a.entered + 1 }))) ∧
  (∀ (s : State) (c : Fin 272) (a : Attn) (x : SmRow) (rest : List SmRow), AtWork s c → (s.core c).attn = some a →
    (s.core c).smRows = x :: rest →
    let e := 256 * c.val + (a.qbase + x.r) % 256
    let o := softmaxRow (tabGet 0 s.cs.smM e) (tabGet 0 s.cs.smL e) a.kscale x.scores
      ((List.range a.keys).map (fun k => a.keyValid x.blk k x.r))
    let f := if a.wp = 32 then 10 else 2
    exec (.softmaxRowDeliver c .none) s = .next (
      (({ s with cs := { s.cs with smM := tabSet 0 s.cs.smM e o.1, smL := tabSet 0 s.cs.smL e o.2.1 } } : State).updCore c
        (fun k => { k with smRows := rest })).updAttn c (fun a => { a with
          pbuf := a.pbuf ++ [{ blk := x.blk, r := x.r, alpha := o.2.2.1
                               p := (o.2.2.2.map (fun v => leBytes (elemBits f / 8) (convOut f false 0 (f32Num v)))).flatten }]
          delivered := a.delivered + 1 }))) ∧
  (∀ (s : State) (c : Fin 272) (p : CorePlace) (a : Attn), s.clocked = true → s.place c = some p → (s.core p.c).attn = some a →
    a.blocks ≤ a.minBlk → (rangeFrom (a.oline + a.outRow * (a.D / 32)) (a.D / 32)).all (fun l => (s.core p.c).writeFree a.cmd l) = true →
    let u := s.benchWriteAll p.c ((a.oline + a.outRow * (a.D / 32)) * 64) (s.outRow p.c a a.outRow) 8
    (a.outRow + 1 < a.qn →
      exec (.attnNormalise ⟨c, .none⟩) s = .next (u.updAttn p.c (fun a => { a with outRow := a.outRow + 1 }))) ∧
    (a.qn ≤ a.outRow + 1 →
      exec (.attnNormalise ⟨c, .none⟩) s = .next (((u.updCmd p.c a.cmd (fun x => { x with done := true })).updCore p.c
        (fun k => { k with attn := none, smRows := [] })).attnStart p)))

/-- The page walker serves the core whose turn it is: it issues the row's append first, each with its write at the place the sequence's page
gives it, then the reads of the block it stages; it counts each acknowledgement, and stages what a clean read brought; an uncorrectable read
fails the ATTN (R289, R294 to R297). -/
def WalkerAppendsStagesAndRowsLeave : Prop :=
  (∀ (s : State) (cl : Fin 16) (c : Nat) (a : Attn), s.run = true → s.clusterIn cl = true → s.walkNext cl = some c →
    (s.core c).attn = some a → s.tagsOf (.walker cl) < 128 →
    let u : State := { s with mv := { s.mv with walkLast := tabSet 0 s.mv.walkLast cl c } }
    (∀ addr src n x off, a.appendNext < a.appends → a.append a.appendNext = (src, n, x, off) → u.appendLocked a = false →
      u.appendAddr a a.appendNext = .ok addr → u.appendHeld a a.appendNext = false → (u.core c).readFree a.cmd (src / 64) = true →
      u.benchSees c (src / 64) .clean = .clean →
      exec (.walkerRequestIssue cl .none) s = .next ((u.walkReq cl c a .write a.appendNext (n / 64) addr
        (memRead u.mem.bench (c * 2 ^ 20 + src) n)).updAttn c (fun a => { a with appendNext := a.appendNext + 1 }))) ∧
    (∀ addr i f off, a.appends ≤ a.appendNext → a.piece ≠ 0 → (a.pieces a.staged)[a.piece]? = some (i, f, off) →
      u.heldAt a.ctx (a.frameOff f off) = false → u.translate a.ctx (a.frameOff f off) = some addr →
      exec (.walkerRequestIssue cl .none) s = .next ((u.walkReq cl c a .read a.piece a.pieceLines addr []).updAttn c
        (fun a => { a with piece := a.piece + 1 })))) ∧
  (∀ (s : State) (cl : Fin 16) (tag c : Nat) (r : Req) (a : Attn), s.clocked = true → s.answerable (.walker cl) tag = some r →
    r.cls = .write →
    let u := (s.dropReq tag).hbmWriteLines r.addr r.data r.lines
    u.walkFor r = some (c, a) →
    (s.flt.hbmOut.contains (hbmStack r.addr) = false → exec (.walkerAppendAck cl tag) s = .next (u.updAttn c
      (fun a => { a with appendAcked := a.appendAcked + 1 }))) ∧
    (s.flt.hbmOut.contains (hbmStack r.addr) = true → exec (.walkerAppendAck cl tag) s = .next
      ((u.contained a.ctx (((u.core c).cmd a.cmd).map (·.letter)) codeHbmUncorrectable (hbmDetail r.addr 0)).failAttn c
        codeHbmUncorrectable))) ∧
  (∀ (s : State) (cl : Fin 16) (tag c : Nat) (r : Req) (a : Attn) (rd : ReadRes), s.clocked = true →
    s.answerable (.walker cl) tag = some r → r.cls = .read →
    let t := (s.dropReq tag).hbmReads (lineAddrs r.addr r.lines) rd
    let u := t.1
    u.walkFor r = some (c, a) →
    (t.2 = true → exec (.walkerReadReturn cl tag rd) s = .next (
      (u.contained a.ctx (((u.core c).cmd a.cmd).map (·.letter)) codeHbmUncorrectable (hbmDetail r.addr 0)).failAttn c codeHbmUncorrectable)) ∧
    (∀ i f off, t.2 = false → (a.pieces a.staged)[r.line]? = some (i, f, off) →
      let v := (u.each (a.scatter a.staged i off (memRead u.mem.hbm r.addr (64 * r.lines))) (fun s e =>
        (s.benchWrite c (attnSlot a.staged + e.1) e.2).1)).updAttn c (fun a => { a with pieceDone := a.pieceDone + 1 })
      exec (.walkerReadReturn cl tag rd) s = .next (if a.pieceDone + 1 = (a.pieces a.staged).length then v.blockStaged cl c a else v)))

/-- A MOVE queues its first descriptor on the courier that R232 names; each chained descriptor is read from the die window and queued behind
it (R231 to R233). -/
def MovesQueueDescriptors : Prop :=
  (∀ (s : State) (q : Fin 4096) (x : Letter), s.startable q 4 = some x →
    let k := letterCourier (s.queue q).unit (natBits (x.field 0x38 4) 22 21)
    let u := s.begun q x
    let l : LetterId := ⟨q, x.pm⟩
    s.courierRoom k = true → (u.queue q).unit = (s.queue q).unit →
    (unitLevel (s.queue q).unit = 0 → exec (.move q) s = .next (u.endLetter l { code := codeUnitInvalid })) ∧
    (unitLevel (s.queue q).unit ≠ 0 → u.doneOk l (x.field 0x38 4) = false →
      exec (.move q) s = .next (u.endLetter l { code := codeSyncInvalid })) ∧
    (unitLevel (s.queue q).unit ≠ 0 → u.doneOk l (x.field 0x38 4) = true →
      let stamp := if x.field 0x3E 2 = 0 then none else some (u.stampNow + BitVec.ofNat 32 (64 * x.field 0x3E 2))
      exec (.move q) s = .next ((u.setWork l (.move 0 false stamp)).queueDesc k (.move l 0) (parseDesc ((x.raw.drop 0x10).take 32))
        (u.letterCtx l) l.q x.phase x.hint stamp))) ∧
  (∀ (s : State) (q : Fin 4096) (pm : BitVec 32) (x : Letter) (n : Nat) (stamp : Option (BitVec 32)), s.run = true →
    s.letter ⟨q, pm⟩ = some x → x.work = .move n true stamp → x.ended = none →
    let l : LetterId := ⟨q, pm⟩
    let ctx := s.letterCtx l
    let off := x.field 0x30 8 + 32 * (n - 1)
    let k := letterCourier (s.queue q).unit (natBits (x.field 0x38 4) 22 21)
    s.courierRoom k = true → s.mapped ctx off 32 = true → s.hbmSees ((s.translate ctx off).getD 0) .clean = .clean →
    let u := s.hbmAccess (some ctx) ((s.translate ctx off).getD 0) false srcHub 1
    exec (.chainDescriptorRead q pm .clean) s = .next ((u.setWork l (.move n false stamp)).queueDesc k (.move l n)
      (parseDesc (u.winRead ctx off 32)) ctx l.q x.phase x.hint stamp))

/-- A courier starts its oldest queued descriptor, or ends it with the code of its check; it issues a waiting write before the next read,
reads up to 256 B of HBM or of a cluster store with one request, and holds while it has no tag; a descriptor whose lines are all
acknowledged ends with OK (R226 to R230, R235 to R238). -/
def CouriersStartIssueAndEnd : Prop :=
  (∀ (s : State) (k : Fin 20) (d : CDesc), s.run = true →
    let u := s.each s.liveLetters (fun s p => (((s.placeCopy k p.1).placeCopy k p.1).swapStageNext p.1).swapCopyStart p.1)
    let hands (v : State) : State := if k.val < 16 then v.clusterHands k else v
    (u.courier k).descs.find? (fun d => !d.active && !u.awaitsResidence d) = some d →
    ((u.courier k).descs.filter (fun d => d.active && !d.origin.isSwitch)).length < 16 →
    (∀ code, u.checkDesc d.origin d.ctx d.desc = some code →
      exec (.descriptorStart k) s = .next (hands (u.endDesc k d.id code []))) ∧
    (u.checkDesc d.origin d.ctx d.desc = none → d.desc.residence.any (fun c => !u.clusterIn c) = false → u.descMayStart d = true →
      d.desc.feedCluster = none →
      exec (.descriptorStart k) s = .next (hands (((u.updDesc k d.id (fun x => { x with active := true })).when (k.val < 16)
        (fun s => s.notePhase k d.phase.toNat)).crrNote k)))) ∧
  (∀ (s : State) (k : Fin 20) (d : CDesc), s.run = true → s.nextIssuer k = some d →
    let u := (s.setFld .crrStatus fCrrStatusPoolWait k 0).updCourier k (fun c => { c with lastId := d.id })
    (s.canTag k = false → exec (.courierRequestIssue k .none) s = .next (
      (s.setFld .crrStatus fCrrStatusPoolWait k 1).count (if k.val < 16 then 1 else 2) (if k.val < 16 then k else k - 16) 3 |>.courierHands k)) ∧
    (∀ n a, s.canTag k = true → sideSpace d.desc.dst = 0 → d.firstBuf = some n → d.desc.fan = [] →
      u.translate d.ctx (d.desc.dstLine n) = some a →
      let lines := min (chunkLines (d.desc.dstLine n) (d.desc.rowLeft n)) (runFrom d.buf 4 n)
      exec (.courierRequestIssue k .none) s = .next (
        (u.updDesc k d.id (fun x => { x with buf := x.buf.filter (fun b => !decide (n ≤ b.line ∧ b.line < n + lines)) })).descReq k d n lines
          .write (some (hbmPort a)) lines a ((rangeFrom n lines).map (fun i => match d.buf.find? (fun b => b.line == i) with
            | some b => b.data
            | none => [])).flatten |>.courierHands k)) ∧
    (∀ a, s.canTag k = true → sideSpace d.desc.src = 0 → d.firstBuf = none →
      u.translate (d.desc.srcCtx.getD d.ctx) (d.desc.srcLine d.nextRead) = some a →
      let lines := chunkLines (d.desc.srcLine d.nextRead) (d.desc.rowLeft d.nextRead)
      exec (.courierRequestIssue k .none) s = .next (
        (u.updDesc k d.id (fun x => { x with nextRead := d.nextRead + lines })).descReq k d d.nextRead lines
          .read (some (hbmPort a)) lines a [] |>.courierHands k)) ∧
    (s.canTag k = true → sideSpace d.desc.src = 1 → d.firstBuf = none →
      let lines := chunkLines (d.desc.srcLine d.nextRead) (d.desc.rowLeft d.nextRead)
      exec (.courierRequestIssue k .none) s = .next (
        (u.updDesc k d.id (fun x => { x with nextRead := d.nextRead + lines })).descReq k d d.nextRead lines
          .read none lines (storeAddr (sideSel d.desc.src % 16) (d.desc.srcLine d.nextRead)) [] |>.courierHands k))) ∧
  (∀ (s : State) (k : Fin 20) (id : Nat) (d : CDesc), s.desc k id = some d → s.clocked = true → d.active = true → d.fail = none →
    sideSpace d.desc.dst ≠ 3 → d.acked = d.desc.total * (d.desc.fan.length + 1) →
    exec (.descriptorComplete k id) s = .next ((s.endDesc k id codeOk []).courierHands k))

/-- A request's response is taken off the courier; a write's data stands at its destination, and its lines are counted and acknowledged; a
read's lines join those to be written; an error ends the descriptor (R226, R237 to R239, R675). -/
def CourierResponsesAct : Prop :=
  ∀ (s : State) (k : Fin 20) (tag : Nat) (reply : HostReply) (rd : ReadRes) (r : Req) (d : CDesc), s.clocked = true →
    s.answerable (.courier k) tag = some r →
    let u := (s.dropReq r.tag).crrNote k
    let kind := if k.val < 16 then 1 else 2
    let inst := if k.val < 16 then k.val else k.val - 16
    u.desc k r.item = some d →
    (sideSpace (if r.cls = .write then d.desc.dst else d.desc.src) ≠ 2 →
      exec (.courierResponse k tag reply rd .parity) s = .next ((u.failDesc k d.id codePortParity r.line []).courierHands k)) ∧
    (sideSpace (if r.cls = .write then d.desc.dst else d.desc.src) = 2 → exec (.courierResponse k tag reply rd .parity) s = .next (
      ((u.failDesc k d.id codePortParity r.line []).haltAt (r.addr / 2 ^ 20) 0 .parity).courierHands k)) ∧
    (r.cls = .write → sideSpace d.desc.dst = 0 → u.flt.hbmOut.contains (hbmStack r.addr) = false →
      let v := ((u.writeThere d r).count kind inst 1 r.lines).countCtx d.ctx 5 r.lines
      exec (.courierResponse k tag reply rd .none) s = .next (
        ((v.updDesc k d.id (fun x => { x with acked := x.acked + r.lines, acks := tabUpd 0 x.acks v.die (· + r.lines) })).settleDesc k d.id
          []).courierHands k)) ∧
    (∀ v bs, r.cls = .read → u.readBack d r reply rd = (v, .ok bs) → d.fail = none → d.desc.feedCluster = none →
      exec (.courierResponse k tag reply rd .none) s = .next (
        (v.count kind inst 0 r.lines).updDesc k d.id (fun x => { x with buf := x.buf ++ splitLines r.lines r.line bs }) |>.courierHands k)) ∧
    (∀ v code det, r.cls = .read → d.origin.switchOf = none → u.readBack d r reply rd = (v, .error (code, det)) →
      exec (.courierResponse k tag reply rd .none) s = .next ((v.failDesc k d.id code r.line det).courierHands k))

/-- The four operations of SEQ: each is refused with the code of its check, or is recorded and waits for its table writes; a STEP that needs
no frame it cannot have takes its frames at once (R299 to R303, R308). -/
def SequenceLettersAct : Prop :=
  ∀ (s : State) (q : Fin 4096) (op : Nat) (x : Letter), SeqLetter s q op x →
    let u := s.begun q x
    let l : LetterId := ⟨q, x.pm⟩
    let n := x.field 0x12 2
    let z := u.sequence n
    let refused (i : Instr) (code : Code) : Prop := exec i s = .next (u.endLetter l { code := code })
    (op = 0 →
      (z.state ≠ .free → refused (.seqOpen q) codeSeqInvalid) ∧
      (z.state = .free → u.fld .kvpPool fKvpPoolPoolPages (u.letterCtx l) = 0 → refused (.seqOpen q) codeKvPagesExhausted) ∧
      (∀ a, z.state = .free → u.fld .kvpPool fKvpPoolPoolPages (u.letterCtx l) ≠ 0 →
        u.kv.tableUsed + u.tablesOf (u.letterCtx l) ≤ u.tableBytes → u.tablePlace (u.tablesOf (u.letterCtx l)) = some a →
        exec (.seqOpen q) s = .next (
          ({ u with kv := { u.kv with tableUsed := u.kv.tableUsed + u.tablesOf (u.letterCtx l) } } : State).addSeqOp l n 0 0 a))) ∧
    (op = 1 → ∀ fs : List Nat,
      (z.state = .stepping → refused (.seqStep q fs) codeSeqInvalid) ∧
      (u.seqMine l n = true → z.state = .idle ∨ z.state = .parked ∨ z.state = .parking → 2 ^ 24 < z.length + x.field 0x14 2 → refused (.seqStep q fs) codeKvLengthExceeded) ∧
      (u.seqMine l n = true → z.state = .idle ∨ z.state = .parked ∨ z.state = .parking → z.length + x.field 0x14 2 ≤ 2 ^ 24 →
        let v := (u.addSeqOp l n 1 (x.field 0x14 2)).settleParking n
        (∀ o, v.kv.ops.find? (fun o => o.letter == l) = some o → (v.sequence o.seq).state ≠ .parking →
          v.mustWait (v.sequence o.seq).ctx o = false → v.framesOk (v.sequence o.seq).ctx (v.stepNeed o.seq o.count) fs = true →
          v.readbackLocked o fs = false → exec (.seqStep q fs) s = .next (v.grantStep o fs)) ∧
        (∀ w, v.tryStep l fs = some w → exec (.seqStep q fs) s = .next w) ∧
        (v.tryStep l fs = none → exec (.seqStep q fs) s = .next (v.hungerCheck (u.letterCtx l))))) ∧
    (op = 2 →
      (z.state ≠ .stepping → refused (.seqEnd q) codeSeqInvalid) ∧
      (z.opener ≠ l.q → refused (.seqEnd q) codeSeqInvalid) ∧
      (u.seqMine l n = true → z.state = .stepping → z.opener = l.q → exec (.seqEnd q) s = .next (u.addSeqOp l n 2 0))) ∧
    (op = 3 →
      (z.state = .stepping → refused (.seqClose q) codeSeqInvalid) ∧
      (u.seqMine l n = true → z.state ≠ .stepping → exec (.seqClose q) s = .next ((u.addSeqOp l n 3 0).settleParking n)))

/-- An operation whose table writes are acknowledged takes effect, and its letter ends with the RESULT of Table 7-9: an OPEN leaves the
sequence IDLE with its empty tables and the next EPOCH, a STEP leaves it STEPPING from its old length, an END adds the positions stepped, a
CLOSE frees it (R299 to R303, R760). EPOCH counts on from the value that a CLOSE kept (notes/assumptions/24.md). -/
def SequenceOperationsTakeEffect : Prop :=
  ∀ (s : State) (n : Fin 65536) (o : SeqOp) (y : Letter), s.kv.ops.find? (fun o => o.seq == n.val) = some o → s.clocked = true →
    s.seqReady o = true → s.letter o.letter = some y →
    let q := s.sequence o.seq
    let ends (u : State) (result : Nat) : State :=
      (((({ u with kv := { u.kv with ops := removeFirst (fun p => p.letter == o.letter) u.kv.ops } } : State).letterDone o.letter
        (y.field 0x18 4) engHub).endLetter o.letter { code := codeOk, result := BitVec.ofNat 32 result }).hungerCheck (s.letterCtx o.letter)).flKick
    (o.op = 0 → exec (.seqTableWritesDone n) s = .next (ends ((s.writeTables (s.letterCtx o.letter) o.table).updSequence o.seq (fun _ =>
      { state := .idle, ctx := s.letterCtx o.letter, epoch := q.epoch + 1, l1 := some o.table
        tableBytes := s.tablesOf (s.letterCtx o.letter) })) 0)) ∧
    (o.op = 1 → exec (.seqTableWritesDone n) s = .next (ends (((s.each ((s.stepPages o.seq o.count).zip o.frames)
      (fun s pf => s.createPage q.ctx o.seq pf.1 pf.2)).updSequence o.seq (fun q => { q with
        state := .stepping, l0 := q.length, pending := o.count, opener := o.letter.q, noVictim := false
        newFrames := s.stepPages o.seq o.count })).epochSince s o.seq) q.length)) ∧
    (o.op = 2 → exec (.seqTableWritesDone n) s = .next (
      let v := ({ s with kv := { s.kv with ends := s.kv.ends + 1 } } : State).updSequence o.seq (fun q => { q with
        length := q.length + q.pending, pending := 0, state := .idle, newFrames := [], lastEnd := s.kv.ends + 1 })
      let w := (v.adoptEdits o.seq).releaseBelow q.ctx o.seq
      ends (w.epochSince s o.seq) (w.sequence o.seq).length)) ∧
    (3 ≤ o.op → exec (.seqTableWritesDone n) s = .next (ends (s.closeSeq o.seq) 0))

/-- Pages move between the pool and flash: a hungry STEP takes the frames it was granted; a demotion begins with the victim whose END was
the earliest; a page whose units are all programmed leaves its frame, and a failed one stays; a page read back is written to its frame, and
its flash slot is free (R308 to R315). -/
def PagesMoveBetweenPoolAndFlash : Prop :=
  (∀ (s : State) (n : Fin 65536) (fs : List Nat) (o : SeqOp), s.clocked = true →
    s.kv.ops.find? (fun o => o.seq == n.val && o.op == 1 && !o.granted) = some o →
    (∀ p, (s.settleParking n).kv.ops.find? (fun p => p.letter == o.letter) = some p →
      let v := s.settleParking n
      (v.sequence p.seq).state ≠ .parking → v.mustWait (v.sequence p.seq).ctx p = false →
      v.framesOk (v.sequence p.seq).ctx (v.stepNeed p.seq p.count) fs = true →
      (v.readbackLocked p fs = false → exec (.stepFramesGranted n fs) s = .next (v.grantStep p fs)) ∧
      (v.readbackLocked p fs = true → exec (.stepFramesGranted n fs) s = .next (
        (v.cancelSeqOp p).endLetter o.letter { code := codeRegionLocked }))) ∧
    ((s.settleParking n).tryStep o.letter fs = none → exec (.stepFramesGranted n fs) s = .next s)) ∧
  (∀ (s : State) (x : Fin 1024) (slot : Nat) (g : FlashGroup) (v : Nat × Nat) (vs : List (Nat × Nat)), s.run = true →
    s.fwOn 2 = true → s.fwOn 0 = true → s.fl.warn = false → s.kv.seqs.find? (fun e => e.2.state == .parking && e.2.ctx == x.val) = none →
    (s.waitingSteps x).all (fun o => !s.mustWait x o) = false → s.fld .kvpPool fKvpPoolPolicy x ≠ 0 → s.victims x = v :: vs →
    let n := (vs.foldl (fun a b => if b.1 < a.1 then b else a) v).2
    let t := s.updSequence n (fun q => { q with state := .parking })
    let c := (t.sequence n).ctx
    (∀ w, t.demoteNext n slot g = some w → exec (.victimDemotion x slot g) s = .next ((w.hungerCheck x).flKick)) ∧
    (∀ l p, (t.pagesAt n 0).head? = some (l, p) → slot < t.kvSlots c → t.kvSlotUsed c slot = false →
      let u := (((t.setLoc n l p 2 (t.frameOf n l p)).bumpEpoch n).setKvSlot c slot true).updSequence n (fun q => { q with
        transit := some (l, p, slot) })
      let r := u.kvRegion (u.sequence n).ctx
      let unit := slot * u.kvUnits (u.sequence n).ctx + 0
      let ch := unitChannel (u.region r).home unit
      let off := u.frameWin (u.sequence n).ctx (u.frameOf n l p) + 0 * 65536
      u.erased (u.grpKey ch g) = true → u.groupFresh (u.grpKey ch g) = true →
      u.winPoisoned (u.sequence n).ctx off (u.unitBytes (u.sequence n).ctx 0) = false →
      exec (.victimDemotion x slot g) s = .next ((((u.winAccess (u.sequence n).ctx off (u.unitBytes (u.sequence n).ctx 0) false srcHub).addProg
        { ch := ch, grp := u.grpKey ch g, region := r, unit := unit, data := u.pageUnit (u.sequence n).ctx (u.frameOf n l p) 0
          who := .demote n l slot, tries := 0, issued := false }).hungerCheck x).flKick))) ∧
  (∀ (s v : State) (n : Fin 65536) (slot : Nat) (g : FlashGroup) (l p k : Nat) (ok : Bool), s.clocked = true →
    (s.sequence n).transit = some (l, p, k) →
    s.fl.progs.any (fun j => j.who == ProgFor.demote n l k) = false →
    (rangeFrom (k * s.kvUnits (s.sequence n).ctx) (s.kvUnits (s.sequence n).ctx)).all
      (fun u => (s.unitGroup (s.kvRegion (s.sequence n).ctx) u).isSome) = ok →
    v = (((s.setLoc n l p 1 k).freeFrame (s.sequence n).ctx (s.frameOf n l p)).bumpEpoch n).updSequence n (fun q => { q with transit := none }) →
    (ok = false → exec (.pageDemoted n ok slot g) s = .next ((s.demotionFails n l p k).hungerCheck (s.sequence n).ctx)) ∧
    (ok = true → v.seqAwaited n = true →
      exec (.pageDemoted n ok slot g) s = .next (((v.settleParking n).hungerCheck (s.sequence n).ctx).flKick)) ∧
    (∀ w, ok = true → v.seqAwaited n = false → v.demoteNext n slot g = some w →
      exec (.pageDemoted n ok slot g) s = .next ((w.hungerCheck (s.sequence n).ctx).flKick))) ∧
  (∀ (s : State) (n : Fin 65536) (o : SeqOp) (l p f x r k : Nat) (rb : List (Nat × Nat)) (fs : List Nat), s.clocked = true →
    s.kv.ops.find? (fun o => o.seq == n.val && o.op == 1 && o.granted) = some o → o.readback = (l, p) :: rb → o.frames = f :: fs →
    x = (s.sequence n).ctx → r = s.kvRegion x → k = s.frameOf n l p → s.flashBar r = none →
    (rangeFrom (k * s.kvUnits x) (s.kvUnits x)).any (fun u => s.fl.chOut.contains (unitChannel (s.region r).home u)) = false →
    exec (.pageReadback n .clean) s = .next (
      let off := k * s.kvUnits x * 65536
      (((((((s.sectorReads r off (s.kvPageBytes x / 4096) srcHub).winAccess x (s.frameWin x f) (s.kvPageBytes x) true srcHub).frameWrite x f
        (s.flashRead r off (s.kvPageBytes x))).setLoc n l p 0 f).freeKvSlot x k).bumpEpoch n).updSeqOp o.letter
          (fun o => { o with frames := fs, readback := rb }))))

/-- The zeroing engine asks for 256 B of zeros with one request; as its HBM port grants it, those bytes are zero and their lines hold no
poison; a page all of whose writes are done leaves the queue and counts as free (R368, R369, R488, R666). -/
def PagesAreZeroed : Prop :=
  (∀ (s : State) (z : ZeroPage), s.zeroing = true → s.tier.zero.find? (fun z => decide (z.issued < 8192)) = some z →
    exec .zeroRequestIssue s = .next (
      let t : State := { s.fresh.2 with tier := { s.fresh.2.tier with
        zero := updFirst (fun y => y.page == z.page) (fun (y : ZeroPage) => { y with issued := y.issued + 1 }) s.fresh.2.tier.zero } }
      t.addReq { tag := s.fresh.1, agent := .zero, item := z.page, line := z.issued, lines := 4, cls := .write
                 port := some (hbmPort (z.page * 2 ^ 21 + 256 * z.issued)), units := 4, stamp := t.stampNow
                 addr := z.page * 2 ^ 21 + 256 * z.issued, data := [] })) ∧
  (∀ (s : State) (p : Fin 22) (r : Req), s.clocked = true → s.portChoice p = some (.inl r) → r.agent = .zero →
    ∃ t, exec (.regulatorGrant p .none) s = .next t ∧
      t.mem.hbm = tabClear s.mem.hbm (r.addr / 64 * 64) ((r.addr / 64 + r.lines) * 64) ∧
      (∀ l, r.addr / 64 ≤ l → l < r.addr / 64 + r.lines → t.hbmPoisoned l = false) ∧
      t.tier.zero = updFirst (fun y => y.page == r.item) (fun (y : ZeroPage) => { y with acked := y.acked + 1 }) s.tier.zero) ∧
  (∀ (s : State) (z : ZeroPage), s.clocked = true → s.tier.zero.find? (fun z => z.acked == 8192) = some z →
    let t : State := { s with tier := { s.tier with zero := removeFirst (fun y => y.page == z.page) s.tier.zero } }
    exec .zeroPageComplete s = .next (((t.setFld .ctxZeroStatus fCtxZeroStatusQueued 0 (t.fld .ctxZeroStatus fCtxZeroStatusQueued - 1)).bump
      .ctxZeroStatus fCtxZeroStatusZeroed 0).bump .ctxHbmInfo fCtxHbmInfoFreePages 0))

/-- A PLACE that passes its checks waits on EMPTY for its first two layers; a copied layer is signalled FULL, and once it has been on every
die it goes to, the next layer's wait begins or, with the last one, the letter is done (R342 to R346). -/
def PlaceStreamsLayers : Prop :=
  (∀ (s : State) (q : Fin 4096) (x : Letter), s.startable q 7 = some x →
    let u := s.begun q x
    let l : LetterId := ⟨q, x.pm⟩
    (∀ c, u.placeCheck l x = some c → exec (.place q) s = .next (u.endLetter l { code := c })) ∧
    (u.placeCheck l x = none →
      let n := min 2 (x.field 0x18 4)
      exec (.place q) s = .next (
        (u.setWork l (.place n ((List.range n).map (fun i => { i := i })) 0)).each
          (List.range n) (fun s i => s.placeWait l x i)))) ∧
  (∀ (s : State) (q : Fin 4096) (pm : BitVec 32) (x : Letter) (n full : Nat) (ls : List PlaceLayer), s.clocked = true →
    s.letter ⟨q, pm⟩ = some x → x.work = .place n ls full → x.ended = none →
    let l : LetterId := ⟨q, pm⟩
    let r := s.tellLayers l x (s.die :: s.placeDies l x) ls
    exec (.placeLayerCopied q pm) s = .next ((r.1.setWork l (.place n r.2 full)).placeNext l)) ∧
  (∀ (s : State) (l : LetterId) (x : Letter) (y : PlaceLayer), y.copied = true → y.fail = none → y.told = [] → s.placeDies l x = [] →
    let u := s.signalFull l s.die ((s.region (x.field 0x10 1)).full (placeSlot x (s.region (x.field 0x10 1)) y.i))
    s.tellLayers l x (s.die :: s.placeDies l x) [y] = (u, [{ y with told := [s.die] }])) ∧
  (∀ (s : State) (l : LetterId) (x : Letter) (n full : Nat) (y : PlaceLayer) (ys : List PlaceLayer), s.letter l = some x →
    x.work = .place n (y :: ys) full → x.ended = none → y.copied = true →
    (s.die :: s.placeDies l x).all (fun d => y.told.contains d) = true →
    (full + 1 = x.field 0x18 4 → s.placeNext l =
      ((s.setWork l (.place n ys (full + 1))).letterDone l (x.field 0x1C 4) engPlace).endLetter l { code := codeOk }) ∧
    (full + 1 ≠ x.field 0x18 4 → n < x.field 0x18 4 → ys.all (fun y => y.fail.isNone) = true → s.placeNext l =
      (s.setWork l (.place (n + 1) (ys ++ [{ i := n }]) (full + 1))).placeWait l x n) ∧
    (full + 1 ≠ x.field 0x18 4 → x.field 0x18 4 ≤ n → s.placeNext l = (s.setWork l (.place n ys (full + 1))).placeEnds l))

/-- A SWAP that passes its checks stages its first group or asks for the gate; with the gate its copy begins on four couriers; a copied
group returns the gate, and the last one completes the letter with the layer after its last; a SWAP that is not alone on its target does not
start (R350 to R354). -/
def SwapReplacesInPlace : Prop :=
  (∀ (s : State) (q : Fin 4096) (x : Letter), s.startable q 8 = some x → s.swapAlone x = true →
    let u := s.begun q x
    let l : LetterId := ⟨q, x.pm⟩
    (∀ c, u.swapCheck l x = some c → exec (.swap q) s = .next (u.endLetter l { code := c })) ∧
    (u.swapCheck l x = none → exec (.swap q) s = .next (((u.setWork l (.swap {})).swapStageNext l).swapAsk l))) ∧
  (∀ (s : State) (q : Fin 4096) (pm : BitVec 32) (x : Letter) (w : SwapWork), s.clocked = true → s.letter ⟨q, pm⟩ = some x →
    x.work = .swap w → x.ended = none →
    let l : LetterId := ⟨q, pm⟩
    let t := s.region (x.field 0x10 1)
    let c := s.region (x.field 0x11 1)
    let first := x.field 0x14 2 + w.group * swapGroup x
    let shares := swapShares (swapLayers x w.group * t.unitBytes / 64)
    exec (.swapGroupStaged q pm) s = .next (((s.swapAsk l).swapStageNext l).swapFails l) ∧
    (w.gate = true → w.copying = false → shares.all (fun p => s.courierRoom p.1) = true → exec (.swapGateTaken q pm) s = .next (
      (s.setWork l (.swap { w with copying := true, shares := shares.length })).each shares (fun u p =>
        u.queueDesc p.1 (.swapCopy l w.group)
          { src := sideWord 0 0 ((if c.home = 0 then c.base + first * c.unitBytes else (s.swapStageAt x w.group)) + 64 * p.2.1)
            dst := sideWord 0 0 (t.base + first * t.unitBytes + 64 * p.2.1)
            rowLines := BitVec.ofNat 32 p.2.2, rows := 1, srcStride := 0, dstStride := 0
            srcCtx := if c.home = 0 then some c.owner else none } (u.letterCtx l) l.q x.phase x.hint none))) ∧
    (w.copying = true → w.shares = 0 →
      let v := s.doneSignal l (BitVec.ofNat 20 (x.field 0x18 4)) (BitVec.ofNat 32 (x.field 0x1C 4)) engHub
      (w.group + 1 = swapGroups x → exec (.swapGroupCopied q pm) s = .next (
        (v.letterDone l (x.field 0x30 4) engHub).endLetter l { code := codeOk, result := BitVec.ofNat 32 (x.field 0x14 2 + x.field 0x16 2) })) ∧
      (w.group + 1 ≠ swapGroups x → exec (.swapGroupCopied q pm) s = .next (
        (((v.setWork l (.swap { w with group := w.group + 1, asked := false, gate := false, copying := false })).swapAsk l).swapStageNext
          l).swapFails l)))) ∧
  (∀ (s : State) (q : Fin 4096) (x : Letter), s.startable q 8 = some x → s.swapAlone x = false → exec (.swap q) s = .next s)

/-- A PROMOTE of each OP: a ROUTE reads its records; a FETCH or PIN of a resident expert ends with its slot, and of another, absent or in
transit, waits for its promotion; a PIN beyond the pins that a layer may have ends with EXPERT_UNAVAILABLE; an UNPIN takes the pin away
(R357 to R359, R365). -/
def PromoteLettersAct : Prop :=
  ∀ (s : State) (q : Fin 4096) (x : Letter), s.startable q 9 = some x →
    let u := s.begun q x
    let l : LetterId := ⟨q, x.pm⟩
    let r := x.field 0x10 1
    let n := x.field 0x12 2 * (u.region r).experts + x.field 0x14 2
    (x.field 0x11 1 = 0 → s.routing q = none → ∀ rd,
      (∀ c, u.routeCheck l x = some c → exec (.promoteRoute q rd) s = .next (u.endLetter l { code := c })) ∧
      (u.routeCheck l x = none → exec (.promoteRoute q rd) s = .next ((u.fresh.2.setWork l (.route 0 u.fresh.1)).routeGo l rd))) ∧
    (x.field 0x11 1 = 1 → u.promoteCheck l x = none →
      (∀ k, (u.expert r n).state = .resident k →
        exec (.promoteFetch q) s = .next (u.endLetter l { code := codeOk, result := BitVec.ofNat 32 k })) ∧
      ((∀ k, (u.expert r n).state ≠ .resident k) → exec (.promoteFetch q) s = .next (
        let v := (u.setWork l (.fetch false)).promote r n l
        { v with tier := { v.tier with promWaits := v.tier.promWaits ++ [{ letter := l, r := r, u := n, pin := false }] } }))) ∧
    (x.field 0x11 1 = 2 → u.promoteCheck l x = none →
      (u.pinFull r n = true → exec (.promotePin q) s = .next (u.endLetter l { code := codeExpertUnavailable })) ∧
      ((∀ k, (u.expert r n).state ≠ .resident k) → u.pinFull r n = false → exec (.promotePin q) s = .next (
        let v := (u.setWork l (.fetch true)).promote r n l
        { v with tier := { v.tier with promWaits := v.tier.promWaits ++ [{ letter := l, r := r, u := n, pin := true }] } })) ∧
      (∀ k, (u.expert r n).state = .resident k → u.pinFull r n = false → exec (.promotePin q) s = .next (
        (u.updExpert r n (fun e => { e with pinned := true })).endLetter l { code := codeOk, result := BitVec.ofNat 32 k }))) ∧
    (x.field 0x11 1 = 3 → u.promoteCheck l x = none → exec (.promoteUnpin q) s = .next (
      (u.updExpert r n (fun e => { e with pinned := false })).endLetter l { code := codeOk })) ∧
    (∀ c, u.promoteCheck l x = some c →
      (x.field 0x11 1 = 1 → exec (.promoteFetch q) s = .next (u.endLetter l { code := c })) ∧
      (x.field 0x11 1 = 2 → exec (.promotePin q) s = .next (u.endLetter l { code := c })) ∧
      (x.field 0x11 1 = 3 → exec (.promoteUnpin q) s = .next (u.endLetter l { code := c })))

/-- A record whose CREDIT is taken and that no earlier one of its ROUTE or of its expert precedes is written to its ring; a promotion takes
its slot, makes its expert in transit and queues its copy; once copied the expert is resident, its held records are released and its waiting
letters complete (R360 to R365). -/
def ExpertsArePromotedAndReleased : Prop :=
  (∀ (s : State) (r : Fin 255) (i : Nat) (x : RouteRec), s.clocked = true → (s.tier.ready.filter (fun x => x.r == r.val))[i]? = some x →
    x.credit = true → (s.tier.ready.find? (fun y => y.serial == x.serial || (y.r == x.r && y.u == x.u))).map (·.id) = some x.id →
    exec (.routeRecordRelease r i) s = .next (s.writeReady x)) ∧
  (∀ (s : State) (p : Promotion) (k : Nat) (e : Option Nat), s.run = true → (s.tier.promos.filter (fun p => p.slot.isSome)).length < 16 →
    s.tier.promos.find? (fun p => p.slot.isNone && (s.takeSlot p.r).isSome) = some p → s.takeSlot p.r = some (k, e) →
    s.courierRoom (16 + k % 4) = true →
    exec .promotionStart s = .next (
      let g := s.region p.r
      let t := (match e with
        | some u => s.updExpert p.r u (fun _ => {})
        | none => s).updExpert p.r p.u (fun e => { e with state := .inTransit k })
      let t : State := { t with tier := { t.tier with
        promos := updFirst (fun (x : Promotion) => x.r == p.r && x.u == p.u) (fun (x : Promotion) => { x with slot := some k }) t.tier.promos } }
      (t.queueDesc (16 + k % 4) (.promote p.r p.u) (t.regionCopy p.r (p.u * g.unitBytes) g.unitBytes (g.slotBase + k * g.slotStride))
        g.owner p.letter.q 0 g.hint none).prNote)) ∧
  (∀ (s : State) (r : Fin 255) (u : Nat) (p : Promotion) (k : Nat), s.clocked = true →
    s.tier.promos.find? (fun p => p.r == r.val && p.u == u) = some p → p.slot = some k → p.copied = true → p.fail = none →
    exec (.promotionDone r u) s = .next (
      let t : State := { s with tier := { s.tier with
        promos := removeFirst (fun x => x.r == p.r && x.u == p.u) s.tier.promos
        promWaits := s.tier.promWaits.filter (fun w => !(w.r == p.r && w.u == p.u)) } }
      ((t.updExpert p.r p.u (fun e => { e with state := .resident k })).releaseHeld p.r p.u k).each
        (s.tier.promWaits.filter (fun w => w.r == p.r && w.u == p.u)) (fun s w => s.fetchDone w.letter p.r p.u k w.pin)))

/-- A GATHER that passes its checks deals its bags to the sorters it selects, and ends with the code of its check otherwise; a sorter's next
bag takes the lowest free slot with its rows and an empty accumulator, or fails with the code of its index range, or with
UNIT_OUT_OF_SERVICE when its output cluster is out (R376 to R384, R766). -/
def GathersDealTheirBags : Prop :=
  (∀ (s : State) (q : Fin 4096) (rd : ReadRes) (x : Letter), s.startable q 5 = some x →
    let u := s.begun q x
    let l : LetterId := ⟨q, x.pm⟩
    let g := gatherSpec x
    (∀ c, u.gatherCheck l x rd = some c → exec (.gather q rd) s = .next ((u.contained (u.letterCtx l) (some l) c
      (u.winDetail (u.letterCtx l) [(g.offs * 64, 4), (g.offs * 64 + 4 * g.bags, 4)])).endLetter l { code := c })) ∧
    (u.gatherCheck l x rd = none → exec (.gather q rd) s = .next ((((u.winAccess (u.letterCtx l) (g.offs * 64) 4 false srcHub).winAccess
      (u.letterCtx l) (g.offs * 64 + 4 * g.bags) 4 false srcHub).setWork l (.gather 0 none)).each
      (((List.range g.selected.length).zip g.selected).filter (fun p => decide (p.1 < g.bags)))
      (fun s p => ({ s with srt := { s.srt with jobs := tabUpd [] s.srt.jobs p.2 (fun js =>
        js ++ [{ letter := l, next := p.1, step := g.selected.length }]) } } : State).srtNote p.2)))) ∧
  (∀ (s : State) (k : Fin 6) (j : GatherJob) (slot : Nat) (x : Letter), s.run = true → (tabGet [] s.srt.jobs k).head? = some j →
    s.freeSlotOf k = some slot → s.letter j.letter = some x →
    let g := gatherSpec x
    ((g.outCs = false ∨ s.clusterIn g.outSel = false) ∨ s.residentOn g.outSel (s.letterCtx j.letter) = true) →
    let t : State := { s with srt := { s.srt with jobs := tabUpd [] s.srt.jobs k (nextJob g.bags) } }
    let bag (rows : List BagRow) : State :=
      (({ t with srt := { t.srt with bags := t.srt.bags ++ [{ k := k, slot := slot, letter := j.letter, bag := j.next, rows := rows
                                                              acc := List.replicate g.elems (if g.pool = 2 then f32NegInf else 0) }] } } :
        State).srtNote k).chargeBag k (s.letterCtx j.letter) g j.next rows.length
    ((g.outCs = false ∨ s.clusterIn g.outSel = true) → ∀ rows, t.bagRows (s.letterCtx j.letter) g j.next = .ok rows →
      exec (.bagStart k .clean) s = .next (bag rows)) ∧
    ((g.outCs = false ∨ s.clusterIn g.outSel = true) → ∀ c, t.bagRows (s.letterCtx j.letter) g j.next = .error c →
      exec (.bagStart k .clean) s = .next ((bag []).failBag k slot c
        ((bag []).winDetail (s.letterCtx j.letter) ((bag []).bagRanges (s.letterCtx j.letter) g j.next)))) ∧
    (g.outCs = true → s.clusterIn g.outSel = false → ∀ rows, t.bagRows (s.letterCtx j.letter) g j.next = .ok rows →
      exec (.bagStart k .clean) s = .next ((bag rows).failBag k slot codeUnitOutOfService [])))

/-- A bag asks for up to 256 B of its next hot row, or looks up the next line of its next cold row, or asks flash for it when there is no
cache; a sector that a line waits for is asked for first. A row whose lines are all here joins the pool of R382, whether its table is hot or
cold, and a hot row with a line that cannot be read fails the bag. A pooled bag writes its output, and once that is acknowledged the bag
ends (R379, R382, R384 to R387, R390). -/
def BagsReadPoolAndEnd : Prop :=
  (∀ (s : State) (k : Fin 6) (slot : Fin 16) (b : Bag) (g : GatherSpec) (i : Nat) (r : BagRow), s.run = true → s.bagAt k slot = some b →
    s.bagSpec b = some g → s.openMiss b.k b.slot = none → b.full = false →
    b.rows.findIdx? (fun r => decide (r.issued < g.rowLines)) = some i → b.rows[i]? = some r →
    let note (e : Nat) : State := (s.when (r.issued == 0) (fun s => s.count 4 b.k e))
    (∀ a, r.idx < g.hotRows → s.sorterFree b.k = true →
      s.heldAt (s.region g.hot).owner ((s.region g.hot).base + g.rowAt r.idx r.issued) = false →
      s.translate (s.region g.hot).owner ((s.region g.hot).base + g.rowAt r.idx r.issued) = some a →
      exec (.sorterRequestIssue k slot .none) s = .next (
        let lines := chunkLines ((s.region g.hot).base + g.rowAt r.idx r.issued) (g.rowLines - r.issued)
        ((note 0).updBag b.k b.slot (fun x => x.updRow i (fun y => { y with issued := y.issued + lines }))).sorterReq b.k b.slot
          (i * 64 + r.issued) lines .read (some (hbmPort a)) a [])) ∧
    (g.hotRows ≤ r.idx → s.flashBar g.cold = none → s.cacheSets ≠ 0 → s.sorterFree b.k = true → exec (.sorterRequestIssue k slot .none) s = .next (
      let t := (note 1).updBag b.k b.slot (fun y => y.updRow i (fun z => { z with issued := z.issued + 1 }))
      ({ t with srt := { t.srt with lookups := t.srt.lookups ++ [{ k := b.k, slot := b.slot, row := i, line := r.issued }] } } :
        State).srtNote b.k)) ∧
    (g.hotRows ≤ r.idx → s.flashBar g.cold = none → s.cacheSets = 0 → exec (.sorterRequestIssue k slot .none) s = .next (
      ((note 1).updBag b.k b.slot (fun y => y.updRow i (fun z => { z with issued := z.issued + 1 }))).coldMiss
        { k := b.k, slot := b.slot, row := i, line := r.issued }))) ∧
  (∀ (s : State) (k : Fin 6) (slot : Fin 16) (b : Bag) (g g' : GatherSpec) (sector : Nat), s.run = true → s.bagAt k slot = some b →
    s.bagSpec b = some g → s.openMiss b.k b.slot = some (g', sector) →
    exec (.sorterRequestIssue k slot .none) s = .next (s.issueSector b.k b.slot g' sector)) ∧
  (∀ (s : State) (k : Fin 6) (slot : Fin 16) (b : Bag) (g : GatherSpec), s.run = true → s.bagAt k slot = some b →
    s.bagSpec b = some g → s.openMiss b.k b.slot = none → b.full = true → b.outIssued < g.outLines → s.sorterFree b.k = true →
    let n := b.outIssued
    let off := g.outAt b.bag n
    let lines := chunkLines off (g.outLines - n)
    let data := ((b.output g).drop (64 * n)).take (64 * lines)
    let t := s.updBag b.k b.slot (fun x => { x with outIssued := n + lines })
    (g.outCs = true → exec (.sorterRequestIssue k slot .none) s = .next (
      t.sorterReq b.k b.slot n lines .write none (storeAddr g.outSel off) data)) ∧
    (∀ a, g.outCs = false → s.heldAt (s.letterCtx b.letter) off = false → s.translate (s.letterCtx b.letter) off = some a →
      exec (.sorterRequestIssue k slot .none) s = .next (t.sorterReq b.k b.slot n lines .write (some (hbmPort a)) a data))) ∧
  (∀ (s : State) (k : Fin 6) (slot : Fin 16) (b : Bag) (g : GatherSpec) (i : Nat) (r : BagRow) (rd : ReadRes), s.clocked = true →
    s.bagAt k slot = some b → s.bagSpec b = some g → (List.range b.rows.length).find? (fun i => s.rowReady b g i) = some i →
    b.rows[i]? = some r →
    (g.hotRows ≤ r.idx → exec (.bagRowArrive k slot rd) s = .next (s.giveRow b g i (r.bytes g.rowLines))) ∧
    (r.idx < g.hotRows →
      let qs := s.rowReqs b i
      let data := (qs.map (fun q => memRead s.mem.hbm q.addr (64 * q.lines))).flatten
      let t := (s.each qs (fun s q => s.dropReq q.tag)).readAll qs rd
      (t.2 = none → exec (.bagRowArrive k slot rd) s = .next ((t.1.srtNote b.k).giveRow b g i data)) ∧
      (∀ a, t.2 = some a → exec (.bagRowArrive k slot rd) s = .next (
        (t.1.srtNote b.k).failBag b.k b.slot codeHbmUncorrectable (hbmDetail a 0))))) ∧
  (∀ (s : State) (k : Fin 6) (slot : Fin 16) (b : Bag) (g : GatherSpec), s.clocked = true → s.bagAt k slot = some b →
    s.bagSpec b = some g → b.full = true → g.outLines ≤ b.outIssued →
    let qs := (s.sorterMem b.k).filter (fun r => r.item == b.slot && r.cls == .write)
    qs.any (fun q => q.port.isSome) = false →
    (g.outCs = true ∨ qs.any (fun q => s.flt.hbmOut.contains (hbmStack q.addr)) = false) →
    exec (.bagOutputAck k slot) s = .next (
      (((((s.each qs (fun s q => if g.outCs then s.storeWriteLines q.addr q.data q.lines
          else s.hbmWriteLines q.addr q.data q.lines)).removeBag b.k b.slot).count 4 b.k 7).updLetter b.letter
        (fun x => match x.work with
          | .gather d f => { x with work := .gather (d + 1) f }
          | _ => x)).gatherEnds b.letter)))

/-- What pooling a row does to each element: MEAN and SUM add, MAX takes the larger, the weighted sum is one fused step; the output is the
accumulator, divided by the row count for MEAN, in the output format (R382). -/
def PoolingFollowsItsMode : Prop :=
  (∀ (w acc x : F32), poolStep 0 w acc x = f32Add acc x ∧ poolStep 1 w acc x = f32Add acc x ∧ poolStep 2 w acc x = f32Max acc x ∧
    poolStep 3 w acc x = f32Fma w x acc) ∧
  (∀ (b : Bag) (g : GatherSpec), 0 < b.rows.length →
    (g.pool = 1 → b.output g = (convRow g.outFmt false 0 ((b.acc.map (fun a => f32Mul a (oneOver b.rows.length))).map f32Num)).1) ∧
    (g.pool ≠ 1 → b.output g = (convRow g.outFmt false 0 (b.acc.map f32Num)).1))

/-- A port trains in its three steps: a bad lane of either direction is replaced by the spare, more than one takes the port down, this end's
numbers go to the peer and the peer's are recorded, and a port that encrypts goes on to keying; a step that exceeds its limit takes the port
down, and a port that is down and retrains by itself begins again (R423, R424, R428, R703). -/
def PortsTrain : Prop :=
  ∀ (s : State) (p : Fin 12) (peer : PeerInfo), s.clocked = true →
    (s.portState p = 1 → (s.port p).step = 1 →
      (2 ≤ peer.badLanes.eraseDups.length ∨ 2 ≤ peer.badTx.eraseDups.length →
        exec (.olaTrainStepDone p peer) s = .next (s.portDown p codeLinkDown 3)) ∧
      (peer.badLanes = [] → peer.badTx = [] → exec (.olaTrainStepDone p peer) s = .next (s.updPort p (fun x => { x with step := 2 }))) ∧
      (∀ lane, peer.badLanes = [lane] → peer.badTx = [] → exec (.olaTrainStepDone p peer) s = .next (
        ((s.setFld .olaPortStatus fOlaPortStatusSpareRx p 1).setFld .olaPortStatus fOlaPortStatusSpareRxLane p lane.val).updPort p
          (fun x => { x with step := 2 }))) ∧
      (∀ lane, peer.badLanes = [] → peer.badTx = [lane] → exec (.olaTrainStepDone p peer) s = .next (
        ((s.setFld .olaPortStatus fOlaPortStatusSpareTx p 1).setFld .olaPortStatus fOlaPortStatusSpareTxLane p lane.val).updPort p
          (fun x => { x with step := 2 })))) ∧
    (s.portState p = 1 → (s.port p).step = 2 → exec (.olaTrainStepDone p peer) s = .next (
      (s.updPort p (fun x => { x with step := 3 })).emit (.train p s.die (s.portEnc p) (s.reg .olaRouteEpoch)))) ∧
    (s.portState p = 1 → (s.port p).step = 3 →
      let u := ((s.setFld .olaPortStatus fOlaPortStatusPeerDie p peer.die.toNat).setFld .olaPortStatus fOlaPortStatusPeerPort p
        peer.port.toNat).updPort p (fun x => { x with peerEpoch := peer.epoch })
      (peer.enc ≠ u.portEnc p ∨ peer.die.toNat = u.die → exec (.olaTrainStepDone p peer) s = .next (u.portDown p codeLinkDown 3)) ∧
      (peer.enc = u.portEnc p → peer.die.toNat ≠ u.die → u.portEnc p = false →
        exec (.olaTrainStepDone p peer) s = .next (u.activatePort p)) ∧
      (peer.enc = u.portEnc p → peer.die.toNat ≠ u.die → u.portEnc p = true → exec (.olaTrainStepDone p peer) s = .next (
        ((u.updPort p (fun x => { x with step := 4 })).setPortState p 2).keyStart p))) ∧
    (s.portState p = 1 → exec (.olaTrainTimeout p) s = .next (s.portDown p codeLinkDown 3)) ∧
    (s.portState p = 2 → exec (.olaTrainTimeout p) s = .next (s.portDown p codeLinkAuthFail 4)) ∧
    (s.portState p = 4 → exec (.olaTrainTimeout p) s = .next (s.portDown p codeLinkDown 3)) ∧
    (s.portState p = 5 → s.fld .olaPortCfg fOlaPortCfgAutoRetrain p = 1 → exec (.autoRetrain p) s = .next (s.trainPort p))

/-- A receiving lane that fails in service puts its port in REPAIR and asks the peer to steer, or takes it down where the spare is in use;
the peer's agreement steers the spare in, the peer's own request steers the transmitting lane; the repair done, the port is in service again
(R425 to R427). -/
def LanesAreRepaired : Prop :=
  ∀ (s : State) (p : Fin 12) (lane : Fin 8), s.clocked = true →
    let fails : State := ((s.setPortState p 4).updPort p (fun x => { x with repairLane := some lane, agreed := false, step := 2 })).emit
      (.control p 2 lane 0 (s.port p).ackNo)
    (s.portState p = 3 → s.fld .olaPortStatus fOlaPortStatusSpareRx p ≠ 1 → (s.port p).repairLane = none →
      exec (.laneErrorLimit p lane) s = .next fails ∧ exec (.laneLockLoss p lane) s = .next fails) ∧
    (s.portState p = 3 → s.fld .olaPortStatus fOlaPortStatusSpareRx p = 1 →
      exec (.laneErrorLimit p lane) s = .next (s.portDown p codeLinkDown 1) ∧
      exec (.laneLockLoss p lane) s = .next (s.portDown p codeLinkDown 1)) ∧
    (∀ l, s.portState p = 4 → (s.port p).repairLane = some l → l ≠ lane.val →
      exec (.laneErrorLimit p lane) s = .next (s.portDown p codeLinkDown 1) ∧
      exec (.laneLockLoss p lane) s = .next (s.portDown p codeLinkDown 1)) ∧
    (s.portState p = 4 → (s.port p).repairLane = some lane.val → (s.port p).agreed = false →
      exec (.controlRepair p lane) s = .next (
        ((s.setFld .olaPortStatus fOlaPortStatusSpareRx p 1).setFld .olaPortStatus fOlaPortStatusSpareRxLane p lane).updPort p
          (fun x => { x with agreed := true }))) ∧
    (s.portState p = 3 → s.fld .olaPortStatus fOlaPortStatusSpareTx p ≠ 1 → exec (.controlRepair p lane) s = .next (
      ((((s.setPortState p 4).setFld .olaPortStatus fOlaPortStatusSpareTx p 1).setFld .olaPortStatus fOlaPortStatusSpareTxLane p lane).updPort p
        (fun x => { x with agreed := x.repairLane.isNone || x.agreed, step := 2 })).emit
        (.control p 2 lane 0 (s.port p).ackNo))) ∧
    (s.portState p = 4 → (s.port p).agreed = true → exec (.repairDone p) s = .next (
      (s.setPortState p 3).updPort p (fun x => { x with repairLane := none, agreed := false, step := 5 })))

/-- Keying by Table 17-7: the responder verifies message 1, draws its key share and answers; the initiator verifies message 2 and loads the
new keys, in service at once or, on an active port, to come into service; message 4 loads the responder's, with the other key phase on an
active port. A message that fails its check takes the port down. The initiator starts an exchange once COUNTER has reached 2^40 (R434, R701,
R702, R704). The cryptography is uninterpreted (notes/assumptions/4.md), and that only the initiator starts an exchange at 2^40 is the
model's reading (notes/assumptions/50.md). -/
def PortsAgreeOnKeys : Prop :=
  (∀ (s : State) (p : Fin 12), s.clocked = true → s.portEnc p = true → s.portState p = 3 → 2 ^ 40 ≤ (s.port p).counter →
    exec (.counterRekey p) s = .next (s.keyStart p)) ∧
  (∀ (s : State) (p : Fin 12) (m : KeyMsg), s.keyingOn = true → s.portEnc p = true → s.portState p = 2 ∨ s.portState p = 3 → s.initiator p = false →
    (s.port p).keying = .idle →
    let signed := message1Signed (s.fld .olaPortStatus fOlaPortStatusPeerDie p) s.die (s.fld .olaPortStatus fOlaPortStatusPeerPort p) p
      m.body m.rand
    exec (.keyingMessage1 p m) s = .next (if s.peerOk p m signed then
      let r := s.rand256
      let e := Config.mlkemEncap m.body r.2.drawn
      let h := keyDigest (keyMsgBytes m) e.1 r.1
      let z := keySecrets e.2 h
      (({ r.2 with drawn := r.2.drawn + 1, sec := { r.2.sec with signs := r.2.sec.signs + 1 } } : State).updPort p (fun x => { x with
        keying := .wait4, newRx := z.1, newTx := z.2.1, newRxSalt := z.2.2.1, newTxSalt := z.2.2.2 })).emit (.keyMsg p 2
          { pub := Config.identityKey, body := e.1, rand := r.1
            sig := Config.mldsaSign (ascii "SV2-OLA") (leBytes 32 h.toNat) r.2.sec.signs })
      else s.portDown p codeLinkAuthFail 4)) ∧
  (∀ (s : State) (p : Fin 12) (m : KeyMsg), s.clocked = true → s.fwOn 0 = true → (s.port p).keying = .wait2 →
    let h := keyDigest (s.port p).msg1 m.body m.rand
    let shared := if s.peerOk p m (leBytes 32 h.toNat) then Config.mlkemDecap (s.port p).kemDraw m.body else none
    exec (.keyingMessage2 p m) s = .next (match shared with
      | none => s.portDown p codeLinkAuthFail 4
      | some k =>
        let z := keySecrets k h
        let m4 : Out := .keyMsg p 4 { pub := [], body := [], rand := 0, sig := [] }
        if s.portState p = 3 then
          (s.updPort p (fun x => { x with keying := .idle, msg1 := [], kemDraw := 0, txKey := z.1, txSalt := z.2.2.1, keyPhase := !x.keyPhase
                                          counter := 1, newRx := z.2.1, newRxSalt := z.2.2.2, pendingRx := true })).emit m4
        else ((s.updPort p (fun x => { x with keying := .idle, msg1 := [], kemDraw := 0, txKey := z.1, txSalt := z.2.2.1, keyPhase := false
                                              counter := 1, rxKey := z.2.1, rxSalt := z.2.2.2, rxPhase := false, rxCounter := 0 })).emit
          m4).activatePort p)) ∧
  (∀ (s : State) (p : Fin 12), s.clocked = true → (s.port p).keying = .wait4 →
    exec (.keyingMessage4 p false) s = .next (s.portDown p codeLinkAuthFail 4) ∧
    (s.portState p ≠ 3 → exec (.keyingMessage4 p true) s = .next ((s.updPort p (fun x => { x with
      keying := .idle, txKey := x.newTx, txSalt := x.newTxSalt, rxKey := x.newRx, rxSalt := x.newRxSalt
      newTx := 0, newRx := 0, newTxSalt := 0, newRxSalt := 0, counter := 0, rxCounter := 1, keyPhase := false, rxPhase := false })).activatePort
        p)) ∧
    (s.portState p = 3 → exec (.keyingMessage4 p true) s = .next (s.updPort p (fun x => { x with
      keying := .idle, txKey := x.newTx, txSalt := x.newTxSalt, rxKey := x.newRx, rxSalt := x.newRxSalt
      newTx := 0, newRx := 0, newTxSalt := 0, newRxSalt := 0, counter := 0, rxCounter := 1
      keyPhase := !x.keyPhase, rxPhase := !x.rxPhase }))))

/-- A port resends what it was asked to before anything new; a new frame takes a credit, the next sequence number and, encrypted, the next
COUNTER, and is kept until it is acknowledged; a NAK acknowledges the frames before the one it names and asks for the rest, the eighth in a
row taking the port down; a credit frame acknowledges and adds credits, up to 16 (R432, R435, R436). That CONTROL frames go outside the
sequence numbers is the model's choice (notes/assumptions/18.md). -/
def PortsSendAndResend : Prop :=
  ∀ (s : State) (p : Fin 12), s.clocked = true →
    (∀ f rest, s.portState p = 3 → (s.port p).again = f :: rest → exec (.frameTransmit p) s = .next (
      (((s.updPort p (fun x => { x with again := rest })).emit (.frame p f (frameWords f))).count 7 p 3).countBw (22 + p) 1 (frameBeats f))) ∧
    (∀ v i, s.portState p = 3 → (s.port p).again = [] → (s.port p).replay.length < 128 → (s.port p).pick (s.portEnc p) = some (v, i) →
      let f := (s.port p).wire (s.portEnc p) i
      let u := s.updPort p (fun x => { x with
        tx := removeFirst (fun j => j == i) x.tx
        last := x.last.set v i.src
        credits := x.credits.modify v (· - 1)
        passed3 := if v = 3 then 0 else if (v != 3 && (s.port p).tx.any (fun j => frameVc j.frame == 3)) then x.passed3 + 1 else x.passed3
        nextSeq := (x.nextSeq + 1) % 4096
        counter := if s.portEnc p then x.counter + 1 else x.counter
        replay := x.replay ++ [f] })
      let w := ((((u.emit (.frame p f (frameWords f))).count 7 p 0).count 7 p 5 (64 * f.lines.toNat)).count 7 p 6 f.payload.length).countBw
        (22 + p) 0 (frameBeats f)
      exec (.frameTransmit p) s = .next (if i.src < 32 then w.countCtx f.ctx.toNat 8 f.payload.length else w)) ∧
    (∀ n : BitVec 12, s.portUsable p = true → (s.port p).replay.any (fun f => frameSn f == n.toNat) = true →
      let naks := if (s.port p).nakSeq = n.toNat ∧ (s.port p).naks ≠ 0 then (s.port p).naks + 1 else 1
      (8 ≤ naks → exec (.controlNak p n) s = .next (s.portDown p codeLinkDown 2)) ∧
      (naks < 8 → exec (.controlNak p n) s = .next (s.updPort p (fun x => { x with
        replay := x.replay.dropWhile (fun f => frameSn f != n.toNat), again := x.replay.dropWhile (fun f => frameSn f != n.toNat)
        nakSeq := n.toNat, naks := naks })))) ∧
    (∀ (vc : Fin 4) (f : CreditFrame), s.portUsable p = true → exec (.controlCredit p vc f) s = .next (
      s.updPort p (fun x =>
        let rep := ackThrough f.ack.toNat x.replay
        { x with
          replay := rep, again := x.again.filter (fun g => rep.any (fun h => frameSn h == frameSn g))
          credits := x.credits.modify vc (fun c => min 16 (c + f.n)) })))

/-- A frame of this die is taken up by its type: a WRITE's lines and a READ_REQ's wait at their HBM ports, and as the last of them is
granted the WRITE is done, the READ_REQ has its lines, and each is answered; one that R335 or R336 bars is answered with its code, a
RESPONSE ends its request, a SIGNAL goes to its object's home, and TIME and COLL frames go to their letters (R429, R446, R448, R456, R461).
The marks of a TIME reply and of a lost signal are the model's choice (notes/assumptions/19.md), and so is what a READ_REQ of no lines or of
more than 32 answers (notes/assumptions/18.md). -/
def FramesAreTakenUp : Prop :=
  (∀ (s u : State) (p : Fin 12) (r : RxFrame) (f : Frame), s.receive p r = (u, some f) →
    (r.frame.typ = 1 →
      let v := u.unpack p f.ctx.toNat f (fun i => f.addr.toNat + 64 * i)
      (∀ c, v.1.windowBars f.ctx.toNat f.addr.toNat (64 * f.lines.toNat) true = some c →
        exec (.frameWrite p r) s = .next (v.1.answer f c [] false)) ∧
      (v.1.windowBars f.ctx.toNat f.addr.toNat (64 * f.lines.toNat) true = none → f.lines = 0 →
        exec (.frameWrite p r) s = .next (v.1.answer f codeOk [] false)) ∧
      (v.1.windowBars f.ctx.toNat f.addr.toNat (64 * f.lines.toNat) true = none → f.lines ≠ 0 → exec (.frameWrite p r) s = .next (
        let w := v.1.newOutside (.frameWrite f v.2)
        w.2.askLines (srcOlila p) w.1 f.ctx.toNat f.addr.toNat f.lines.toNat 0 f.lines.toNat))) ∧
    (r.frame.typ = 2 → f.arg = 0 ∨ 32 < f.arg.toNat → exec (.frameReadReq p r) s = .next (u.answer f codeAddressInvalid [] false)) ∧
    (r.frame.typ = 2 → 0 < f.arg.toNat → f.arg.toNat ≤ 32 → ∀ c,
      u.windowBars f.ctx.toNat f.addr.toNat (64 * f.arg.toNat) false = some c →
      exec (.frameReadReq p r) s = .next (u.answer f c [] false)) ∧
    (r.frame.typ = 2 → 0 < f.arg.toNat → f.arg.toNat ≤ 32 →
      u.windowBars f.ctx.toNat f.addr.toNat (64 * f.arg.toNat) false = none →
      let w := u.newOutside (.frameRead f [] false)
      exec (.frameReadReq p r) s = .next (w.2.askLines (srcOlila p) w.1 f.ctx.toNat f.addr.toNat f.arg.toNat 0 f.arg.toNat)) ∧
    (∀ rr q k, r.frame.typ = 3 → f.tag.toNat ≠ lostTag →
      u.ola.remote.find? (fun r => r.tag == f.tag.toNat && r.die == f.src.toNat) = some rr →
      u.mv.reqs.find? (fun q => q.tag == f.tag.toNat) = some q → rr.agent = .courier k → frameCode f ≠ codeOk →
      exec (.frameResponse p r) s = .next (u.endRemote f.tag.toNat (frameCode f))) ∧
    (∀ rr q k d, r.frame.typ = 3 → f.tag.toNat ≠ lostTag →
      u.ola.remote.find? (fun r => r.tag == f.tag.toNat && r.die == f.src.toNat) = some rr →
      u.mv.reqs.find? (fun q => q.tag == f.tag.toNat) = some q → rr.agent = .courier k → frameCode f = codeOk → u.desc k q.item = some d →
      let v := u.unpack p d.ctx f (fun i => d.desc.dstLine (q.line + i))
      let w := (({ v.1 with ola := { v.1.ola with
        remote := v.1.ola.remote.filter (fun (y : RemoteReq) => y.tag != f.tag.toNat) } } : State).dropReq f.tag.toNat).crrNote k
      let kind := if k < 16 then 1 else 2
      let inst := if k < 16 then k else k - 16
      (q.cls = .write → exec (.frameResponse p r) s = .next ((((w.count kind inst 1 q.lines).countCtx d.ctx 5 q.lines).updDesc k d.id
        (fun x => { x with acked := x.acked + q.lines, acks := tabUpd 0 x.acks rr.die (· + q.lines) })).settleDesc k d.id [])) ∧
      (q.cls ≠ .write → d.fail = none → d.desc.feedCluster = none → exec (.frameResponse p r) s = .next ((w.count kind inst 0 q.lines).updDesc
        k d.id (fun x => { x with buf := x.buf ++ splitLines q.lines q.line (padBytes (64 * q.lines) v.2) })))) ∧
    (r.frame.typ = 3 → f.tag.toNat = lostTag → exec (.frameResponse p r) s =
      .next (u.signalLost f.ctx.toNat (f.addr.toNat % 2 ^ 20) (f.addr.toNat / 2 ^ 32 % 256) (frameCode f))) ∧
    (∀ k op n, (n = 0 ∧ op = .add) ∨ (n = 1 ∧ op = .sub) ∨ (n = 2 ∧ op = .set) → r.frame.typ = 4 → f.addr.toNat / 2 ^ 20 % 4 = n → (BitVec.ofNat 20 f.addr.toNat).toNat / 2 ^ 18 = 2 →
      u.resolveRef f.ctx.toNat 0 0 (BitVec.ofNat 20 f.addr.toNat) = some k →
      exec (.frameSignal p r) s = .next (u.sendSync { who := .frame, act := .signal op, key := k, ref := BitVec.ofNat 20 f.addr.toNat
                                                      cl := 0, mem := 0, value := BitVec.ofNat 32 f.arg.toNat, q := 0 })) ∧
    (r.frame.typ = 5 → f.tag.toNat < timeReply → exec (.timeFrame p r) s = .next (
      (u.sendFrame 20 (u.mkFrame 5 f.src.toNat f.ctx.toNat (u.reg .olaFclkNow) (BitVec.ofNat 64 (f.tag.toNat + timeReply))
        (u.reg .olaFclkNow) [])).1)) ∧
    (∀ l x w, r.frame.typ = 5 → timeReply ≤ f.tag.toNat → u.liveLetters.find? (fun e => match e.2.work with
        | .time w => w.tag + timeReply == f.tag.toNat
        | _ => false) = some (l, x) → x.work = .time w →
      exec (.timeFrame p r) s = .next (u.timeRound l w.round w.t1 f.addr f.arg (u.reg .olaFclkNow))) ∧
    (∀ l x w, r.frame.typ = 6 → u.liveColl f.ctx.toNat (f.addr.toNat % 2 ^ 32) = some l → u.letter l = some x → x.work = .coll w →
      let step := f.addr.toNat / 2 ^ 32 % 256
      let v := u.unpack p f.ctx.toNat f (fun i => (collSpec x).lands (u.collDies l).length (u.collPos l) w.recv + f.tag.toNat + 64 * i)
      exec (.collFrame p r) s = .next ((v.1.updLetter l (fun x => match x.work with
        | .coll w =>
          if f.lines = 0 then
            if (collSpec x).op = 2 ∧ step = 1 then { x with work := .coll { w with recv := 1 } }
            else if (collSpec x).op = 2 ∨ step = w.sent % 256 then { x with work := .coll { w with shakes := setInsert f.src.toNat w.shakes } }
            else x
          else if step = w.recv % 256 ∧ f.tag.toNat = w.inb.length then { x with work := .coll { w with inb := w.inb ++ v.2, port := p } }
          else x
        | _ => x)).collPush l)) ∧
    (r.frame.typ = 6 → u.liveColl f.ctx.toNat (f.addr.toNat % 2 ^ 32) = none → f.lines = 0 → exec (.collFrame p r) s = .next
      { u with ola := { u.ola with shakes := u.ola.shakes ++
        [{ ctx := f.ctx.toNat, id := f.addr.toNat % 2 ^ 32, step := f.addr.toNat / 2 ^ 32 % 256, die := f.src.toNat }] } })) ∧
  (∀ (s : State) (r : Req) (w : OutsideWork) (f : Frame) (bytes : List Byte), (s.dropReq r.tag).outsideWork r.item = some w →
    w.op = .frameWrite f bytes →
    let t := (s.dropReq r.tag).each (List.range r.lines) (fun s i =>
      (s.hbmWrite (r.addr + 64 * i) ((bytes.drop (64 * (r.line + i))).take 64)).1)
    (t.outsideOver w.id = true → s.serveOutside r = (t.dropOutside w.id).answer f codeOk [] false) ∧
    (t.outsideOver w.id = false → s.serveOutside r = t)) ∧
  (∀ (s : State) (r : Req) (w : OutsideWork) (f : Frame) (got : List (Nat × List Byte)) (bad : Bool),
    (s.dropReq r.tag).outsideWork r.item = some w → w.op = .frameRead f got bad →
    let h := (s.dropReq r.tag).hbmReads (lineAddrs r.addr r.lines) .clean
    let all := got ++ [(r.line, memRead s.mem.hbm r.addr (64 * r.lines))]
    let t := h.1.setOutside w.id (.frameRead f all (bad || h.2))
    (t.outsideOver w.id = false → s.serveOutside r = t) ∧
    (t.outsideOver w.id = true → (bad || h.2) = true → s.serveOutside r = (t.dropOutside w.id).answer f codeHbmUncorrectable [] false) ∧
    (t.outsideOver w.id = true → (bad || h.2) = false → s.serveOutside r = (t.dropOutside w.id).answer f codeOk
      ((List.range f.arg.toNat).map (fun i => (all.find? (fun e => e.1 == i)).map (·.2) |>.getD [])).flatten
      ((List.range f.arg.toNat).any (fun i => (t.dropOutside w.id).protectedAt f.ctx.toNat (f.addr.toNat + 64 * i))))) ∧
  (∀ (s u : State) (p : Fin 12) (r : RxFrame), s.receive p r = (u, none) →
    (r.frame.typ = 1 → exec (.frameWrite p r) s = .next u) ∧ (r.frame.typ = 2 → exec (.frameReadReq p r) s = .next u) ∧
    (r.frame.typ = 3 → exec (.frameResponse p r) s = .next u) ∧ (r.frame.typ = 4 → exec (.frameSignal p r) s = .next u) ∧
    (r.frame.typ = 5 → exec (.timeFrame p r) s = .next u) ∧ (r.frame.typ = 6 → exec (.collFrame p r) s = .next u))

/-- The scheduler orders a switch to the best ready context of an empty cluster; a slice and a waited yield that are spent are noted; a
switch saves what runs where it is to be saved, with courier traffic of its own, zeroes the cluster, brings the saved image back with
traffic of its own, and then the cluster is resident (R480 to R485). The order of arrival of sets is that of the points at which the
scheduler looks (notes/assumptions/43.md). -/
def ContextsTakeTurns : Prop :=
  (∀ (s : State) (cl : Fin 16) (x : Nat), s.schedOn cl = true → s.schedule.resident cl = none →
    s.schedule.bestOf cl (s.schedule.readyOn cl) = some x →
    exec (.preemptionPoint cl) s = .next (s.schedule.orderSwitch cl none x)) ∧
  (∀ (s : State) (cl : Fin 16) (r : Nat), s.schedOn cl = true → s.schedule.resident cl = some r → s.schedule.heldFor cl = some r →
    s.schedule.waitPoint r cl = true → exec (.preemptionPoint cl) s = .next s.schedule) ∧
  (∀ (s : State) (cl : Fin 16) (x : Nat), s.resident cl = some x → s.clocked = true →
    (s.heldFor cl ≠ some x → s.fld .ctxEntry fCtxEntrySlice x ≠ 0 →
      exec (.sliceExpiry cl) s = .next { s with cx := { s.cx with used := setInsert cl.val s.cx.used } }) ∧
    (s.waitPoint x cl = true → s.fld .ctxSchedCfg fCtxSchedCfgWaitYield ≠ 0 →
      exec (.waitYieldExpiry cl) s = .next { s with cx := { s.cx with yielded := setInsert cl.val s.cx.yielded } })) ∧
  (∀ (s : State) (cl : Fin 16) (w : Switch), tabGet none s.cx.switch cl.val = some w → s.clocked = true →
    (w.phase = .ordered → exec (.contextSwitch cl) s = .next ((s.switchOut cl w).switchGo cl)) ∧
    (w.phase = .saved → exec (.contextSwitch cl) s = .next (s.switchIn cl w)) ∧
    (w.phase = .loaded → exec (.contextSwitch cl) s = .next (s.switchLoaded cl w)) ∧
    (w.phase = .moved → exec (.contextSwitchDone cl) s = .next (
      let u := (((s.setFld .ctxResident fCtxResidentState cl 1).setFld .ctxResident fCtxResidentContext cl w.inn).bump .ctxResident
        fCtxResidentSwitches cl).countCtx w.inn 10
      let u := u.each (u.phasesNow cl) (fun u ph => u.notePhase cl ph)
      { u with cx := { u.cx with
          switch := tabSet none u.cx.switch cl none
          used := setErase cl.val u.cx.used
          yielded := setErase cl.val u.cx.yielded
          turns := u.cx.turns + 1
          lastOn := tabSet 0 u.cx.lastOn (16 * w.inn + cl) (u.cx.turns + 1) } }))) ∧
  (∀ (s : State) (cl : Nat) (w : Switch),
    (w.out = none → s.switchOut cl w = s.phaseTo cl w .saved) ∧
    (∀ o, w.out = some o → s.fld .ctxEntry fCtxEntrySave o = 1 → s.switchOut cl w =
      (((s.wasOn o cl).setImage o cl (some { (s.wasOn o cl).clusterImage cl with serial := (s.wasOn o cl).mv.spent })).queueBlock o cl
        true).phaseTo cl w .saving) ∧
    (∀ o, w.out = some o → s.fld .ctxEntry fCtxEntrySave o ≠ 1 → s.switchOut cl w = (s.wasOn o cl).phaseTo cl w .saved) ∧
    let z := s.zeroCluster cl
    (tabGet none z.cx.images (16 * w.inn + cl) = none → s.switchIn cl w = z.phaseTo cl w .moved) ∧
    (∀ i, tabGet none z.cx.images (16 * w.inn + cl) = some i → s.switchIn cl w = (z.queueBlock w.inn cl false).phaseTo cl w .loading))

/-- CTX_CMD begins the reset of a context that is ON, and its CONTEXT is written in any case; once nothing of the context is on its way the
reset ends; a context that starts is ON, or goes on to DRAINING where a disable was recorded; a drained one gives back what it held and is
OFF (R489 to R491, R504 to R506). -/
def ContextsResetStartAndDrain : Prop :=
  ∀ s : State, s.clocked = true →
    (∀ x : Fin 1024,
      let u := s.setFld .ctxCmd fCtxCmdContext 0 x
      ((s.fld .ctxCmd fCtxCmdBusy == 1 || u.ctxState x != 2) = true → exec (.ctxCmdReset x) s = .next u) ∧
      ((s.fld .ctxCmd fCtxCmdBusy == 1 || u.ctxState x != 2) = false →
        exec (.ctxCmdReset x) s = .next ((u.setFld .ctxCmd fCtxCmdBusy 0 1).beginReset x))) ∧
    (∀ x, s.cx.resetting.find? (fun x => s.ctxState x == 2 && s.resetQuiet x) = some x →
      exec .contextResetDone s = .next ((s.leaveClusters x).setFld .ctxCmd fCtxCmdBusy 0 0)) ∧
    (∀ x : Fin 1024, s.ctxState x = 1 →
      let u := (s.setFld .ctxEntry fCtxEntryState x 2).setFld .ctxEntry fCtxEntryPending x 0
      (s.fld .ctxEntry fCtxEntryPending x ≠ 1 → exec (.contextStartDone x) s = .next u) ∧
      (s.fld .ctxEntry fCtxEntryPending x = 1 → exec (.contextStartDone x) s = .next (u.ctxDrain x))) ∧
    (∀ x : Fin 1024, s.ctxState x = 3 → s.cx.resetting.contains x.val = true → s.resetQuiet x = true →
      let t := (s.leaveClusters x).releaseContext x
      let u := (t.setFld .ctxEntry fCtxEntryState x 0).setFld .ctxEntry fCtxEntryPending x 0
      (t.fld .ctxEntry fCtxEntryPending x ≠ 1 → exec (.contextDrainDone x) s = .next u) ∧
      (t.fld .ctxEntry fCtxEntryPending x = 1 → exec (.contextDrainDone x) s = .next (u.ctxStart x)))

/-- Firmware is written to its window and taken for verification until it is released; a verified image is copied to the hub, a refused one
posts its signature event (R494 to R496, R755). The signature is uninterpreted (notes/assumptions/4.md). -/
def FirmwareIsLoadedAndVerified : Prop :=
  ∀ s : State,
    (∀ off data, off + data.length ≤ 2 ^ 20 → s.released = false → exec (.rstFwWindowWrite off data) s = .next
      { s with fw := { s.fw with window := memWrite s.fw.window off data } }) ∧
    (∀ off data, off + data.length ≤ 2 ^ 20 → s.released = true → exec (.rstFwWindowWrite off data) s = .next s) ∧
    (∀ off data, 2 ^ 20 < off + data.length → s.clocked = true →
      exec (.rstFwWindowWrite off data) s = .next (s.postMalformed .P (0x1000000 + off) data.length true)) ∧
    (∀ (image : Fin 4) (bytes : BitVec 21), s.released = false → s.fld .rstFwLoad fRstFwLoadStatus = 1 →
      exec (.rstFwLoadGo image bytes) s = .next (
        let t := ((s.setFld .rstFwLoad fRstFwLoadImage 0 image).setFld .rstFwLoad fRstFwLoadBytes 0 bytes.toNat)
        { t.setFld .rstFwLoad fRstFwLoadStatus 0 2 with
          fw := { t.fw with verifying := some (image.val, memRead t.fw.window 0 (min bytes.toNat (2 ^ 20))) } })) ∧
    (∀ kind b, s.fw.verifying = some (kind, b) →
      exec .fwVerifyDone s = .next (if fwReason b kind b.length = 0 then
          (((s.endVerify.keepImage kind b).markVerified kind).setFld .rstFwLoad fRstFwLoadStatus 0 1).releaseFw
        else (s.endVerify.setFld .rstFwLoad fRstFwLoadStatus 0 3).postSignature (2 + kind) (fwReason b kind b.length)))

/-- Each of the four causes of R497 restarts a running firmware core, or holds it for good after RESTART_MAX restarts; its restart goes
through its phases, the third of which holds it where the hub's copy fails its digest; and a core that reports ready runs, with the event of
its restart (R497 to R503). How many of the restarts lie within the last 800,000,000 CCLK is a free value of at most the restarts so far
(notes/assumptions/44.md). -/
def FirmwareRestarts : Prop :=
  ∀ (s : State) (f : Fin 19), s.clocked = true →
    (∀ (i : Instr) (cause : Nat), i = .fwWatchdogExpiry f ∧ cause = 1 ∨ i = .fwComparisonFail f ∧ cause = 2 ∨ i = .fwException f ∧ cause = 3 ∨
        i = .fwLocalMemoryUe f ∧ cause = 4 → s.fld .rstFwStatus fRstFwStatusState f = 2 →
      let u := s.draw.2.setFld .rstFwStatus fRstFwStatusLastCause f cause
      let recent := s.draw.1.toNat % ((s.fwCore f).restarts + 1)
      (u.fld .rstFwCfg fRstFwCfgRestartMax ≤ recent → exec i s = .next (
        (((u.setFwState f 0).setFld .rstFwStatus fRstFwStatusGivenUp f 1).updFw f (fun c => { c with phase := 0, cause := cause })).fwEvent
          f cause 2 0)) ∧
      (recent < u.fld .rstFwCfg fRstFwCfgRestartMax → exec i s = .next (
        ((u.setFwState f 1).bumpSat .rstFwStatus fRstFwStatusRestarts f).updFw f
          (fun c => { c with phase := 1, cause := cause, restarts := c.restarts + 1 })))) ∧
    ((s.fwCore f).phase = 1 ∨ (s.fwCore f).phase = 2 →
      exec (.fwRestartPhaseDone f) s = .next (s.updFw f (fun c => { c with phase := c.phase + 1 }))) ∧
    ((s.fwCore f).phase = 3 → s.fwDigestOk f = true → exec (.fwRestartPhaseDone f) s = .next (s.updFw f (fun c => { c with phase := 4 }))) ∧
    ((s.fwCore f).phase = 3 → s.fwDigestOk f = false → exec (.fwRestartPhaseDone f) s = .next (
      (((s.setFwState f 0).setFld .rstFwStatus fRstFwStatusDigestFail f 1).updFw f (fun c => { c with phase := 0 })).fwEvent
        f (s.fwCore f).cause 1 0)) ∧
    (∀ cclk, (s.fwCore f).phase = 4 →
      let u := (s.setFwState f 2).updFw f (fun c => { c with phase := 0 })
      let v := if (s.fwCore f).cause = 0 then u else u.fwEvent f (s.fwCore f).cause 0 cclk
      exec (.fwReady f cclk) s = .next (if f.val = 0 then v.appendTrim.flKick.keyKick else v))

/-- A claim or a renewal writes ID and PERIOD of a slot that is free or its own; a write with another ID, or with PERIOD 0, is discarded; a
release, an expiry and a hot reset free the slot and roll back what its owner has open (R519, R532, R533, R558). That a release keeps PERIOD
is the model's choice (notes/assumptions/30.md). -/
def LeasesAreHeldAndLost : Prop :=
  ∀ (s : State) (slot : Fin 16) (id period : BitVec 16),
    (s.clocked = true → period ≠ 0 → id ≠ 0 → s.fld .hifLease fHifLeaseId slot = 0 ∨ s.fld .hifLease fHifLeaseId slot = id.toNat →
      exec (.hifLeaseClaim slot id period) s = .next
        ((s.setFld .hifLease fHifLeaseId slot id.toNat).setFld .hifLease fHifLeasePeriod slot period.toNat)) ∧
    (period = 0 ∨ (s.fld .hifLease fHifLeaseId slot ≠ 0 ∧ s.fld .hifLease fHifLeaseId slot ≠ id.toNat) →
      exec (.hifLeaseClaim slot id period) s = .next s) ∧
    (s.clocked = true → s.fld .hifLease fHifLeaseId slot ≠ 0 →
      exec (.leaseExpiry slot) s = .next (s.loseLease slot) ∧
      (s.fld .hifLease fHifLeaseId slot = id.toNat → exec (.hifLeaseRelease slot id) s = .next (s.loseLease slot)) ∧
      (s.fld .hifLease fHifLeaseId slot ≠ id.toNat → exec (.hifLeaseRelease slot id) s = .next s)) ∧
    exec .hostHotReset s = .next (s.each (List.range 16) (fun s k => if s.leaseLive k then s.loseLease k else s))

/-- A module that trains runs at full width with up to four lanes of each direction replaced, at half width on its good half, or stays down;
a retrain is counted, and one that does not finish leaves the module down (R516, R517). -/
def HostModulesTrain : Prop :=
  ∀ (s : State) (m : Fin 4) (t : LaneTest),
    (s.ucieWidth m = 0 ∨ s.host.retraining.contains m.val = true →
      (t.txBad ≤ 4 → t.rxBad ≤ 4 → exec (.ucieModuleTrain m t) s = .next (s.ucieSet m 2 t.txBad t.rxBad)) ∧
      (4 < t.txBad ∨ 4 < t.rxBad → t.halfUsable = true → exec (.ucieModuleTrain m t) s = .next (s.ucieSet m 1 0 0)) ∧
      (4 < t.txBad ∨ 4 < t.rxBad → t.halfUsable = false → exec (.ucieModuleTrain m t) s = .next (s.ucieSet m 0 0 0))) ∧
    (s.ucieWidth m ≠ 0 → s.host.retraining.contains m.val = false → exec (.ucieRetrain m) s = .next (
      let u := s.bumpSat .hifLinkStatus fHifLinkStatusRetrains m
      { u with host := { u.host with retraining := setInsert m.val u.host.retraining } })) ∧
    (s.host.retraining.contains m.val = true → exec (.ucieRetrainTimeout m) s = .next (s.ucieSet m 0 0 0))

/-- A GO keeps OP and UNITS and is discarded by a slot that is BUSY; a request that fails a check of R588 ends at once with its code; any
other is BUSY, and starts: a WRITE with its first unit, a FORMAT with the header's copies (R587 to R589, R608). -/
def FlashRequestsStart : Prop :=
  ∀ (s : State) (slot : Fin 4) (units : BitVec 32) (op : Nat) (i : Instr) (g : FlashGroup), s.clocked = true →
    (op = 1 ∧ i = .flsReqWrite slot units g) ∨ (op = 2 ∧ i = .flsReqTrim slot units) ∨ (op = 3 ∧ i = .flsReqConfig slot units) ∨
      (op = 4 ∧ i = .flsReqFormat slot units) →
    ∀ (u v w : State) (r : FlReq),
    (s.setFld .flsReqCtl fFlsReqCtlOp slot op).setFld .flsReqCtl fFlsReqCtlUnits slot units.toNat = u →
    s.newFlReq op slot units.toNat = r →
    u.setReg .flsReqStatus slot 0 (putFl fFlsReqStatusState 0 1) = v →
    v.setFlReq slot (some r) = w →
    (s.fld .flsReqStatus fFlsReqStatusState slot = 1 → exec i s = .next u) ∧
    (s.fld .flsReqStatus fFlsReqStatusState slot ≠ 1 →
      (∀ c, v.flReqBar r = some c → exec i s = .next (v.endFlReq slot 3 c.toNat)) ∧
      (v.flReqBar r = none →
        (op = 2 ∨ op = 3 → exec i s = .next w.flKick) ∧
        (op = 4 → exec i s = .next (w.formatReq slot r).flKick) ∧
        (∀ t, op = 1 → w.flNext slot r g = some t → exec i s = .next t.flKick) ∧
        (∀ un ch data, op = 1 → units ≠ 0 → r.dstOff / 65536 = un → unitChannel (w.region r.dstRegion).home un = ch → w.flReqBar r = none →
          w.unitGroup r.dstRegion un = none → w.fl.progs.any (fun j => j.region == r.dstRegion && j.unit == un) = false →
          w.erased (w.grpKey ch g) = true → w.flSource r = .ok data → w.groupFresh (w.grpKey ch g) = true →
          exec i s = .next (((w.flCharge r).setFlReq slot (some { r with busy := true })).addProg (
            { ch := ch, grp := w.grpKey ch g, region := r.dstRegion, unit := un, data := data, who := .request slot
              tries := 0, issued := false } : ProgJob)).flKick)))

/-- A verified program is durable and what it was for goes on; one that fails marks its block and is tried again on another group until
FLS_CFG.RETRY is spent; a verified erase leaves its block erased with a read count of 0; a marked block is emptied and leaves use with
SPARE_SWITCHED; a block read too often is emptied and erased (R582 to R586, R591). Which groups the translation layer chooses is the
command's operand (notes/assumptions/2.md). -/
def FlashProgramsErasesAndRetires : Prop :=
  ∀ (s : State) (ch : Fin 16),
    (∀ (j : ProgJob) (g : FlashGroup), s.fl.progs.find? (fun j => j.ch == ch.val && j.issued && s.fwOn 0) = some j →
      (s.fl.chOut.contains ch.val = true → ∀ res,
        exec (.flProgramDone ch res g) s = .next (((s.programFails j).flKick).gateNclk ch)) ∧
      (s.fl.chOut.contains ch.val = false →
        (∀ t, (s.programmed j).programNext j g = some t →
          exec (.flProgramDone ch .verified g) s = .next (t.flKick.gateNclk ch)) ∧
        (∀ (slot : Nat) (q q' : FlReq), j.who = .request slot → (s.programmed j).flReq slot = some q → q.abort = false →
          q.done + 1 = q.units → { q with done := q.done + 1, busy := false } = q' →
          exec (.flProgramDone ch .verified g) s =
            .next ((((s.programmed j).flProgress slot q').endFlReq slot 2 0).flKick.gateNclk ch)) ∧
        (∀ res, res ≠ .verified → s.fld .flsCfg fFlsCfgRetry ≤ j.tries →
          exec (.flProgramDone ch res g) s = .next (((s.markBlock (blockKey j.grp)).programFails j).flKick.gateNclk ch)) ∧
        (∀ res u v, res ≠ .verified → j.tries < s.fld .flsCfg fFlsCfgRetry → s.markBlock (blockKey j.grp) = u →
          u.erased (s.grpKey ch g) = true → u.groupOpen (s.grpKey ch g) = true → u.blockOpen (s.grpKey ch g) = false → u.count 6 ch 4 = v →
          ∀ j' : ProgJob, { j with grp := s.grpKey ch g, tries := j.tries + 1, issued := false } = j' →
          exec (.flProgramDone ch res g) s = .next
            (({ v with fl := { v.fl with progs := updFirst (fun x => x == j) (fun _ => j') v.fl.progs } } : State).flKick.gateNclk ch)))) ∧
    (∀ (e : EraseJob) (u : State), s.fl.erases.find? (fun e => e.ch == ch.val && e.issued) = some e → s.fl.warn = false → s.run = true →
      s.fwOn 0 = true → s.count 6 ch 5 = u →
      exec (.flEraseDone ch true) s = .next ({ u with fl := { u.fl with
        erases := removeFirst (fun x => x == e) u.fl.erases
        notErased := tabClear u.fl.notErased (blockLo e.blk) (blockHi e.blk)
        metas := tabClear u.fl.metas (blockLo e.blk) (blockHi e.blk)
        data := tabClear u.fl.data (blockLo e.blk * 65536) (blockHi e.blk * 65536)
        reads := tabSet 0 u.fl.reads e.blk 0
        eraseCnt := tabUpd 0 u.fl.eraseCnt e.blk (· + 1) } } : State).flKick ∧
      exec (.flEraseDone ch false) s = .next s) ∧
    (∀ (blk : FlashGroup) (gs : List FlashGroup) (b : Nat), blockKey (s.grpKey ch blk) = b → s.flashOn = true → s.channelUp ch = true →
      s.fl.progs.any (fun j => blockKey j.grp == b) = false →
      (∀ t u v, s.fl.marked.contains b = true → s.relocate ch b (gs.map (s.grpKey ch)) = some t →
        ({ t with fl := { t.fl with marked := setErase b t.fl.marked, retired := setInsert b t.fl.retired } } : State) = u →
        (u.bumpSat .flsChStatus fFlsChStatusRetired ch).noteFree = v →
        exec (.blockRetire ch blk gs) s = .next (v.postDev {
          code := codeSpareSwitched
          detail := [BitVec.ofNat 8 ch, BitVec.ofNat 8 ((blockLo b / 2 ^ 35 % 8) * 16 + blockLo b / 2 ^ 31 % 16)] ++
            leBytes 2 (blockLo b / 2 ^ 12 % 2 ^ 19) }).flKick) ∧
      (∀ retried t u, (retried = true ∨ s.fld .flsCfg fFlsCfgDisturbReads < tabGet 0 s.fl.reads b ∨ s.wearLags ch b = true) →
        s.fl.erases.any (fun e => e.blk == b) = false → s.fl.retired.contains b = false →
        s.relocate ch b (gs.map (s.grpKey ch)) = some t → t.when retried (fun t => t.count 6 ch 1) = u →
        exec (.readDisturbRelocate ch blk retried gs) s = .next (u.addErase ch b u.flashReads).flKick) ∧
      (∀ live dst t, s.liveGroups b = live → gs.map (s.grpKey ch) = dst → s.each (live.zip dst) (fun s p => s.moveUnit ch p.1 p.2) = t →
        live.length = dst.length → dst.eraseDups.length = dst.length →
        dst.all (fun g => s.erased g && s.groupOpen g && blockKey g != b) = true → min 4 (s.preErased ch) ≤ t.preErased ch →
        s.relocate ch b dst = some t))

/-- A parcel that is present starts through power, training and identification to ON, with its identity and capacity or BLANK; a step that
fails removes its power (R600, R601). That a step that fails at step 5 is left out here follows notes/assumptions/28.md. -/
def ParcelsStart : Prop :=
  ∀ s : State,
    (s.released = true → s.clocked = true → s.fld .pclStatus fPclStatusPresent ≠ 1 → exec .parcelPresent s = .next (
      let u := (s.setFld .pclStatus fPclStatusPresent 0 1).setPcl 1
      { u with fl := { u.fl with parcelStep := 3, lamp := 0 } })) ∧
    (s.fl.parcelStep = 3 → exec .parcelPgood s = .next { s with fl := { s.fl with parcelStep := 4 } }) ∧
    (s.fl.parcelStep = 4 →
      exec .parcelTrained s = .next (({ s with fl := { s.fl with parcelStep := 5 } } : State).parcelTrain 1)) ∧
    (s.fl.parcelStep = 5 → ∀ (h : Option ParcelHeader) (u v : State),
      (match h with
        | some h => ((s.setReg .pclId 0 0 h.id).setFld .pclStatus fPclStatusCapacity 0 h.capacityMiB.toNat).setFld .pclStatus fPclStatusBlank 0 0
        | none => ((s.setReg .pclId 0 0 0).setFld .pclStatus fPclStatusCapacity 0 0).setFld .pclStatus fPclStatusBlank 0 1) = u →
      ((({ u with fl := { u.fl with parcelStep := 0, parcelOpen := true } } : State).setPcl 2).pclChange).noteParcel = v →
      (v.fld .pclStatus fPclStatusPending ≠ 1 → exec (.parcelIdentified h) s = .next v) ∧
      (v.fld .pclStatus fPclStatusPending = 1 →
        exec (.parcelIdentified h) s = .next ((v.setFld .pclStatus fPclStatusPending 0 0).pclRequest))) ∧
    (s.fl.parcelStep = 3 ∨ s.fl.parcelStep = 4 → ∀ u, s.parcelOff.setFld .pclStatus fPclStatusStepFail 0 1 = u →
      exec .parcelStepTimeout s = .next ({ u with fl := { u.fl with lamp := 7 } } : State).pclChange)

/-- A removal asked for by the button or by command drains the parcel, held while DEFER asks for it; after the drain its reads and requests
end and the parcel is OFF; a parcel that is withdrawn or loses its power is lost with everything outstanding on it (R602, R603, R750). -/
def ParcelsLeave : Prop :=
  ∀ s : State,
    (s.clocked = true → s.pclState = 2 →
      let u := s.setPcl 3
      (u.fld .pclCfg fPclCfgDefer = 1 → exec .pclCmdRequest s = .next { u with fl := { u.fl with drainStep := 1 } }) ∧
      (u.fld .pclCfg fPclCfgDefer ≠ 1 → exec .pclCmdRequest s = .next u.beginDrain)) ∧
    (s.released = true → exec .parcelButton s = exec .pclCmdRequest s) ∧
    (s.clocked = true → s.fl.drainStep = 1 → exec .pclCmdRelease s = .next s.beginDrain) ∧
    (s.fl.drainStep = 2 → ∀ u v, s.endParcelReads.1.abortFlReqs (fun r => (s.region r).home == 2) = v →
      v.each (List.range 4) (fun s i => match s.flReq i with
        | some r => if r.op = 4 then s.abortFlReq i else s
        | none => s) = u →
      exec .parcelReadDrainExpiry s = .next
        { u with fl := { u.fl with drainStep := 3, flushing := (rangeFrom 12 4).foldl (fun l c => setInsert c l) u.fl.flushing } }) ∧
    (s.latchPulse = true →
      exec .parcelLatchPulseEnd s = .next ({ s.parcelOff with fl := { s.parcelOff.fl with lamp := 6 } } : State).pclChange) ∧
    (s.released = true → s.pclState ≠ 0 → exec .parcelRemoved s = .next (s.loseParcel.setFld .pclStatus fPclStatusPresent 0 0)) ∧
    (s.released = true → s.pclState = 0 → exec .parcelRemoved s = .next (s.setFld .pclStatus fPclStatusPresent 0 0)) ∧
    (s.fl.parcelStep = 4 ∨ s.fl.parcelStep = 5 ∨ s.pclState = 2 ∨ s.pclState = 3 → exec .pclPgoodLoss s = .next s.loseParcel)

/-- A control period of the power core learns the phases' needs, shares the cap among the classes and the clusters, meters the contexts'
energy, and shows the cap in force and the power (R628, R630, R631, R637). The classes' order and shares are those of
notes/assumptions/37.md. -/
def PowerIsShared : Prop :=
  ∀ (s u v : State) (m : PowerMeas), s.clocked = true → s.fwOn 1 = true →
    s.each (List.range 16) (fun s cl => s.learn cl (m.clusters.getD cl 0)) = u →
    (((u.shareCap m u.nextCap).meterEnergy).setFld .pwrStatus fPwrStatusCap 0 u.nextCap).setFld .pwrStatus fPwrStatusPower 0 m.total.toNat = v →
    exec (.powerControlPeriod m) s = .next { v with pw := { v.pw with periods := v.pw.periods + 1, drop := v.nextDrop, ran := v.ranAnew, throttled := (List.range 16).filter (fun cl => v.level cl != 0) } }

/-- The limiter's floor rises by 4 up to 60 while the power exceeds its limit and falls by 1 below 95 % of it; a cluster's level moves by at
most 4 in a frame towards the largest of its target, the floor and a droop's level; a droop trip takes it there at once (R633, R634, R636).
-/
def ThrottlesFollowTheLimiter : Prop :=
  ∀ s : State, s.clocked = true →
    (∀ (power : BitVec 12) (n : Nat),
      (s.limit < power.toNat ∧ n = min 60 (s.pw.floor + 4)) ∨ (100 * power.toNat < 95 * s.limit ∧ n = s.pw.floor - 1) ∨
        (power.toNat ≤ s.limit ∧ 95 * s.limit ≤ 100 * power.toNat ∧ n = s.pw.floor) →
      exec (.limiterCompare power .none) s = .next ((({ s with pw := { s.pw with floor := n } } : State).setFld .pwrStatus fPwrStatusPower 0
        power.toNat).setFld .pwrStatus fPwrStatusLimiter 0 (if n = 0 then 0 else 1)) ∧
      exec (.limiterCompare power .control) s = .next (s.controlDetect agentPower)) ∧
    (∀ (cl : Fin 16) (w : Nat),
      w = max (max (tabGet 0 s.pw.targets cl) s.pw.floor) (if s.pw.droops.contains cl.val then s.fld .pwrCapCfg fPwrCapCfgDroopT else 0) →
      (s.level cl < w → exec (.throttleRampFrame cl) s = .next (s.setLevel cl (min w (s.level cl + 4)))) ∧
      (w ≤ s.level cl → exec (.throttleRampFrame cl) s = .next (s.setLevel cl (max w (s.level cl - 4)))) ∧
      (∀ u, s.bumpSat .pwrStatus fPwrStatusDroops 0 = u → exec (.droopTrip cl) s = .next
        (({ u with pw := { u.pw with droops := setInsert cl.val u.pw.droops } } : State).setLevel cl
          (max (u.level cl) (u.fld .pwrCapCfg fPwrCapCfgDroopT)))) ∧
      exec (.droopHoldExpiry cl) s = .next { s with pw := { s.pw with droops := setErase cl.val s.pw.droops } })

/-- From step 2 the I3C target takes its address and the budget, and answers the status, the hottest temperature and the cap in force (R628,
R629). -/
def TargetAnswersFromStep2 : Prop :=
  ∀ s : State, 2 ≤ s.start.step →
    (∀ addr : BitVec 7, exec (.i3cEntdaa addr) s = .next { s with start := { s.start with i3cAddr := addr.toNat } }) ∧
    exec .i3cReadStatus s = .next (s.emit (.i3c (leBytes 8 (s.reg .pwrStatus).toNat))) ∧
    (s.start.sensors ≠ [] →
      exec .i3cReadTemp s = .next (s.emit (.i3c (leBytes 2 ((s.start.sensors.map (·.toNat)).foldl max 0))))) ∧
    (∀ w : BitVec 16, exec (.i3cWriteBudget w) s = .next (s.setFld .pwrBudget fPwrBudgetI3cW 0 w.toNat)) ∧
    exec .i3cReadCap s = .next (s.emit (.i3c (leBytes 2 (s.fld .pwrStatus fPwrStatusCap))))

/-- The ageing measurement raises the margins, and the security core keeps them in the trim block; a conversion takes the 96 sensors, and
one that finds a sensor above THERM_TRIP twice in a row trips and stops the die (R637 to R639, R751). -/
def MonitorsMeasure : Prop :=
  ∀ s : State,
    (∀ need u, s.clocked = true → s.fwOn 1 = true → s.age need = u →
      (u.fwOn 0 = true → exec (.ageingMeasure need) s = .next { u with pw := { u.pw with trim := u.pw.margin } }) ∧
      (u.fwOn 0 = false → exec (.ageingMeasure need) s = .next u)) ∧
    (∀ (temps : List (BitVec 16)) (hot : List Nat), 2 ≤ s.start.step → temps.length = 96 →
      (List.range 96).filter (fun i => decide (s.fld .pwrThermCfg fPwrThermCfgThermTrip < (temps.getD i 0).toNat)) = hot →
      (hot.any (fun i => s.start.hotOnce.contains i) = false → exec (.thermalConversion temps) s = .next
        { s with start := { s.start with sensors := temps, hotOnce := hot } }) ∧
      (hot.any (fun i => s.start.hotOnce.contains i) = true → s.start.tripped = false → exec (.thermalConversion temps) s = .next
        (({ s with start := { s.start with sensors := temps, hotOnce := hot, tripped := true } } : State).beginStop 2)))

/-- The loss of COOLANT_OK from step 8 on stops the die with its cause, as D3hot does from RUN; the stop goes through its five stages, in
the third the ports go down and every request is to return, in the fourth its cause is posted, in the fifth the clocks are gated; a stopped
die that is cool resumes by command or by its function's return to D0, or the command is refused; and the resume ends with the clocks locked
(R637, R642 to R646). That the cause is posted in stage 4 is the model's reading (notes/assumptions/36.md). -/
def DieStopsAndResumesByStages : Prop :=
  ∀ s : State,
    exec .coolantOkAssert s = .next { s with start := { s.start with coolant := true } } ∧
    (∀ u : State, { s with start := { s.start with coolant := false } } = u →
      (s.start.coolant = true → 8 ≤ s.start.step → exec .coolantOkDeassert s = .next (u.beginStop 1)) ∧
      (s.start.coolant = false ∨ s.start.step < 8 → exec .coolantOkDeassert s = .next u)) ∧
    (∀ u : State, { s with start := { s.start with d3hot := true } } = u →
      (u.run = true → exec .d3hotEntry s = .next (u.beginStop 3)) ∧ (u.run = false → exec .d3hotEntry s = .next u)) ∧
    (∀ u : State, { s with start := { s.start with d3hot := false } } = u →
      (u.fld .pwrState fPwrStateState = 3 → u.fld .pwrState fPwrStateCause = 3 → u.start.coolant = true → u.cool = true →
        exec .d0Return s = .next u.beginResume) ∧
      (u.fld .pwrState fPwrStateState = 3 → u.fld .pwrState fPwrStateCause = 3 → u.start.coolant = false ∨ u.cool = false →
        exec .d0Return s = .next (u.setFld .pwrState fPwrStateCause 0 1)) ∧
      (u.fld .pwrState fPwrStateState ≠ 3 ∨ u.fld .pwrState fPwrStateCause ≠ 3 → exec .d0Return s = .next u)) ∧
    (∀ at' : State → Nat → State, (∀ t k, at' t k = { t with pw := { t.pw with stopStage := k } }) →
      (s.pw.stopStage = 1 → exec .coldStopStageDone s = .next (at' s.coresDrain 2)) ∧
      (s.pw.stopStage = 2 → exec .coldStopStageDone s = .next (at' (s.each (List.range 12) (fun s p => s.portStops p)) 3)) ∧
      (s.pw.stopStage = 3 → s.mv.reqs.any (fun r => !s.hostReq r) = false ∨ s.fld .fltDieStatus fFltDieStatusFatal ≠ 0 →
        exec .coldStopStageDone s = .next (at' s 4)) ∧
      (s.pw.stopStage = 3 → s.mv.reqs.any (fun r => !s.hostReq r) = true → s.fld .fltDieStatus fFltDieStatusFatal = 0 →
        exec .coldStopStageDone s = .next s) ∧
      (s.pw.stopStage = 4 → exec .coldStopStageDone s = .next (at' s.postStop 5)) ∧
      (s.pw.stopStage = 5 → exec .coldStopStageDone s = .next (at' s.gateClocks 0).hostBack)) ∧
    (s.fld .pwrState fPwrStateState = 3 → s.start.coolant = true → s.cool = true → s.fld .fltDieStatus fFltDieStatusFatal = 0 →
      s.fld .pwrState fPwrStateCause = 3 ∨ s.fld .cfgStatus fCfgStatusFlags / 8 = 1 →
      exec .pwrStateResume s = .next s.beginResume) ∧
    (s.fld .pwrState fPwrStateState ≠ 3 ∨ s.start.coolant = false ∨ s.cool = false ∨ s.fld .fltDieStatus fFltDieStatusFatal ≠ 0 ∨
        ((s.fld .pwrState fPwrStateCause = 1 ∨ s.fld .pwrState fPwrStateCause = 2) ∧ s.fld .cfgStatus fCfgStatusFlags / 8 ≠ 1) →
      exec .pwrStateResume s = .next (s.setFld .pwrState fPwrStateRefused 0 1)) ∧
    (s.fld .pwrState fPwrStateState = 4 → (rangeFrom 2 17).all (fun f => s.fld .rstFwStatus fRstFwStatusState f != 1) = true →
      exec .resumeDone s = .next s.resumed)

/-- Scrubs read every store: a clean line stays; a corrected one is written back and counted; one that cannot be corrected is poisoned with
its event, unless it was poisoned before; a sync object that cannot be corrected fails with its slab; and an uncorrectable hub structure is
lost (R94, R188, R664 to R666, R676, R678, R681, R682). That a store's counts start anew when its scrub passes line 0 is the model's reading
of the period (notes/assumptions/38.md). -/
def ScrubsCorrectAndPoison : Prop :=
  ∀ (s : State) (rd : ReadRes), s.clocked = true →
    (∀ (c : Fin 272) (line : Fin 16384) (u : State), s.newPeriod line (c * 16) 16 = u →
      (u.benchSees c line rd = .clean → exec (.scrubRead (.bench c line) rd) s = .next u) ∧
      (u.benchSees c line rd = .corrected → exec (.scrubRead (.bench c line) rd) s = .next
        (((u.count 0 c 17).mend 0 (fun l => l == benchKey c line)).sramCorrected (benchRow c line))) ∧
      (∀ v : State, u.benchSees c line rd = .uncorrectable → (u.mem.benchBad.contains (benchKey c line) &&
          !u.test.fresh.contains (0, benchKey c line)) = false → (u.noFresh 0 (benchKey c line)).mend 0 (fun l => l == benchKey c line) = v →
        exec (.scrubRead (.bench c line) rd) s = .next
          ((({ v with mem := { v.mem with benchBad := setInsert (benchKey c line) v.mem.benchBad } } : State).benchUe c).postOwner
            (State.resident ({ v with mem := { v.mem with benchBad := setInsert (benchKey c line) v.mem.benchBad } } : State) (c / 17))
            { code := codeBenchUncorrectable }))) ∧
    (∀ (cl : Fin 16) (line : Fin 65536) (u : State), s.newPeriod line (5000 + cl * 16) 16 = u →
      (u.storeSees cl line rd = .clean → exec (.scrubRead (.store cl line) rd) s = .next u) ∧
      (u.storeSees cl line rd = .corrected → exec (.scrubRead (.store cl line) rd) s = .next
        ((u.storeCorrected cl line).mend 1 (fun l => l == cl.val * 65536 + line.val)))) ∧
    (∀ (h : HubStruct) (line : Fin 393216) (u v : State), s.newPeriod line 6000 24 = u →
      u.mem.hubBad.contains line.val = false → u.flipSees 2 line rd = .uncorrectable →
      (u.noFresh 2 line).mend 2 (fun l => l == line.val) = v →
        exec (.scrubRead (.hub h line) rd) s = .next
          ((({ v with mem := { v.mem with hubBad := setInsert line.val v.mem.hubBad } } : State).postDev
            { code := codeSramUncorrectable, detail := sramDetail 1 0 line 1 }).hubLost h)) ∧
    (∀ (x : Fin 1024) (idx : Fin 196608), exec (.scrubRead (.syncHub x idx) rd) s = .next
      ((s.newSyncPeriod 16 idx).scrubObj { hub := true, cl := 0, ctx := x, idx := idx } rd)) ∧
    (∀ (cl : Fin 16) (idx : Fin 4096) (x : Nat), (s.newSyncPeriod cl idx).resident cl = some x →
      exec (.scrubRead (.syncCluster cl idx) rd) s = .next
        ((s.newSyncPeriod cl idx).scrubObj { hub := false, cl := cl, ctx := x, idx := idx } rd)) ∧
    (∀ line, exec (.scrubRead (.hbm line) rd) s = .next (s.scrubHbm line rd)) ∧
    (∀ (k : ObjKey) (home slab : Nat), s.slabOf k = some (home, slab) → s.copying home slab = false →
      s.sync.failed.contains (slabKey home slab) = false →
      ∀ m, s.mend 3 (fun l => l == syncLine home slab k.idx) = m →
        (s.flipSees 3 (syncLine home slab k.idx) rd = .clean → s.scrubObj k rd = m) ∧
        (s.flipSees 3 (syncLine home slab k.idx) rd = .corrected → s.scrubObj k rd = m.objCorrected home slab) ∧
        (s.flipSees 3 (syncLine home slab k.idx) rd = .uncorrectable → s.scrubObj k rd = m.objFails k home slab k.cl 0 k.ref 1))

/-- The third failing window in a row of a monitor is a fault with its domain's outcome, and a good one starts the count again; a local
request without a response is a control detection; a row and a bank that have been copied are replaced by their spares, with SPARE_SWITCHED
(R627, R667, R674, R677 to R679). The bytes of SPARE_SWITCHED after the first follow notes/assumptions/39.md. -/
def HardwareFaultsAreActedOn : Prop :=
  ∀ s : State,
    (∀ (d : ClockDom) (inst : Nat), s.watched d inst = true →
      let k := clkBit d * 16 + inst
      let at' (n : Nat) : State := { s with flt := { s.flt with windows := tabSet 0 s.flt.windows k n } }
      exec (.clockMonitorWindow d inst .good) s = .next (at' 0) ∧
      (∀ obs, obs ≠ .good → tabGet 0 s.flt.windows k ≠ 2 →
        exec (.clockMonitorWindow d inst obs) s = .next (at' (tabGet 0 s.flt.windows k + 1))) ∧
      (∀ obs, obs ≠ .good → tabGet 0 s.flt.windows k = 2 → exec (.clockMonitorWindow d inst obs) s = .next
        ((at' 0).clockFault d inst (if obs = .stopped then 1 else 2)))) ∧
    (∀ tag r, s.mv.reqs.find? (fun r => r.tag == tag) = some r → s.clocked = true → s.localReq r = true →
      exec (.responseTimeout tag) s = .next (s.controlDetect agentTimeout)) ∧
    (∀ r, s.clocked = true → s.flt.rowCopies.contains r = true → exec (.sramRowSpareDone r) s = .next (s.rowSpared r)) ∧
    (∀ (bank : Fin 24) (u : State), s.clocked = true → s.flt.bankCopies.contains bank.val = true →
      { s with flt := { s.flt with bankCopies := setErase bank.val s.flt.bankCopies } } = u →
      exec (.hubBankCopyDone bank) s = .next ((u.setFld .fltSramSpare fFltSramSpareHubBank 16 bank).spareSwitched 0x50 bank 0))

/-- A failing entropy source is shown and holds what needs random values until it passes; an attestation takes every state field at its GO,
and ends with the report and its signature; the end of a bandwidth window shows its counts and starts anew (R690, R698 to R700, R719). The
signature is uninterpreted (notes/assumptions/4.md); that the fields are those of the GO is the model's reading (notes/assumptions/42.md).
-/
def EntropyAttestationAndWindows : Prop :=
  ∀ s : State,
    exec .entropyHealthFail s = .next (s.setFld .secStatus fSecStatusEntFail 0 1) ∧
    (∀ u, s.setFld .secStatus fSecStatusEntFail 0 0 = u →
      (u.keyingOn = true → exec .entropyHealthPass s = .next u.keyKick) ∧ (u.keyingOn = false → exec .entropyHealthPass s = .next u)) ∧
    (s.clocked = true → s.fld .secAttCtl fSecAttCtlBusy ≠ 1 → exec .secAttGo s = .next
      (({ s with sec := { s.sec with building := some (s.reportBody (s.sec.reports + 1)), reports := s.sec.reports + 1 } } : State).setFld
        .secAttCtl fSecAttCtlBusy 0 1)) ∧
    (s.fld .secAttCtl fSecAttCtlBusy = 1 → exec .secAttGo s = .next s) ∧
    (∀ b sig, s.sec.building = some b → s.fwOn 0 = true → s.fld .secStatus fSecStatusEntFail ≠ 1 →
      padBytes 3309 (Config.mldsaSign (ascii "SV2-ATT") b s.sec.signs) = sig →
      exec .attestationDone s = .next
        ((({ s with sec := { s.sec with building := none, report := b ++ sig ++ [0, 0, 0], signs := s.sec.signs + 1 } } : State).setFld
          .secAttCtl fSecAttCtlCode 0 codeOk.toNat).setFld .secAttCtl fSecAttCtlBusy 0 0)) ∧
    (∀ (p : Fin 48) (u : State), s.clocked = true →
      ((s.setFld .pmcBw fPmcBwAUnits p (tabGet 0 s.bwc (2 * p.val))).setFld .pmcBw fPmcBwBUnits p (tabGet 0 s.bwc (2 * p.val + 1))).bump
        .pmcBw fPmcBwSeq p = u →
      exec (.pmcBwWindowEnd p) s = .next { u with bwc := tabSet 0 (tabSet 0 u.bwc (2 * p.val) 0) (2 * p.val + 1) 0 })

/-- An enable and a disable of the awl are taken where test is enabled and refused with TEST_DENIED elsewhere; a start and a drain end in ON
and OFF, or go on to the state that a request recorded meanwhile asks for; an injection inverts one bit, or two eight apart, of the word
that AWL_INJ_ADDR names (R504 to R506, R721, R725). That an injection is performed at once, so that BUSY is never seen, is the model's
choice (notes/assumptions/41.md). -/
def AwlStartsDrainsAndInjects : Prop :=
  ∀ s : State, s.clocked = true →
    (s.testEnable = true →
      exec .awlEnable s = .next (((s.setFld .awlCtl fAwlCtlEn 0 1).awlRequest true).setFld .awlStatus fAwlStatusCode 0 codeOk.toNat) ∧
      exec .awlDisable s = .next (((s.setFld .awlCtl fAwlCtlEn 0 0).awlRequest false).setFld .awlStatus fAwlStatusCode 0 codeOk.toNat)) ∧
    (s.testEnable = false → ∀ store bits,
      let u := s.setFld .awlStatus fAwlStatusCode 0 codeTestDenied.toNat
      exec .awlEnable s = .next u ∧ exec .awlDisable s = .next u ∧ exec (.awlInjGo store bits) s = .next u) ∧
    (s.fld .awlCtl fAwlCtlPending ≠ 1 →
      (s.awlState = 0 → s.awlRequest true = s.setAwl 1) ∧ (s.awlState = 2 → s.awlRequest false = s.setAwl 3) ∧
      (s.awlState = 3 → s.awlRequest true = s.awlPending 1) ∧ (s.awlState = 1 → s.awlRequest false = s.awlPending 1)) ∧
    (s.awlState = 1 →
      (s.fld .awlCtl fAwlCtlPending ≠ 1 → exec .awlStartDone s = .next (s.setAwl 2)) ∧
      (s.fld .awlCtl fAwlCtlPending = 1 → exec .awlStartDone s = .next ((s.awlPending 0).setAwl 3))) ∧
    (s.awlState = 3 →
      (s.fld .awlCtl fAwlCtlPending ≠ 1 → exec .awlDrainDone s = .next (s.setAwl 0)) ∧
      (s.fld .awlCtl fAwlCtlPending = 1 → exec .awlDrainDone s = .next ((s.awlPending 0).setAwl 1))) ∧
    (∀ (store : BitVec 4) (bits : BitVec 2) (u : State), s.testEnable = true →
      s.awlWrite (fun s => (s.setFld .awlInjCtl fAwlInjCtlStore 0 store.toNat).setFld .awlInjCtl fAwlInjCtlBits 0 bits.toNat) = u →
      u.awlState = 2 → store.toNat < 5 → bits = 1 ∨ bits = 2 →
      ∀ inst word bit, u.fld .awlInjAddr fAwlInjAddrInstance = inst → u.fld .awlInjAddr fAwlInjAddrWord = word →
        u.fld .awlInjAddr fAwlInjAddrBit = bit →
        (injPlace store.toNat inst word bit = none → exec (.awlInjGo store bits) s = .next
          (u.setFld .awlStatus fAwlStatusCode 0 codeAddressInvalid.toNat)) ∧
        (∀ line w, injPlace store.toNat inst word bit = some (line, w) → bits = 1 → exec (.awlInjGo store bits) s = .next
          (((u.flipBit ⟨store.toNat, line, w, bit⟩).settleFlips store.toNat line).bump .awlStatus fAwlStatusInjected 0)) ∧
        (∀ line w, injPlace store.toNat inst word bit = some (line, w) → bits = 2 → exec (.awlInjGo store bits) s = .next
          ((((u.flipBit ⟨store.toNat, line, w, bit⟩).flipBit
            ⟨store.toNat, line, w, (bit + 8) % (if store.toNat = 4 then 512 else 72)⟩).settleFlips store.toNat line).bump .awlStatus
              fAwlStatusInjected 0)))

/-- The test access port puts an instruction in force: BYPASS alone; SAMPLE/PRELOAD and EXTEST shift out what the signals show and load the
boundary register; and the owner-fuse instruction programs the digest only while RESET_N is low, VPP_FUSE is applied and the digest is
unprogrammed, and shifts it out then (R752, R753). What the signals show is a free value (notes/assumptions/5.md), and BYPASS as the
instruction 0 is the model's numbering. -/
def TestPortActs : Prop :=
  ∀ s : State,
    exec .tapBypass s = .next { s with test := { s.test with instruction := 0 } } ∧
    (∀ p d u, s.draw = (d, u) →
      exec (.tapSamplePreload p) s = .next
        (let v := (u.tap 1).emit (.tap d)
        { v with test := { v.test with boundary := p } }) ∧
      exec (.tapExtest p) s = .next
        (let v := (u.tap 2).emit (.tap d)
        { v with test := { v.test with boundary := p } })) ∧
    (∀ (dg : BitVec 256) (u : State), s.tap 3 = u →
      (s.start.step = 0 → s.sec.ownerDigest = none → exec (.tapOwnerFuse dg true) s = .next
        (({ u with sec := { u.sec with ownerDigest := some dg } } : State).each (List.range 4) (fun s i =>
          s.emit (.tap (BitVec.ofNat 64 (dg.toNat / 2 ^ (64 * i))))))) ∧
      (∀ vpp, s.start.step ≠ 0 ∨ vpp = false ∨ s.sec.ownerDigest ≠ none → exec (.tapOwnerFuse dg vpp) s = .next u))

end Sys2Proof.Claims

open Sys2Proof.Claims

/-! ## The statements -/

/-- A step takes the command at the front of the queue and runs it on the state with the queue's rest. -/
def Obligations.StepRunsTheFront : Prop :=
  ∀ (s : State) (c : Instr) (rest : List Instr), s.pending = c :: rest → step s = exec c { s with pending := rest }

/-- With no command waiting one FCLK passes (the model's choice, notes/assumptions/7.md): OLA_FCLK_NOW counts by 1 modulo 2^64 while the
die's clocks run and stands still while it is STOPPED, and nothing else changes. -/
def Obligations.IdleStepCountsFclk : Prop :=
  ∀ s : State, s.pending = [] →
    ∃ t, step s = .next t ∧ t = { s with regs := t.regs } ∧
      t.fld .olaFclkNow fOlaFclkNowCount =
        (if s.fld .pwrState fPwrStateState = 3 then s.fld .olaFclkNow fOlaFclkNowCount
         else (s.fld .olaFclkNow fOlaFclkNowCount + 1) % 2 ^ (fOlaFclkNowCount.hi + 1 - fOlaFclkNowCount.lo)) ∧
      ∀ r i w, regKey r i w ≠ regKey .olaFclkNow 0 0 → t.reg r i w = s.reg r i w

/-- Every command, in every state, answers a next state: the model neither faults nor refuses. That a command whose conditions do not hold
changes nothing, in place of stopping, is the model's choice (notes/assumptions/15.md). -/
def Obligations.EveryCommandAnswersNext : Prop :=
  ∀ (c : Instr) (s : State), ∃ t, exec c s = .next t

/-- No command touches the queue: a step removes exactly the command that it ran. -/
def Obligations.CommandsLeaveTheQueue : Prop :=
  (∀ (c : Instr) (s t : State), exec c s = .next t → t.pending = s.pending) ∧
  (∀ (s t : State), step s = .next t → t.pending = s.pending.tail)

/-- HBM, the cluster stores, the benches and the vector registers keep their canonical form in every step, from every state that has it. -/
def Obligations.StepsKeepMemoriesCanonical : Prop :=
  ∀ (s t : State), s.wf = true → step s = .next t → t.wf = true

/-- The owner-key digest can be programmed once: in every step from every state, a digest that is programmed stays as it is. That a second
programming changes nothing is R753's; that a reset keeps the digest is the model's reading of a fuse (notes/assumptions/34.md). -/
def Obligations.FusedDigestStays : Prop :=
  ∀ (s t : State) (d : BitVec 256), s.sec.ownerDigest = some d → step s = .next t → t.sec.ownerDigest = some d

/-- What the die has sent is never taken back, and a free value is never drawn again: in every step the list of what was sent only grows at
its end, and the count of drawn values does not fall. Both lists are the model's own (notes/assumptions/5.md, notes/assumptions/16.md). -/
def Obligations.SentStaysSent : Prop :=
  ∀ (s t : State), step s = .next t → s.out <+: t.out ∧ s.drawn ≤ t.drawn

/-- The machine at reset, and what asserting RESET_N leaves: `MachineAtReset`, `ResetIsCanonical`. -/
def Obligations.ResetLeavesTheMachine : Prop :=
  Sys2Proof.Claims.MachineAtReset ∧ Sys2Proof.Claims.ResetIsCanonical

/-- While the die is STOPPED every other command finds its engine's clock gated and changes nothing (R643). That such a command is answered
with the state unchanged is the model's choice (notes/assumptions/15.md); so is the list of rows whose units run (notes/assumptions/45.md).
-/
def Obligations.StoppedDieStandsStill : Prop :=
  ∀ (s : State) (c : Instr), s.fld .pwrState fPwrStateState = 3 → worksStopped c = false → exec c s = .next s

/-- A register's field reads back what was set, within its width; the register's other fields and every other register stay (R7). -/
def Obligations.FieldsReadBackWhatIsSet : Prop :=
  (∀ (s : State) (r : RegName) (f : Fl) (i x : Nat), f.ok = true → (s.setFld r f i x).fld r f i = x % 2 ^ (f.hi + 1 - f.lo)) ∧
  (∀ (s : State) (r : RegName) (f g : Fl) (i x : Nat), f.ok = true → g.ok = true → f.apart g = true →
    (s.setFld r f i x).fld r g i = s.fld r g i) ∧
  (∀ (s : State) (r r' : RegName) (f : Fl) (i x i' w' : Nat), regKey r' i' w' ≠ regKey r i 0 →
    (s.setFld r f i x).reg r' i' w' = s.reg r' i' w')

/-- What is written to HBM reads back, every other byte of HBM reads as before, and no other memory changes; a whole line ends its poison,
and a part of a poisoned line changes nothing (R666), nor does a write to a controller that has left service (Table 16-6). -/
def Obligations.HbmReadsBackWhatIsWritten : Prop :=
  ∀ (s : State) (a : Nat) (bs : List Byte),
    (s.flt.hbmOut.contains (hbmStack a) = false → s.hbmPoisoned (a / 64) = false ∨ (a % 64 = 0 ∧ bs.length = 64) →
      let t := (s.hbmWrite a bs).1
      memRead t.mem.hbm a bs.length = bs ∧
      (∀ b, b < a ∨ a + bs.length ≤ b → memGet t.mem.hbm b = memGet s.mem.hbm b) ∧
      t.mem.store = s.mem.store ∧ t.mem.bench = s.mem.bench ∧ t.mem.vreg = s.mem.vreg ∧ t.regs = s.regs ∧ t.queues = s.queues ∧
      (s.hbmWrite a bs).2 = false) ∧
    (s.hbmPoisoned (a / 64) = true → ¬ (a % 64 = 0 ∧ bs.length = 64) → s.hbmWrite a bs = (s, true)) ∧
    (s.flt.hbmOut.contains (hbmStack a) = true → s.hbmWrite a bs = (s, true))

/-- A counter adds what is counted modulo 2^48; its WRAP flag, bit 48, is set by an increment that passes 2^48 − 1 and stays set until it is
cleared; no other counter changes (R712, R714). -/
def Obligations.CountersWrap : Prop :=
  ∀ (s : State) (kind inst ev n : Nat), n < 2 ^ 48 →
    let c := (tabGet 0 s.pmc (pmcAgent kind inst ev)).toNat
    let d := (tabGet 0 (s.count kind inst ev n).pmc (pmcAgent kind inst ev)).toNat
    d % 2 ^ 48 = (c + n) % 2 ^ 48 ∧ (2 ^ 48 ≤ d ↔ 2 ^ 48 ≤ c ∨ 2 ^ 48 ≤ c % 2 ^ 48 + n) ∧
    ∀ j, j ≠ pmcAgent kind inst ev → tabGet 0 (s.count kind inst ev n).pmc j = tabGet 0 s.pmc j

/-- Commands that write registers alone: which registers they write; every other register, every memory, every queue and every other part of
the state stays (R532, R555, R628, R690, R722). -/
def Obligations.RegisterCommandsChangeTheirRegisters : Prop :=
  ∀ s : State, s.clocked = true →
    (∀ (i : Fin 8) (o : Fin 16) (d : BitVec 7), ∃ t, exec (.txnCommit i o d) s = .next t ∧ RegsOnly [regKey .txnCtl i 0, regKey .txnStatus i 0] s t) ∧
    (∀ (k : Fin 16) (id p : BitVec 16), ∃ t, exec (.hifLeaseClaim k id p) s = .next t ∧ RegsOnly [regKey .hifLease k 0] s t) ∧
    (∀ w : BitVec 16, ∃ t, exec (.i3cWriteBudget w) s = .next t ∧ RegsOnly [regKey .pwrBudget 0 0] s t) ∧
    (∃ t, exec .entropyHealthFail s = .next t ∧ RegsOnly [regKey .secStatus 0 0] s t) ∧
    (∀ c, c = Instr.awlEnable ∨ c = Instr.awlDisable ∨ c = Instr.awlStartDone ∨ c = Instr.awlDrainDone →
      ∃ t, exec c s = .next t ∧ RegsOnly [regKey .awlCtl 0 0, regKey .awlStatus 0 0] s t)

/-- A write that fits a register changes the RW bits and clears the W1C bits that its view lists and that it covers, those with 1 in the
write, and no others; a selection register of a window is the window's own; PMC_DATA takes only the clear of WRAP, PMC_BW_CFG a window of 10
to 20, RST_FW_LOAD a write before the release, and FLS_PW, which reads nothing, its bytes; a trigger and a register with a command of its
own are left to that command; an access that R4 calls malformed changes nothing and is logged, and a read of that kind answers ones; AWL
registers without TEST_ENABLE answer TEST_DENIED, and OK with it (R3, R4, R7, R9, R496, R718, R725, R729, R730, R732, R738). -/
def Obligations.RegistersTakeWrites : Prop :=
  (∀ (s : State) (v : View) (off len value : Nat) (r : RegName) (i w : Nat) (m x : Word), s.clocked = true ∨ (v = .P ∧ runsStopped r = true) →
    inAperture v off len = false → badAccess v off len = false → locate v off = some (r, i, w) → (v = .U → (regRow r).u = true) →
    coverMask off len = m → BitVec.ofNat 64 (value % 2 ^ (8 * len) * 2 ^ (8 * (off % 8))) = x →
    let new (old : Word) : Word := writeBits (regFields r) v m old x
    let plain : State := s.setReg r i w (new (s.reg r i w))
    let run := exec (.registerWrite v off len value) s
    (ownCommand r m x = true → run = .next s) ∧
    (ownCommand r m x = false → isAwl r = false → r ≠ .pmcData → r ≠ .pmcBwCfg → r ≠ .flsPw → r ≠ .rstFwLoad →
      (v = .P ∨ ownRef r = none → run = .next plain) ∧
      (∀ k, v = .U → ownRef r = some k → r ≠ .pmcRef ∨ s.ctrUser = true →
        run = .next { s with uregs := tabUpd 0 s.uregs (winOf off * 8 + k) new }) ∧
      (v = .U → r = .pmcRef → s.ctrUser = false → run = .next s)) ∧
    (ownCommand r m x = false →
      (∀ k, r = .pmcData → s.pmcSel v (winOf off) = some k → (x &&& m).toNat.testBit 63 = true → run = .next
        { s with pmc := tabUpd 0 s.pmc k (fun c => BitVec.ofNat 49 (c.toNat % 2 ^ 48)) }) ∧
      (r = .pmcData → s.pmcSel v (winOf off) = none ∨ (x &&& m).toNat.testBit 63 = false → run = .next s) ∧
      (∀ n, r = .pmcBwCfg → getFl fPmcBwCfgLog2Window (new (s.reg r i w)) = n →
        (10 ≤ n → n ≤ 20 → run = .next plain) ∧ (n < 10 ∨ 20 < n → run = .next s)) ∧
      (r = .flsPw → run = .next (s.setReg r i w ((s.reg r i w &&& ~~~m) ||| (x &&& m)))) ∧
      (r = .rstFwLoad → s.released = false → run = .next plain) ∧ (r = .rstFwLoad → s.released = true → run = .next s) ∧
      (isAwl r = true → v = .P → r ≠ .awlStatus → s.testEnable = false →
        run = .next (s.setFld .awlStatus fAwlStatusCode 0 codeTestDenied.toNat)) ∧
      (isAwl r = true → v = .P → r ≠ .awlStatus → r ≠ .awlCtl → s.testEnable = true →
        run = .next ((s.setReg r i w (clampAwl r (new (s.reg r i w)))).setFld .awlStatus fAwlStatusCode 0 codeOk.toNat)))) ∧
  (∀ (l : List Fl) (v : View) (m old x : Word) (b : Nat),
    let lists (a : Acc) : Bool := (fieldMask l (fun f => f.acc == a && f.seen v)).getLsbD b && m.getLsbD b
    (writeBits l v m old x).getLsbD b = if (lists .w1c && x.getLsbD b) = true then false else if lists .rw = true then x.getLsbD b else old.getLsbD b) ∧
  (∀ (s : State) (v : View) (off len value : Nat), s.clocked = true → badAccess v off len = true →
    (inAperture v off len = false → exec (.registerWrite v off len value) s = .next (s.postMalformed v off len true)) ∧
    exec (.malformedRead v off len) s = .next ((s.postMalformed v off len false).toHost (.regData (List.replicate len 0xFF))))

/-- SEC_ATT_DATA returns the 8 bytes of the last finished report at byte 8 × SEC_ATT_IDX; it reads 0 while BUSY is set and for an index
above 469 (R700). -/
def Obligations.AttestationDataReads : Prop :=
  ∀ s : State, s.clocked = true → ∃ off, locate .P off = some (.secAttData, 0, 0) ∧
    (let k := s.fld .secAttIdx fSecAttIdxIdx
    (k ≤ 469 → s.fld .secAttCtl fSecAttCtlBusy = 0 → s.readReg .P off 8 = leField s.sec.report (8 * k) 8) ∧
    (s.fld .secAttCtl fSecAttCtlBusy ≠ 0 ∨ 469 < k → s.readReg .P off 8 = 0))

/-- A 257th shadow write rolls its transaction back with TXN_FULL, and a write of ABORT rolls an OPEN one back with TXN_ABORTED; a rollback
discards every shadow write, releases every domain and returns the slot to IDLE with its code (R554, R557). -/
def Obligations.RolledBackTransactions : Prop :=
  (∀ (s : State) (i : Fin 8) (c : Code),
    let t := s.rollback i c
    (t.txn i).shadow = [] ∧ (t.txn i).domains = 0 ∧ t.txnState i = 0 ∧ t.fld .txnStatus fTxnStatusCode i = c.toNat) ∧
  (∀ (s : State) (i : Fin 8) (owner : Fin 16) (dom : BitVec 7), s.clocked = true → s.txnState i = 1 →
    exec (.txnAbort i owner dom) s = .next ((s.keepCtl i owner dom.toNat).rollback i codeTxnAborted)) ∧
  (∀ (s : State) (off len value : Nat) (r : RegName) (n w d j : Nat), s.clocked = true → inAperture .P off len = false →
    badAccess .P off len = false → locate .P off = some (r, n, w) → domainOf r w = some d → s.openFor d = some j →
    256 ≤ s.fld .txnStatus fTxnStatusWrites j → exec (.shadowWrite off len value) s = .next (s.rollback j codeTxnFull))

/-- While the die is STOPPED, PCL_BTN_N and PCL_CMD.REQUEST are ignored; a rise of PCL_PRSNT_N still loses a parcel that is not OFF (R603,
R749). -/
def Obligations.StoppedDieIgnoresRemovalRequests : Prop :=
  ∀ s : State, s.fld .pwrState fPwrStateState = 3 →
    exec .parcelButton s = .next s ∧ exec .pclCmdRequest s = .next s ∧
    (s.released = true → s.pclState ≠ 0 → exec .parcelRemoved s = .next (s.loseParcel.setFld .pclStatus fPclStatusPresent 0 0))

/-- A SIGNAL or a WAIT letter whose reference is invalid, or names a SPACE that the letter may not use, ends with SYNC_INVALID, and no
object, nor anything else of the sync stores, is touched: SPACE 0 and 3 are never a letter's, SPACE 1 is one of a letter to a cluster or to
its cores with an INDEX below 4,096, and SPACE 2 any letter's with an INDEX inside its context's allotment (R147, R148). -/
def Obligations.BadReferencesTouchNoObject : Prop :=
  (∀ (s : State) (q : Fin 4096) (op : Nat) (i : Instr) (x : Letter), (op = 2 ∧ i = .signalLetter q) ∨ (op = 3 ∧ i = .waitLetter q) →
    s.startable q op = some x → (s.begun q x).letterRef ⟨q, x.pm⟩ (BitVec.ofNat 20 (x.field 0x10 4)) = none →
    ∃ t, exec i s = .next t ∧ t = (s.begun q x).endLetter ⟨q, x.pm⟩ { code := codeSyncInvalid } ∧ t.sync = s.sync) ∧
  (∀ (s : State) (l : LetterId) (ref : BitVec 20),
    (s.letterRef l ref = none ↔ ¬ ((ref.toNat / 2 ^ 18 = 1 ∧ unitLevel (s.queue l.q).unit ≤ 1 ∧ ref.toNat % 2 ^ 18 < 4096) ∨
      (ref.toNat / 2 ^ 18 = 2 ∧ ref.toNat % 2 ^ 18 < 512 * s.fld .ctxEntry fCtxEntrySyncSlabs (s.letterCtx l)))))

/-- Orphaning an object sets ORPHANED, clears OWNED, sets OWNER 0xFFF and leaves COUNT; every wait registered on it completes with ORPHAN
and RESULT equal to COUNT, and none consumes (R204). The image that a read of the object then shows says the same. -/
def Obligations.OrphaningAnObject : Prop :=
  ∀ (s : State) (k : ObjKey), k.ctx < 1024 → ∃ o : SyncObj,
    s.orphanObj k false = (s.setObj k o).each (s.obj k).waits (fun u w => u.tellWaiter w.who codeOrphan (s.obj k).count) ∧
    o.orphaned = true ∧ o.owner = none ∧ o.count = (s.obj k).count ∧ o.waits = [] ∧ (s.setObj k o).obj k = o ∧
    getFl fSynPortDataOrphaned (objImage k o) = 1 ∧ getFl fSynPortDataOwned (objImage k o) = 0 ∧
    getFl fSynPortDataOwner (objImage k o) = 0xFFF ∧ getFl fSynPortDataCount (objImage k o) = (s.obj k).count.toNat

/-- A signal that reaches its object's home updates COUNT as Table 5-3 says, in the one step that also evaluates the waits registered: ADD
stops at the upper limit and SUB at zero, each with its sticky flag, which posts SYNC_SATURATED only when it is newly set; SET writes COUNT
and OWNER and ends an orphaned state; and a SIGNAL letter is done (R190, R191, R205). -/
def Obligations.SignalsUpdateCount : Prop :=
  ∀ (s : State) (i : Nat) (op : SyncOp), s.opReady i = some op →
    (op.key.hub = true → s.proxyOf op.key.ctx op.key.idx = none) → Served s op.key →
    let o := s.obj op.key
    let t := s.takeOp i
    let done (u : State) : State := match op.who with
      | .letter l => u.endLetter l { code := codeOk }
      | _ => u
    let sat (u : State) (sop : Sop) (side : Byte) : State := u.postCtx op.key.ctx
      { code := codeSyncSaturated, detail := refDetail op.cl op.mem op.ref.toNat ++ leBytes 4 op.value.toNat ++ leBytes 4 0 ++
          [BitVec.ofNat 8 sop.code, side] }
    (op.act = .signal .add → o.count.toNat + op.value.toNat < 2 ^ 32 →
      exec (.syncSignalAdd i .clean) s = .next (done (t.settle op.key { o with count := o.count + op.value }))) ∧
    (op.act = .signal .add → 2 ^ 32 ≤ o.count.toNat + op.value.toNat →
      let u := t.settle op.key { o with count := 0xFFFFFFFF, satHi := true }
      exec (.syncSignalAdd i .clean) s = .next (done (if o.satHi then u else sat u .add 1))) ∧
    (op.act = .signal .sub → op.value.toNat ≤ o.count.toNat →
      exec (.syncSignalSub i .clean) s = .next (done (t.settle op.key { o with count := o.count - op.value }))) ∧
    (op.act = .signal .sub → o.count.toNat < op.value.toNat →
      let u := t.settle op.key { o with count := 0, satLo := true }
      exec (.syncSignalSub i .clean) s = .next (done (if o.satLo then u else sat u .sub 2))) ∧
    (op.act = .signal .set → exec (.syncSignalSet i .clean) s = .next (done (t.settle op.key
      { o with count := op.value, owner := some (BitVec.ofNat 12 op.q), orphaned := false })))

/-- A wait holds and consumes in one step, or is registered: `WaitsHoldOrRegisterOnArrival`, `WaitsAreReevaluated`. -/
def Obligations.WaitsHoldOrRegister : Prop :=
  Sys2Proof.Claims.WaitsHoldOrRegisterOnArrival ∧ Sys2Proof.Claims.WaitsAreReevaluated

/-- A slab's copy ends: its spare serves it, the status and an event say so, and the operations held apply in their order of arrival; ones
written through the port clear the sticky flags of the object named and no other part of it (R192, R219, R222, R677). -/
def Obligations.SlabCopiesEndAndFlagsClear : Prop :=
  (∀ (s : State) (home : Fin 17) (slab : Nat) (c : SlabCopy), s.clocked = true →
    s.sync.copies.find? (fun c => c.home == home.val && c.slab == slab) = some c →
    exec (.syncSlabCopyDone home slab) s = .next (
      let u : State := { s with sync := { s.sync with copies := removeFirst (fun x => x.home == home.val && x.slab == slab) s.sync.copies } }
      let v := if home.val = 16 then u.bump .synSpareStatus fSynSpareStatusHubUsed 0
        else u.setFld .synSpareStatus fSynSpareStatusClusterUsed 0 (u.fld .synSpareStatus fSynSpareStatusClusterUsed ||| 2 ^ home.val)
      (v.spareSwitched (if home.val = 16 then 0x51 else 0x60 + home) slab (v.sparesFree home)).each c.held (fun s op => s.serveOp op .clean))) ∧
  (∀ (s : State) (v : View) (win : Fin 1024) (value : BitVec 64) (k : ObjKey), s.clocked = true → s.portObj v win = some k →
    exec (.synPortDataWrite v win value) s = .next (s.setObj k { s.obj k with
      satHi := (s.obj k).satHi && getFl fSynPortDataSatHi value == 0
      satLo := (s.obj k).satLo && getFl fSynPortDataSatLo value == 0 }))

/-- Doorbells set TAIL and fetched letters are accepted: `DoorbellSetsTail`, `FetchedLetterIsAccepted`. -/
def Obligations.QueuesTakeLetters : Prop :=
  Sys2Proof.Claims.DoorbellSetsTail ∧ Sys2Proof.Claims.FetchedLetterIsAccepted

/-- A NOP letter ends with OK where it starts; a SIGNAL letter sends its operation to the object that its reference names; a WAIT letter
sends its wait there and is held by it; where the reference names no object the letter ends with SYNC_INVALID (R148, R152, R193). -/
def Obligations.NopSignalAndWaitLetters : Prop :=
  (∀ (s : State) (q : Fin 4096) (x : Letter), s.startable q 0 = some x →
    exec (.nopLetter q) s = .next ((s.begun q x).endLetter ⟨q, x.pm⟩ { code := codeOk })) ∧
  (∀ (s : State) (q : Fin 4096) (x : Letter) (k : ObjKey), s.startable q 2 = some x →
    (s.begun q x).letterRef ⟨q, x.pm⟩ (BitVec.ofNat 20 (x.field 0x10 4)) = some k →
    exec (.signalLetter q) s = .next ((s.begun q x).sendSync
      { who := .letter ⟨q, x.pm⟩
        act := .signal (match x.field 0x14 1 with
          | 0 => .add
          | 1 => .sub
          | _ => .set)
        key := k, ref := BitVec.ofNat 20 (x.field 0x10 4), cl := k.cl, mem := 0, value := BitVec.ofNat 32 (x.field 0x18 4), q := q })) ∧
  (∀ (s : State) (q : Fin 4096) (x : Letter) (k : ObjKey), s.startable q 3 = some x →
    (s.begun q x).letterRef ⟨q, x.pm⟩ (BitVec.ofNat 20 (x.field 0x10 4)) = some k →
    (s.begun q x).refOk ⟨q, x.pm⟩ (x.field 0x10 4) true = true →
    exec (.waitLetter q) s = .next (((s.begun q x).setWork ⟨q, x.pm⟩ .wait).sendSync
      { who := .letter ⟨q, x.pm⟩, act := .wait (if x.field 0x14 1 = 0 then .ge else .eq) ((x.field 0x15 1).testBit 0), key := k
        ref := BitVec.ofNat 20 (x.field 0x10 4), cl := k.cl, mem := 0, value := BitVec.ofNat 32 (x.field 0x18 4), q := q })) ∧
  (∀ (s : State) (q : Fin 4096) (x : Letter), s.startable q 2 = some x →
    (s.begun q x).letterRef ⟨q, x.pm⟩ (BitVec.ofNat 20 (x.field 0x10 4)) = none →
    exec (.signalLetter q) s = .next ((s.begun q x).endLetter ⟨q, x.pm⟩ { code := codeSyncInvalid }))

/-- A letter whose work ended with OK completes: it counts as completed in its context, and COMPLETED passes over every letter at the front
that is completed and owes no record (R154). Its completion record, where one is due and its ring has a place, is written at the ring's
PROD, the ring advances, and COMPLETED may pass the letter. -/
def Obligations.LettersCompleteInOrder : Prop :=
  (∀ (s : State) (q : Fin 4096) (pm : BitVec 32) (hostErr : Bool) (x : Letter),
    s.clocked = true → s.letter ⟨q, pm⟩ = some x → x.pm = pm → x.ended = some { code := codeOk } → x.completed = false →
    x.started = true → x.events = [] → s.letterQuiet ⟨q, pm⟩ = true →
    exec (.letterComplete q pm hostErr) s = .next (
      (((s.updLetter ⟨q, pm⟩ (fun y => { y with started := true, completed := true, events := [] })).countCtx
        (s.queue q).ctx.toNat 4).updQ q (fun x => { x with
          letters := x.letters.dropWhile Letter.over
          completed := x.completed + BitVec.ofNat 32 (x.letters.takeWhile Letter.over).length })))) ∧
  (∀ (s : State) (q : Fin 4096) (hostErr : Bool) (x : Letter) (rest : List Letter) (e : LetterEnd) (a : Nat),
    s.clocked = true → (s.queue q).refusal = none → (s.queue q).letters = x :: rest → x.completed = true → x.ended = some e →
    (s.queue q).ctx.toNat < 1024 →
    s.fld .hifRingCfg fHifRingCfgLog2Entries (s.queue q).ctx.toNat ≠ 0 → s.ringHasSpace (s.queue q).ctx.toNat = true →
    s.fld .hifRingCfg fHifRingCfgLoc (s.queue q).ctx.toNat ≠ 1 →
    s.translate (s.queue q).ctx.toNat (s.fld .hifRingCfg fHifRingCfgRingBase (s.queue q).ctx.toNat +
      s.fld .hifRingCons fHifRingConsProd (s.queue q).ctx.toNat %
        2 ^ s.fld .hifRingCfg fHifRingCfgLog2Entries (s.queue q).ctx.toNat * 16) = some a →
    s.hbmLost a = false →
    exec (.completionRecordWrite q hostErr) s = .next (
      let t := ((s.hbmWrite a (s.recordBytes q x.pm e)).1.hbmAccess (some (s.queue q).ctx.toNat) a true srcHub 1).ringAdvance (s.queue q).ctx.toNat
      (t.updLetter ⟨q, x.pm⟩ (fun y => { y with recorded := true })).updQ q (fun x => { x with
        letters := x.letters.dropWhile Letter.over
        completed := x.completed + BitVec.ofNat 32 (x.letters.takeWhile Letter.over).length })))

/-- PAUSE, RESUME, RESTART, the wind-back and RESET of a queue: `QueueCommandsMoveTheQueue`, `QueuesReset`. -/
def Obligations.QueueCommands : Prop :=
  Sys2Proof.Claims.QueueCommandsMoveTheQueue ∧ Sys2Proof.Claims.QueuesReset

/-- Core commands leave their queue, reach their engines and complete: `NopEndAndPhase`, `CommandsReachTheirEngines`, `CommandsComplete`. -/
def Obligations.CoreCommandsMove : Prop :=
  Sys2Proof.Claims.NopEndAndPhase ∧ Sys2Proof.Claims.CommandsReachTheirEngines ∧ Sys2Proof.Claims.CommandsComplete

/-- VEC and VMEM take their sources and compute by Table 4-22: `VecTakesItsSources`, `VecResultsByOperation`, `VmemTakesItsSources`. -/
def Obligations.VectorCommandsCompute : Prop :=
  Sys2Proof.Claims.VecTakesItsSources ∧ Sys2Proof.Claims.VecResultsByOperation ∧ Sys2Proof.Claims.VmemTakesItsSources

/-- RUN, streams, and the WAIT and SIGNAL commands: `RunAdmitsItsImage`, `StreamsBeginFetchAndEnd`, `WaitAndSignalCommands`. -/
def Obligations.RunsAndStreams : Prop :=
  Sys2Proof.Claims.RunAdmitsItsImage ∧ Sys2Proof.Claims.StreamsBeginFetchAndEnd ∧ Sys2Proof.Claims.WaitAndSignalCommands

/-- Arrays issue, swap, commit, replay and halt: `ArraysIssueAndSwap`, `AccumulateCommitsReplaysOrHalts`. -/
def Obligations.ArraysCompute : Prop :=
  Sys2Proof.Claims.ArraysIssueAndSwap ∧ Sys2Proof.Claims.AccumulateCommitsReplaysOrHalts

/-- Loads, feeders, expansion and drains: `StationaryLoadsFillTheBuffer`, `WPortTakesChunks`, `FeedersFetchAndExpand`, `BlocksExpandByKind`, `DrainsConvertAndDeliver`. -/
def Obligations.ArraysLoadAndDrain : Prop :=
  Sys2Proof.Claims.StationaryLoadsFillTheBuffer ∧ Sys2Proof.Claims.WPortTakesChunks ∧ Sys2Proof.Claims.FeedersFetchAndExpand ∧ Sys2Proof.Claims.BlocksExpandByKind ∧ Sys2Proof.Claims.DrainsConvertAndDeliver

/-- Filler timers, bench write-back and the self-test: `FillerTimersAndWriteback`, `SelfTestActsByItsFinding`. -/
def Obligations.CoresFillAndTest : Prop :=
  Sys2Proof.Claims.FillerTimersAndWriteback ∧ Sys2Proof.Claims.SelfTestActsByItsFinding

/-- A chunk of the lace goes from the entry to member 0, from a member to the next, and from the last member back to the entry; a member
that cannot take it leaves it where it is (R242 to R246). -/
def Obligations.LaceMovesChunks : Prop :=
  (∀ (s : State) (cl : Fin 16) (c : Nat) (t : LaceTile) (rest : List LaceTile), s.laceMoves cl = true →
    (s.lace cl).tiles = t :: rest → s.liveMember cl 0 = some c →
    let ch := chunkOf t.bytes t.scales (s.lace cl).sent
    (s.takeChunk c t.fmt ch.1 ch.2 = none → exec (.laceChunkSend cl .none) s = .next (s.count 1 cl 4)) ∧
    (∀ u, s.takeChunk c t.fmt ch.1 ch.2 = some u → ((s.lace cl).sent + 1) * 256 < t.bytes.length →
      exec (.laceChunkSend cl .none) s = .next (u.updLace cl (fun e => { e with sent := e.sent + 1 }))) ∧
    (∀ u, s.takeChunk c t.fmt ch.1 ch.2 = some u → t.bytes.length ≤ ((s.lace cl).sent + 1) * 256 →
      let v := u.updLace cl (fun e => { e with tiles := rest, sent := 0, inRing := e.inRing ++ [(t.id, t.fmt)] })
      (∀ k, (List.range 20).find? (fun k => (v.desc k t.id).isSome) = some k →
        exec (.laceChunkSend cl .none) s = .next (v.feedEntry k t.id cl 4)) ∧
      ((List.range 20).find? (fun k => (v.desc k t.id).isSome) = none → exec (.laceChunkSend cl .none) s = .next v))) ∧
  (∀ (s : State) (cl m : Fin 16) (c d fmt : Nat) (b sc : List Byte), s.laceMoves cl = true → m.val < 15 → s.liveMember cl m = some c →
    s.liveMember cl (m.val + 1) = some d → (s.core c).fwd = some (fmt, b, sc) →
    (s.takeChunk d fmt b sc = none → exec (.laceChunkForward cl m .none) s = .next s) ∧
    (∀ u, s.takeChunk d fmt b sc = some u →
      exec (.laceChunkForward cl m .none) s = .next (u.updCore c (fun k => { k with fwd := none })))) ∧
  (∀ (s : State) (cl : Fin 16) (c : Nat) (ch : Nat × List Byte × List Byte) (id fmt : Nat) (rest : List (Nat × Nat)),
    s.laceMoves cl = true → s.liveMember cl 15 = some c → (s.core c).fwd = some ch → (s.lace cl).inRing = (id, fmt) :: rest →
    let t := s.updCore c (fun k => { k with fwd := none })
    (((s.lace cl).returnedChunks + 1) * 256 < tileBytes fmt →
      exec (.laceChunkReturn cl) s = .next (t.updLace cl (fun e => { e with returnedChunks := (s.lace cl).returnedChunks + 1 }))) ∧
    (tileBytes fmt ≤ ((s.lace cl).returnedChunks + 1) * 256 →
      let u := (t.updLace cl (fun e => { e with
        returnedChunks := 0, inRing := rest
        returnedTiles := if e.desc = some id then e.returnedTiles + 1 else e.returnedTiles })).bump .laceStatus fLaceStatusTilesReturned cl
      ((List.range 20).find? (fun k => (u.desc k id).isSome) = none → exec (.laceChunkReturn cl) s = .next u) ∧
      (∀ k d, (List.range 20).find? (fun k => (u.desc k id).isSome) = some k → u.desc k id = some d →
        ((u.lace cl).desc = some id → (u.lace cl).returnedTiles = d.desc.rows.toNat →
          exec (.laceChunkReturn cl) s = .next (u.endDesc k id codeOk [])) ∧
        ((u.lace cl).desc ≠ some id ∨ (u.lace cl).returnedTiles ≠ d.desc.rows.toNat → exec (.laceChunkReturn cl) s = .next u))))

/-- ATTN starts, its rows pass the softmax stage, its walker appends and stages: `AttnStarts`, `SoftmaxTakesAndDeliversRows`, `WalkerAppendsStagesAndRowsLeave`. -/
def Obligations.AttentionRuns : Prop :=
  Sys2Proof.Claims.AttnStarts ∧ Sys2Proof.Claims.SoftmaxTakesAndDeliversRows ∧ Sys2Proof.Claims.WalkerAppendsStagesAndRowsLeave

/-- MOVE letters and couriers: `MovesQueueDescriptors`, `CouriersStartIssueAndEnd`, `CourierResponsesAct`. -/
def Obligations.CouriersMove : Prop :=
  Sys2Proof.Claims.MovesQueueDescriptors ∧ Sys2Proof.Claims.CouriersStartIssueAndEnd ∧ Sys2Proof.Claims.CourierResponsesAct

/-- A port grants the request it chooses, or the flash channel's next job, and charges its units to the class; the end of a window clears
the used counts, and a split that a commit has sent is adopted then (R253, R254, R258, R260). -/
def Obligations.PortsGrantAndWindowsEnd : Prop :=
  ∀ (s : State) (p : Fin 22), s.clocked = true →
    (∀ r, s.portChoice p = some (.inl r) → exec (.regulatorGrant p .none) s = .next (s.grantReq p r)) ∧
    (∀ w, s.portChoice p = some (.inr w) → exec (.regulatorGrant p .none) s = .next ((s.issueJob w).charge p .write true 0 w.units)) ∧
    (s.portChoice p = none → exec (.regulatorGrant p .none) s = .next s) ∧
    (let u : State := { s with mv := { s.mv with
        ports := tabUpd {} s.mv.ports p (fun x => { x with usedRead := 0, usedWrite := 0, usedRemote := 0 }) } }
     (s.mv.adopt.contains p.val = false → exec (.regulatorWindowEnd p) s = .next u) ∧
     (s.mv.adopt.contains p.val = true → exec (.regulatorWindowEnd p) s = .next
       (({ u with mv := { u.mv with adopt := setErase p.val u.mv.adopt } } : State).setReg .crrBwActive p 0 (u.reg .crrBwSplit p))))

/-- SEQ letters and their operations: `SequenceLettersAct`, `SequenceOperationsTakeEffect`. -/
def Obligations.SequencesAct : Prop :=
  Sys2Proof.Claims.SequenceLettersAct ∧ Sys2Proof.Claims.SequenceOperationsTakeEffect

/-- KV pages move and HBM pages are zeroed: `PagesMoveBetweenPoolAndFlash`, `PagesAreZeroed`. -/
def Obligations.PagesMove : Prop :=
  Sys2Proof.Claims.PagesMoveBetweenPoolAndFlash ∧ Sys2Proof.Claims.PagesAreZeroed

/-- PLACE streams layers and SWAP replaces them: `PlaceStreamsLayers`, `SwapReplacesInPlace`. -/
def Obligations.LayersStreamAndSwap : Prop :=
  Sys2Proof.Claims.PlaceStreamsLayers ∧ Sys2Proof.Claims.SwapReplacesInPlace

/-- PROMOTE letters, promotions and ready records: `PromoteLettersAct`, `ExpertsArePromotedAndReleased`. -/
def Obligations.ExpertsMove : Prop :=
  Sys2Proof.Claims.PromoteLettersAct ∧ Sys2Proof.Claims.ExpertsArePromotedAndReleased

/-- GATHER deals, reads and pools its bags: `GathersDealTheirBags`, `BagsReadPoolAndEnd`, `PoolingFollowsItsMode`. -/
def Obligations.GathersPool : Prop :=
  Sys2Proof.Claims.GathersDealTheirBags ∧ Sys2Proof.Claims.BagsReadPoolAndEnd ∧ Sys2Proof.Claims.PoolingFollowsItsMode

/-- A lookup that finds its line gives it and makes it the latest used; one that does not waits for its sector; a way read with an
uncorrectable error is dropped first, and with its tag line every way of the set (log 66). A sector that arrives serves the lines that wait
for it. The driver's invalidations empty the cache and hold BUSY until every set is reached (R389 to R395, R398). -/
def Obligations.CacheLooksUpFillsAndInvalidates : Prop :=
  (∀ (s : State) (k : Fin 6) (slot : Fin 16) (x : Lookup) (ue : Bool) (g : GatherSpec) (off : Nat), s.clocked = true →
    s.srt.lookups.find? (fun x => x.k == k.val && x.slot == slot.val) = some x →
    let t := ({ s with srt := { s.srt with lookups := removeFirst (fun y => y == x) s.srt.lookups } } : State).srtNote x.k
    t.lookupAt x = some (g, off) →
    let set := cacheSet t.cacheSets (off / 64) g.cold
    let ws := t.cacheWays set
    let hit := ws.find? (fun w => w.region == g.cold && w.line == off / 64)
    let tag := t.storeReads (set % 16) [t.setLine set] .clean
    (tag.2 = true → exec (.cacheLookup k slot ue) s = .next ((((tag.1.setCache set []).count 4 x.k 5).count 4 x.k 3).coldMiss x)) ∧
    (tag.2 = false → hit = none → exec (.cacheLookup k slot ue) s = .next ((tag.1.count 4 x.k 3).coldMiss x)) ∧
    (∀ w, tag.2 = false → hit = some w →
      let at_ := tag.1.setLine set + 1 + w.way
      let data := tag.1.storeReads (set % 16) [at_] (if ue then .uncorrectable else .clean)
      (data.2 = false → exec (.cacheLookup k slot ue) s = .next (((data.1.setCache set (removeFirst (fun y => y == w) ws ++ [w])).count 4
        x.k 2).giveLine x (tag.1.storeRead (set % 16) (at_ * 64) 64))) ∧
      (data.2 = true → exec (.cacheLookup k slot ue) s = .next (
        (((data.1.setCache set (removeFirst (fun y => y == w) ws)).count 4 x.k 5).count 4 x.k 3).coldMiss x)))) ∧
  (∀ (s : State) (k : Fin 6) (tag region sector : Nat) (rd : ReadRes) (r : Req), s.clocked = true →
    s.answerable (.sorter k) tag = some r → 16 ≤ r.item → region = r.item - 16 → sector = r.addr / 4096 →
    s.sectorBags k region sector = [] → rd = .clean →
    let t : State := { s.dropReq r.tag with srt := { (s.dropReq r.tag).srt with
      stale := (s.dropReq r.tag).srt.stale.filter (fun (t : Nat) => t != r.tag) } }
    let u := ((t.srtNote k).count 4 k 6).flashTouch region r.addr
    u.lateBar region = none → u.fl.chOut.contains (unitChannel (s.region region).home (r.addr / 65536)) = false →
    exec (.sectorReadReturn k tag rd) s = .next (
      u.sectorHere k region sector (s.srt.stale.contains r.tag) (u.flashRead region r.addr 4096))) ∧
  (∀ s : State, s.clocked = true →
    let begins (r : Nat) : State :=
      let t := s.cacheInv (fun g => r == 256 || g == r)
      ({ t with srt := { t.srt with inv := t.srt.inv ++ [r] } } : State).setFld .srtCacheCtl fSrtCacheCtlBusy 0 1
    exec .srtCacheInvAll s = .next (begins 256) ∧
    (∀ r : BitVec 8, r ≠ 255 → exec (.srtCacheInv r) s = .next (begins r.toNat)) ∧
    (s.srt.inv ≠ [] → exec .cacheInvalidateDone s = .next (
      ({ s with srt := { s.srt with inv := [] } } : State).setFld .srtCacheCtl fSrtCacheCtlBusy 0 0)))

/-- Olila ports train, repair lanes and agree on keys: `PortsTrain`, `LanesAreRepaired`, `PortsAgreeOnKeys`. -/
def Obligations.OlilaPortsComeUp : Prop :=
  Sys2Proof.Claims.PortsTrain ∧ Sys2Proof.Claims.LanesAreRepaired ∧ Sys2Proof.Claims.PortsAgreeOnKeys

/-- Olila ports send, resend and take up frames: `PortsSendAndResend`, `FramesAreTakenUp`. -/
def Obligations.OlilaCarriesFrames : Prop :=
  Sys2Proof.Claims.PortsSendAndResend ∧ Sys2Proof.Claims.FramesAreTakenUp

/-- A COLLECTIVE that passes its checks takes up the handshakes that came early, puts its own input in place and shakes hands for its first
step: with the die before it in a ring, with the root in a BROADCAST; one of no bytes is done at once. A TIME letter sends its first request
(R455 to R459, R461, R462). The form of the COLL frames is the model's choice (notes/assumptions/19.md). -/
def Obligations.CollectivesAndTimeStart : Prop :=
  (∀ (s : State) (q : Fin 4096) (op : Nat) (x : Letter) (i : Instr), s.startable q 0x0B = some x → x.field 0x10 1 = op →
    s.castsWaiting q = [] →
    (op = 0 ∧ i = .collectiveAllGather q) ∨ (op = 1 ∧ i = .collectiveAllReduce q) ∨ (op = 2 ∧ i = .collectiveBroadcast q) →
    let u := s.begun q x
    let l : LetterId := ⟨q, x.pm⟩
    let g := collSpec x
    let ds := u.collDies l
    let p := u.collPos l
    let ctx := u.letterCtx l
    let own := u.winRead ctx g.src (g.sourceBytes p)
    let v : State := ({ u with ola := { u.ola with
      shakes := u.ola.shakes.filter (fun (k : Shake) => !(k.ctx == ctx && k.id == g.id)) } } : State).setWork l (.coll
        { shakes := ((u.ola.shakes.filter (fun k => k.ctx == ctx && k.id == g.id)).filter (fun k => k.step == 0)).map (·.die) })
    (∀ c, u.collCheck l x = some c → exec i s = .next (u.endLetter l { code := c })) ∧
    (u.collCheck l x = none → (u.winLost ctx g.src (g.sourceBytes p)).or (u.winOut ctx (g.ownPut ds.length p).1 (g.ownPut ds.length p).2) = none →
      (g.bytes = 0 → exec i s = .next ((u.letterDone l g.done engHub).endLetter l { code := codeOk })) ∧
      (g.bytes ≠ 0 → g.op = 0 → v.winRead ctx g.src (g.sourceBytes p) = own → ds.length ≠ 1 → exec i s = .next (
        (((v.winAccess ctx g.src (g.sourceBytes p) false g.courier).winWrite ctx (g.dst + p * g.bytes) own .write g.courier).shake l ctx (ds.getD (back ds.length p 1) 0) g.id 0).collPush l)) ∧
      (g.bytes ≠ 0 → g.op = 1 → ds.length ≠ 1 → exec i s = .next (
        (v.shake l ctx (ds.getD (back ds.length p 1) 0) g.id 0).collPush l)) ∧
      (g.bytes ≠ 0 → g.op = 2 → p = g.root → exec i s = .next (v.collPush l)) ∧
      (g.bytes ≠ 0 → g.op = 2 → p ≠ g.root → exec i s = .next ((v.shake l ctx (ds.getD g.root 0) g.id 0).collPush l)))) ∧
  (∀ (s : State) (q : Fin 4096) (x : Letter), s.startable q 0x0A = some x →
    let u := s.begun q x
    let l : LetterId := ⟨q, x.pm⟩
    (∀ c, u.timeCheck l x = some c → exec (.time q) s = .next (u.endLetter l { code := c })) ∧
    (u.timeCheck l x = none → x.field 0x10 1 ≠ u.die → exec (.time q) s = .next (u.timeAsk l (x.field 0x10 1) 0)))

/-- Contexts take turns, reset, start and drain: `ContextsTakeTurns`, `ContextsResetStartAndDrain`. -/
def Obligations.ContextsLive : Prop :=
  Sys2Proof.Claims.ContextsTakeTurns ∧ Sys2Proof.Claims.ContextsResetStartAndDrain

/-- Firmware is loaded, verified and restarted: `FirmwareIsLoadedAndVerified`, `FirmwareRestarts`. -/
def Obligations.FirmwareLives : Prop :=
  Sys2Proof.Claims.FirmwareIsLoadedAndVerified ∧ Sys2Proof.Claims.FirmwareRestarts

/-- The host's reads and writes of lines of HBM wait at the line's port, charged to REMOTE, a write of the table area apart, which is
discarded; as the port grants one it takes place: a line found bad or of the table area is answered with poison, a bad one reported, and a
locked region's, a lost or a poisoned line is not written in part; the host's snoop is answered, its speculative read ignored (R520, R521,
R527, R528, R665, R666); CONS moves on as far as PROD, and arms its ring (R545, R546). The event of an uncorrectable host read on the device
ring is the model's reading (notes/assumptions/29.md). -/
def Obligations.HostAccessesMemory : Prop :=
  (∀ (s : State) (addr : Nat) (rd : ReadRes), s.clocked = true → addr ≤ hdmLimit →
    let w := s.newOutside (.hostRead rd)
    exec (.memRd addr rd) s = .next (w.2.askOutside srcHost w.1 0 1 (addr / 64 * 64)) ∧
    exec (.memRdData addr rd) s = .next (w.2.askOutside srcHost w.1 0 1 (addr / 64 * 64))) ∧
  (∀ (s : State) (addr : Nat) (be : BitVec 64) (data : List Byte), s.clocked = true → addr ≤ hdmLimit →
    let a := addr / 64 * 64
    let asks (be : BitVec 64) : State :=
      let w := s.newOutside (.hostWrite be data)
      w.2.askOutside srcHost w.1 0 1 a
    (s.tablePage (a / 2 ^ 21) = true →
      exec (.memWr addr data) s = .next (s.toHost (.memDone a)) ∧ exec (.memWrPtl addr be data) s = .next (s.toHost (.memDone a))) ∧
    (s.tablePage (a / 2 ^ 21) = false →
      exec (.memWr addr data) s = .next (asks (BitVec.allOnes 64)) ∧ exec (.memWrPtl addr be data) s = .next (asks be))) ∧
  (∀ (s : State) (r : Req) (w : OutsideWork), (s.dropReq r.tag).outsideWork r.item = some w →
    let u := (s.dropReq r.tag).dropOutside w.id
    let a := r.addr
    (∀ rd, w.op = .hostRead rd → u.hbmSees a rd = .clean → s.serveOutside r =
      u.toHost (.memData a (memRead u.mem.hbm a 64) (u.tablePage (a / 2 ^ 21)))) ∧
    (∀ rd, w.op = .hostRead rd → u.hbmSees a rd = .uncorrectable →
      let v := u.hbmNote a rd
      s.serveOutside r = (v.hostUe a 2).toHost (.memData a (memRead v.mem.hbm a 64) true)) ∧
    (∀ be data k, w.op = .hostWrite be data → u.lockOf a = some k → s.serveOutside r =
      (u.postDev { code := codeRegionLocked, detail := leBytes 8 a ++ leBytes 4 0 ++ [BitVec.ofNat 8 k] }).toHost (.memDone a)) ∧
    (∀ be data, w.op = .hostWrite be data → u.lockOf a = none →
      (u.flt.hbmOut.contains (hbmStack a) = true ∨ (u.hbmPoisoned (a / 64) = true ∧ be ≠ BitVec.allOnes 64)) →
      s.serveOutside r = (u.hostUe a 3).toHost (.memDone a)) ∧
    (∀ be data, w.op = .hostWrite be data → u.lockOf a = none → u.flt.hbmOut.contains (hbmStack a) = false →
      (u.hbmPoisoned (a / 64) = false ∨ be = BitVec.allOnes 64) →
      s.serveOutside r = ((u.hbmWrite a (mergeBytes be (memRead u.mem.hbm a 64) (padBytes 64 data))).1).toHost (.memDone a))) ∧
  (∀ (s : State) (addr : Nat), exec (.memSpecRd addr) s = .next s ∧ exec (.h2dSnoop addr) s = .next (s.toHost (.snoopRsp addr))) ∧
  (∀ (s u w : State) (v : View) (win : Fin 1024) (ring : Fin 2049) (cons cur prod : BitVec 32), s.clocked = true →
    ringSeen v win ring = true → cur = BitVec.ofNat 32 (s.fld .hifRingCons fHifRingConsCons ring) →
    prod = BitVec.ofNat 32 (s.fld .hifRingCons fHifRingConsProd ring) →
    u = (if (cons - cur).toNat ≤ (prod - cur).toNat then s.setFld .hifRingCons fHifRingConsCons ring cons.toNat else s) →
    w = u.setFld .hifRingCfg fHifRingCfgArmed ring 1 →
    (w.fld .hifRingCfg fHifRingCfgIrqEn ring = 0 → exec (.hifRingConsWrite v win ring cons) s = .next w) ∧
    (w.fld .hifRingCons fHifRingConsCons ring = prod.toNat → exec (.hifRingConsWrite v win ring cons) s = .next w) ∧
    (w.fld .hifRingCfg fHifRingCfgIrqEn ring = 1 → w.fld .hifRingCons fHifRingConsCons ring ≠ prod.toNat →
      exec (.hifRingConsWrite v win ring cons) s = .next (
        ((w.setFld .hifRingCfg fHifRingCfgArmed ring 0).toHost (.msix (ringVector ring))).count 8 0 3)))

/-- An idle slot opens a transaction on domains that no other holds, for a live lease; a 257th shadow write rolls it back with TXN_FULL, and
one before it is recorded in order without changing the register; a COMMIT checks, an ABORT rolls back; the time limit rolls back with
TXN_TIMEOUT; what passes its checks adopts domain by domain, with frames held for the links (R444), requests held for the extents that go
(R548) and the control period awaited for power (Table 13-5) while that domain is at hand; what fails rolls back (R552 to R558). That WRITES
and ADOPTED keep until the next OPEN is the model's reading (notes/assumptions/31.md). -/
def Obligations.TransactionsLive : Prop :=
  ∀ (s : State) (slot : Fin 8), s.clocked = true →
    (∀ (owner : Fin 16) (dom : BitVec 7),
      let u := s.keepCtl slot owner dom.toNat
      (s.txnState slot ≠ 0 → exec (.txnOpen slot owner dom) s = .next (s.setTxnCode slot codeTxnBusy)) ∧
      (s.txnState slot = 0 → u.domainsHeld dom.toNat = true → exec (.txnOpen slot owner dom) s = .next (u.setTxnCode slot codeTxnBusy)) ∧
      (s.txnState slot = 0 → u.domainsHeld dom.toNat = false → u.leaseLive owner = false →
        exec (.txnOpen slot owner dom) s = .next (u.setTxnCode slot codeTxnOwnerLost)) ∧
      (s.txnState slot = 0 → u.domainsHeld dom.toNat = false → u.leaseLive owner = true → dom.toNat ≠ 0 →
        exec (.txnOpen slot owner dom) s = .next (
          (((((u.updTxn slot (fun _ => { domains := dom.toNat, owner := owner })).setTxnState slot 1).bump .txnStatus fTxnStatusSeq slot).setFld
            .txnStatus fTxnStatusAdopted slot 0).setFld .txnStatus fTxnStatusWrites slot 0))) ∧
      (u.txnState slot = 1 → exec (.txnCommit slot owner dom) s = .next (u.setTxnState slot 2) ∧
        exec (.txnAbort slot owner dom) s = .next (u.rollback slot codeTxnAborted)) ∧
      (u.txnState slot ≠ 1 → exec (.txnCommit slot owner dom) s = .next u ∧ exec (.txnAbort slot owner dom) s = .next u)) ∧
    (∀ (off len value : Nat) (r : RegName) (i w d : Nat), inAperture .P off len = false → badAccess .P off len = false →
      locate .P off = some (r, i, w) → domainOf r w = some d →
      (s.openFor d = none → exec (.shadowWrite off len value) s = .next s) ∧
      (∀ j, s.openFor d = some j → 256 ≤ s.fld .txnStatus fTxnStatusWrites j →
        exec (.shadowWrite off len value) s = .next (s.rollback j codeTxnFull)) ∧
      (∀ j, s.openFor d = some j → s.fld .txnStatus fTxnStatusWrites j < 256 → exec (.shadowWrite off len value) s = .next (
        (s.updTxn j (fun t => { t with shadow := t.shadow ++ [{ off := off, len := len, value := value % 2 ^ (8 * len) }] })).bump .txnStatus
          fTxnStatusWrites j))) ∧
    (s.txnState slot = 1 → s.fld .txnCfg fTxnCfgTimeout ≠ 0 →
      exec (.txnTimeout slot) s = .next (s.rollback slot codeTxnTimeout)) ∧
    (s.txnState slot = 2 →
      (∀ journal, s.txnPasses (s.txn slot) journal = true → exec (.txnCheckDone slot journal) s = .next (
        ((s.setTxnState slot 3).updTxn slot (fun t => { t with todo := domainOrder t.domains, begun := false })).atHand slot)) ∧
      (∀ journal, s.txnPasses (s.txn slot) journal = false → exec (.txnCheckDone slot journal) s = .next (s.rollback slot codeTxnAborted))) ∧
    (∀ d rest, (s.txn slot).todo = d :: rest →
      (d = 6 → s.atHand slot = { s with ola := { s.ola with hold := true } }) ∧
      (d = 4 → s.atHand slot = { s with cx := { s.cx with
        heldExt := s.lostExtents (s.copyDomain (s.txn slot) 4) (s.txn slot) } }) ∧
      (d = 1 → s.atHand slot = s.updTxn slot (fun t => { t with mark := s.pw.periods })) ∧
      (d ≠ 6 → d ≠ 4 → d ≠ 1 → s.atHand slot = s)) ∧
    (∀ d rest u, s.txnState slot = 3 → (s.txn slot).todo = d :: rest → s.beginDomain slot d = u →
      (((u.txn slot).begun && u.adopted (u.txn slot) d) = true →
        exec (.txnDomainAdopt slot) s = .next (u.endDomain slot d rest)) ∧
      (((u.txn slot).begun && u.adopted (u.txn slot) d) = false → exec (.txnDomainAdopt slot) s = .next u))

/-- Leases are held and lost, and host link modules train: `LeasesAreHeldAndLost`, `HostModulesTrain`. -/
def Obligations.LeasesAndModules : Prop :=
  Sys2Proof.Claims.LeasesAreHeldAndLost ∧ Sys2Proof.Claims.HostModulesTrain

/-- Flash requests, programs, erases and retirement: `FlashRequestsStart`, `FlashProgramsErasesAndRetires`. -/
def Obligations.FlashWorks : Prop :=
  Sys2Proof.Claims.FlashRequestsStart ∧ Sys2Proof.Claims.FlashProgramsErasesAndRetires

/-- A password command is taken with the bytes that FLS_PW holds unless one is BUSY; at its end a RELOCK locks a slot that has a password,
an UNLOCK and a SET have the outcome that their checks give, CODE says it, BUSY is clear and FLS_PW is zero (R593 to R596, R612). A LEN
outside 1 to 32 and an UNLOCK of a slot without a password have no stated code and are left out here (notes/assumptions/25.md). -/
def Obligations.PasswordsLockAndUnlock : Prop :=
  (∀ (s : State) (slot : Fin 64) (len : BitVec 6) (cmd : Nat) (i : Instr),
    (cmd = 1 ∧ i = .flsPwUnlock slot len) ∨ (cmd = 2 ∧ i = .flsPwRelock slot len) ∨ (cmd = 3 ∧ i = .flsPwSet slot len) →
    (s.fld .flsPwCtl fFlsPwCtlBusy = 1 → exec i s = .next s) ∧
    (s.clocked = true → s.fld .flsPwCtl fFlsPwCtlBusy ≠ 1 →
      ∀ (u : State) (j : PwJob), (s.setFld .flsPwCtl fFlsPwCtlSlot 0 slot).setFld .flsPwCtl fFlsPwCtlLen 0 len.toNat = u →
        j.cmd = cmd → j.slot = slot → j.len = len.toNat →
        j.bytes = (((List.range 4).map (fun k => leBytes 8 (u.reg .flsPw k).toNat)).flatten).take len.toNat →
        exec i s = .next (({ u with fl := { u.fl with pwJob := some j } } : State).setFld .flsPwCtl fFlsPwCtlBusy 0 1))) ∧
  (∀ (s : State) (j : PwJob) (r : State × Code), s.fl.pwJob = some j → s.fwOn 0 = true →
    (j.cmd = 2 ∧ r = (s.when (s.fld .flsProt fFlsProtHasPw j.slot == 1) (fun s => s.setFld .flsProt fFlsProtLocked j.slot 1), codeOk)) ∨
      (j.cmd = 1 ∧ 1 ≤ j.len ∧ j.len ≤ 32 ∧ r = s.pwUnlock j) ∨
      (j.cmd = 3 ∧ 1 ≤ j.len ∧ j.len ≤ 32 ∧ s.fld .secStatus fSecStatusEntFail ≠ 1 ∧ r = s.pwSet j) →
    let u := ((r.1.setFld .flsPwCtl fFlsPwCtlCode 0 r.2.toNat).setFld .flsPwCtl fFlsPwCtlBusy 0 0).each (List.range 4)
      (fun s i => s.setReg .flsPw i 0 0)
    exec .flsPwCommandEnd s = .next { u with fl := { u.fl with pwJob := none } })

/-- The power warning is posted and flushes the journal of every channel in service; held work goes on once it is withdrawn; a channel's
flush ends once its issued program has; and a NOR slot that has been programmed ends its CONFIG request with DONE, or a RECOVER with
RECOVERED (R597 to R599, R625, R747). -/
def Obligations.PowerWarningAndNor : Prop :=
  ∀ s : State,
    (s.fl.warn = false → 6 ≤ s.start.step → s.fld .pwrState fPwrStateState ≠ 3 →
      exec .pwrwarnAssert s = .next (
        let u := s.postDev { code := codePowerWarning }
        { u with fl := { s.fl with warn := true, flushing := (List.range 16).filter s.channelUp } })) ∧
    (s.fl.warn = true → exec .pwrwarnDeassert s = .next ({ s with fl := { s.fl with warn := false } } : State).flKick) ∧
    (∀ ch : Fin 16, s.fl.flushing.contains ch.val = true → s.fl.progs.any (fun j => j.ch == ch.val && j.issued) = false →
      exec (.journalFlushDone ch) s = .next
        (({ s with fl := { s.fl with flushing := setErase ch.val s.fl.flushing } } : State).gateNclk ch)) ∧
    (∀ j u, s.fl.nor = some j → ({ s with fl := { s.fl with nor := none } } : State).emit (.nor j.slot j.image) = u →
      (∀ q r, j.req = some q → s.fwOn 0 = true → u.flReq q = some r →
        exec (.norUpdateDone true) s = .next ((u.flProgress q { r with done := r.units }).endFlReq q 2 0).flKick) ∧
      (j.req = none → exec (.norUpdateDone true) s = .next (u.setFld .cfgStatus fCfgStatusRecovered 0 1)))

/-- Parcels start, drain and are lost: `ParcelsStart`, `ParcelsLeave`. -/
def Obligations.ParcelsComeAndGo : Prop :=
  Sys2Proof.Claims.ParcelsStart ∧ Sys2Proof.Claims.ParcelsLeave

/-- Asserting RESET_N takes the die to its reset state but for what lies outside the reset; deasserting it begins step 1; each step of Table
15-1 that ends shows what it brings up and begins the next, step 10 ending in RUN once firmware is released; a step that exceeds its limit
fails with its number and its code; and RECOVER programs a valid image in the window to slot A (R617 to R625, R745). What lies outside the
reset is the model's reading (notes/assumptions/34.md), and so is the step at which firmware STATUS becomes WAITING
(notes/assumptions/35.md). -/
def Obligations.StartGoesByItsSteps : Prop :=
  ∀ s : State,
    exec .resetNAssert s = .next s.afterReset ∧
    (s.start.step = 0 → exec .resetNDeassert s = .next (s.toStep 1 1)) ∧
    (s.starting = true →
      (s.start.step = 1 → exec (.startStepDone .plain) s = .next (s.identify.toStep 2 2)) ∧
      (s.start.step = 2 → exec (.startStepDone .plain) s = .next ((s.setFld .clkStatus fClkStatusCclkLock 0 1).toStep 3 3)) ∧
      (s.start.step = 3 → (List.range 4).all (fun m => s.ucieWidth m == 0) = false →
        exec (.startStepDone .plain) s = .next ((s.setFld .clkStatus fClkStatusUclkLock 0 1).toStep 4 4)) ∧
      (s.start.step = 4 → ∀ a b, exec (.startStepDone (.nor a b)) s = .next ((s.readNor a b).toStep 5 4)) ∧
      (s.start.step = 5 → ∀ slot b rest, s.start.cands = (slot, b) :: rest →
        exec (.startStepDone .plain) s = .next (if s.cfgReason b = 0 then s.takeImage slot (b.take (imgBytes b))
          else (s.postSignature (slot - 1) (s.cfgReason b)).selectImage rest)) ∧
      (s.start.step = 5 → s.start.cands = [] →
        exec (.startStepDone .plain) s = .next (s.startFails codeSignatureInvalid.toNat)) ∧
      (s.start.step = 6 → ∀ tr, exec (.startStepDone (.boardFlash tr)) s = .next ((s.boardUp tr).toStep 7 5)) ∧
      (s.start.step = 7 → exec (.startStepDone .plain) s = .next (s.configure.toStep 8 6)) ∧
      (s.start.step = 8 → s.start.coolant = true → exec (.startStepDone .plain) s = .next (s.hbmUp.toStep 9 7)) ∧
      (s.start.step = 9 →
        exec (.startStepDone .plain) s = .next ((s.fabricUp.toStep 10 7).setFld .rstFwLoad fRstFwLoadStatus 0 1)) ∧
      (s.start.step = 10 → s.released = true →
        exec (.startStepDone .plain) s = .next ((s.toStep 11 8).setFld .pwrState fPwrStateState 0 1)) ∧
      (∀ code : BitVec 16, s.start.step ≤ 7 ∨ (s.start.step = 8 ∧ s.start.coolant = true) → exec (.startStepTimeout code) s = .next
        (((s.setFld .cfgStatus fCfgStatusFailStep 0 s.start.step).setFld .cfgStatus fCfgStatusCode 0 code.toNat).setStage 15))) ∧
    (s.stage = 15 → s.fld .cfgStatus fCfgStatusFailStep = 4 ∨ s.fld .cfgStatus fCfgStatusFailStep = 5 → s.fl.nor = none →
      ∀ b, memRead s.fw.window 0 65536 = b →
        exec .cfgCtlRecover s = .next (if s.cfgReason b = 0 then { s with fl := { s.fl with
          nor := some { slot := 1, image := withGen (b.take (imgBytes b)) (s.start.maxGen + 1), req := none } } }
          else s.postSignature 7 (s.cfgReason b)))

/-- Power sharing, limiter, throttles, droop and the I3C target: `PowerIsShared`, `ThrottlesFollowTheLimiter`, `TargetAnswersFromStep2`. -/
def Obligations.PowerIsControlled : Prop :=
  Sys2Proof.Claims.PowerIsShared ∧ Sys2Proof.Claims.ThrottlesFollowTheLimiter ∧ Sys2Proof.Claims.TargetAnswersFromStep2

/-- Thermal and ageing monitors, cold stop and resume: `MonitorsMeasure`, `DieStopsAndResumesByStages`. -/
def Obligations.DieStopsAndResumes : Prop :=
  Sys2Proof.Claims.MonitorsMeasure ∧ Sys2Proof.Claims.DieStopsAndResumesByStages

/-- Scrubs, clock monitors, timeouts and spares: `ScrubsCorrectAndPoison`, `HardwareFaultsAreActedOn`. -/
def Obligations.FaultsAreFoundAndSpared : Prop :=
  Sys2Proof.Claims.ScrubsCorrectAndPoison ∧ Sys2Proof.Claims.HardwareFaultsAreActedOn

/-- Entropy, attestation, counter windows, awl and test port: `EntropyAttestationAndWindows`, `AwlStartsDrainsAndInjects`, `TestPortActs`. -/
def Obligations.SecurityAndTest : Prop :=
  Sys2Proof.Claims.EntropyAttestationAndWindows ∧ Sys2Proof.Claims.AwlStartsDrainsAndInjects ∧ Sys2Proof.Claims.TestPortActs

/-- Outputs hold the Reset state of Tables 20-2 and 20-3 until the start step that takes them over, and their Stop state while the die is
STOPPED; a flash channel's FCn_WP_N is low once its work of a power warning has ended; the bumps of channels 12 to 15 are in high impedance
while PCL_PWR_EN is deasserted, whatever else holds; THERMTRIP_N is low exactly while a trip is latched (R741 to R743, R751). -/
def Obligations.SignalsShowTheState : Prop :=
  ∀ s : State,
    (s.start.step < 2 → s.outPin .i3c = .highZ) ∧
    (s.start.step < 3 → s.ucieBumps = .low) ∧
    (s.start.step < 4 → s.outPin .norSck = .low ∧ s.outPin .norCsN = .high ∧ s.outPin .norSi = .low ∧ s.outPin .norWpN = .low) ∧
    (s.start.step < 8 → s.hbmBumps = .low ∧ s.hbmResetN = .low) ∧
    (s.start.step < 9 → s.olilaBumps = .idle) ∧
    (s.start.step = 11 → s.fld .pwrState fPwrStateState = 3 →
      s.outPin .i3c = .used ∧ s.ucieBumps = .used ∧ s.outPin .norSck = .low ∧ s.outPin .norCsN = .high ∧ s.outPin .norSi = .low ∧
      s.outPin .norWpN = .low ∧ s.hbmBumps = .selfRefresh ∧ s.hbmResetN = .high ∧ s.olilaBumps = .idle ∧ s.outPin .pclLatchRel = .low) ∧
    (s.outPin .thermtripN = .low ↔ s.start.tripped = true) ∧
    (∀ ch : Nat,
      (12 ≤ ch → s.pclPwrEn = false → s.flashPins ch = .highZ) ∧
      (s.fl.warn = true → s.fl.flushing.contains ch = false → s.fl.progs.any (fun j => j.ch == ch && j.issued) = false →
        s.flashWpN ch = false) ∧
      (s.flashWpN ch = true → s.channelUp ch = true ∧ s.fwOn 0 = true))
end

