-- ==== Sys2Proof/Laws/Tab.lean ====
section
/-! SUPPORT. Laws of sparse tables: a read after a write, and the canonical form that every operation keeps. -/

namespace Sys2Proof.Machine

variable {α : Type}

theorem tabGet_insert_same (d : α) (t : Tab α) (k : Nat) (v : α) : tabGet d (tabInsert t k v) k = v := by
  induction t with
  | nil => simp [tabInsert, tabGet]
  | cons e t ih =>
    obtain ⟨k', v'⟩ := e
    unfold tabInsert
    split
    · simp [tabGet]
    · split
      · simp [tabGet]
      · rename_i h1 h2
        simp [tabGet, h2, ih]

theorem tabGet_insert_ne (d : α) (t : Tab α) {k j : Nat} (v : α) (h : j ≠ k) : tabGet d (tabInsert t k v) j = tabGet d t j := by
  induction t with
  | nil => simp [tabInsert, tabGet, h]
  | cons e t ih =>
    obtain ⟨k', v'⟩ := e
    unfold tabInsert
    split
    · simp [tabGet, h]
    · split
      · rename_i h2
        subst h2
        simp [tabGet, h]
      · simp only [tabGet, ih]

theorem tabGet_filter (d : α) (t : Tab α) (p : Nat → Bool) (k : Nat) (h : p k = true) :
    tabGet d (t.filter (fun e => p e.1)) k = tabGet d t k := by
  induction t with
  | nil => rfl
  | cons e t ih =>
    obtain ⟨k', v'⟩ := e
    by_cases hp : p k' = true
    · simp [hp, tabGet, ih]
    · have hk : k ≠ k' := fun he => hp (he ▸ h)
      simp [hp, tabGet, ih, hk]

theorem tabGet_filter_out (d : α) (t : Tab α) (p : Nat → Bool) (k : Nat) (h : p k = false) :
    tabGet d (t.filter (fun e => p e.1)) k = d := by
  induction t with
  | nil => rfl
  | cons e t ih =>
    obtain ⟨k', v'⟩ := e
    by_cases hp : p k' = true
    · have hk : k ≠ k' := fun he => by rw [he, hp] at h; exact absurd h (by simp)
      simp [hp, tabGet, ih, hk]
    · simp [hp, ih]

theorem tabGet_erase_same (d : α) (t : Tab α) (k : Nat) : tabGet d (tabErase t k) k = d := by
  unfold tabErase
  exact tabGet_filter_out d t (fun j => decide (j ≠ k)) k (by simp)

theorem tabGet_erase_ne (d : α) (t : Tab α) {k j : Nat} (h : j ≠ k) : tabGet d (tabErase t k) j = tabGet d t j := by
  unfold tabErase
  exact tabGet_filter d t (fun i => decide (i ≠ k)) j (by simp [h])

/-- A read of the key that was written. -/
@[simp] theorem tabGet_set_same [DecidableEq α] (d : α) (t : Tab α) (k : Nat) (v : α) : tabGet d (tabSet d t k v) k = v := by
  unfold tabSet
  split
  · rename_i h
    rw [tabGet_erase_same, h]
  · exact tabGet_insert_same d t k v

/-- A read of another key, whatever unlisted keys read as. -/
theorem tabGet_set_ne [DecidableEq α] (d d' : α) (t : Tab α) {k j : Nat} (v : α) (h : j ≠ k) :
    tabGet d' (tabSet d t k v) j = tabGet d' t j := by
  unfold tabSet
  split
  · exact tabGet_erase_ne d' t h
  · exact tabGet_insert_ne d' t v h

theorem tabGet_set [DecidableEq α] (d : α) (t : Tab α) (k j : Nat) (v : α) :
    tabGet d (tabSet d t k v) j = if j = k then v else tabGet d t j := by
  split
  · rename_i h
    rw [h, tabGet_set_same]
  · rename_i h
    exact tabGet_set_ne d d t v h

@[simp] theorem tabGet_upd_same [DecidableEq α] (d : α) (t : Tab α) (k : Nat) (f : α → α) :
    tabGet d (tabUpd d t k f) k = f (tabGet d t k) := tabGet_set_same d t k _

theorem tabGet_upd_ne [DecidableEq α] (d d' : α) (t : Tab α) {k j : Nat} (f : α → α) (h : j ≠ k) :
    tabGet d' (tabUpd d t k f) j = tabGet d' t j := tabGet_set_ne d d' t _ h

theorem tabGet_clear_in (d : α) (t : Tab α) {lo hi k : Nat} (h1 : lo ≤ k) (h2 : k < hi) : tabGet d (tabClear t lo hi) k = d := by
  unfold tabClear
  exact tabGet_filter_out d t (fun j => decide (j < lo ∨ hi ≤ j)) k (by simp; omega)

theorem tabGet_clear_out (d : α) (t : Tab α) {lo hi k : Nat} (h : k < lo ∨ hi ≤ k) : tabGet d (tabClear t lo hi) k = tabGet d t k := by
  unfold tabClear
  exact tabGet_filter d t (fun j => decide (j < lo ∨ hi ≤ j)) k (by simp [h])

/-! ## Runs of keys -/

theorem tabGet_setList_out [DecidableEq α] (d : α) (vs : List α) : ∀ (t : Tab α) (k j : Nat), (j < k ∨ k + vs.length ≤ j) →
    tabGet d (tabSetList d t k vs) j = tabGet d t j := by
  induction vs with
  | nil => intro t k j _; rfl
  | cons v vs ih =>
    intro t k j h
    simp only [List.length_cons] at h
    unfold tabSetList
    rw [ih _ _ _ (by omega), tabGet_set_ne d d t v (by omega)]

theorem tabGet_setList_in [DecidableEq α] (d : α) (vs : List α) : ∀ (t : Tab α) (k i : Nat) (h : i < vs.length),
    tabGet d (tabSetList d t k vs) (k + i) = vs[i] := by
  induction vs with
  | nil => intro t k i h; exact absurd h (by simp)
  | cons v vs ih =>
    intro t k i h
    unfold tabSetList
    cases i with
    | zero => rw [tabGet_setList_out d vs _ _ _ (by omega)]; simp
    | succ i =>
      have hi : i < vs.length := by simpa using h
      have := ih (tabSet d t k v) (k + 1) i hi
      rw [show k + (i + 1) = k + 1 + i by omega, this]
      rfl

/-- A byte outside what was written. -/
theorem memGet_write_out (m : Tab Byte) (a b : Nat) (bs : List Byte) (h : b < a ∨ a + bs.length ≤ b) :
    memGet (memWrite m a bs) b = memGet m b := tabGet_setList_out _ bs m a b h

/-- A byte that was written. -/
theorem memGet_write_in (m : Tab Byte) (a i : Nat) (bs : List Byte) (h : i < bs.length) : memGet (memWrite m a bs) (a + i) = bs[i] :=
  tabGet_setList_in _ bs m a i h

/-! ## The canonical form -/

theorem tabRising_mono : ∀ (t : Tab α) (a b : Nat), b ≤ a → tabRising a t = true → tabRising b t = true
  | [], _, _, _, _ => rfl
  | (k, v) :: t, a, b, h, hr => by
    simp only [tabRising, Bool.and_eq_true, decide_eq_true_eq] at hr ⊢
    exact ⟨by omega, hr.2⟩

theorem tabRising_filter (p : Nat × α → Bool) : ∀ (t : Tab α) (a : Nat), tabRising a t = true → tabRising a (t.filter p) = true
  | [], _, _ => rfl
  | (k, v) :: t, a, h => by
    simp only [tabRising, Bool.and_eq_true, decide_eq_true_eq] at h
    have ih := tabRising_filter p t (k + 1) h.2
    by_cases hp : p (k, v) = true
    · simp [hp, tabRising, h.1, ih]
    · simp only [hp, List.filter_cons]
      exact tabRising_mono _ _ _ (by omega) ih

theorem tabRising_insert : ∀ (t : Tab α) (a k : Nat) (v : α), a ≤ k → tabRising a t = true → tabRising a (tabInsert t k v) = true
  | [], _, k, v, h, _ => by simp [tabInsert, tabRising, h]
  | (k', v') :: t, a, k, v, h, hr => by
    simp only [tabRising, Bool.and_eq_true, decide_eq_true_eq] at hr
    unfold tabInsert
    split
    · simp [tabRising, h, hr.2]; omega
    · split
      · rename_i h1 h2
        subst h2
        simp [tabRising, h, hr.2]
      · simp only [tabRising, Bool.and_eq_true, decide_eq_true_eq]
        exact ⟨hr.1, tabRising_insert t (k' + 1) k v (by omega) hr.2⟩

theorem mem_tabInsert : ∀ (t : Tab α) (k : Nat) (v : α) (e : Nat × α), e ∈ tabInsert t k v → e = (k, v) ∨ e ∈ t
  | [], k, v, e, h => by simpa [tabInsert] using h
  | (k', v') :: t, k, v, e, h => by
    unfold tabInsert at h
    split at h
    · simpa using h
    · split at h
      · simp only [List.mem_cons] at h ⊢
        tauto
      · simp only [List.mem_cons] at h ⊢
        rcases h with h | h
        · exact .inr (.inl h)
        · rcases mem_tabInsert t k v e h with h | h
          · exact .inl h
          · exact .inr (.inr h)

theorem tabWf_filter [DecidableEq α] (d : α) (p : Nat × α → Bool) (t : Tab α) (h : tabWf d t = true) : tabWf d (t.filter p) = true := by
  simp only [tabWf, Bool.and_eq_true, List.all_eq_true] at h ⊢
  exact ⟨tabRising_filter p t 0 h.1, fun e he => h.2 e (List.mem_of_mem_filter he)⟩

/-- A write keeps the canonical form. -/
theorem tabWf_set [DecidableEq α] (d : α) (t : Tab α) (k : Nat) (v : α) (h : tabWf d t = true) : tabWf d (tabSet d t k v) = true := by
  unfold tabSet
  split
  · exact tabWf_filter d _ t h
  · rename_i hv
    simp only [tabWf, Bool.and_eq_true, List.all_eq_true, decide_eq_true_eq] at h ⊢
    refine ⟨tabRising_insert t 0 k v (Nat.zero_le _) h.1, fun e he => ?_⟩
    rcases mem_tabInsert t k v e he with rfl | he
    · exact hv
    · exact h.2 e he

theorem tabWf_upd [DecidableEq α] (d : α) (t : Tab α) (k : Nat) (f : α → α) (h : tabWf d t = true) : tabWf d (tabUpd d t k f) = true :=
  tabWf_set d t k _ h

theorem tabWf_clear [DecidableEq α] (d : α) (t : Tab α) (lo hi : Nat) (h : tabWf d t = true) : tabWf d (tabClear t lo hi) = true :=
  tabWf_filter d _ t h

theorem tabWf_setList [DecidableEq α] (d : α) (vs : List α) : ∀ (t : Tab α) (k : Nat), tabWf d t = true → tabWf d (tabSetList d t k vs) = true := by
  induction vs with
  | nil => intro t k h; exact h
  | cons v vs ih => intro t k h; exact ih _ _ (tabWf_set d t k v h)

theorem tabWf_nil [DecidableEq α] (d : α) : tabWf d ([] : Tab α) = true := rfl

/-- Every memory operation keeps the canonical form. -/
theorem memWf_write (m : Tab Byte) (a : Nat) (bs : List Byte) (h : memWf m = true) : memWf (memWrite m a bs) = true :=
  tabWf_setList _ bs m a h

theorem memWf_clear (m : Tab Byte) (lo hi : Nat) (h : memWf m = true) : memWf (tabClear m lo hi) = true := tabWf_clear _ m lo hi h

end Sys2Proof.Machine
end

