-- ==== Sys2Proof/Laws/Fields.lean ====
section
/-! SUPPORT. Laws of register fields: what a field reads after a write of it or of another field of the same word. -/

namespace Sys2Proof.Machine

/-- A word is what lies above a field, the field, and what lies below it. -/
theorem word_split (f : Fl) (h : f.ok = true) (v : Word) :
    v.toNat = v.toNat / 2 ^ (f.hi + 1) * 2 ^ (f.hi + 1) + getFl f v * 2 ^ f.lo + v.toNat % 2 ^ f.lo := by
  simp only [Fl.ok, decide_eq_true_eq] at h
  unfold getFl natBits
  rw [Nat.shiftRight_eq_div_pow]
  have hp : 2 ^ (f.hi + 1) = 2 ^ f.lo * 2 ^ (f.hi + 1 - f.lo) := by rw [← Nat.pow_add]; congr 1; omega
  have h1 := Nat.div_add_mod v.toNat (2 ^ f.lo)
  have h2 := Nat.div_add_mod (v.toNat / 2 ^ f.lo) (2 ^ (f.hi + 1 - f.lo))
  rw [Nat.div_div_eq_div_mul, ← hp] at h2
  have h3 : v.toNat / 2 ^ (f.hi + 1) * 2 ^ (f.hi + 1) = 2 ^ f.lo * (2 ^ (f.hi + 1 - f.lo) * (v.toNat / 2 ^ (f.hi + 1))) := by
    rw [hp]; ring
  rw [h3]
  calc v.toNat = 2 ^ f.lo * (v.toNat / 2 ^ f.lo) + v.toNat % 2 ^ f.lo := h1.symm
    _ = 2 ^ f.lo * (2 ^ (f.hi + 1 - f.lo) * (v.toNat / 2 ^ (f.hi + 1)) + v.toNat / 2 ^ f.lo % 2 ^ (f.hi + 1 - f.lo)) +
        v.toNat % 2 ^ f.lo := congrArg (fun n => 2 ^ f.lo * n + v.toNat % 2 ^ f.lo) h2.symm
    _ = _ := by rw [Nat.mul_add, Nat.mul_comm (2 ^ f.lo) (v.toNat / 2 ^ f.lo % _)]

theorem getFl_lt (f : Fl) (v : Word) : getFl f v < 2 ^ (f.hi + 1 - f.lo) := Nat.mod_lt _ (by positivity)

/-- The number that a word holds after a field is set. -/
theorem putFl_toNat (f : Fl) (h : f.ok = true) (v : Word) (x : Nat) :
    (putFl f v x).toNat = v.toNat / 2 ^ (f.hi + 1) * 2 ^ (f.hi + 1) + x % 2 ^ (f.hi + 1 - f.lo) * 2 ^ f.lo + v.toNat % 2 ^ f.lo := by
  have hs := word_split f h v
  have hok := h
  simp only [Fl.ok, decide_eq_true_eq] at h
  unfold putFl
  rw [BitVec.toNat_ofNat]
  have e : v.toNat - getFl f v * 2 ^ f.lo + x % 2 ^ (f.hi + 1 - f.lo) * 2 ^ f.lo =
      v.toNat / 2 ^ (f.hi + 1) * 2 ^ (f.hi + 1) + x % 2 ^ (f.hi + 1 - f.lo) * 2 ^ f.lo + v.toNat % 2 ^ f.lo := by omega
  rw [e]
  apply Nat.mod_eq_of_lt
  have hp : 2 ^ (f.hi + 1) = 2 ^ f.lo * 2 ^ (f.hi + 1 - f.lo) := by rw [← Nat.pow_add]; congr 1; omega
  have hx : x % 2 ^ (f.hi + 1 - f.lo) + 1 ≤ 2 ^ (f.hi + 1 - f.lo) := Nat.mod_lt _ (by positivity)
  have hl : v.toNat % 2 ^ f.lo < 2 ^ f.lo := Nat.mod_lt _ (by positivity)
  have hx' : (x % 2 ^ (f.hi + 1 - f.lo) + 1) * 2 ^ f.lo ≤ 2 ^ (f.hi + 1) := by
    rw [hp, Nat.mul_comm (2 ^ f.lo)]; exact Nat.mul_le_mul_right _ hx
  have h64 : (2 : Nat) ^ 64 = 2 ^ (f.hi + 1) * 2 ^ (64 - (f.hi + 1)) := by rw [← Nat.pow_add]; congr 1; omega
  have hq : v.toNat / 2 ^ (f.hi + 1) + 1 ≤ 2 ^ (64 - (f.hi + 1)) := by
    apply Nat.div_lt_of_lt_mul
    rw [← h64]
    exact v.isLt
  have hq' : (v.toNat / 2 ^ (f.hi + 1) + 1) * 2 ^ (f.hi + 1) ≤ 2 ^ 64 := by
    rw [h64, Nat.mul_comm (2 ^ (f.hi + 1))]; exact Nat.mul_le_mul_right _ hq
  nlinarith [hx', hq', hl]

/-- A field reads what was written, cut to its width. -/
theorem getFl_putFl (f : Fl) (h : f.ok = true) (v : Word) (x : Nat) : getFl f (putFl f v x) = x % 2 ^ (f.hi + 1 - f.lo) := by
  have hok := h
  simp only [Fl.ok, decide_eq_true_eq] at h
  unfold getFl natBits
  rw [putFl_toNat f hok, Nat.shiftRight_eq_div_pow]
  have hp : 2 ^ (f.hi + 1) = 2 ^ f.lo * 2 ^ (f.hi + 1 - f.lo) := by rw [← Nat.pow_add]; congr 1; omega
  have hl : v.toNat % 2 ^ f.lo < 2 ^ f.lo := Nat.mod_lt _ (by positivity)
  have e : v.toNat / 2 ^ (f.hi + 1) * 2 ^ (f.hi + 1) + x % 2 ^ (f.hi + 1 - f.lo) * 2 ^ f.lo + v.toNat % 2 ^ f.lo =
      v.toNat % 2 ^ f.lo + 2 ^ f.lo * (x % 2 ^ (f.hi + 1 - f.lo) + 2 ^ (f.hi + 1 - f.lo) * (v.toNat / 2 ^ (f.hi + 1))) := by
    rw [hp]; ring
  rw [e, Nat.add_mul_div_left _ _ (by positivity), Nat.div_eq_of_lt hl, Nat.zero_add, Nat.add_mul_mod_self_left, Nat.mod_mod]

/-- Another field keeps what it holds. -/
theorem getFl_putFl_ne (f g : Fl) (hf : f.ok = true) (hg : g.ok = true) (ha : f.apart g = true) (v : Word) (x : Nat) :
    getFl g (putFl f v x) = getFl g v := by
  have hs := word_split f hf v
  have ht := putFl_toNat f hf v x
  simp only [Fl.ok, decide_eq_true_eq] at hf hg
  simp only [Fl.apart, decide_eq_true_eq] at ha
  unfold getFl natBits at *
  simp only [Nat.shiftRight_eq_div_pow] at *
  rcases ha with ha | ha
  · -- g above f
    have hp : 2 ^ g.lo = 2 ^ (f.hi + 1) * 2 ^ (g.lo - (f.hi + 1)) := by rw [← Nat.pow_add]; congr 1; omega
    have key : (putFl f v x).toNat / 2 ^ (f.hi + 1) = v.toNat / 2 ^ (f.hi + 1) := by
      rw [ht]
      have hx : x % 2 ^ (f.hi + 1 - f.lo) + 1 ≤ 2 ^ (f.hi + 1 - f.lo) := Nat.mod_lt _ (by positivity)
      have hl : v.toNat % 2 ^ f.lo < 2 ^ f.lo := Nat.mod_lt _ (by positivity)
      have hq : 2 ^ (f.hi + 1) = 2 ^ f.lo * 2 ^ (f.hi + 1 - f.lo) := by rw [← Nat.pow_add]; congr 1; omega
      have hx' : (x % 2 ^ (f.hi + 1 - f.lo) + 1) * 2 ^ f.lo ≤ 2 ^ (f.hi + 1) := by
        rw [hq, Nat.mul_comm (2 ^ f.lo)]; exact Nat.mul_le_mul_right _ hx
      have hb : x % 2 ^ (f.hi + 1 - f.lo) * 2 ^ f.lo + v.toNat % 2 ^ f.lo < 2 ^ (f.hi + 1) := by
        have := Nat.add_mul (x % 2 ^ (f.hi + 1 - f.lo)) 1 (2 ^ f.lo)
        omega
      rw [Nat.add_assoc, Nat.add_comm, Nat.add_mul_div_right _ _ (by positivity), Nat.div_eq_of_lt hb, Nat.zero_add]
    rw [hp, ← Nat.div_div_eq_div_mul, ← Nat.div_div_eq_div_mul, key]
  · -- g below f
    have hp : 2 ^ f.lo = 2 ^ g.lo * 2 ^ (g.hi + 1 - g.lo) * 2 ^ (f.lo - (g.hi + 1)) := by
      rw [← Nat.pow_add, ← Nat.pow_add]; congr 1; omega
    have hq : 2 ^ (f.hi + 1) = 2 ^ f.lo * 2 ^ (f.hi + 1 - f.lo) := by rw [← Nat.pow_add]; congr 1; omega
    have key : (putFl f v x).toNat % 2 ^ f.lo = v.toNat % 2 ^ f.lo := by
      rw [ht]
      have e : v.toNat / 2 ^ (f.hi + 1) * 2 ^ (f.hi + 1) + x % 2 ^ (f.hi + 1 - f.lo) * 2 ^ f.lo + v.toNat % 2 ^ f.lo =
          v.toNat % 2 ^ f.lo + 2 ^ f.lo * (x % 2 ^ (f.hi + 1 - f.lo) + 2 ^ (f.hi + 1 - f.lo) * (v.toNat / 2 ^ (f.hi + 1))) := by
        rw [hq]; ring
      rw [e, Nat.add_mul_mod_self_left, Nat.mod_mod]
    have step : ∀ n : Nat, n / 2 ^ g.lo % 2 ^ (g.hi + 1 - g.lo) = n % 2 ^ f.lo / 2 ^ g.lo % 2 ^ (g.hi + 1 - g.lo) := by
      intro n
      have h1 : n % 2 ^ f.lo % (2 ^ g.lo * 2 ^ (g.hi + 1 - g.lo)) = n % (2 ^ g.lo * 2 ^ (g.hi + 1 - g.lo)) :=
        Nat.mod_mod_of_dvd n ⟨2 ^ (f.lo - (g.hi + 1)), by rw [hp]⟩
      rw [← Nat.mod_mul_right_div_self, ← Nat.mod_mul_right_div_self, h1]
    rw [step, key, ← step]

/-! ## Registers of the state -/

@[simp] theorem State.reg_setReg (s : State) (r : RegName) (i w : Nat) (v : Word) : (s.setReg r i w v).reg r i w = v :=
  tabGet_set_same _ _ _ _

theorem State.reg_setReg_ne (s : State) (r r' : RegName) (i w i' w' : Nat) (v : Word) (h : regKey r' i' w' ≠ regKey r i w) :
    (s.setReg r i w v).reg r' i' w' = s.reg r' i' w' := tabGet_set_ne _ _ _ _ h

theorem State.fld_setFld (s : State) (r : RegName) (f : Fl) (i x : Nat) (h : f.ok = true) :
    (s.setFld r f i x).fld r f i = x % 2 ^ (f.hi + 1 - f.lo) := by
  unfold State.fld State.setFld
  rw [State.reg_setReg, getFl_putFl f h]

theorem State.fld_setFld_other (s : State) (r : RegName) (f g : Fl) (i x : Nat) (hf : f.ok = true) (hg : g.ok = true)
    (ha : f.apart g = true) : (s.setFld r f i x).fld r g i = s.fld r g i := by
  unfold State.fld State.setFld
  rw [State.reg_setReg, getFl_putFl_ne f g hf hg ha]

theorem State.fld_setFld_ne (s : State) (r r' : RegName) (f g : Fl) (i i' x : Nat) (h : regKey r' i' 0 ≠ regKey r i 0) :
    (s.setFld r f i x).fld r' g i' = s.fld r' g i' := by
  unfold State.fld State.setFld
  rw [State.reg_setReg_ne _ _ _ _ _ _ _ _ h]

end Sys2Proof.Machine
end

