-- ==== Sys2Proof/Laws/Keeps.lean ====
section
/-! SUPPORT. What no operation of the die touches: `Keeps`, how it passes through updates, and the operations that write memories. -/

namespace Sys2Proof.Machine

/-- What every operation of the die keeps: the queue of waiting commands stays as it is, nothing that was sent is taken back, a free
value is drawn only once, a fused owner-key digest stays (R689, R753), and memories stay in canonical form. -/
structure Keeps (s t : State) : Prop where
  pending : t.pending = s.pending
  out : s.out <+: t.out
  drawn : s.drawn ≤ t.drawn
  digest : ∀ d, s.sec.ownerDigest = some d → t.sec.ownerDigest = some d
  hbm : memWf s.mem.hbm = true → memWf t.mem.hbm = true
  store : memWf s.mem.store = true → memWf t.mem.store = true
  bench : memWf s.mem.bench = true → memWf t.mem.bench = true
  vreg : memWf s.mem.vreg = true → memWf t.mem.vreg = true

theorem Keeps.refl (s : State) : Keeps s s := ⟨rfl, List.prefix_rfl, Nat.le_refl _, fun _ h => h, id, id, id, id⟩

theorem Keeps.trans {s t u : State} (h : Keeps s t) (k : Keeps t u) : Keeps s u :=
  ⟨k.pending.trans h.pending, h.out.trans k.out, Nat.le_trans h.drawn k.drawn, fun d e => k.digest d (h.digest d e),
    fun e => k.hbm (h.hbm e), fun e => k.store (h.store e), fun e => k.bench (h.bench e), fun e => k.vreg (h.vreg e)⟩

/-- An update of other parts of the state. -/
theorem Keeps.same {s0 s t : State} (h : Keeps s0 s) (hp : t.pending = s.pending) (ho : t.out = s.out) (hd : t.drawn = s.drawn)
    (hs : t.sec.ownerDigest = s.sec.ownerDigest) (h1 : t.mem.hbm = s.mem.hbm) (h2 : t.mem.store = s.mem.store)
    (h3 : t.mem.bench = s.mem.bench) (h4 : t.mem.vreg = s.mem.vreg) : Keeps s0 t :=
  h.trans ⟨hp, by rw [ho], by rw [hd], fun d e => by rw [hs, e], fun e => by rw [h1, e], fun e => by rw [h2, e], fun e => by rw [h3, e],
    fun e => by rw [h4, e]⟩

/-- An update of other parts of the state, written out. -/
theorem Keeps.lit {s0 s : State} {pending' : List Instr} {regs' : Tab Word} {uregs' : Tab Word} {out' : List Out} {toSend' : List Out} {mem' : Stores} {queues' : Tab Queue} {lost' : Tab Nat} {sync' : SyncState} {mv' : MoveState} {cs' : CoreState} {kv' : KvState} {tier' : TierState} {srt' : SorterState} {cx' : CtxState} {fw' : FwState} {ola' : OlaState} {pw' : PowerState} {fl' : FlashState} {host' : HostState} {start' : StartState} {sec' : SecState} {test' : TestState} {flt' : FaultState} {pmc' : Tab (BitVec 49)} {bwc' : Tab Nat} {drawn' : Nat}
    (h : Keeps s0 s) (hp : pending' = s.pending) (ho : out' = s.out) (hd : drawn' = s.drawn)
    (hs : sec'.ownerDigest = s.sec.ownerDigest) (h1 : mem'.hbm = s.mem.hbm) (h2 : mem'.store = s.mem.store)
    (h3 : mem'.bench = s.mem.bench) (h4 : mem'.vreg = s.mem.vreg) :
    Keeps s0 (State.mk pending' regs' uregs' out' toSend' mem' queues' lost' sync' mv' cs' kv' tier' srt' cx' fw' ola' pw' fl' host' start' sec' test' flt' pmc' bwc' drawn') :=
  h.same hp ho hd hs h1 h2 h3 h4

/-- An update of the memories. -/
theorem Keeps.mem {s0 s t : State} (h : Keeps s0 s) (hp : t.pending = s.pending) (ho : t.out = s.out) (hd : t.drawn = s.drawn)
    (hs : t.sec.ownerDigest = s.sec.ownerDigest) (h1 : memWf s.mem.hbm = true → memWf t.mem.hbm = true)
    (h2 : memWf s.mem.store = true → memWf t.mem.store = true) (h3 : memWf s.mem.bench = true → memWf t.mem.bench = true)
    (h4 : memWf s.mem.vreg = true → memWf t.mem.vreg = true) : Keeps s0 t :=
  h.trans ⟨hp, by rw [ho], by rw [hd], fun d e => by rw [hs, e], h1, h2, h3, h4⟩

/-- An update of the memories, written out. -/
theorem Keeps.memLit {s0 s : State} {pending' : List Instr} {regs' : Tab Word} {uregs' : Tab Word} {out' : List Out} {toSend' : List Out} {hbm' store' bench' vreg' : Tab Byte} {b1 b2 b3 b4 : List Nat} {queues' : Tab Queue} {lost' : Tab Nat} {sync' : SyncState} {mv' : MoveState} {cs' : CoreState} {kv' : KvState} {tier' : TierState} {srt' : SorterState} {cx' : CtxState} {fw' : FwState} {ola' : OlaState} {pw' : PowerState} {fl' : FlashState} {host' : HostState} {start' : StartState} {sec' : SecState} {test' : TestState} {flt' : FaultState} {pmc' : Tab (BitVec 49)} {bwc' : Tab Nat} {drawn' : Nat}
    (h : Keeps s0 s) (hp : pending' = s.pending) (ho : out' = s.out) (hd : drawn' = s.drawn)
    (hs : sec'.ownerDigest = s.sec.ownerDigest) (h1 : memWf s.mem.hbm = true → memWf hbm' = true)
    (h2 : memWf s.mem.store = true → memWf store' = true) (h3 : memWf s.mem.bench = true → memWf bench' = true)
    (h4 : memWf s.mem.vreg = true → memWf vreg' = true) :
    Keeps s0 (State.mk pending' regs' uregs' out' toSend' (Stores.mk hbm' store' bench' vreg' b1 b2 b3 b4) queues' lost' sync' mv' cs' kv' tier' srt' cx' fw' ola' pw' fl' host' start' sec' test' flt' pmc' bwc' drawn') :=
  h.mem hp ho hd hs h1 h2 h3 h4

/-- More free values drawn. -/
theorem Keeps.drew {s0 s t : State} (h : Keeps s0 s) (hp : t.pending = s.pending) (ho : t.out = s.out) (hd : s.drawn ≤ t.drawn)
    (hs : t.sec.ownerDigest = s.sec.ownerDigest) (h1 : t.mem.hbm = s.mem.hbm) (h2 : t.mem.store = s.mem.store)
    (h3 : t.mem.bench = s.mem.bench) (h4 : t.mem.vreg = s.mem.vreg) : Keeps s0 t :=
  h.trans ⟨hp, by rw [ho], hd, fun d e => by rw [hs, e], fun e => by rw [h1, e], fun e => by rw [h2, e], fun e => by rw [h3, e],
    fun e => by rw [h4, e]⟩

/-- The same of what a meaning answers. -/
def ResKeeps (s : State) (r : Res) : Prop := match r with
  | .next t => Keeps s t
  | _ => True

theorem State.each_keeps {α : Type} {s0 s : State} (l : List α) (f : State → α → State) (h : Keeps s0 s)
    (hf : ∀ s a, Keeps s0 s → Keeps s0 (f s a)) : Keeps s0 (s.each l f) := by
  induction l generalizing s with
  | nil => exact h
  | cons a l ih => exact ih (hf s a h)

theorem State.when_keeps {s0 s : State} (c : Bool) (f : State → State) (h : Keeps s0 s) (hf : ∀ s, Keeps s0 s → Keeps s0 (f s)) :
    Keeps s0 (s.when c f) := by
  unfold State.when
  split
  · exact hf s h
  · exact h

theorem State.emit_keeps {s0 s : State} (o : Out) (h : Keeps s0 s) : Keeps s0 (s.emit o) :=
  h.trans ⟨rfl, List.prefix_append _ _, Nat.le_refl _, fun _ e => e, id, id, id, id⟩

theorem State.draw_keeps {s0 s : State} (h : Keeps s0 s) : Keeps s0 s.draw.2 := h.drew rfl rfl (Nat.le_succ _) rfl rfl rfl rfl rfl

theorem ResKeeps.next {s0 s : State} (h : Keeps s0 s) : ResKeeps s0 (.next s) := h

/-- The same of a state that there may be. -/
def OptKeeps (s : State) : Option State → Prop
  | some t => Keeps s t
  | none => True

theorem OptKeeps.some {s0 s : State} (h : Keeps s0 s) : OptKeeps s0 (some s) := h
theorem OptKeeps.none (s0 : State) : OptKeeps s0 none := trivial
theorem OptKeeps.get {s0 t : State} {o : Option State} (h : OptKeeps s0 o) (e : o = .some t) : Keeps s0 t := by subst e; exact h

theorem OptKeeps.getD {s0 d : State} {o : Option State} (h : OptKeeps s0 o) (k : Keeps s0 d) : Keeps s0 (o.getD d) := by
  cases o
  · exact k
  · exact h

theorem State.hbmWrite_keeps {s0 s : State} (a : Nat) (bs : List Byte) (h : Keeps s0 s) : Keeps s0 (s.hbmWrite a bs).1 := by
  unfold State.hbmWrite
  split
  · exact h
  · exact h.mem rfl rfl rfl rfl (memWf_write _ _ _) id id id

theorem State.benchWrite_keeps {s0 s : State} (c byte : Nat) (bs : List Byte) (h : Keeps s0 s) : Keeps s0 (s.benchWrite c byte bs).1 := by
  unfold State.benchWrite
  dsimp only
  split
  · exact h
  · exact h.mem rfl rfl rfl rfl id id (memWf_write _ _ _) id

theorem State.benchWriteAll_keeps {s0 : State} (c : Nat) (n : Nat) : ∀ (byte : Nat) (bs : List Byte) {s : State}, Keeps s0 s →
    Keeps s0 (s.benchWriteAll c byte bs n) := by
  induction n with
  | zero => intro _ _ s h; exact h
  | succ n ih =>
    intro byte bs s h
    unfold State.benchWriteAll
    split
    · exact h
    · exact ih _ _ (State.benchWrite_keeps _ _ _ h)

theorem State.setVreg_keeps {s0 s : State} (c r off : Nat) (bs : List Byte) (h : Keeps s0 s) : Keeps s0 (s.setVreg c r off bs) :=
  h.mem rfl rfl rfl rfl id id id (memWf_write _ _ _)

theorem Keeps.ite {s0 a b : State} {c : Prop} [Decidable c] (ha : Keeps s0 a) (hb : Keeps s0 b) : Keeps s0 (if c then a else b) := by
  split
  · exact ha
  · exact hb

theorem OptKeeps.ite {s0 : State} {a b : Option State} {c : Prop} [Decidable c] (ha : OptKeeps s0 a) (hb : OptKeeps s0 b) :
    OptKeeps s0 (if c then a else b) := by
  split
  · exact ha
  · exact hb

theorem ResKeeps.ite {s0 : State} {a b : Res} {c : Prop} [Decidable c] (ha : ResKeeps s0 a) (hb : ResKeeps s0 b) :
    ResKeeps s0 (if c then a else b) := by
  split
  · exact ha
  · exact hb

theorem Keeps.ite1 {α : Type} {s0 : State} {a b : State × α} {c : Prop} [Decidable c] (ha : Keeps s0 a.1) (hb : Keeps s0 b.1) :
    Keeps s0 (if c then a else b).1 := by
  split
  · exact ha
  · exact hb

theorem Keeps.ite2 {α : Type} {s0 : State} {a b : α × State} {c : Prop} [Decidable c] (ha : Keeps s0 a.2) (hb : Keeps s0 b.2) :
    Keeps s0 (if c then a else b).2 := by
  split
  · exact ha
  · exact hb

theorem Keeps.fst {α : Type} {s0 t : State} {o : State × α} {x : α} (h : Keeps s0 o.1) (e : o = (t, x)) : Keeps s0 t := by
  subst e; exact h

theorem Keeps.snd {α : Type} {s0 t : State} {o : α × State} {x : α} (h : Keeps s0 o.2) (e : o = (x, t)) : Keeps s0 t := by
  subst e; exact h

end Sys2Proof.Machine
end

