-- ==== Sys2Proof/Laws/KeepsOps.lean ====
section
/-! SUPPORT. The operations over registers, rings, the fabric, sync objects, memories and engines keep what `Keeps` says. -/

namespace Sys2Proof.Machine

/-! ## Ops -/

theorem State.setReg_keeps {s0 s : State} (r : RegName) (i : Nat) (w : Nat) (v : Word) (hk : Keeps s0 s) : Keeps s0 (State.setReg s r i w v) := by
  unfold State.setReg
  repeat' with_reducible first
    | assumption | refine Keeps.lit ?_ rfl rfl rfl rfl rfl rfl rfl rfl

theorem State.setFld_keeps {s0 s : State} (r : RegName) (f : Fl) (i : Nat) (x : Nat) (hk : Keeps s0 s) : Keeps s0 (State.setFld s r f i x) := by
  unfold State.setFld
  repeat' with_reducible first
    | assumption | apply State.setReg_keeps

theorem State.bump_keeps {s0 s : State} (r : RegName) (f : Fl) (i : Nat) (n : Nat) (hk : Keeps s0 s) : Keeps s0 (State.bump s r f i n) := by
  unfold State.bump
  repeat' with_reducible first
    | assumption | apply State.setFld_keeps

theorem State.bumpSat_keeps {s0 s : State} (r : RegName) (f : Fl) (i : Nat) (n : Nat) (hk : Keeps s0 s) : Keeps s0 (State.bumpSat s r f i n) := by
  unfold State.bumpSat
  repeat' with_reducible first
    | assumption | apply State.setFld_keeps

theorem State.count_keeps {s0 s : State} (kind : Nat) (inst : Nat) (ev : Nat) (n : Nat) (hk : Keeps s0 s) :
    Keeps s0 (State.count s kind inst ev n) := by
  unfold State.count
  repeat' with_reducible first
    | assumption | intro _ | dsimp only | refine Keeps.lit ?_ rfl rfl rfl rfl rfl rfl rfl rfl

theorem State.countCtx_keeps {s0 s : State} (ctx : Nat) (ev : Nat) (n : Nat) (hk : Keeps s0 s) : Keeps s0 (State.countCtx s ctx ev n) := by
  unfold State.countCtx
  repeat' with_reducible first
    | assumption | intro _ | dsimp only | refine Keeps.lit ?_ rfl rfl rfl rfl rfl rfl rfl rfl

theorem State.countBw_keeps {s0 s : State} (port : Nat) (side : Nat) (n : Nat) (hk : Keeps s0 s) : Keeps s0 (State.countBw s port side n) := by
  unfold State.countBw
  repeat' with_reducible first
    | assumption | refine Keeps.lit ?_ rfl rfl rfl rfl rfl rfl rfl rfl

theorem State.charge_keeps {s0 s : State} (p : Nat) (c : ReqClass) (write : Bool) (src : Nat) (units : Nat) (hk : Keeps s0 s) :
    Keeps s0 (State.charge s p c write src units) := by
  unfold State.charge
  repeat' with_reducible first
    | assumption | intro _ | apply OptKeeps.some | apply OptKeeps.none | apply OptKeeps.ite | apply State.count_keeps
    | apply State.countBw_keeps | apply Keeps.ite | split | refine OptKeeps.get ?_ (by assumption) | refine Keeps.fst ?_ (by assumption)
    | refine Keeps.snd ?_ (by assumption) | dsimp only | refine Keeps.lit ?_ rfl rfl rfl rfl rfl rfl rfl rfl

theorem State.hbmAccess_keeps {s0 s : State} (ctx : Option Nat) (a : Nat) (write : Bool) (src : Nat) (units : Nat) (hk : Keeps s0 s) :
    Keeps s0 (State.hbmAccess s ctx a write src units) := by
  unfold State.hbmAccess
  cases ctx
  · exact State.charge_keeps _ _ _ _ _ hk
  · exact State.countCtx_keeps _ _ _ (State.charge_keeps _ _ _ _ _ hk)

theorem State.toHost_keeps {s0 s : State} (o : Out) (hk : Keeps s0 s) : Keeps s0 (State.toHost s o) := by
  unfold State.toHost
  repeat' with_reducible first
    | assumption | apply State.emit_keeps | apply Keeps.ite | split | refine Keeps.lit ?_ rfl rfl rfl rfl rfl rfl rfl rfl

theorem State.hostFlush_keeps {s0 s : State} (h : Keeps s0 s) : Keeps s0 s.hostFlush := by
  unfold State.hostFlush
  split
  · exact h.trans ⟨rfl, List.prefix_append _ _, Nat.le_refl _, fun _ e => e, id, id, id, id⟩
  · exact h

theorem State.drawCode_keeps {s0 s : State} (hk : Keeps s0 s) : Keeps s0 (State.drawCode s).2 := by
  unfold State.drawCode
  repeat' with_reducible first
    | assumption | apply OptKeeps.getD | apply State.draw_keeps

theorem State.freeBytes_keeps {s0 : State} (n : Nat) : ∀ {s : State}, Keeps s0 s → Keeps s0 (s.freeBytes n).2 := by
  induction n with
  | zero => intro s h; exact h
  | succ n ih => intro s h; exact ih (State.draw_keeps h)

theorem State.fclkTick_keeps {s0 s : State} (hk : Keeps s0 s) : Keeps s0 (State.fclkTick s) := by
  unfold State.fclkTick
  repeat' with_reducible first
    | assumption | apply State.bump_keeps | apply Keeps.ite

theorem State.mend_keeps {s0 s : State} (store : Nat) (p : Nat → Bool) (hk : Keeps s0 s) : Keeps s0 (State.mend s store p) := by
  unfold State.mend
  repeat' with_reducible first
    | assumption | intro _ | apply Keeps.ite | split | dsimp only | refine Keeps.lit ?_ rfl rfl rfl rfl rfl rfl rfl rfl

theorem State.winAccess_keeps {s0 s : State} (ctx : Nat) (off : Nat) (n : Nat) (write : Bool) (src : Nat) (hk : Keeps s0 s) :
    Keeps s0 (State.winAccess s ctx off n write src) := by
  unfold State.winAccess
  repeat' with_reducible first
    | assumption | intro _ | apply OptKeeps.some | apply OptKeeps.none | apply OptKeeps.ite | apply State.each_keeps
    | apply State.hbmAccess_keeps | apply Keeps.ite | split

theorem State.ringAdvance_keeps {s0 s : State} (i : Nat) (hk : Keeps s0 s) : Keeps s0 (State.ringAdvance s i) := by
  unfold State.ringAdvance
  repeat' with_reducible first
    | assumption | apply State.bump_keeps | apply State.count_keeps | apply State.setFld_keeps | apply State.toHost_keeps | apply Keeps.ite

theorem State.ringWrite_keeps {s0 s : State} (i : Nat) (sz : Nat) (bs : List Byte) (hostErr : Bool) (hk : Keeps s0 s) :
    Keeps s0 (State.ringWrite s i sz bs hostErr).1 := by
  unfold State.ringWrite
  repeat' with_reducible first
    | assumption | apply OptKeeps.some | apply OptKeeps.none | apply OptKeeps.ite | apply State.hbmAccess_keeps | apply State.hbmWrite_keeps
    | apply State.toHost_keeps | apply Keeps.ite1 | apply Keeps.ite | split

theorem State.loseEvent_keeps {s0 s : State} (i : Nat) (hk : Keeps s0 s) : Keeps s0 (State.loseEvent s i) := by
  unfold State.loseEvent
  repeat' with_reducible first
    | assumption | refine Keeps.lit ?_ rfl rfl rfl rfl rfl rfl rfl rfl

theorem State.postTo_keeps {s0 s : State} (i : Nat) (e : Event) (hostErr : Bool) (hk : Keeps s0 s) : Keeps s0 (State.postTo s i e hostErr).1 := by
  unfold State.postTo
  repeat' with_reducible first
    | assumption | apply OptKeeps.some | apply OptKeeps.none | apply OptKeeps.ite | apply State.loseEvent_keeps
    | apply State.ringAdvance_keeps | apply State.ringWrite_keeps | apply Keeps.ite1 | apply Keeps.ite | split
    | refine OptKeeps.get ?_ (by assumption) | refine Keeps.fst ?_ (by assumption) | refine Keeps.snd ?_ (by assumption) | dsimp only
    | refine Keeps.lit ?_ rfl rfl rfl rfl rfl rfl rfl rfl

theorem State.postDev_keeps {s0 s : State} (e : Event) (hk : Keeps s0 s) : Keeps s0 (State.postDev s e) := by
  unfold State.postDev
  repeat' with_reducible first
    | assumption | apply State.postTo_keeps

theorem State.reportLost_keeps {s0 s : State} (i : Nat) (w : RingWrite) (hk : Keeps s0 s) : Keeps s0 (State.reportLost s i w) := by
  unfold State.reportLost
  repeat' with_reducible first
    | assumption | apply OptKeeps.some | apply OptKeeps.none | apply OptKeeps.ite | apply State.postDev_keeps | split

theorem State.postCtx_keeps {s0 s : State} (x : Nat) (e : Event) (hostErr : Bool) (hk : Keeps s0 s) : Keeps s0 (State.postCtx s x e hostErr) := by
  unfold State.postCtx
  repeat' with_reducible first
    | assumption | apply State.postTo_keeps | apply State.reportLost_keeps

theorem State.updQ_keeps {s0 s : State} (q : Nat) (f : Queue → Queue) (hk : Keeps s0 s) : Keeps s0 (State.updQ s q f) := by
  unfold State.updQ
  repeat' with_reducible first
    | assumption | refine Keeps.lit ?_ rfl rfl rfl rfl rfl rfl rfl rfl

theorem State.updLetter_keeps {s0 s : State} (l : LetterId) (f : Letter → Letter) (hk : Keeps s0 s) : Keeps s0 (State.updLetter s l f) := by
  unfold State.updLetter
  repeat' with_reducible first
    | assumption | intro _ | apply State.updQ_keeps

theorem State.endLetter_keeps {s0 s : State} (l : LetterId) (e : LetterEnd) (hk : Keeps s0 s) : Keeps s0 (State.endLetter s l e) := by
  unfold State.endLetter
  repeat' with_reducible first
    | assumption | intro _ | apply OptKeeps.some | apply OptKeeps.none | apply OptKeeps.ite | apply State.updLetter_keeps

theorem State.setWork_keeps {s0 s : State} (l : LetterId) (w : Work) (hk : Keeps s0 s) : Keeps s0 (State.setWork s l w) := by
  unfold State.setWork
  repeat' with_reducible first
    | assumption | intro _ | apply State.updLetter_keeps

theorem State.sendSync_keeps {s0 s : State} (op : SyncOp) (hk : Keeps s0 s) : Keeps s0 (State.sendSync s op) := by
  unfold State.sendSync
  repeat' with_reducible first
    | assumption | refine Keeps.lit ?_ rfl rfl rfl rfl rfl rfl rfl rfl

theorem State.doneSignal_keeps {s0 s : State} (l : LetterId) (ref : BitVec 20) (value : BitVec 32) (eng : Nat) (hk : Keeps s0 s) :
    Keeps s0 (State.doneSignal s l ref value eng) := by
  unfold State.doneSignal
  repeat' with_reducible first
    | assumption | apply OptKeeps.some | apply OptKeeps.none | apply OptKeeps.ite | apply State.sendSync_keeps | split

theorem State.letterDone_keeps {s0 s : State} (l : LetterId) (done : Nat) (eng : Nat) (hk : Keeps s0 s) :
    Keeps s0 (State.letterDone s l done eng) := by
  unfold State.letterDone
  repeat' with_reducible first
    | assumption | apply State.doneSignal_keeps | apply Keeps.ite

theorem State.updCore_keeps {s0 s : State} (c : Nat) (f : Core → Core) (hk : Keeps s0 s) : Keeps s0 (State.updCore s c f) := by
  unfold State.updCore
  repeat' with_reducible first
    | assumption | refine Keeps.lit ?_ rfl rfl rfl rfl rfl rfl rfl rfl

theorem State.updSeqr_keeps {s0 s : State} (x : Nat) (cm : Nat) (f : Seqr → Seqr) (hk : Keeps s0 s) : Keeps s0 (State.updSeqr s x cm f) := by
  unfold State.updSeqr
  repeat' with_reducible first
    | assumption | refine Keeps.lit ?_ rfl rfl rfl rfl rfl rfl rfl rfl

theorem State.endFiller_keeps {s0 s : State} (c : Nat) (hk : Keeps s0 s) : Keeps s0 (State.endFiller s c) := by
  unfold State.endFiller
  repeat' with_reducible first
    | assumption | intro _ | apply State.updCore_keeps

theorem State.notePhase_keeps {s0 s : State} (cl : Nat) (ph : Nat) (hk : Keeps s0 s) : Keeps s0 (State.notePhase s cl ph) := by
  unfold State.notePhase
  repeat' with_reducible first
    | assumption | refine Keeps.lit ?_ rfl rfl rfl rfl rfl rfl rfl rfl

theorem State.accSet_keeps {s0 s : State} (c : Nat) (a : Nat) (row : Nat) (col : Nat) (v : F32) (hk : Keeps s0 s) :
    Keeps s0 (State.accSet s c a row col v) := by
  unfold State.accSet
  repeat' with_reducible first
    | assumption | refine Keeps.lit ?_ rfl rfl rfl rfl rfl rfl rfl rfl

/-! ## Fabric -/

theorem State.dieEvent_keeps {s0 s : State} (ev : Event) (hk : Keeps s0 s) : Keeps s0 (State.dieEvent s ev) := by
  unfold State.dieEvent
  repeat' with_reducible first
    | assumption | apply State.postDev_keeps | apply Keeps.ite | split | refine Keeps.lit ?_ rfl rfl rfl rfl rfl rfl rfl rfl

theorem State.dieDetect_keeps {s0 s : State} (agent : Nat) (ev : Event) (hk : Keeps s0 s) : Keeps s0 (State.dieDetect s agent ev) := by
  unfold State.dieDetect
  repeat' with_reducible first
    | assumption | apply State.dieEvent_keeps | apply State.setFld_keeps | apply Keeps.ite | split | dsimp only
    | refine Keeps.lit ?_ rfl rfl rfl rfl rfl rfl rfl rfl

theorem State.controlDetect_keeps {s0 s : State} (agent : Nat) (hk : Keeps s0 s) : Keeps s0 (State.controlDetect s agent) := by
  unfold State.controlDetect
  repeat' with_reducible first
    | assumption | apply State.dieDetect_keeps

theorem State.spareSwitched_keeps {s0 s : State} (kind : Nat) (pos : Nat) (left : Nat) (hk : Keeps s0 s) :
    Keeps s0 (State.spareSwitched s kind pos left) := by
  unfold State.spareSwitched
  repeat' with_reducible first
    | assumption | apply State.postDev_keeps

theorem State.updPort_keeps {s0 s : State} (p : Nat) (f : OlaPort → OlaPort) (hk : Keeps s0 s) : Keeps s0 (State.updPort s p f) := by
  unfold State.updPort
  repeat' with_reducible first
    | assumption | refine Keeps.lit ?_ rfl rfl rfl rfl rfl rfl rfl rfl

theorem State.sendFrame_keeps {s0 s : State} (src : Nat) (f : Frame) (prot : Bool) (hk : Keeps s0 s) :
    Keeps s0 (State.sendFrame s src f prot).1 := by
  unfold State.sendFrame
  repeat' with_reducible first
    | assumption | intro _ | apply OptKeeps.some | apply OptKeeps.none | apply OptKeeps.ite | apply State.updPort_keeps | apply Keeps.ite1
    | apply Keeps.ite | split | refine OptKeeps.get ?_ (by assumption) | refine Keeps.fst ?_ (by assumption)
    | refine Keeps.snd ?_ (by assumption) | dsimp only | refine Keeps.lit ?_ rfl rfl rfl rfl rfl rfl rfl rfl

theorem State.signalLost_keeps {s0 s : State} (ctx : Nat) (ref : Nat) (die : Nat) (code : Code) (hk : Keeps s0 s) :
    Keeps s0 (State.signalLost s ctx ref die code) := by
  unfold State.signalLost
  repeat' with_reducible first
    | assumption | apply State.postCtx_keeps

/-! ## Images -/

theorem State.postSignature_keeps {s0 s : State} (object : Nat) (reason : Nat) (hk : Keeps s0 s) :
    Keeps s0 (State.postSignature s object reason) := by
  unfold State.postSignature
  repeat' with_reducible first
    | assumption | apply State.postDev_keeps

/-! ## Sync -/

theorem State.setObj_keeps {s0 s : State} (k : ObjKey) (o : SyncObj) (hk : Keeps s0 s) : Keeps s0 (State.setObj s k o) := by
  unfold State.setObj
  repeat' with_reducible first
    | assumption | refine Keeps.lit ?_ rfl rfl rfl rfl rfl rfl rfl rfl

theorem State.tellWaiter_keeps {s0 s : State} (who : Party) (code : Code) (result : BitVec 32) (hk : Keeps s0 s) :
    Keeps s0 (State.tellWaiter s who code result) := by
  unfold State.tellWaiter
  repeat' with_reducible first
    | assumption | intro _ | apply OptKeeps.some | apply OptKeeps.none | apply OptKeeps.ite | apply State.countCtx_keeps
    | apply State.endFiller_keeps | apply State.endLetter_keeps | apply State.updLetter_keeps | apply State.updSeqr_keeps | apply Keeps.ite
    | split | refine OptKeeps.get ?_ (by assumption) | refine Keeps.fst ?_ (by assumption) | refine Keeps.snd ?_ (by assumption)
    | dsimp only | refine Keeps.lit ?_ rfl rfl rfl rfl rfl rfl rfl rfl

theorem State.settle_keeps {s0 s : State} (k : ObjKey) (o : SyncObj) (hk : Keeps s0 s) : Keeps s0 (State.settle s k o) := by
  unfold State.settle
  repeat' with_reducible first
    | assumption | intro _ | apply State.count_keeps | apply State.each_keeps | apply State.setObj_keeps | apply State.tellWaiter_keeps

theorem State.applySignal_keeps {s0 s : State} (op : SyncOp) (sop : Sop) (hk : Keeps s0 s) : Keeps s0 (State.applySignal s op sop) := by
  unfold State.applySignal
  repeat' with_reducible first
    | assumption | apply OptKeeps.some | apply OptKeeps.none | apply OptKeeps.ite | apply State.count_keeps | apply State.endLetter_keeps
    | apply State.postCtx_keeps | apply State.settle_keeps | apply Keeps.ite | split

theorem State.applyWait_keeps {s0 s : State} (op : SyncOp) (cond : Cond) (consume : Bool) (hk : Keeps s0 s) :
    Keeps s0 (State.applyWait s op cond consume) := by
  unfold State.applyWait
  repeat' with_reducible first
    | assumption | apply State.count_keeps | apply State.setObj_keeps | apply State.settle_keeps | apply State.tellWaiter_keeps
    | apply Keeps.ite

theorem State.orphanObj_keeps {s0 s : State} (k : ObjKey) (zero : Bool) (hk : Keeps s0 s) : Keeps s0 (State.orphanObj s k zero) := by
  unfold State.orphanObj
  repeat' with_reducible first
    | assumption | intro _ | apply State.count_keeps | apply State.each_keeps | apply State.setObj_keeps | apply State.tellWaiter_keeps

theorem State.orphanQueue_keeps {s0 s : State} (q : Nat) (hk : Keeps s0 s) : Keeps s0 (State.orphanQueue s q) := by
  unfold State.orphanQueue
  repeat' with_reducible first
    | assumption | intro _ | apply OptKeeps.some | apply OptKeeps.none | apply OptKeeps.ite | apply State.each_keeps
    | apply State.orphanObj_keeps

theorem State.dropWaits_keeps {s0 s : State} (k : ObjKey) (hk : Keeps s0 s) : Keeps s0 (State.dropWaits s k) := by
  unfold State.dropWaits
  repeat' with_reducible first
    | assumption | intro _ | apply State.count_keeps | apply State.each_keeps | apply State.setObj_keeps | apply State.tellWaiter_keeps

theorem State.failOp_keeps {s0 s : State} (op : SyncOp) (hk : Keeps s0 s) : Keeps s0 (State.failOp s op) := by
  unfold State.failOp
  repeat' with_reducible first
    | assumption | apply OptKeeps.some | apply OptKeeps.none | apply OptKeeps.ite | apply State.endLetter_keeps | apply State.postCtx_keeps
    | apply State.tellWaiter_keeps | split

theorem State.objFails_keeps {s0 s : State} (k : ObjKey) (home : Nat) (slab : Nat) (cl : Nat) (mem : Nat) (ref : Nat) (src : Nat) (hk : Keeps s0 s) :
    Keeps s0 (State.objFails s k home slab cl mem ref src) := by
  unfold State.objFails
  repeat' with_reducible first
    | assumption | intro _ | apply State.dropWaits_keeps | apply State.each_keeps | apply State.orphanObj_keeps | apply State.postCtx_keeps
    | apply State.postDev_keeps | apply Keeps.ite | split | dsimp only | refine Keeps.lit ?_ rfl rfl rfl rfl rfl rfl rfl rfl

theorem State.objCorrected_keeps {s0 s : State} (home : Nat) (slab : Nat) (hk : Keeps s0 s) : Keeps s0 (State.objCorrected s home slab) := by
  unfold State.objCorrected
  repeat' with_reducible first
    | assumption | apply State.count_keeps | apply Keeps.ite | split | dsimp only | refine Keeps.lit ?_ rfl rfl rfl rfl rfl rfl rfl rfl

theorem State.holdOp_keeps {s0 s : State} (home : Nat) (slab : Nat) (op : SyncOp) (hk : Keeps s0 s) : Keeps s0 (State.holdOp s home slab op) := by
  unfold State.holdOp
  repeat' with_reducible first
    | assumption | intro _ | apply Keeps.ite | split | dsimp only | refine Keeps.lit ?_ rfl rfl rfl rfl rfl rfl rfl rfl

theorem State.applyOp_keeps {s0 s : State} (op : SyncOp) (hk : Keeps s0 s) : Keeps s0 (State.applyOp s op) := by
  unfold State.applyOp
  repeat' with_reducible first
    | assumption | apply OptKeeps.some | apply OptKeeps.none | apply OptKeeps.ite | apply State.applySignal_keeps
    | apply State.applyWait_keeps | split

theorem State.goneOp_keeps {s0 s : State} (op : SyncOp) (hk : Keeps s0 s) : Keeps s0 (State.goneOp s op) := by
  unfold State.goneOp
  repeat' with_reducible first
    | assumption | apply OptKeeps.some | apply OptKeeps.none | apply OptKeeps.ite | apply State.endLetter_keeps
    | apply State.tellWaiter_keeps | split

theorem State.serveOp_keeps {s0 s : State} (op : SyncOp) (rd : ReadRes) (hk : Keeps s0 s) : Keeps s0 (State.serveOp s op rd) := by
  unfold State.serveOp
  repeat' with_reducible first
    | assumption | intro _ | apply OptKeeps.some | apply OptKeeps.none | apply OptKeeps.ite | apply State.applyOp_keeps
    | apply State.failOp_keeps | apply State.goneOp_keeps | apply State.holdOp_keeps | apply State.mend_keeps
    | apply State.objCorrected_keeps | apply State.objFails_keeps | apply Keeps.ite | split | refine OptKeeps.get ?_ (by assumption)
    | refine Keeps.fst ?_ (by assumption) | refine Keeps.snd ?_ (by assumption) | dsimp only

theorem State.signalDie_keeps {s0 s : State} (op : SyncOp) (sop : Sop) (die : Nat) (remote : Nat) (hk : Keeps s0 s) :
    Keeps s0 (State.signalDie s op sop die remote) := by
  unfold State.signalDie
  repeat' with_reducible first
    | assumption | apply OptKeeps.some | apply OptKeeps.none | apply OptKeeps.ite | apply State.sendFrame_keeps | apply State.serveOp_keeps
    | apply State.signalLost_keeps | apply Keeps.ite | split | refine OptKeeps.get ?_ (by assumption) | refine Keeps.fst ?_ (by assumption)
    | refine Keeps.snd ?_ (by assumption) | dsimp only

theorem State.proxySignal_keeps {s0 s : State} (op : SyncOp) (sop : Sop) (i : Nat) (hk : Keeps s0 s) :
    Keeps s0 (State.proxySignal s op sop i) := by
  unfold State.proxySignal
  repeat' with_reducible first
    | assumption | intro _ | apply OptKeeps.some | apply OptKeeps.none | apply OptKeeps.ite | apply State.each_keeps
    | apply State.endLetter_keeps | apply State.signalDie_keeps | apply Keeps.ite | split

theorem State.takeOp_keeps {s0 s : State} (i : Nat) (hk : Keeps s0 s) : Keeps s0 (State.takeOp s i) := by
  unfold State.takeOp
  repeat' with_reducible first
    | assumption | refine Keeps.lit ?_ rfl rfl rfl rfl rfl rfl rfl rfl

theorem State.doSignal_keeps {s0 s : State} (sop : Sop) (i : Nat) (rd : ReadRes) (hk : Keeps s0 s) : Keeps s0 (State.doSignal s sop i rd) := by
  unfold State.doSignal
  repeat' with_reducible first
    | assumption | apply OptKeeps.some | apply OptKeeps.none | apply OptKeeps.ite | apply State.proxySignal_keeps
    | apply State.serveOp_keeps | apply State.takeOp_keeps | apply Keeps.ite | split

theorem execSyncSignalAdd_keeps {s0 s : State} (i : Nat) (rd : ReadRes) (hk : Keeps s0 s) : ResKeeps s0 (execSyncSignalAdd i rd s) := by
  unfold execSyncSignalAdd
  repeat' with_reducible first
    | assumption | apply ResKeeps.next | apply State.doSignal_keeps

theorem execSyncSignalSub_keeps {s0 s : State} (i : Nat) (rd : ReadRes) (hk : Keeps s0 s) : ResKeeps s0 (execSyncSignalSub i rd s) := by
  unfold execSyncSignalSub
  repeat' with_reducible first
    | assumption | apply ResKeeps.next | apply State.doSignal_keeps

theorem execSyncSignalSet_keeps {s0 s : State} (i : Nat) (rd : ReadRes) (hk : Keeps s0 s) : ResKeeps s0 (execSyncSignalSet i rd s) := by
  unfold execSyncSignalSet
  repeat' with_reducible first
    | assumption | apply ResKeeps.next | apply State.doSignal_keeps

theorem execSyncWaitArrive_keeps {s0 s : State} (i : Nat) (rd : ReadRes) (hk : Keeps s0 s) : ResKeeps s0 (execSyncWaitArrive i rd s) := by
  unfold execSyncWaitArrive
  repeat' with_reducible first
    | assumption | apply ResKeeps.next | apply OptKeeps.some | apply OptKeeps.none | apply OptKeeps.ite | apply State.serveOp_keeps
    | apply State.takeOp_keeps | split

theorem State.doSlabCopyDone_keeps {s0 s : State} (home : Nat) (slab : Nat) (hk : Keeps s0 s) : Keeps s0 (State.doSlabCopyDone s home slab) := by
  unfold State.doSlabCopyDone
  repeat' with_reducible first
    | assumption | intro _ | apply OptKeeps.some | apply OptKeeps.none | apply OptKeeps.ite | apply State.bump_keeps
    | apply State.each_keeps | apply State.serveOp_keeps | apply State.setFld_keeps | apply State.spareSwitched_keeps | apply Keeps.ite
    | split | refine OptKeeps.get ?_ (by assumption) | refine Keeps.fst ?_ (by assumption) | refine Keeps.snd ?_ (by assumption)
    | dsimp only | refine Keeps.lit ?_ rfl rfl rfl rfl rfl rfl rfl rfl

theorem execSyncSlabCopyDone_keeps {s0 s : State} (home : Fin 17) (slab : Nat) (hk : Keeps s0 s) :
    ResKeeps s0 (execSyncSlabCopyDone home slab s) := by
  unfold execSyncSlabCopyDone
  repeat' with_reducible first
    | assumption | apply ResKeeps.next | apply State.doSlabCopyDone_keeps | apply ResKeeps.ite | apply Keeps.ite

theorem execSynPortDataWrite_keeps {s0 s : State} (v : View) (win : Fin 1024) (value : BitVec 64) (hk : Keeps s0 s) :
    ResKeeps s0 (execSynPortDataWrite v win value s) := by
  unfold execSynPortDataWrite
  repeat' with_reducible first
    | assumption | apply ResKeeps.next | apply OptKeeps.some | apply OptKeeps.none | apply OptKeeps.ite | apply State.setObj_keeps
    | apply ResKeeps.ite | apply Keeps.ite | split

/-! ## Memory -/

theorem State.setMap_keeps {s0 s : State} (r : Nat) (u : Nat) (e : BitVec 64) (hk : Keeps s0 s) : Keeps s0 (State.setMap s r u e) := by
  unfold State.setMap
  repeat' with_reducible first
    | assumption | refine Keeps.lit ?_ rfl rfl rfl rfl rfl rfl rfl rfl

theorem State.flashTouch_keeps {s0 s : State} (r : Nat) (off : Nat) (hk : Keeps s0 s) : Keeps s0 (State.flashTouch s r off) := by
  unfold State.flashTouch
  repeat' with_reducible first
    | assumption | apply OptKeeps.some | apply OptKeeps.none | apply OptKeeps.ite | apply State.count_keeps | split
    | refine OptKeeps.get ?_ (by assumption) | refine Keeps.fst ?_ (by assumption) | refine Keeps.snd ?_ (by assumption) | dsimp only
    | refine Keeps.lit ?_ rfl rfl rfl rfl rfl rfl rfl rfl

theorem State.sectorReads_keeps {s0 s : State} (r : Nat) (off : Nat) (n : Nat) (src : Nat) (hk : Keeps s0 s) :
    Keeps s0 (State.sectorReads s r off n src) := by
  unfold State.sectorReads
  repeat' with_reducible first
    | assumption | intro _ | apply State.each_keeps | apply State.charge_keeps | apply State.flashTouch_keeps | apply State.countCtx_keeps

theorem State.storeWrite_keeps {s0 s : State} (cl byte : Nat) (bs : List Byte) (h : Keeps s0 s) : Keeps s0 (s.storeWrite cl byte bs) := by
  unfold State.storeWrite
  exact State.mend_keeps _ _ (h.mem rfl rfl rfl rfl id (memWf_write _ _ _) id id)

theorem State.contained_keeps {s0 s : State} (ctx : Nat) (l : Option LetterId) (code : Code) (detail : List Byte) (hk : Keeps s0 s) :
    Keeps s0 (State.contained s ctx l code detail) := by
  unfold State.contained
  repeat' with_reducible first
    | assumption | apply OptKeeps.some | apply OptKeeps.none | apply OptKeeps.ite | apply State.postCtx_keeps | apply Keeps.ite | split

theorem State.logRow_keeps {s0 s : State} (a : Nat) (ue : Bool) (n : Nat) (hk : Keeps s0 s) : Keeps s0 (State.logRow s a ue n) := by
  unfold State.logRow
  repeat' with_reducible first
    | assumption | intro _ | apply OptKeeps.getD | apply State.setReg_keeps | apply Keeps.ite | split | dsimp only
    | refine Keeps.lit ?_ rfl rfl rfl rfl rfl rfl rfl rfl

theorem State.hbmCorrected_keeps {s0 s : State} (a : Nat) (hk : Keeps s0 s) : Keeps s0 (State.hbmCorrected s a) := by
  unfold State.hbmCorrected
  repeat' with_reducible first
    | assumption | apply State.count_keeps | apply State.logRow_keeps | apply Keeps.ite | split | dsimp only
    | refine Keeps.lit ?_ rfl rfl rfl rfl rfl rfl rfl rfl

theorem State.hbmNote_keeps {s0 s : State} (a : Nat) (rd : ReadRes) (hk : Keeps s0 s) : Keeps s0 (State.hbmNote s a rd) := by
  unfold State.hbmNote
  repeat' with_reducible first
    | assumption | apply OptKeeps.some | apply OptKeeps.none | apply OptKeeps.ite | apply State.hbmCorrected_keeps
    | apply State.logRow_keeps | split

theorem State.hbmReads_keeps {s0 : State} (l : List Nat) : ∀ (rd : ReadRes) {s : State}, Keeps s0 s → Keeps s0 (s.hbmReads l rd).1 := by
  induction l with
  | nil => intro _ s h; exact h
  | cons a l ih => intro rd s h; exact ih _ (State.hbmNote_keeps _ _ h)

theorem State.sramCorrected_keeps {s0 s : State} (r : SramRow) (hk : Keeps s0 s) : Keeps s0 (State.sramCorrected s r) := by
  unfold State.sramCorrected
  repeat' with_reducible first
    | assumption | intro _ | apply OptKeeps.some | apply OptKeeps.none | apply OptKeeps.ite | apply Keeps.ite | split
    | refine OptKeeps.get ?_ (by assumption) | refine Keeps.fst ?_ (by assumption) | refine Keeps.snd ?_ (by assumption) | dsimp only
    | refine Keeps.lit ?_ rfl rfl rfl rfl rfl rfl rfl rfl

theorem State.storeCorrected_keeps {s0 s : State} (cl : Nat) (line : Nat) (hk : Keeps s0 s) : Keeps s0 (State.storeCorrected s cl line) := by
  unfold State.storeCorrected
  repeat' with_reducible first
    | assumption | apply State.count_keeps | apply State.sramCorrected_keeps

theorem State.benchCorrected_keeps {s0 s : State} (c : Nat) (line : Nat) (hk : Keeps s0 s) : Keeps s0 (State.benchCorrected s c line) := by
  unfold State.benchCorrected
  repeat' with_reducible first
    | assumption | intro _ | apply State.count_keeps | apply State.mend_keeps | apply State.sramCorrected_keeps | apply State.updCore_keeps

theorem State.benchUe_keeps {s0 s : State} (c : Nat) (hk : Keeps s0 s) : Keeps s0 (State.benchUe s c) := by
  unfold State.benchUe
  repeat' with_reducible first
    | assumption | apply State.setFld_keeps

theorem State.benchRead_keeps {s0 s : State} (c : Nat) (line : Nat) (rd : ReadRes) (hk : Keeps s0 s) :
    Keeps s0 (State.benchRead s c line rd).1 := by
  unfold State.benchRead
  repeat' with_reducible first
    | assumption | apply OptKeeps.some | apply OptKeeps.none | apply OptKeeps.ite | apply State.benchCorrected_keeps | split

theorem State.benchReads_keeps {s0 : State} (c : Nat) (l : List Nat) : ∀ (rd : ReadRes) {s : State}, Keeps s0 s →
    Keeps s0 (s.benchReads c l rd).1 := by
  induction l with
  | nil => intro _ s h; exact h
  | cons a l ih => intro rd s h; exact ih _ (State.benchRead_keeps _ _ _ h)

theorem State.storeReads_keeps {s0 : State} (cl : Nat) (l : List Nat) : ∀ (rd : ReadRes) {s : State}, Keeps s0 s →
    Keeps s0 (s.storeReads cl l rd).1 := by
  induction l with
  | nil => intro _ s h; exact h
  | cons a l ih =>
    intro rd s h
    refine ih _ ?_
    split
    · exact h
    · exact State.storeCorrected_keeps _ _ h
    · exact h

/-! ## CourierOps -/

theorem State.updCourier_keeps {s0 s : State} (k : Nat) (f : Courier → Courier) (hk : Keeps s0 s) : Keeps s0 (State.updCourier s k f) := by
  unfold State.updCourier
  repeat' with_reducible first
    | assumption | refine Keeps.lit ?_ rfl rfl rfl rfl rfl rfl rfl rfl

theorem State.updDesc_keeps {s0 s : State} (k : Nat) (id : Nat) (f : CDesc → CDesc) (hk : Keeps s0 s) : Keeps s0 (State.updDesc s k id f) := by
  unfold State.updDesc
  repeat' with_reducible first
    | assumption | intro _ | apply State.updCourier_keeps

theorem State.crrNote_keeps {s0 s : State} (k : Nat) (hk : Keeps s0 s) : Keeps s0 (State.crrNote s k) := by
  unfold State.crrNote
  repeat' with_reducible first
    | assumption | intro _ | apply State.setFld_keeps | apply Keeps.ite

theorem State.fresh_keeps {s0 s : State} (hk : Keeps s0 s) : Keeps s0 (State.fresh s).2 := by
  unfold State.fresh
  repeat' with_reducible first
    | assumption | refine Keeps.lit ?_ rfl rfl rfl rfl rfl rfl rfl rfl

theorem State.addReq_keeps {s0 s : State} (r : Req) (hk : Keeps s0 s) : Keeps s0 (State.addReq s r) := by
  unfold State.addReq
  repeat' with_reducible first
    | assumption | refine Keeps.lit ?_ rfl rfl rfl rfl rfl rfl rfl rfl

theorem State.dropReq_keeps {s0 s : State} (tag : Nat) (hk : Keeps s0 s) : Keeps s0 (State.dropReq s tag) := by
  unfold State.dropReq
  repeat' with_reducible first
    | assumption | intro _ | dsimp only | refine Keeps.lit ?_ rfl rfl rfl rfl rfl rfl rfl rfl

theorem State.queueDesc_keeps {s0 s : State} (k : Nat) (o : Origin) (d : Desc) (ctx : Nat) (q : Nat) (ph : Nat) (hint : Nat) (stamp : Option (BitVec 32)) (hk : Keeps s0 s) :
    Keeps s0 (State.queueDesc s k o d ctx q ph hint stamp) := by
  unfold State.queueDesc
  repeat' with_reducible first
    | assumption | intro _ | apply OptKeeps.some | apply OptKeeps.none | apply OptKeeps.ite | apply State.crrNote_keeps
    | apply State.fresh_keeps | apply State.updCourier_keeps

theorem State.cmdEnds_keeps {s0 s : State} (cm : Nat) (id : Nat) (code : Code) (hk : Keeps s0 s) : Keeps s0 (State.cmdEnds s cm id code) := by
  unfold State.cmdEnds
  repeat' with_reducible first
    | assumption | intro _ | apply OptKeeps.some | apply OptKeeps.none | apply OptKeeps.ite | apply State.updCore_keeps | apply Keeps.ite
    | split

theorem State.swapFails_keeps {s0 s : State} (l : LetterId) (hk : Keeps s0 s) : Keeps s0 (State.swapFails s l) := by
  unfold State.swapFails
  repeat' with_reducible first
    | assumption | apply OptKeeps.some | apply OptKeeps.none | apply OptKeeps.ite | apply State.endLetter_keeps | apply State.postCtx_keeps
    | apply State.setWork_keeps | apply Keeps.ite | split

theorem State.moveEnds_keeps {s0 s : State} (l : LetterId) (e : LetterEnd) (hk : Keeps s0 s) : Keeps s0 (State.moveEnds s l e) := by
  unfold State.moveEnds
  repeat' with_reducible first
    | assumption | apply OptKeeps.some | apply OptKeeps.none | apply OptKeeps.ite | apply State.endLetter_keeps
    | apply State.letterDone_keeps | apply Keeps.ite | split

theorem State.placeEnds_keeps {s0 s : State} (l : LetterId) (hk : Keeps s0 s) : Keeps s0 (State.placeEnds s l) := by
  unfold State.placeEnds
  repeat' with_reducible first
    | assumption | apply OptKeeps.some | apply OptKeeps.none | apply OptKeeps.ite | apply State.endLetter_keeps | split

theorem State.placeFails_keeps {s0 s : State} (l : LetterId) (i : Nat) (c : Code) (hk : Keeps s0 s) : Keeps s0 (State.placeFails s l i c) := by
  unfold State.placeFails
  repeat' with_reducible first
    | assumption | intro _ | apply OptKeeps.some | apply OptKeeps.none | apply OptKeeps.ite | apply State.placeEnds_keeps
    | apply State.updLetter_keeps

theorem State.switchEnds_keeps {s0 s : State} (cl : Nat) (from_ : SwitchPhase) (to_ : SwitchPhase) (x : Switch → Option Nat) (code : Code) (hk : Keeps s0 s) :
    Keeps s0 (State.switchEnds s cl from_ to_ x code) := by
  unfold State.switchEnds
  repeat' with_reducible first
    | assumption | intro _ | apply OptKeeps.some | apply OptKeeps.none | apply OptKeeps.ite | apply Keeps.ite | split
    | refine OptKeeps.get ?_ (by assumption) | refine Keeps.fst ?_ (by assumption) | refine Keeps.snd ?_ (by assumption) | dsimp only
    | refine Keeps.lit ?_ rfl rfl rfl rfl rfl rfl rfl rfl

theorem State.originEnds_keeps {s0 s : State} (o : Origin) (code : Code) (hk : Keeps s0 s) : Keeps s0 (State.originEnds s o code) := by
  unfold State.originEnds
  repeat' with_reducible first
    | assumption | intro _ | apply OptKeeps.some | apply OptKeeps.none | apply OptKeeps.ite | apply State.cmdEnds_keeps
    | apply State.each_keeps | apply State.endLetter_keeps | apply State.letterDone_keeps | apply State.moveEnds_keeps
    | apply State.placeFails_keeps | apply State.sendFrame_keeps | apply State.setWork_keeps | apply State.swapFails_keeps
    | apply State.switchEnds_keeps | apply State.updLetter_keeps | apply Keeps.ite | split | refine OptKeeps.get ?_ (by assumption)
    | refine Keeps.fst ?_ (by assumption) | refine Keeps.snd ?_ (by assumption) | dsimp only
    | refine Keeps.lit ?_ rfl rfl rfl rfl rfl rfl rfl rfl

theorem State.updLace_keeps {s0 s : State} (cl : Nat) (f : Lace → Lace) (hk : Keeps s0 s) : Keeps s0 (State.updLace s cl f) := by
  unfold State.updLace
  repeat' with_reducible first
    | assumption | refine Keeps.lit ?_ rfl rfl rfl rfl rfl rfl rfl rfl

theorem State.laceIdle_keeps {s0 s : State} (cl : Nat) (id : Nat) (hk : Keeps s0 s) : Keeps s0 (State.laceIdle s cl id) := by
  unfold State.laceIdle
  repeat' with_reducible first
    | assumption | intro _ | apply OptKeeps.some | apply OptKeeps.none | apply OptKeeps.ite | apply State.setFld_keeps
    | apply State.updLace_keeps | apply Keeps.ite

theorem State.endDesc_keeps {s0 s : State} (k : Nat) (id : Nat) (code : Code) (detail : List Byte) (hk : Keeps s0 s) :
    Keeps s0 (State.endDesc s k id code detail) := by
  unfold State.endDesc
  repeat' with_reducible first
    | assumption | intro _ | apply OptKeeps.some | apply OptKeeps.none | apply OptKeeps.ite | apply State.contained_keeps
    | apply State.count_keeps | apply State.crrNote_keeps | apply State.laceIdle_keeps | apply State.originEnds_keeps
    | apply State.setFld_keeps | apply State.updCourier_keeps | apply Keeps.ite | split

theorem State.settleDesc_keeps {s0 s : State} (k : Nat) (id : Nat) (detail : List Byte) (hk : Keeps s0 s) :
    Keeps s0 (State.settleDesc s k id detail) := by
  unfold State.settleDesc
  repeat' with_reducible first
    | assumption | apply OptKeeps.some | apply OptKeeps.none | apply OptKeeps.ite | apply State.endDesc_keeps | apply Keeps.ite | split

theorem State.failDesc_keeps {s0 s : State} (k : Nat) (id : Nat) (code : Code) (line : Nat) (detail : List Byte) (hk : Keeps s0 s) :
    Keeps s0 (State.failDesc s k id code line detail) := by
  unfold State.failDesc
  repeat' with_reducible first
    | assumption | intro _ | apply OptKeeps.some | apply OptKeeps.none | apply OptKeeps.ite | apply State.crrNote_keeps
    | apply State.settleDesc_keeps | apply State.updDesc_keeps

theorem State.failDescs_keeps {s0 s : State} (p : CDesc → Bool) (code : Code) (hk : Keeps s0 s) : Keeps s0 (State.failDescs s p code) := by
  unfold State.failDescs
  repeat' with_reducible first
    | assumption | intro _ | apply State.each_keeps | apply State.failDesc_keeps

theorem State.adoptShare_keeps {s0 s : State} (p : Nat) (hk : Keeps s0 s) : Keeps s0 (State.adoptShare s p) := by
  unfold State.adoptShare
  repeat' with_reducible first
    | assumption | apply State.setReg_keeps | apply Keeps.ite | split | dsimp only | refine Keeps.lit ?_ rfl rfl rfl rfl rfl rfl rfl rfl

/-! ## CoreOps -/

theorem State.popHead_keeps {s0 s : State} (p : CorePlace) (hk : Keeps s0 s) : Keeps s0 (State.popHead s p) := by
  unfold State.popHead
  repeat' with_reducible first
    | assumption | intro _ | apply State.updSeqr_keeps

theorem State.failStream_keeps {s0 s : State} (x : Nat) (cm : Nat) (l : LetterId) (code : Code) (hk : Keeps s0 s) :
    Keeps s0 (State.failStream s x cm l code) := by
  unfold State.failStream
  repeat' with_reducible first
    | assumption | intro _ | apply OptKeeps.some | apply OptKeeps.none | apply OptKeeps.ite | apply State.updSeqr_keeps

theorem State.handOver_keeps {s0 s : State} (p : CorePlace) (t : Stream) (r : BitVec 128) (e : Engine) (hk : Keeps s0 s) :
    Keeps s0 (State.handOver s p t r e) := by
  unfold State.handOver
  repeat' with_reducible first
    | assumption | intro _ | apply State.popHead_keeps | apply State.updCore_keeps

theorem State.dispatch_keeps {s0 s : State} (c : Nat) (is : BitVec 128 → Bool) (go : State → CorePlace → Stream → BitVec 128 → State) (hk : Keeps s0 s) (hgo : ∀ s x1 x2 x3, Keeps s0 s → Keeps s0 (go s x1 x2 x3)) :
    Keeps s0 (State.dispatch s c is go) := by
  unfold State.dispatch
  repeat' with_reducible first
    | assumption | intro _ | apply OptKeeps.some | apply OptKeeps.none | apply OptKeeps.ite | apply State.failStream_keeps
    | apply State.popHead_keeps | apply hgo | apply Keeps.ite | split

theorem State.updCmd_keeps {s0 s : State} (c : Nat) (id : Nat) (f : Cmd → Cmd) (hk : Keeps s0 s) : Keeps s0 (State.updCmd s c id f) := by
  unfold State.updCmd
  repeat' with_reducible first
    | assumption | intro _ | apply State.updCore_keeps

theorem State.freeTile_keeps {s0 s : State} (fmt : Nat) (hk : Keeps s0 s) : Keeps s0 (State.freeTile s fmt).2 := by
  unfold State.freeTile
  repeat' with_reducible first
    | assumption | apply State.freeBytes_keeps

theorem State.ldsLost_keeps {s0 s : State} (c : Nat) (x : Cmd) (hk : Keeps s0 s) : Keeps s0 (State.ldsLost s c x) := by
  unfold State.ldsLost
  repeat' with_reducible first
    | assumption | intro _ | apply OptKeeps.some | apply OptKeeps.none | apply OptKeeps.ite | apply State.each_keeps
    | apply State.freeTile_keeps | apply State.updCore_keeps | apply Keeps.ite

theorem State.failCmd_keeps {s0 s : State} (c : Nat) (id : Nat) (code : Code) (hk : Keeps s0 s) : Keeps s0 (State.failCmd s c id code) := by
  unfold State.failCmd
  repeat' with_reducible first
    | assumption | intro _ | apply OptKeeps.some | apply OptKeeps.none | apply OptKeeps.ite | apply OptKeeps.getD
    | apply State.failStream_keeps | apply State.ldsLost_keeps | apply State.updCmd_keeps | apply State.updCore_keeps | split
    | refine OptKeeps.get ?_ (by assumption) | refine Keeps.fst ?_ (by assumption) | refine Keeps.snd ?_ (by assumption) | dsimp only

theorem State.benchFails_keeps {s0 s : State} (c : Nat) (id : Nat) (hk : Keeps s0 s) : Keeps s0 (State.benchFails s c id) := by
  unfold State.benchFails
  repeat' with_reducible first
    | assumption | apply OptKeeps.some | apply OptKeeps.none | apply OptKeeps.ite | apply State.benchUe_keeps | apply State.contained_keeps
    | apply State.failCmd_keeps | split

theorem State.engineHands_keeps {s0 s : State} (p : CorePlace) (e : Engine) (hk : Keeps s0 s) : Keeps s0 (State.engineHands s p e) := by
  unfold State.engineHands
  repeat' with_reducible first
    | assumption | intro _ | apply OptKeeps.some | apply OptKeeps.none | apply OptKeeps.ite | apply State.queueDesc_keeps
    | apply State.updCmd_keeps | apply Keeps.ite | split

theorem State.coreHands_keeps {s0 s : State} (c : Nat) (hk : Keeps s0 s) : Keeps s0 (State.coreHands s c) := by
  unfold State.coreHands
  repeat' with_reducible first
    | assumption | apply OptKeeps.some | apply OptKeeps.none | apply OptKeeps.ite | apply State.engineHands_keeps | split

theorem State.clusterHands_keeps {s0 s : State} (k : Nat) (hk : Keeps s0 s) : Keeps s0 (State.clusterHands s k) := by
  unfold State.clusterHands
  repeat' with_reducible first
    | assumption | intro _ | apply State.coreHands_keeps | apply State.each_keeps | apply Keeps.ite

theorem State.freezeLace_keeps {s0 s : State} (cl : Nat) (hk : Keeps s0 s) : Keeps s0 (State.freezeLace s cl) := by
  unfold State.freezeLace
  repeat' with_reducible first
    | assumption | intro _ | apply State.each_keeps | apply State.failDescs_keeps | apply State.setFld_keeps | apply State.updCore_keeps
    | apply State.updLace_keeps

theorem State.thawLace_keeps {s0 s : State} (cl : Nat) (hk : Keeps s0 s) : Keeps s0 (State.thawLace s cl) := by
  unfold State.thawLace
  repeat' with_reducible first
    | assumption | intro _ | apply State.setFld_keeps | apply State.updLace_keeps | apply Keeps.ite

theorem State.faultBit_keeps {s0 s : State} (c : Nat) (a : Nat) (f : CoreFault) (hk : Keeps s0 s) : Keeps s0 (State.faultBit s c a f) := by
  unfold State.faultBit
  repeat' with_reducible first
    | assumption | apply OptKeeps.some | apply OptKeeps.none | apply OptKeeps.ite | apply State.setFld_keeps | split

theorem State.zeroCore_keeps {s0 s : State} (c : Nat) (h : Keeps s0 s) : Keeps s0 (s.zeroCore c) := by
  unfold State.zeroCore
  exact (State.mend_keeps (s := s) 0 (fun l => l / 16384 == c) h).mem rfl rfl rfl rfl id id (memWf_clear _ _ _) (memWf_clear _ _ _)

/-! ## GatherOps -/

theorem State.cacheInv_keeps {s0 s : State} (p : Nat → Bool) (hk : Keeps s0 s) : Keeps s0 (State.cacheInv s p) := by
  unfold State.cacheInv
  repeat' with_reducible first
    | assumption | intro _ | apply OptKeeps.some | apply OptKeeps.none | apply OptKeeps.ite | apply Keeps.ite | split
    | refine OptKeeps.get ?_ (by assumption) | refine Keeps.fst ?_ (by assumption) | refine Keeps.snd ?_ (by assumption) | dsimp only
    | refine Keeps.lit ?_ rfl rfl rfl rfl rfl rfl rfl rfl

theorem State.updBag_keeps {s0 s : State} (k : Nat) (slot : Nat) (f : Bag → Bag) (hk : Keeps s0 s) : Keeps s0 (State.updBag s k slot f) := by
  unfold State.updBag
  repeat' with_reducible first
    | assumption | intro _ | apply Keeps.ite | split | dsimp only | refine Keeps.lit ?_ rfl rfl rfl rfl rfl rfl rfl rfl

theorem State.srtNote_keeps {s0 s : State} (k : Nat) (hk : Keeps s0 s) : Keeps s0 (State.srtNote s k) := by
  unfold State.srtNote
  repeat' with_reducible first
    | assumption | intro _ | apply State.setFld_keeps

theorem State.dropJobs_keeps {s0 s : State} (l : LetterId) (hk : Keeps s0 s) : Keeps s0 (State.dropJobs s l) := by
  unfold State.dropJobs
  repeat' with_reducible first
    | assumption | intro _ | apply State.each_keeps | apply State.srtNote_keeps | refine OptKeeps.get ?_ (by assumption)
    | refine Keeps.fst ?_ (by assumption) | refine Keeps.snd ?_ (by assumption) | dsimp only
    | refine Keeps.lit ?_ rfl rfl rfl rfl rfl rfl rfl rfl

theorem State.purgeHeld_keeps {s0 s : State} (hk : Keeps s0 s) : Keeps s0 (State.purgeHeld s) := by
  unfold State.purgeHeld
  repeat' with_reducible first
    | assumption | intro _ | apply OptKeeps.some | apply OptKeeps.none | apply OptKeeps.ite | apply Keeps.ite | split
    | refine OptKeeps.get ?_ (by assumption) | refine Keeps.fst ?_ (by assumption) | refine Keeps.snd ?_ (by assumption) | dsimp only
    | refine Keeps.lit ?_ rfl rfl rfl rfl rfl rfl rfl rfl

theorem State.removeBag_keeps {s0 s : State} (k : Nat) (slot : Nat) (hk : Keeps s0 s) : Keeps s0 (State.removeBag s k slot) := by
  unfold State.removeBag
  repeat' with_reducible first
    | assumption | intro _ | apply State.purgeHeld_keeps | apply State.srtNote_keeps | apply Keeps.ite | split | dsimp only
    | refine Keeps.lit ?_ rfl rfl rfl rfl rfl rfl rfl rfl

theorem State.gatherEnds_keeps {s0 s : State} (l : LetterId) (hk : Keeps s0 s) : Keeps s0 (State.gatherEnds s l) := by
  unfold State.gatherEnds
  repeat' with_reducible first
    | assumption | intro _ | apply OptKeeps.some | apply OptKeeps.none | apply OptKeeps.ite | apply State.endLetter_keeps
    | apply State.letterDone_keeps | apply Keeps.ite | split

theorem State.failBag_keeps {s0 s : State} (k : Nat) (slot : Nat) (code : Code) (detail : List Byte) (hk : Keeps s0 s) :
    Keeps s0 (State.failBag s k slot code detail) := by
  unfold State.failBag
  repeat' with_reducible first
    | assumption | intro _ | apply OptKeeps.some | apply OptKeeps.none | apply OptKeeps.ite | apply State.contained_keeps
    | apply State.dropJobs_keeps | apply State.gatherEnds_keeps | apply State.removeBag_keeps | apply State.setFld_keeps
    | apply State.updLetter_keeps | apply Keeps.ite | split

/-! ## FlashOps -/

theorem State.setErased_keeps {s0 s : State} (grp : Nat) (b : Bool) (hk : Keeps s0 s) : Keeps s0 (State.setErased s grp b) := by
  unfold State.setErased
  repeat' with_reducible first
    | assumption | refine Keeps.lit ?_ rfl rfl rfl rfl rfl rfl rfl rfl

theorem State.noteFree_keeps {s0 s : State} (hk : Keeps s0 s) : Keeps s0 (State.noteFree s) := by
  unfold State.noteFree
  repeat' with_reducible first
    | assumption | intro _ | apply State.each_keeps | apply State.setFld_keeps

theorem State.addErase_keeps {s0 s : State} (ch : Nat) (blk : Nat) (waits : List Nat) (hk : Keeps s0 s) :
    Keeps s0 (State.addErase s ch blk waits) := by
  unfold State.addErase
  repeat' with_reducible first
    | assumption | dsimp only | refine Keeps.lit ?_ rfl rfl rfl rfl rfl rfl rfl rfl

theorem State.reclaim_keeps {s0 s : State} (ch : Nat) (blk : Nat) (hk : Keeps s0 s) : Keeps s0 (State.reclaim s ch blk) := by
  unfold State.reclaim
  repeat' with_reducible first
    | assumption | intro _ | apply State.addErase_keeps | apply Keeps.ite

theorem State.trimUnit_keeps {s0 s : State} (r : Nat) (u : Nat) (hk : Keeps s0 s) : Keeps s0 (State.trimUnit s r u) := by
  unfold State.trimUnit
  repeat' with_reducible first
    | assumption | intro _ | apply OptKeeps.some | apply OptKeeps.none | apply OptKeeps.ite | apply State.cacheInv_keeps
    | apply State.reclaim_keeps | apply State.setMap_keeps | split | refine OptKeeps.get ?_ (by assumption)
    | refine Keeps.fst ?_ (by assumption) | refine Keeps.snd ?_ (by assumption) | dsimp only
    | refine Keeps.lit ?_ rfl rfl rfl rfl rfl rfl rfl rfl

theorem State.trimUnits_keeps {s0 s : State} (r : Nat) (u : Nat) (n : Nat) (hk : Keeps s0 s) : Keeps s0 (State.trimUnits s r u n) := by
  unfold State.trimUnits
  repeat' with_reducible first
    | assumption | intro _ | apply State.each_keeps | apply State.trimUnit_keeps

theorem State.setFlReq_keeps {s0 s : State} (slot : Nat) (r : Option FlReq) (hk : Keeps s0 s) : Keeps s0 (State.setFlReq s slot r) := by
  unfold State.setFlReq
  repeat' with_reducible first
    | assumption | refine Keeps.lit ?_ rfl rfl rfl rfl rfl rfl rfl rfl

theorem State.endFlReq_keeps {s0 s : State} (slot : Nat) (st : Nat) (code : Nat) (hk : Keeps s0 s) :
    Keeps s0 (State.endFlReq s slot st code) := by
  unfold State.endFlReq
  repeat' with_reducible first
    | assumption | apply State.setFlReq_keeps | apply State.setFld_keeps

theorem State.flProgress_keeps {s0 s : State} (slot : Nat) (r : FlReq) (hk : Keeps s0 s) : Keeps s0 (State.flProgress s slot r) := by
  unfold State.flProgress
  repeat' with_reducible first
    | assumption | apply OptKeeps.some | apply OptKeeps.none | apply OptKeeps.ite | apply State.setFlReq_keeps | apply State.setFld_keeps

theorem State.addProg_keeps {s0 s : State} (j : ProgJob) (hk : Keeps s0 s) : Keeps s0 (State.addProg s j) := by
  unfold State.addProg
  repeat' with_reducible first
    | assumption | dsimp only | refine Keeps.lit ?_ rfl rfl rfl rfl rfl rfl rfl rfl

theorem State.hbmRun_keeps {s0 s : State} (a : Nat) (n : Nat) (hk : Keeps s0 s) : Keeps s0 (State.hbmRun s a n) := by
  unfold State.hbmRun
  repeat' with_reducible first
    | assumption | intro _ | apply State.each_keeps | apply State.hbmAccess_keeps

theorem State.flCharge_keeps {s0 s : State} (r : FlReq) (hk : Keeps s0 s) : Keeps s0 (State.flCharge s r) := by
  unfold State.flCharge
  repeat' with_reducible first
    | assumption | intro _ | apply Keeps.ite | apply State.hbmRun_keeps | apply State.sectorReads_keeps

theorem State.flNext_keeps {s0 s : State} (slot : Nat) (r : FlReq) (g : FlashGroup) (hk : Keeps s0 s) :
    OptKeeps s0 (State.flNext s slot r g) := by
  unfold State.flNext
  repeat' with_reducible first
    | assumption | intro _ | apply OptKeeps.some | apply OptKeeps.none | apply State.addProg_keeps | apply State.endFlReq_keeps
    | apply State.flCharge_keeps | apply State.setFlReq_keeps | apply OptKeeps.ite | apply Keeps.ite | split

theorem State.abortFlReq_keeps {s0 s : State} (slot : Nat) (hk : Keeps s0 s) : Keeps s0 (State.abortFlReq s slot) := by
  unfold State.abortFlReq
  repeat' with_reducible first
    | assumption | intro _ | apply OptKeeps.some | apply OptKeeps.none | apply OptKeeps.ite | apply State.endFlReq_keeps
    | apply State.setFlReq_keeps | apply Keeps.ite | split | refine OptKeeps.get ?_ (by assumption) | refine Keeps.fst ?_ (by assumption)
    | refine Keeps.snd ?_ (by assumption) | dsimp only | refine Keeps.lit ?_ rfl rfl rfl rfl rfl rfl rfl rfl

theorem State.abortFlReqs_keeps {s0 s : State} (p : Nat → Bool) (hk : Keeps s0 s) : Keeps s0 (State.abortFlReqs s p) := by
  unfold State.abortFlReqs
  repeat' with_reducible first
    | assumption | intro _ | apply OptKeeps.some | apply OptKeeps.none | apply OptKeeps.ite | apply State.abortFlReq_keeps
    | apply State.each_keeps | apply Keeps.ite | split

theorem State.trimReq_keeps {s0 s : State} (slot : Nat) (hk : Keeps s0 s) : Keeps s0 (State.trimReq s slot) := by
  unfold State.trimReq
  repeat' with_reducible first
    | assumption | intro _ | apply OptKeeps.some | apply OptKeeps.none | apply OptKeeps.ite | apply State.endFlReq_keeps
    | apply State.flProgress_keeps | apply State.trimUnits_keeps | apply Keeps.ite | split

theorem State.configReq_keeps {s0 s : State} (slot : Nat) (hk : Keeps s0 s) : Keeps s0 (State.configReq s slot) := by
  unfold State.configReq
  repeat' with_reducible first
    | assumption | apply OptKeeps.some | apply OptKeeps.none | apply OptKeeps.ite | apply State.endFlReq_keeps
    | apply State.hbmRun_keeps
    | apply State.postSignature_keeps | apply State.setFlReq_keeps | apply Keeps.ite | split | refine OptKeeps.get ?_ (by assumption)
    | refine Keeps.fst ?_ (by assumption) | refine Keeps.snd ?_ (by assumption) | dsimp only
    | refine Keeps.lit ?_ rfl rfl rfl rfl rfl rfl rfl rfl

theorem State.issueJob_keeps {s0 s : State} (w : FlashJob) (hk : Keeps s0 s) : Keeps s0 (State.issueJob s w) := by
  unfold State.issueJob
  repeat' with_reducible first
    | assumption | intro _ | apply OptKeeps.some | apply OptKeeps.none | apply OptKeeps.ite | apply State.cacheInv_keeps
    | apply State.setErased_keeps | split | refine OptKeeps.get ?_ (by assumption) | refine Keeps.fst ?_ (by assumption)
    | refine Keeps.snd ?_ (by assumption) | dsimp only | refine Keeps.lit ?_ rfl rfl rfl rfl rfl rfl rfl rfl

theorem State.flKick_keeps {s0 s : State} (hk : Keeps s0 s) : Keeps s0 (State.flKick s) := by
  unfold State.flKick
  repeat' with_reducible first
    | assumption | intro _ | apply State.configReq_keeps | apply State.each_keeps | apply State.trimReq_keeps | apply Keeps.ite

theorem State.pclChange_keeps {s0 s : State} (hk : Keeps s0 s) : Keeps s0 (State.pclChange s) := by
  unfold State.pclChange
  repeat' with_reducible first
    | assumption | apply State.count_keeps | apply State.setFld_keeps | apply State.toHost_keeps | apply Keeps.ite

/-! ## KvOps -/

theorem State.updSequence_keeps {s0 s : State} (n : Nat) (f : Sequence → Sequence) (hk : Keeps s0 s) : Keeps s0 (State.updSequence s n f) := by
  unfold State.updSequence
  repeat' with_reducible first
    | assumption | refine Keeps.lit ?_ rfl rfl rfl rfl rfl rfl rfl rfl

theorem State.tableLine_keeps {s0 s : State} (a : Nat) (bs : List Byte) (hk : Keeps s0 s) : Keeps s0 (State.tableLine s a bs) := by
  unfold State.tableLine
  repeat' with_reducible first
    | assumption | apply State.hbmAccess_keeps | apply State.hbmWrite_keeps

theorem State.setTableEntry_keeps {s0 s : State} (a : Nat) (e : BitVec 64) (hk : Keeps s0 s) : Keeps s0 (State.setTableEntry s a e) := by
  unfold State.setTableEntry
  repeat' with_reducible first
    | assumption | apply State.tableLine_keeps

theorem State.setPage_keeps {s0 s : State} (n : Nat) (layer : Nat) (slot : Nat) (e : BitVec 64) (hk : Keeps s0 s) :
    Keeps s0 (State.setPage s n layer slot e) := by
  unfold State.setPage
  repeat' with_reducible first
    | assumption | apply OptKeeps.some | apply OptKeeps.none | apply OptKeeps.ite | apply State.setTableEntry_keeps | split

theorem State.writeTables_keeps {s0 s : State} (x : Nat) (a : Nat) (hk : Keeps s0 s) : Keeps s0 (State.writeTables s x a) := by
  unfold State.writeTables
  repeat' with_reducible first
    | assumption | intro _ | apply State.each_keeps | apply State.tableLine_keeps

theorem State.clearTables_keeps {s0 s : State} (a : Nat) (n : Nat) (hk : Keeps s0 s) : Keeps s0 (State.clearTables s a n) := by
  unfold State.clearTables
  repeat' with_reducible first
    | assumption | intro _ | apply State.each_keeps | apply State.tableLine_keeps

theorem State.takeFrame_keeps {s0 s : State} (x : Nat) (f : Nat) (hk : Keeps s0 s) : Keeps s0 (State.takeFrame s x f) := by
  unfold State.takeFrame
  repeat' with_reducible first
    | assumption | apply State.setFld_keeps | refine Keeps.lit ?_ rfl rfl rfl rfl rfl rfl rfl rfl

theorem State.freeFrame_keeps {s0 s : State} (x : Nat) (f : Nat) (hk : Keeps s0 s) : Keeps s0 (State.freeFrame s x f) := by
  unfold State.freeFrame
  repeat' with_reducible first
    | assumption | apply State.setFld_keeps | refine Keeps.lit ?_ rfl rfl rfl rfl rfl rfl rfl rfl

theorem State.setKvSlot_keeps {s0 s : State} (x : Nat) (f : Nat) (b : Bool) (hk : Keeps s0 s) : Keeps s0 (State.setKvSlot s x f b) := by
  unfold State.setKvSlot
  repeat' with_reducible first
    | assumption | refine Keeps.lit ?_ rfl rfl rfl rfl rfl rfl rfl rfl

theorem State.freeKvSlot_keeps {s0 s : State} (x : Nat) (f : Nat) (hk : Keeps s0 s) : Keeps s0 (State.freeKvSlot s x f) := by
  unfold State.freeKvSlot
  repeat' with_reducible first
    | assumption | apply State.setKvSlot_keeps | apply State.trimUnits_keeps

theorem State.freeEntry_keeps {s0 s : State} (x : Nat) (e : BitVec 64) (hk : Keeps s0 s) : Keeps s0 (State.freeEntry s x e) := by
  unfold State.freeEntry
  repeat' with_reducible first
    | assumption | apply State.freeFrame_keeps | apply State.freeKvSlot_keeps | apply Keeps.ite

theorem State.dropRing_keeps {s0 s : State} (x : Nat) (n : Nat) (layer : Nat) (page : Nat) (hk : Keeps s0 s) :
    Keeps s0 (State.dropRing s x n layer page) := by
  unfold State.dropRing
  repeat' with_reducible first
    | assumption | apply State.freeEntry_keeps | apply State.setPage_keeps | apply Keeps.ite

theorem State.dropPin_keeps {s0 s : State} (x : Nat) (n : Nat) (layer : Nat) (slot : Nat) (hk : Keeps s0 s) :
    Keeps s0 (State.dropPin s x n layer slot) := by
  unfold State.dropPin
  repeat' with_reducible first
    | assumption | apply State.freeEntry_keeps | apply State.setPage_keeps | apply Keeps.ite

theorem State.releaseBelow_keeps {s0 s : State} (x : Nat) (n : Nat) (hk : Keeps s0 s) : Keeps s0 (State.releaseBelow s x n) := by
  unfold State.releaseBelow
  repeat' with_reducible first
    | assumption | intro _ | apply State.dropRing_keeps | apply State.each_keeps | apply Keeps.ite

theorem State.releaseAll_keeps {s0 s : State} (x : Nat) (n : Nat) (hk : Keeps s0 s) : Keeps s0 (State.releaseAll s x n) := by
  unfold State.releaseAll
  repeat' with_reducible first
    | assumption | intro _ | apply State.dropPin_keeps | apply State.dropRing_keeps | apply State.each_keeps | apply Keeps.ite

theorem State.dropTransit_keeps {s0 s : State} (n : Nat) (hk : Keeps s0 s) : Keeps s0 (State.dropTransit s n) := by
  unfold State.dropTransit
  repeat' with_reducible first
    | assumption | intro _ | apply OptKeeps.some | apply OptKeeps.none | apply OptKeeps.ite | apply State.freeKvSlot_keeps
    | apply State.updSequence_keeps | apply Keeps.ite | split | refine OptKeeps.get ?_ (by assumption) | refine Keeps.fst ?_ (by assumption)
    | refine Keeps.snd ?_ (by assumption) | dsimp only | refine Keeps.lit ?_ rfl rfl rfl rfl rfl rfl rfl rfl

theorem State.afterEdit_keeps {s0 s : State} (n : Nat) (hk : Keeps s0 s) : Keeps s0 (State.afterEdit s n) := by
  unfold State.afterEdit
  repeat' with_reducible first
    | assumption | intro _ | apply OptKeeps.some | apply OptKeeps.none | apply OptKeeps.ite | apply State.dropTransit_keeps
    | apply State.updSequence_keeps | apply Keeps.ite | split

theorem State.editEffect_keeps {s0 s : State} (n : Nat) (e : Edit) (hk : Keeps s0 s) : Keeps s0 (State.editEffect s n e) := by
  unfold State.editEffect
  repeat' with_reducible first
    | assumption | intro _ | apply OptKeeps.some | apply OptKeeps.none | apply OptKeeps.ite | apply OptKeeps.getD
    | apply State.dropPin_keeps | apply State.dropRing_keeps | apply State.each_keeps | apply State.setPage_keeps
    | apply State.updSequence_keeps | apply Keeps.ite | split

theorem State.adoptEdit_keeps {s0 s : State} (n : Nat) (e : Edit) (hk : Keeps s0 s) : Keeps s0 (State.adoptEdit s n e) := by
  unfold State.adoptEdit
  repeat' with_reducible first
    | assumption | apply State.afterEdit_keeps | apply State.editEffect_keeps

theorem State.adoptEdits_keeps {s0 s : State} (n : Nat) (hk : Keeps s0 s) : Keeps s0 (State.adoptEdits s n) := by
  unfold State.adoptEdits
  repeat' with_reducible first
    | assumption | intro _ | apply State.adoptEdit_keeps | apply State.each_keeps | apply State.updSequence_keeps

theorem State.bumpEpoch_keeps {s0 s : State} (n : Nat) (hk : Keeps s0 s) : Keeps s0 (State.bumpEpoch s n) := by
  unfold State.bumpEpoch
  repeat' with_reducible first
    | assumption | intro _ | apply State.updSequence_keeps

theorem State.epochSince_keeps {s0 s : State} (old : State) (n : Nat) (hk : Keeps s0 s) : Keeps s0 (State.epochSince s old n) := by
  unfold State.epochSince
  repeat' with_reducible first
    | assumption | apply State.bumpEpoch_keeps | apply Keeps.ite

theorem State.dropPage_keeps {s0 s : State} (x : Nat) (n : Nat) (layer : Nat) (page : Nat) (hk : Keeps s0 s) :
    Keeps s0 (State.dropPage s x n layer page) := by
  unfold State.dropPage
  repeat' with_reducible first
    | assumption | intro _ | apply State.dropPin_keeps | apply State.dropRing_keeps | apply State.each_keeps | apply Keeps.ite

theorem State.abortStep_keeps {s0 s : State} (n : Nat) (hk : Keeps s0 s) : Keeps s0 (State.abortStep s n) := by
  unfold State.abortStep
  repeat' with_reducible first
    | assumption | intro _ | apply State.adoptEdits_keeps | apply State.dropPage_keeps | apply State.each_keeps
    | apply State.epochSince_keeps | apply State.releaseBelow_keeps | apply State.updSequence_keeps

theorem State.settleAbort_keeps {s0 s : State} (n : Nat) (hk : Keeps s0 s) : Keeps s0 (State.settleAbort s n) := by
  unfold State.settleAbort
  repeat' with_reducible first
    | assumption | apply State.abortStep_keeps | apply Keeps.ite

theorem State.settleAborts_keeps {s0 s : State} (hk : Keeps s0 s) : Keeps s0 (State.settleAborts s) := by
  unfold State.settleAborts
  repeat' with_reducible first
    | assumption | intro _ | apply State.each_keeps | apply State.settleAbort_keeps

theorem State.abortSteps_keeps {s0 s : State} (q : Nat) (hk : Keeps s0 s) : Keeps s0 (State.abortSteps s q) := by
  unfold State.abortSteps
  repeat' with_reducible first
    | assumption | intro _ | apply State.each_keeps | apply State.settleAbort_keeps | apply State.updSequence_keeps

theorem State.closeSeq_keeps {s0 s : State} (n : Nat) (hk : Keeps s0 s) : Keeps s0 (State.closeSeq s n) := by
  unfold State.closeSeq
  repeat' with_reducible first
    | assumption | apply OptKeeps.some | apply OptKeeps.none | apply OptKeeps.ite | apply State.clearTables_keeps
    | apply State.dropTransit_keeps | apply State.releaseAll_keeps | split | refine OptKeeps.get ?_ (by assumption)
    | refine Keeps.fst ?_ (by assumption) | refine Keeps.snd ?_ (by assumption) | dsimp only
    | refine Keeps.lit ?_ rfl rfl rfl rfl rfl rfl rfl rfl

theorem State.cancelSeqOp_keeps {s0 s : State} (o : SeqOp) (hk : Keeps s0 s) : Keeps s0 (State.cancelSeqOp s o) := by
  unfold State.cancelSeqOp
  repeat' with_reducible first
    | assumption | intro _ | apply State.each_keeps | apply State.freeFrame_keeps | apply State.updSequence_keeps | apply Keeps.ite | split
    | dsimp only | refine Keeps.lit ?_ rfl rfl rfl rfl rfl rfl rfl rfl

theorem State.cancelSeqOps_keeps {s0 s : State} (l : LetterId) (hk : Keeps s0 s) : Keeps s0 (State.cancelSeqOps s l) := by
  unfold State.cancelSeqOps
  repeat' with_reducible first
    | assumption | intro _ | apply State.cancelSeqOp_keeps | apply State.each_keeps | apply State.updSequence_keeps | apply Keeps.ite

end Sys2Proof.Machine
end

