-- ==== Sys2Proof/Laws/KeepsCourier.lean ====
section
/-! SUPPORT. Queue service, couriers, the lace ring, the tiers and queues keep what `Keeps` says. -/

namespace Sys2Proof.Machine

/-! ## Service -/

theorem State.mapSeqrs_keeps {s0 s : State} (f : Nat → Seqr → Seqr) (hk : Keeps s0 s) : Keeps s0 (State.mapSeqrs s f) := by
  unfold State.mapSeqrs
  repeat' with_reducible first
    | assumption | intro _ | refine OptKeeps.get ?_ (by assumption) | refine Keeps.fst ?_ (by assumption)
    | refine Keeps.snd ?_ (by assumption) | dsimp only | refine Keeps.lit ?_ rfl rfl rfl rfl rfl rfl rfl rfl

theorem State.runEnds_keeps {s0 s : State} (l : LetterId) (hk : Keeps s0 s) : Keeps s0 (State.runEnds s l) := by
  unfold State.runEnds
  repeat' with_reducible first
    | assumption | intro _ | apply OptKeeps.some | apply OptKeeps.none | apply OptKeeps.ite | apply State.endLetter_keeps
    | apply State.updLetter_keeps | apply Keeps.ite | split

theorem State.reportStream_keeps {s0 s : State} (l : LetterId) (cm : Nat) (code : Option Code) (hk : Keeps s0 s) :
    Keeps s0 (State.reportStream s l cm code) := by
  unfold State.reportStream
  repeat' with_reducible first
    | assumption | intro _ | apply OptKeeps.some | apply OptKeeps.none | apply OptKeeps.ite | apply State.mapSeqrs_keeps
    | apply State.runEnds_keeps | apply State.updLetter_keeps | apply Keeps.ite

theorem State.cancelWaits_keeps {s0 s : State} (p : Party → Bool) (hk : Keeps s0 s) : Keeps s0 (State.cancelWaits s p) := by
  unfold State.cancelWaits
  repeat' with_reducible first
    | assumption | intro _ | apply OptKeeps.some | apply OptKeeps.none | apply OptKeeps.ite | apply State.each_keeps
    | apply State.setObj_keeps | split | refine OptKeeps.get ?_ (by assumption) | refine Keeps.fst ?_ (by assumption)
    | refine Keeps.snd ?_ (by assumption) | dsimp only | refine Keeps.lit ?_ rfl rfl rfl rfl rfl rfl rfl rfl

theorem State.stopLetter_keeps {s0 s : State} (l : LetterId) (hk : Keeps s0 s) : Keeps s0 (State.stopLetter s l) := by
  unfold State.stopLetter
  repeat' with_reducible first
    | assumption | intro _ | apply State.cancelSeqOps_keeps | apply State.cancelWaits_keeps | apply State.dropJobs_keeps
    | apply State.each_keeps | apply State.failBag_keeps | apply State.failDescs_keeps | apply State.mapSeqrs_keeps | dsimp only
    | refine Keeps.lit ?_ rfl rfl rfl rfl rfl rfl rfl rfl

theorem State.haltQueue_keeps {s0 s : State} (q : Nat) (hk : Keeps s0 s) : Keeps s0 (State.haltQueue s q) := by
  unfold State.haltQueue
  repeat' with_reducible first
    | assumption | intro _ | apply State.updQ_keeps

theorem State.failQueue_keeps {s0 s : State} (l : LetterId) (hk : Keeps s0 s) : Keeps s0 (State.failQueue s l) := by
  unfold State.failQueue
  repeat' with_reducible first
    | assumption | intro _ | apply State.each_keeps | apply State.endLetter_keeps | apply State.haltQueue_keeps
    | apply State.stopLetter_keeps

theorem State.resetQueue_keeps {s0 s : State} (q : Nat) (hk : Keeps s0 s) : Keeps s0 (State.resetQueue s q) := by
  unfold State.resetQueue
  repeat' with_reducible first
    | assumption | intro _ | apply State.abortSteps_keeps | apply State.each_keeps | apply State.orphanQueue_keeps
    | apply State.stopLetter_keeps | apply State.updQ_keeps

theorem State.endSwitch_keeps {s0 s : State} (cl : Nat) (hk : Keeps s0 s) : Keeps s0 (State.endSwitch s cl) := by
  unfold State.endSwitch
  repeat' with_reducible first
    | assumption | intro _ | apply OptKeeps.some | apply OptKeeps.none | apply OptKeeps.ite | apply State.failDescs_keeps
    | apply State.setFld_keeps | apply Keeps.ite | split | refine OptKeeps.get ?_ (by assumption) | refine Keeps.fst ?_ (by assumption)
    | refine Keeps.snd ?_ (by assumption) | dsimp only | refine Keeps.lit ?_ rfl rfl rfl rfl rfl rfl rfl rfl

theorem State.haltCore_keeps {s0 s : State} (c : Nat) (a : Nat) (f : CoreFault) (hk : Keeps s0 s) : Keeps s0 (State.haltCore s c a f) := by
  unfold State.haltCore
  repeat' with_reducible first
    | assumption | intro _ | apply OptKeeps.some | apply OptKeeps.none | apply OptKeeps.ite | apply State.each_keeps
    | apply State.endSwitch_keeps | apply State.failDescs_keeps | apply State.failStream_keeps | apply State.faultBit_keeps
    | apply State.freezeLace_keeps | apply State.ldsLost_keeps | apply State.setFld_keeps | apply State.settleAborts_keeps
    | apply State.updCore_keeps | apply State.updSeqr_keeps | apply Keeps.ite | split | refine OptKeeps.get ?_ (by assumption)
    | refine Keeps.fst ?_ (by assumption) | refine Keeps.snd ?_ (by assumption) | dsimp only

theorem State.joinHalt_keeps {s0 s : State} (c : Nat) (a : Nat) (f : CoreFault) (hk : Keeps s0 s) : Keeps s0 (State.joinHalt s c a f) := by
  unfold State.joinHalt
  repeat' with_reducible first
    | assumption | intro _ | apply State.faultBit_keeps | apply State.updCore_keeps

theorem State.haltAt_keeps {s0 s : State} (c : Nat) (a : Nat) (f : CoreFault) (hk : Keeps s0 s) : Keeps s0 (State.haltAt s c a f) := by
  unfold State.haltAt
  repeat' with_reducible first
    | assumption | apply State.haltCore_keeps | apply State.joinHalt_keeps | apply Keeps.ite

theorem State.inCore_keeps {s0 s : State} (c : Nat) (a : Nat) (fault : CoreFault) (rd : ReadRes) (go : State → State) (hk : Keeps s0 s) (hgo : ∀ s, Keeps s0 s → Keeps s0 (go s)) :
    Keeps s0 (State.inCore s c a fault rd go) := by
  unfold State.inCore
  repeat' with_reducible first
    | assumption | intro _ | apply State.haltAt_keeps | apply hgo | apply Keeps.ite

theorem State.endMember_keeps {s0 s : State} (cm : Nat) (code : Code) (hk : Keeps s0 s) : Keeps s0 (State.endMember s cm code) := by
  unfold State.endMember
  repeat' with_reducible first
    | assumption | intro _ | apply OptKeeps.some | apply OptKeeps.none | apply OptKeeps.ite | apply OptKeeps.getD
    | apply State.cancelWaits_keeps | apply State.each_keeps | apply State.reportStream_keeps | apply Keeps.ite | split
    | refine OptKeeps.get ?_ (by assumption) | refine Keeps.fst ?_ (by assumption) | refine Keeps.snd ?_ (by assumption) | dsimp only
    | refine Keeps.lit ?_ rfl rfl rfl rfl rfl rfl rfl rfl

theorem State.dropWalker_keeps {s0 s : State} (cl : Nat) (hk : Keeps s0 s) : Keeps s0 (State.dropWalker s cl) := by
  unfold State.dropWalker
  repeat' with_reducible first
    | assumption | intro _ | dsimp only | refine Keeps.lit ?_ rfl rfl rfl rfl rfl rfl rfl rfl

theorem State.clusterOut_keeps {s0 s : State} (cl : Nat) (hk : Keeps s0 s) : Keeps s0 (State.clusterOut s cl) := by
  unfold State.clusterOut
  repeat' with_reducible first
    | assumption | intro _ | apply State.dropWalker_keeps | apply State.each_keeps | apply State.endMember_keeps
    | apply State.failDesc_keeps | apply State.failDescs_keeps | apply State.resetQueue_keeps | apply State.setFld_keeps
    | apply State.setReg_keeps | apply State.settleAborts_keeps | apply State.updCore_keeps | apply State.updLace_keeps | apply Keeps.ite
    | split | refine OptKeeps.get ?_ (by assumption) | refine Keeps.fst ?_ (by assumption) | refine Keeps.snd ?_ (by assumption)
    | dsimp only | refine Keeps.lit ?_ rfl rfl rfl rfl rfl rfl rfl rfl

theorem State.agentOutEvent_keeps {s0 s : State} (cl : Nat) (hk : Keeps s0 s) : Keeps s0 (State.agentOutEvent s cl) := by
  unfold State.agentOutEvent
  repeat' with_reducible first
    | assumption | apply State.postDev_keeps

theorem State.clusterAgentFault_keeps {s0 s : State} (cl : Nat) (hk : Keeps s0 s) : Keeps s0 (State.clusterAgentFault s cl) := by
  unfold State.clusterAgentFault
  repeat' with_reducible first
    | assumption | apply State.agentOutEvent_keeps | apply State.clusterOut_keeps | apply Keeps.ite

theorem State.prNote_keeps {s0 s : State} (hk : Keeps s0 s) : Keeps s0 (State.prNote s) := by
  unfold State.prNote
  repeat' with_reducible first
    | assumption | intro _ | apply State.setFld_keeps

theorem State.resetContext_keeps {s0 s : State} (x : Nat) (hk : Keeps s0 s) : Keeps s0 (State.resetContext s x) := by
  unfold State.resetContext
  repeat' with_reducible first
    | assumption | intro _ | apply OptKeeps.some | apply OptKeeps.none | apply OptKeeps.ite | apply State.cancelWaits_keeps
    | apply State.closeSeq_keeps | apply State.each_keeps | apply State.failDescs_keeps | apply State.prNote_keeps
    | apply State.resetQueue_keeps | apply Keeps.ite | split | refine OptKeeps.get ?_ (by assumption) | refine Keeps.fst ?_ (by assumption)
    | refine Keeps.snd ?_ (by assumption) | dsimp only | refine Keeps.lit ?_ rfl rfl rfl rfl rfl rfl rfl rfl

theorem State.startWith_keeps {s0 s : State} (q : Nat) (op : Nat) (p : Letter → Bool) (go : State → LetterId → Letter → State) (hk : Keeps s0 s) (hgo : ∀ s x1 x2, Keeps s0 s → Keeps s0 (go s x1 x2)) :
    Keeps s0 (State.startWith s q op p go) := by
  unfold State.startWith
  repeat' with_reducible first
    | assumption | intro _ | apply OptKeeps.some | apply OptKeeps.none | apply OptKeeps.ite | apply State.updLetter_keeps | apply hgo
    | apply Keeps.ite | split

/-! ## Switch -/

theorem tabWf_move (src : Tab Byte) (lo n to_ : Nat) (dst : Tab Byte) (h : memWf dst = true) : memWf (tabMove memDefault src dst lo n to_) = true := by
  unfold tabMove
  have g : ∀ (l : List (Nat × Byte)) (t : Tab Byte), memWf t = true →
      memWf (l.foldl (fun t e => tabSet memDefault t (e.1 - lo + to_) e.2) t) = true := by
    intro l
    induction l with
    | nil => intro t h; exact h
    | cons e l ih => intro t h; exact ih _ (tabWf_set _ _ _ _ h)
  exact g _ _ (memWf_clear _ _ _ h)

theorem State.restoreCore_keeps {s0 s : State} (c : Nat) (i : CoreImage) (h : Keeps s0 s) : Keeps s0 (s.restoreCore c i) := by
  unfold State.restoreCore
  with_reducible refine Keeps.memLit h rfl rfl rfl rfl id id (tabWf_move _ _ _ _ _) (tabWf_move _ _ _ _ _)

theorem State.storeStays_keeps {s0 s : State} (cl : Nat) (bad : List Nat) (hk : Keeps s0 s) : Keeps s0 (State.storeStays s cl bad) := by
  unfold State.storeStays
  repeat' with_reducible first
    | assumption | refine Keeps.lit ?_ rfl rfl rfl rfl rfl rfl rfl rfl

theorem State.zeroCluster_keeps {s0 s : State} (cl : Nat) (h : Keeps s0 s) : Keeps s0 (s.zeroCluster cl) := by
  unfold State.zeroCluster
  dsimp only
  generalize e : (State.each (s.mend 1 _) _ _).settleAborts = t
  have k : Keeps s0 t := by
    rw [← e]
    exact State.settleAborts_keeps (State.each_keeps _ _ (State.mend_keeps _ _ h) (fun s c h => State.zeroCore_keeps c h))
  with_reducible exact Keeps.memLit k rfl rfl rfl rfl id (memWf_clear _ _ _) id id

theorem State.setImage_keeps {s0 s : State} (x : Nat) (cl : Nat) (i : Option ClImage) (hk : Keeps s0 s) : Keeps s0 (State.setImage s x cl i) := by
  unfold State.setImage
  repeat' with_reducible first
    | assumption | refine Keeps.lit ?_ rfl rfl rfl rfl rfl rfl rfl rfl

theorem State.wasOn_keeps {s0 s : State} (x : Nat) (cl : Nat) (hk : Keeps s0 s) : Keeps s0 (State.wasOn s x cl) := by
  unfold State.wasOn
  repeat' with_reducible first
    | assumption | refine Keeps.lit ?_ rfl rfl rfl rfl rfl rfl rfl rfl

theorem State.setSwitch_keeps {s0 s : State} (cl : Nat) (w : Option Switch) (hk : Keeps s0 s) : Keeps s0 (State.setSwitch s cl w) := by
  unfold State.setSwitch
  repeat' with_reducible first
    | assumption | refine Keeps.lit ?_ rfl rfl rfl rfl rfl rfl rfl rfl

theorem State.queueBlock_keeps {s0 s : State} (x : Nat) (cl : Nat) (save : Bool) (hk : Keeps s0 s) : Keeps s0 (State.queueBlock s x cl save) := by
  unfold State.queueBlock
  repeat' with_reducible first
    | assumption | intro _ | apply State.fresh_keeps | apply State.updCourier_keeps

theorem State.blockBad_keeps {s0 s : State} (x : Nat) (cl : Nat) (line : Nat) (lines : Nat) (hk : Keeps s0 s) :
    Keeps s0 (State.blockBad s x cl line lines) := by
  unfold State.blockBad
  repeat' with_reducible first
    | assumption | intro _ | apply Keeps.ite | split | dsimp only | refine Keeps.lit ?_ rfl rfl rfl rfl rfl rfl rfl rfl

theorem State.phaseTo_keeps {s0 s : State} (cl : Nat) (w : Switch) (p : SwitchPhase) (hk : Keeps s0 s) : Keeps s0 (State.phaseTo s cl w p) := by
  unfold State.phaseTo
  repeat' with_reducible first
    | assumption | apply OptKeeps.some | apply OptKeeps.none | apply OptKeeps.ite | apply State.setSwitch_keeps

theorem State.switchOut_keeps {s0 s : State} (cl : Nat) (w : Switch) (hk : Keeps s0 s) : Keeps s0 (State.switchOut s cl w) := by
  unfold State.switchOut
  repeat' with_reducible first
    | assumption | apply OptKeeps.some | apply OptKeeps.none | apply OptKeeps.ite | apply State.phaseTo_keeps | apply State.queueBlock_keeps
    | apply State.setImage_keeps | apply State.wasOn_keeps | apply Keeps.ite | split

theorem State.switchIn_keeps {s0 s : State} (cl : Nat) (w : Switch) (hk : Keeps s0 s) : Keeps s0 (State.switchIn s cl w) := by
  unfold State.switchIn
  repeat' with_reducible first
    | assumption | apply OptKeeps.some | apply OptKeeps.none | apply OptKeeps.ite | apply State.phaseTo_keeps | apply State.queueBlock_keeps
    | apply State.zeroCluster_keeps | split | refine OptKeeps.get ?_ (by assumption) | refine Keeps.fst ?_ (by assumption)
    | refine Keeps.snd ?_ (by assumption) | dsimp only

theorem State.switchLoaded_keeps {s0 s : State} (cl : Nat) (w : Switch) (hk : Keeps s0 s) : Keeps s0 (State.switchLoaded s cl w) := by
  unfold State.switchLoaded
  repeat' with_reducible first
    | assumption | intro _ | apply OptKeeps.some | apply OptKeeps.none | apply OptKeeps.ite | apply State.each_keeps
    | apply State.phaseTo_keeps | apply State.restoreCore_keeps | apply State.setImage_keeps | apply State.storeStays_keeps
    | apply Keeps.ite | split

theorem State.switchGo_keeps {s0 s : State} (cl : Nat) (hk : Keeps s0 s) : Keeps s0 (State.switchGo s cl) := by
  unfold State.switchGo
  repeat' with_reducible first
    | assumption | apply OptKeeps.some | apply OptKeeps.none | apply OptKeeps.ite | apply State.switchIn_keeps
    | apply State.switchLoaded_keeps | split

theorem State.doSwitch_keeps {s0 s : State} (cl : Nat) (hk : Keeps s0 s) : Keeps s0 (State.doSwitch s cl) := by
  unfold State.doSwitch
  repeat' with_reducible first
    | assumption | apply OptKeeps.some | apply OptKeeps.none | apply OptKeeps.ite | apply State.switchGo_keeps | apply State.switchOut_keeps
    | apply Keeps.ite | split

theorem State.courierHands_keeps {s0 s : State} (k : Nat) (hk : Keeps s0 s) : Keeps s0 (State.courierHands s k) := by
  unfold State.courierHands
  repeat' with_reducible first
    | assumption | apply State.clusterHands_keeps | apply State.switchGo_keeps

/-! ## Courier -/

theorem State.startMove_keeps {s0 s : State} (l : LetterId) (x : Letter) (hk : Keeps s0 s) : Keeps s0 (State.startMove s l x) := by
  unfold State.startMove
  repeat' with_reducible first
    | assumption | apply OptKeeps.some | apply OptKeeps.none | apply OptKeeps.ite | apply State.endLetter_keeps
    | apply State.queueDesc_keeps | apply State.setWork_keeps | apply Keeps.ite

theorem execMove_keeps {s0 s : State} (q : Fin 4096) (hk : Keeps s0 s) : ResKeeps s0 (execMove q s) := by
  unfold execMove
  repeat' with_reducible first
    | assumption | intro _ | apply ResKeeps.next | apply State.startMove_keeps | apply State.startWith_keeps

theorem State.chainRead_keeps {s0 s : State} (l : LetterId) (rd : ReadRes) (hk : Keeps s0 s) : Keeps s0 (State.chainRead s l rd) := by
  unfold State.chainRead
  repeat' with_reducible first
    | assumption | apply OptKeeps.some | apply OptKeeps.none | apply OptKeeps.ite | apply OptKeeps.getD | apply State.contained_keeps
    | apply State.hbmAccess_keeps | apply State.hbmNote_keeps | apply State.moveEnds_keeps | apply State.queueDesc_keeps
    | apply State.setWork_keeps | apply Keeps.ite | split

theorem execChainDescriptorRead_keeps {s0 s : State} (q : Fin 4096) (pm : BitVec 32) (rd : ReadRes) (hk : Keeps s0 s) :
    ResKeeps s0 (execChainDescriptorRead q pm rd s) := by
  unfold execChainDescriptorRead
  repeat' with_reducible first
    | assumption | apply ResKeeps.next | apply State.chainRead_keeps | apply ResKeeps.ite | apply Keeps.ite

theorem State.startDesc_keeps {s0 s : State} (k : Nat) (hk : Keeps s0 s) : Keeps s0 (State.startDesc s k) := by
  unfold State.startDesc
  repeat' with_reducible first
    | assumption | intro _ | apply OptKeeps.some | apply OptKeeps.none | apply OptKeeps.ite | apply State.crrNote_keeps
    | apply State.endDesc_keeps | apply State.notePhase_keeps | apply State.setFld_keeps | apply State.updDesc_keeps
    | apply State.updLace_keeps | apply State.when_keeps | apply Keeps.ite | split

theorem State.descReq_keeps {s0 s : State} (k : Nat) (d : CDesc) (line : Nat) (lines : Nat) (cls : ReqClass) (port : Option Nat) (units : Nat) (addr : Nat) (data : List Byte) (hk : Keeps s0 s) :
    Keeps s0 (State.descReq s k d line lines cls port units addr data) := by
  unfold State.descReq
  repeat' with_reducible first
    | assumption | apply OptKeeps.getD | apply State.addReq_keeps | apply State.crrNote_keeps | apply State.fresh_keeps

theorem State.descFrame_keeps {s0 s : State} (k : Nat) (d : CDesc) (line : Nat) (lines : Nat) (die : Nat) (typ : Nat) (off : Nat) (data : List Byte) (hk : Keeps s0 s) :
    Keeps s0 (State.descFrame s k d line lines die typ off data) := by
  unfold State.descFrame
  repeat' with_reducible first
    | assumption | intro _ | apply OptKeeps.some | apply OptKeeps.none | apply OptKeeps.ite | apply OptKeeps.getD
    | apply State.descReq_keeps | apply State.failDesc_keeps | apply State.sendFrame_keeps | apply Keeps.ite | split
    | refine OptKeeps.get ?_ (by assumption) | refine Keeps.fst ?_ (by assumption) | refine Keeps.snd ?_ (by assumption) | dsimp only
    | refine Keeps.lit ?_ rfl rfl rfl rfl rfl rfl rfl rfl

theorem State.issueWrite_keeps {s0 s : State} (k : Nat) (d : CDesc) (n : Nat) (hk : Keeps s0 s) : Keeps s0 (State.issueWrite s k d n) := by
  unfold State.issueWrite
  repeat' with_reducible first
    | assumption | intro _ | apply OptKeeps.some | apply OptKeeps.none | apply OptKeeps.ite | apply State.descFrame_keeps
    | apply State.descReq_keeps | apply State.failDesc_keeps | apply State.toHost_keeps | apply State.updDesc_keeps | apply Keeps.ite
    | split

theorem State.issueFan_keeps {s0 s : State} (k : Nat) (d : CDesc) (n : Nat) (hk : Keeps s0 s) : Keeps s0 (State.issueFan s k d n) := by
  unfold State.issueFan
  repeat' with_reducible first
    | assumption | intro _ | apply OptKeeps.some | apply OptKeeps.none | apply OptKeeps.ite | apply OptKeeps.getD
    | apply State.descFrame_keeps | apply State.descReq_keeps | apply State.failDesc_keeps | apply State.updDesc_keeps | apply Keeps.ite
    | split

theorem State.issueRead_keeps {s0 s : State} (k : Nat) (d : CDesc) (n : Nat) (hk : Keeps s0 s) : Keeps s0 (State.issueRead s k d n) := by
  unfold State.issueRead
  repeat' with_reducible first
    | assumption | intro _ | apply OptKeeps.some | apply OptKeeps.none | apply OptKeeps.ite | apply OptKeeps.getD
    | apply State.descFrame_keeps | apply State.descReq_keeps | apply State.failDesc_keeps | apply State.toHost_keeps
    | apply State.updDesc_keeps | apply Keeps.ite | split | refine OptKeeps.get ?_ (by assumption) | refine Keeps.fst ?_ (by assumption)
    | refine Keeps.snd ?_ (by assumption) | dsimp only

theorem State.issueNext_keeps {s0 s : State} (k : Nat) (hk : Keeps s0 s) : Keeps s0 (State.issueNext s k) := by
  unfold State.issueNext
  repeat' with_reducible first
    | assumption | intro _ | apply OptKeeps.some | apply OptKeeps.none | apply OptKeeps.ite | apply State.count_keeps
    | apply State.issueFan_keeps | apply State.issueRead_keeps | apply State.issueWrite_keeps | apply State.setFld_keeps
    | apply State.updCourier_keeps | apply Keeps.ite | split

theorem execCourierRequestIssue_keeps {s0 s : State} (k : Fin 20) (fault : AgentFault) (hk : Keeps s0 s) :
    ResKeeps s0 (execCourierRequestIssue k fault s) := by
  unfold execCourierRequestIssue
  repeat' with_reducible first
    | assumption | apply ResKeeps.next | apply OptKeeps.some | apply OptKeeps.none | apply OptKeeps.ite
    | apply State.clusterAgentFault_keeps | apply State.controlDetect_keeps | apply State.courierHands_keeps | apply State.failDesc_keeps
    | apply State.issueNext_keeps | apply ResKeeps.ite | apply Keeps.ite | split

theorem State.readBack_keeps {s0 s : State} (d : CDesc) (r : Req) (reply : HostReply) (rd : ReadRes) (hk : Keeps s0 s) :
    Keeps s0 (State.readBack s d r reply rd).1 := by
  unfold State.readBack
  dsimp only
  split
  · exact State.storeReads_keeps _ _ _ hk
  · split
    · exact State.benchUe_keeps _ (State.benchReads_keeps _ _ _ hk)
    · exact State.benchReads_keeps _ _ _ hk
  · have k := State.flashTouch_keeps (sideSel d.desc.src) r.addr hk
    split
    · exact k
    · split
      · exact k
      · exact State.countCtx_keeps _ _ _ (State.when_keeps _ _ k (fun s h => State.count_keeps _ _ _ _ h))
  · split
    · exact hk
    · exact State.storeReads_keeps _ _ _ hk
  · split
    · exact hk
    · exact hk
  · exact State.hbmReads_keeps _ _ hk

theorem State.hbmWriteLines_keeps {s0 : State} (n : Nat) : ∀ (a : Nat) (bs : List Byte) {s : State}, Keeps s0 s →
    Keeps s0 (s.hbmWriteLines a bs n) := by
  induction n with
  | zero => intro _ _ s h; exact h
  | succ n ih => intro a bs s h; exact ih _ _ (State.hbmWrite_keeps _ _ h)

theorem State.storeWriteLines_keeps {s0 : State} (n : Nat) : ∀ (a : Nat) (bs : List Byte) {s : State}, Keeps s0 s →
    Keeps s0 (s.storeWriteLines a bs n) := by
  induction n with
  | zero => intro _ _ s h; exact h
  | succ n ih => intro a bs s h; exact ih _ _ (State.storeWrite_keeps _ _ _ h)

theorem State.writeThere_keeps {s0 s : State} (d : CDesc) (r : Req) (hk : Keeps s0 s) : Keeps s0 (State.writeThere s d r) := by
  unfold State.writeThere
  repeat' with_reducible first
    | assumption | apply OptKeeps.some | apply OptKeeps.none | apply OptKeeps.ite | apply State.benchWriteAll_keeps
    | apply State.blockBad_keeps | apply State.hbmWriteLines_keeps | apply State.storeWriteLines_keeps | apply Keeps.ite | split

theorem State.feedEntry_keeps {s0 : State} (k id cl : Nat) (n : Nat) : ∀ {s : State}, Keeps s0 s → Keeps s0 (s.feedEntry k id cl n) := by
  induction n with
  | zero => intro s h; exact h
  | succ n ih =>
    intro s h
    unfold State.feedEntry
    repeat' with_reducible first | assumption | apply ih | apply State.updLace_keeps | apply State.updDesc_keeps | apply Keeps.ite | split

theorem State.gotLines_keeps {s0 s : State} (k : Nat) (d : CDesc) (r : Req) (bs : List Byte) (hk : Keeps s0 s) :
    Keeps s0 (State.gotLines s k d r bs) := by
  unfold State.gotLines
  repeat' with_reducible first
    | assumption | intro _ | apply OptKeeps.some | apply OptKeeps.none | apply OptKeeps.ite | apply State.count_keeps
    | apply State.feedEntry_keeps | apply State.settleDesc_keeps | apply State.updDesc_keeps | apply Keeps.ite | split

theorem State.respond_keeps {s0 s : State} (k : Nat) (r : Req) (reply : HostReply) (rd : ReadRes) (parity : Bool) (hk : Keeps s0 s) :
    Keeps s0 (State.respond s k r reply rd parity) := by
  unfold State.respond
  repeat' with_reducible first
    | assumption | intro _ | apply OptKeeps.some | apply OptKeeps.none | apply OptKeeps.ite | apply State.blockBad_keeps
    | apply State.count_keeps | apply State.countCtx_keeps | apply State.crrNote_keeps | apply State.dropReq_keeps
    | apply State.failDesc_keeps | apply State.gotLines_keeps | apply State.haltAt_keeps | apply State.readBack_keeps
    | apply State.settleDesc_keeps | apply State.updDesc_keeps | apply State.writeThere_keeps | apply Keeps.ite | split
    | refine OptKeeps.get ?_ (by assumption) | refine Keeps.fst ?_ (by assumption) | refine Keeps.snd ?_ (by assumption) | dsimp only

theorem execCourierResponse_keeps {s0 s : State} (k : Fin 20) (tag : Nat) (reply : HostReply) (rd : ReadRes) (fault : AgentFault) (hk : Keeps s0 s) :
    ResKeeps s0 (execCourierResponse k tag reply rd fault s) := by
  unfold execCourierResponse
  repeat' with_reducible first
    | assumption | apply ResKeeps.next | apply OptKeeps.some | apply OptKeeps.none | apply OptKeeps.ite
    | apply State.clusterAgentFault_keeps | apply State.controlDetect_keeps | apply State.courierHands_keeps | apply State.respond_keeps
    | apply ResKeeps.ite | apply Keeps.ite | split

theorem execDescriptorComplete_keeps {s0 s : State} (k : Fin 20) (id : Nat) (hk : Keeps s0 s) : ResKeeps s0 (execDescriptorComplete k id s) := by
  unfold execDescriptorComplete
  repeat' with_reducible first
    | assumption | apply ResKeeps.next | apply OptKeeps.some | apply OptKeeps.none | apply OptKeeps.ite | apply State.courierHands_keeps
    | apply State.endDesc_keeps | apply ResKeeps.ite | apply Keeps.ite | split

/-! ## LaceRing -/

theorem State.countTile_keeps {s0 s : State} (c : Nat) (t : Tile) (hk : Keeps s0 s) : Keeps s0 (State.countTile s c t) := by
  unfold State.countTile
  repeat' with_reducible first
    | assumption | intro _ | apply State.count_keeps | apply State.when_keeps

theorem State.acceptChunk_keeps {s0 s : State} (c : Nat) (x : Cmd) (bytes : List Byte) (scales : List Byte) (hk : Keeps s0 s) :
    Keeps s0 (State.acceptChunk s c x bytes scales) := by
  unfold State.acceptChunk
  repeat' with_reducible first
    | assumption | intro _ | apply OptKeeps.some | apply OptKeeps.none | apply OptKeeps.ite | apply State.countTile_keeps
    | apply State.updCmd_keeps | apply State.updCore_keeps | apply Keeps.ite

theorem State.wPort_keeps {s0 s : State} (c : Nat) (rd : ReadRes) (hk : Keeps s0 s) : Keeps s0 (State.wPort s c rd) := by
  unfold State.wPort
  repeat' with_reducible first
    | assumption | intro _ | apply OptKeeps.some | apply OptKeeps.none | apply OptKeeps.ite | apply State.acceptChunk_keeps
    | apply State.benchFails_keeps | apply State.benchReads_keeps | apply Keeps.ite | split

theorem execWPortChunk_keeps {s0 s : State} (c : Fin 272) (rd : ReadRes) (fault : CoreFault) (hk : Keeps s0 s) :
    ResKeeps s0 (execWPortChunk c rd fault s) := by
  unfold execWPortChunk
  repeat' with_reducible first
    | assumption | intro _ | apply ResKeeps.next | apply State.inCore_keeps | apply State.wPort_keeps

theorem State.takeChunk_keeps {s0 s : State} (c : Nat) (fmt : Nat) (bytes : List Byte) (scales : List Byte) (hk : Keeps s0 s) :
    OptKeeps s0 (State.takeChunk s c fmt bytes scales) := by
  unfold State.takeChunk
  repeat' with_reducible first
    | assumption | intro _ | apply OptKeeps.some | apply OptKeeps.none | apply State.acceptChunk_keeps | apply State.updCore_keeps
    | apply OptKeeps.ite | apply Keeps.ite | split | refine OptKeeps.get ?_ (by assumption) | refine Keeps.fst ?_ (by assumption)
    | refine Keeps.snd ?_ (by assumption) | dsimp only

theorem State.laceFault_keeps {s0 s : State} (cl : Nat) (m : Nat) (f : CoreFault) (hk : Keeps s0 s) : Keeps s0 (State.laceFault s cl m f) := by
  unfold State.laceFault
  repeat' with_reducible first
    | assumption | apply OptKeeps.some | apply OptKeeps.none | apply OptKeeps.ite | apply State.clusterAgentFault_keeps
    | apply State.haltAt_keeps | apply Keeps.ite | split

theorem State.laceSend_keeps {s0 s : State} (cl : Nat) (hk : Keeps s0 s) : Keeps s0 (State.laceSend s cl) := by
  unfold State.laceSend
  repeat' with_reducible first
    | assumption | intro _ | apply OptKeeps.some | apply OptKeeps.none | apply OptKeeps.ite | apply State.count_keeps
    | apply State.feedEntry_keeps | apply State.takeChunk_keeps | apply State.updLace_keeps | apply Keeps.ite | split
    | refine OptKeeps.get ?_ (by assumption) | refine Keeps.fst ?_ (by assumption) | refine Keeps.snd ?_ (by assumption) | dsimp only

theorem execLaceChunkSend_keeps {s0 s : State} (cl : Fin 16) (fault : CoreFault) (hk : Keeps s0 s) :
    ResKeeps s0 (execLaceChunkSend cl fault s) := by
  unfold execLaceChunkSend
  repeat' with_reducible first
    | assumption | apply ResKeeps.next | apply State.laceFault_keeps | apply State.laceSend_keeps | apply ResKeeps.ite | apply Keeps.ite

theorem State.laceForward_keeps {s0 s : State} (cl : Nat) (m : Nat) (hk : Keeps s0 s) : Keeps s0 (State.laceForward s cl m) := by
  unfold State.laceForward
  repeat' with_reducible first
    | assumption | intro _ | apply OptKeeps.some | apply OptKeeps.none | apply OptKeeps.ite | apply State.takeChunk_keeps
    | apply State.updCore_keeps | split | refine OptKeeps.get ?_ (by assumption)

theorem execLaceChunkForward_keeps {s0 s : State} (cl : Fin 16) (m : Fin 16) (fault : CoreFault) (hk : Keeps s0 s) :
    ResKeeps s0 (execLaceChunkForward cl m fault s) := by
  unfold execLaceChunkForward
  repeat' with_reducible first
    | assumption | apply ResKeeps.next | apply State.laceFault_keeps | apply State.laceForward_keeps | apply ResKeeps.ite | apply Keeps.ite

theorem State.laceReturn_keeps {s0 s : State} (cl : Nat) (hk : Keeps s0 s) : Keeps s0 (State.laceReturn s cl) := by
  unfold State.laceReturn
  repeat' with_reducible first
    | assumption | intro _ | apply OptKeeps.some | apply OptKeeps.none | apply OptKeeps.ite | apply State.bump_keeps
    | apply State.endDesc_keeps | apply State.updCore_keeps | apply State.updLace_keeps | apply Keeps.ite | split
    | refine OptKeeps.get ?_ (by assumption) | refine Keeps.fst ?_ (by assumption) | refine Keeps.snd ?_ (by assumption) | dsimp only

theorem execLaceChunkReturn_keeps {s0 s : State} (cl : Fin 16) (hk : Keeps s0 s) : ResKeeps s0 (execLaceChunkReturn cl s) := by
  unfold execLaceChunkReturn
  repeat' with_reducible first
    | assumption | apply ResKeeps.next | apply State.laceReturn_keeps | apply ResKeeps.ite | apply Keeps.ite

/-! ## Tiers -/

theorem State.ownWait_keeps {s0 s : State} (who : Party) (l : LetterId) (ref : Nat) (value : Nat) (hk : Keeps s0 s) :
    Keeps s0 (State.ownWait s who l ref value) := by
  unfold State.ownWait
  repeat' with_reducible first
    | assumption | apply OptKeeps.some | apply OptKeeps.none | apply OptKeeps.ite | apply State.sendSync_keeps | split

theorem State.placeWait_keeps {s0 s : State} (l : LetterId) (x : Letter) (i : Nat) (hk : Keeps s0 s) : Keeps s0 (State.placeWait s l x i) := by
  unfold State.placeWait
  repeat' with_reducible first
    | assumption | apply State.ownWait_keeps

theorem State.startPlace_keeps {s0 s : State} (l : LetterId) (x : Letter) (hk : Keeps s0 s) : Keeps s0 (State.startPlace s l x) := by
  unfold State.startPlace
  repeat' with_reducible first
    | assumption | intro _ | apply OptKeeps.some | apply OptKeeps.none | apply OptKeeps.ite | apply State.each_keeps
    | apply State.endLetter_keeps | apply State.placeWait_keeps | apply State.setWork_keeps | split

theorem execPlace_keeps {s0 s : State} (q : Fin 4096) (hk : Keeps s0 s) : ResKeeps s0 (execPlace q s) := by
  unfold execPlace
  repeat' with_reducible first
    | assumption | intro _ | apply ResKeeps.next | apply State.startPlace_keeps | apply State.startWith_keeps

theorem State.placeCopy_keeps {s0 s : State} (k : Nat) (l : LetterId) (hk : Keeps s0 s) : Keeps s0 (State.placeCopy s k l) := by
  unfold State.placeCopy
  repeat' with_reducible first
    | assumption | intro _ | apply OptKeeps.some | apply OptKeeps.none | apply OptKeeps.ite | apply State.queueDesc_keeps
    | apply State.setWork_keeps | apply Keeps.ite | split

theorem State.signalFull_keeps {s0 s : State} (l : LetterId) (d : Nat) (ref : Nat) (hk : Keeps s0 s) : Keeps s0 (State.signalFull s l d ref) := by
  unfold State.signalFull
  repeat' with_reducible first
    | assumption | apply OptKeeps.some | apply OptKeeps.none | apply OptKeeps.ite | apply State.doneSignal_keeps
    | apply State.sendFrame_keeps | apply State.signalLost_keeps | apply Keeps.ite | split | refine OptKeeps.get ?_ (by assumption)
    | refine Keeps.fst ?_ (by assumption)

theorem State.tellLayers_keeps {s0 : State} (l : LetterId) (x : Letter) (ls : List PlaceLayer) : ∀ (ok : List Nat) {s : State}, Keeps s0 s →
    Keeps s0 (s.tellLayers l x ok ls).1 := by
  induction ls with
  | nil => intro _ s h; exact h
  | cons y ls ih => intro ok s h; exact ih _ (State.each_keeps _ _ h (fun s d h => State.signalFull_keeps _ _ _ h))

theorem State.placeNext_keeps {s0 s : State} (l : LetterId) (hk : Keeps s0 s) : Keeps s0 (State.placeNext s l) := by
  unfold State.placeNext
  repeat' with_reducible first
    | assumption | intro _ | apply OptKeeps.some | apply OptKeeps.none | apply OptKeeps.ite | apply State.count_keeps
    | apply State.endLetter_keeps | apply State.letterDone_keeps | apply State.placeEnds_keeps | apply State.placeWait_keeps
    | apply State.setWork_keeps | apply Keeps.ite | split

theorem State.placeCopied_keeps {s0 s : State} (l : LetterId) (hk : Keeps s0 s) : Keeps s0 (State.placeCopied s l) := by
  unfold State.placeCopied
  repeat' with_reducible first
    | assumption | apply OptKeeps.some | apply OptKeeps.none | apply OptKeeps.ite | apply State.placeNext_keeps | apply State.setWork_keeps
    | apply State.tellLayers_keeps | apply Keeps.ite | split

theorem execPlaceLayerCopied_keeps {s0 s : State} (q : Fin 4096) (pm : BitVec 32) (hk : Keeps s0 s) :
    ResKeeps s0 (execPlaceLayerCopied q pm s) := by
  unfold execPlaceLayerCopied
  repeat' with_reducible first
    | assumption | apply ResKeeps.next | apply State.placeCopied_keeps | apply ResKeeps.ite | apply Keeps.ite

theorem State.swapStageNext_keeps {s0 s : State} (l : LetterId) (hk : Keeps s0 s) : Keeps s0 (State.swapStageNext s l) := by
  unfold State.swapStageNext
  repeat' with_reducible first
    | assumption | apply OptKeeps.some | apply OptKeeps.none | apply OptKeeps.ite | apply State.queueDesc_keeps | apply State.setWork_keeps
    | apply Keeps.ite | split

theorem State.swapAsk_keeps {s0 s : State} (l : LetterId) (hk : Keeps s0 s) : Keeps s0 (State.swapAsk s l) := by
  unfold State.swapAsk
  repeat' with_reducible first
    | assumption | apply OptKeeps.some | apply OptKeeps.none | apply OptKeeps.ite | apply State.ownWait_keeps | apply State.setWork_keeps
    | apply Keeps.ite | split

theorem State.startSwap_keeps {s0 s : State} (l : LetterId) (x : Letter) (hk : Keeps s0 s) : Keeps s0 (State.startSwap s l x) := by
  unfold State.startSwap
  repeat' with_reducible first
    | assumption | apply OptKeeps.some | apply OptKeeps.none | apply OptKeeps.ite | apply State.endLetter_keeps | apply State.setWork_keeps
    | apply State.swapAsk_keeps | apply State.swapStageNext_keeps | split

theorem execSwap_keeps {s0 s : State} (q : Fin 4096) (hk : Keeps s0 s) : ResKeeps s0 (execSwap q s) := by
  unfold execSwap
  repeat' with_reducible first
    | assumption | intro _ | apply ResKeeps.next | apply State.startSwap_keeps | apply State.startWith_keeps

theorem execSwapGroupStaged_keeps {s0 s : State} (q : Fin 4096) (pm : BitVec 32) (hk : Keeps s0 s) :
    ResKeeps s0 (execSwapGroupStaged q pm s) := by
  unfold execSwapGroupStaged
  repeat' with_reducible first
    | assumption | apply ResKeeps.next | apply State.swapAsk_keeps | apply State.swapFails_keeps | apply State.swapStageNext_keeps
    | apply ResKeeps.ite | apply Keeps.ite

theorem State.swapCopyStart_keeps {s0 s : State} (l : LetterId) (hk : Keeps s0 s) : Keeps s0 (State.swapCopyStart s l) := by
  unfold State.swapCopyStart
  repeat' with_reducible first
    | assumption | intro _ | apply OptKeeps.some | apply OptKeeps.none | apply OptKeeps.ite | apply State.each_keeps
    | apply State.queueDesc_keeps | apply State.setWork_keeps | apply Keeps.ite | split

theorem execSwapGateTaken_keeps {s0 s : State} (q : Fin 4096) (pm : BitVec 32) (hk : Keeps s0 s) : ResKeeps s0 (execSwapGateTaken q pm s) := by
  unfold execSwapGateTaken
  repeat' with_reducible first
    | assumption | apply ResKeeps.next | apply State.swapCopyStart_keeps | apply ResKeeps.ite | apply Keeps.ite

theorem execDescriptorStart_keeps {s0 s : State} (k : Fin 20) (hk : Keeps s0 s) : ResKeeps s0 (execDescriptorStart k s) := by
  unfold execDescriptorStart
  repeat' with_reducible first
    | assumption | intro _ | apply ResKeeps.next | apply State.clusterHands_keeps | apply State.each_keeps | apply State.placeCopy_keeps
    | apply State.startDesc_keeps | apply State.swapCopyStart_keeps | apply State.swapStageNext_keeps | apply ResKeeps.ite | apply Keeps.ite

theorem State.swapCopied_keeps {s0 s : State} (l : LetterId) (hk : Keeps s0 s) : Keeps s0 (State.swapCopied s l) := by
  unfold State.swapCopied
  repeat' with_reducible first
    | assumption | apply OptKeeps.some | apply OptKeeps.none | apply OptKeeps.ite | apply State.doneSignal_keeps
    | apply State.endLetter_keeps | apply State.letterDone_keeps | apply State.setWork_keeps | apply State.swapAsk_keeps
    | apply State.swapFails_keeps | apply State.swapStageNext_keeps | apply Keeps.ite | split

theorem execSwapGroupCopied_keeps {s0 s : State} (q : Fin 4096) (pm : BitVec 32) (hk : Keeps s0 s) :
    ResKeeps s0 (execSwapGroupCopied q pm s) := by
  unfold execSwapGroupCopied
  repeat' with_reducible first
    | assumption | apply ResKeeps.next | apply State.swapCopied_keeps | apply ResKeeps.ite | apply Keeps.ite

theorem State.updExpert_keeps {s0 s : State} (r : Nat) (u : Nat) (f : Expert → Expert) (hk : Keeps s0 s) :
    Keeps s0 (State.updExpert s r u f) := by
  unfold State.updExpert
  repeat' with_reducible first
    | assumption | refine Keeps.lit ?_ rfl rfl rfl rfl rfl rfl rfl rfl

theorem State.markSlot_keeps {s0 s : State} (r : Nat) (slot : Nat) (hk : Keeps s0 s) : Keeps s0 (State.markSlot s r slot) := by
  unfold State.markSlot
  repeat' with_reducible first
    | assumption | refine Keeps.lit ?_ rfl rfl rfl rfl rfl rfl rfl rfl

theorem State.beginRelease_keeps {s0 s : State} (x : RouteRec) (slot : Nat) (hk : Keeps s0 s) : Keeps s0 (State.beginRelease s x slot) := by
  unfold State.beginRelease
  repeat' with_reducible first
    | assumption | apply State.markSlot_keeps | apply State.ownWait_keeps | apply Keeps.ite | split | dsimp only
    | refine Keeps.lit ?_ rfl rfl rfl rfl rfl rfl rfl rfl

theorem State.promote_keeps {s0 s : State} (r : Nat) (u : Nat) (l : LetterId) (hk : Keeps s0 s) : Keeps s0 (State.promote s r u l) := by
  unfold State.promote
  repeat' with_reducible first
    | assumption | intro _ | apply Keeps.ite | split | dsimp only | refine Keeps.lit ?_ rfl rfl rfl rfl rfl rfl rfl rfl

theorem State.routeEnds_keeps {s0 s : State} (l : LetterId) (hk : Keeps s0 s) : Keeps s0 (State.routeEnds s l) := by
  unfold State.routeEnds
  repeat' with_reducible first
    | assumption | intro _ | apply OptKeeps.some | apply OptKeeps.none | apply OptKeeps.ite | apply State.endLetter_keeps | apply Keeps.ite
    | split

theorem State.routeOne_keeps {s0 s : State} (l : LetterId) (x : Letter) (n : Nat) (serial : Nat) (hk : Keeps s0 s) :
    Keeps s0 (State.routeOne s l x n serial) := by
  unfold State.routeOne
  repeat' with_reducible first
    | assumption | intro _ | apply OptKeeps.some | apply OptKeeps.none | apply OptKeeps.ite | apply State.beginRelease_keeps
    | apply State.endLetter_keeps | apply State.prNote_keeps | apply State.promote_keeps | apply State.setWork_keeps | apply Keeps.ite
    | split | refine OptKeeps.get ?_ (by assumption) | refine Keeps.fst ?_ (by assumption) | refine Keeps.snd ?_ (by assumption)
    | dsimp only | refine Keeps.lit ?_ rfl rfl rfl rfl rfl rfl rfl rfl

theorem State.routeRead_keeps {s0 : State} (l : LetterId) (n : Nat) : ∀ {s : State}, Keeps s0 s → Keeps s0 (s.routeRead l n) := by
  induction n with
  | zero => intro s h; exact h
  | succ n ih =>
    intro s h
    unfold State.routeRead
    repeat' with_reducible first | assumption | apply ih | apply State.routeOne_keeps | apply Keeps.ite | split

theorem State.routeGo_keeps {s0 s : State} (l : LetterId) (rd : ReadRes) (hk : Keeps s0 s) : Keeps s0 (State.routeGo s l rd) := by
  unfold State.routeGo
  repeat' with_reducible first
    | assumption | intro _ | apply OptKeeps.some | apply OptKeeps.none | apply OptKeeps.ite | apply OptKeeps.getD
    | apply State.contained_keeps | apply State.endLetter_keeps | apply State.hbmReads_keeps | apply State.routeEnds_keeps
    | apply State.routeRead_keeps | apply State.winAccess_keeps | apply Keeps.ite | split

theorem execPromoteRoute_keeps {s0 s : State} (q : Fin 4096) (rd : ReadRes) (hk : Keeps s0 s) : ResKeeps s0 (execPromoteRoute q rd s) := by
  unfold execPromoteRoute
  repeat' with_reducible first
    | assumption | intro _ | apply ResKeeps.next | apply OptKeeps.some | apply OptKeeps.none | apply OptKeeps.ite
    | apply State.endLetter_keeps | apply State.fresh_keeps | apply State.routeGo_keeps | apply State.setWork_keeps
    | apply State.startWith_keeps | apply ResKeeps.ite | apply Keeps.ite | split

theorem State.fetchDone_keeps {s0 s : State} (l : LetterId) (r : Nat) (u : Nat) (slot : Nat) (pin : Bool) (hk : Keeps s0 s) :
    Keeps s0 (State.fetchDone s l r u slot pin) := by
  unfold State.fetchDone
  repeat' with_reducible first
    | assumption | intro _ | apply State.endLetter_keeps | apply State.updExpert_keeps | apply Keeps.ite

theorem State.startFetch_keeps {s0 s : State} (l : LetterId) (x : Letter) (pin : Bool) (hk : Keeps s0 s) :
    Keeps s0 (State.startFetch s l x pin) := by
  unfold State.startFetch
  repeat' with_reducible first
    | assumption | apply OptKeeps.some | apply OptKeeps.none | apply OptKeeps.ite | apply State.endLetter_keeps
    | apply State.fetchDone_keeps | apply State.promote_keeps | apply State.setWork_keeps | apply Keeps.ite | split
    | refine OptKeeps.get ?_ (by assumption) | refine Keeps.fst ?_ (by assumption) | refine Keeps.snd ?_ (by assumption) | dsimp only
    | refine Keeps.lit ?_ rfl rfl rfl rfl rfl rfl rfl rfl

theorem execPromoteFetch_keeps {s0 s : State} (q : Fin 4096) (hk : Keeps s0 s) : ResKeeps s0 (execPromoteFetch q s) := by
  unfold execPromoteFetch
  repeat' with_reducible first
    | assumption | intro _ | apply ResKeeps.next | apply State.startFetch_keeps | apply State.startWith_keeps

theorem execPromotePin_keeps {s0 s : State} (q : Fin 4096) (hk : Keeps s0 s) : ResKeeps s0 (execPromotePin q s) := by
  unfold execPromotePin
  repeat' with_reducible first
    | assumption | intro _ | apply ResKeeps.next | apply State.startFetch_keeps | apply State.startWith_keeps

theorem execPromoteUnpin_keeps {s0 s : State} (q : Fin 4096) (hk : Keeps s0 s) : ResKeeps s0 (execPromoteUnpin q s) := by
  unfold execPromoteUnpin
  repeat' with_reducible first
    | assumption | intro _ | apply ResKeeps.next | apply OptKeeps.some | apply OptKeeps.none | apply OptKeeps.ite
    | apply State.endLetter_keeps | apply State.startWith_keeps | apply State.updExpert_keeps | split

theorem State.writeReady_keeps {s0 s : State} (x : RouteRec) (hk : Keeps s0 s) : Keeps s0 (State.writeReady s x) := by
  unfold State.writeReady
  repeat' with_reducible first
    | assumption | intro _ | apply OptKeeps.some | apply OptKeeps.none | apply OptKeeps.ite | apply State.contained_keeps
    | apply State.endLetter_keeps | apply State.hbmAccess_keeps | apply State.hbmWrite_keeps | apply State.routeEnds_keeps
    | apply State.sendSync_keeps | apply Keeps.ite | split | refine OptKeeps.get ?_ (by assumption) | refine Keeps.fst ?_ (by assumption)
    | refine Keeps.snd ?_ (by assumption) | dsimp only | refine Keeps.lit ?_ rfl rfl rfl rfl rfl rfl rfl rfl

theorem execRouteRecordRelease_keeps {s0 s : State} (r : Fin 255) (i : Nat) (hk : Keeps s0 s) : ResKeeps s0 (execRouteRecordRelease r i s) := by
  unfold execRouteRecordRelease
  repeat' with_reducible first
    | assumption | intro _ | apply ResKeeps.next | apply OptKeeps.some | apply OptKeeps.none | apply OptKeeps.ite
    | apply State.writeReady_keeps | apply ResKeeps.ite | apply Keeps.ite | split

theorem State.beginPromotion_keeps {s0 s : State} (p : Promotion) (slot : Nat) (evict : Option Nat) (hk : Keeps s0 s) :
    Keeps s0 (State.beginPromotion s p slot evict) := by
  unfold State.beginPromotion
  repeat' with_reducible first
    | assumption | intro _ | apply OptKeeps.some | apply OptKeeps.none | apply OptKeeps.ite | apply State.prNote_keeps
    | apply State.promote_keeps | apply State.queueDesc_keeps | apply State.updExpert_keeps | apply Keeps.ite | split
    | refine OptKeeps.get ?_ (by assumption) | refine Keeps.fst ?_ (by assumption) | refine Keeps.snd ?_ (by assumption) | dsimp only
    | refine Keeps.lit ?_ rfl rfl rfl rfl rfl rfl rfl rfl

theorem execPromotionStart_keeps {s0 s : State} (hk : Keeps s0 s) : ResKeeps s0 (execPromotionStart s) := by
  unfold execPromotionStart
  repeat' with_reducible first
    | assumption | intro _ | apply ResKeeps.next | apply OptKeeps.some | apply OptKeeps.none | apply OptKeeps.ite
    | apply State.beginPromotion_keeps | apply ResKeeps.ite | apply Keeps.ite | split

theorem State.releaseHeld_keeps {s0 s : State} (r : Nat) (u : Nat) (slot : Nat) (hk : Keeps s0 s) : Keeps s0 (State.releaseHeld s r u slot) := by
  unfold State.releaseHeld
  repeat' with_reducible first
    | assumption | intro _ | apply State.beginRelease_keeps | apply State.each_keeps | apply State.prNote_keeps | apply Keeps.ite | split
    | dsimp only | refine Keeps.lit ?_ rfl rfl rfl rfl rfl rfl rfl rfl

theorem State.endPromotion_keeps {s0 s : State} (p : Promotion) (slot : Nat) (hk : Keeps s0 s) : Keeps s0 (State.endPromotion s p slot) := by
  unfold State.endPromotion
  repeat' with_reducible first
    | assumption | intro _ | apply OptKeeps.some | apply OptKeeps.none | apply OptKeeps.ite | apply State.each_keeps
    | apply State.endLetter_keeps | apply State.fetchDone_keeps | apply State.postCtx_keeps | apply State.releaseHeld_keeps
    | apply State.updExpert_keeps | apply Keeps.ite | split | refine OptKeeps.get ?_ (by assumption) | refine Keeps.fst ?_ (by assumption)
    | refine Keeps.snd ?_ (by assumption) | dsimp only | refine Keeps.lit ?_ rfl rfl rfl rfl rfl rfl rfl rfl

theorem execPromotionDone_keeps {s0 s : State} (r : Fin 255) (u : Nat) (hk : Keeps s0 s) : ResKeeps s0 (execPromotionDone r u s) := by
  unfold execPromotionDone
  repeat' with_reducible first
    | assumption | intro _ | apply ResKeeps.next | apply OptKeeps.some | apply OptKeeps.none | apply OptKeeps.ite
    | apply State.endPromotion_keeps | apply ResKeeps.ite | apply Keeps.ite | split

theorem State.queueZero_keeps {s0 s : State} (page : Nat) (ctx : Nat) (hk : Keeps s0 s) : Keeps s0 (State.queueZero s page ctx) := by
  unfold State.queueZero
  repeat' with_reducible first
    | assumption | apply State.bump_keeps | dsimp only | refine Keeps.lit ?_ rfl rfl rfl rfl rfl rfl rfl rfl

theorem execZeroRequestIssue_keeps {s0 s : State} (hk : Keeps s0 s) : ResKeeps s0 (execZeroRequestIssue s) := by
  unfold execZeroRequestIssue
  repeat' with_reducible first
    | assumption | intro _ | apply ResKeeps.next | apply OptKeeps.some | apply OptKeeps.none | apply OptKeeps.ite | apply State.addReq_keeps
    | apply State.fresh_keeps | apply ResKeeps.ite | apply Keeps.ite | split | refine OptKeeps.get ?_ (by assumption)
    | refine Keeps.fst ?_ (by assumption) | refine Keeps.snd ?_ (by assumption) | dsimp only
    | refine Keeps.lit ?_ rfl rfl rfl rfl rfl rfl rfl rfl

theorem State.zeroLines_keeps {s0 s : State} (a n : Nat) (h : Keeps s0 s) : Keeps s0 (s.zeroLines a n) := by
  unfold State.zeroLines
  exact (State.mend_keeps (s := s) 4 (fun l => decide (a / 64 ≤ l ∧ l < a / 64 + n)) h).mem rfl rfl rfl rfl (memWf_clear _ _ _) id id id

theorem State.zeroedPage_keeps {s0 s : State} (page : Nat) (hk : Keeps s0 s) : Keeps s0 (State.zeroedPage s page) := by
  unfold State.zeroedPage
  repeat' with_reducible first
    | assumption | intro _ | apply State.bump_keeps | apply State.setFld_keeps | dsimp only
    | refine Keeps.lit ?_ rfl rfl rfl rfl rfl rfl rfl rfl

theorem execZeroPageComplete_keeps {s0 s : State} (hk : Keeps s0 s) : ResKeeps s0 (execZeroPageComplete s) := by
  unfold execZeroPageComplete
  repeat' with_reducible first
    | assumption | intro _ | apply ResKeeps.next | apply OptKeeps.some | apply OptKeeps.none | apply OptKeeps.ite
    | apply State.zeroedPage_keeps | apply ResKeeps.ite | apply Keeps.ite | split

/-! ## Queues -/

theorem State.queueEvent_keeps {s0 s : State} (q : Nat) (code : Code) (detail : List Byte) (hk : Keeps s0 s) :
    Keeps s0 (State.queueEvent s q code detail) := by
  unfold State.queueEvent
  repeat' with_reducible first
    | assumption | apply OptKeeps.some | apply OptKeeps.none | apply OptKeeps.ite | apply State.postCtx_keeps

theorem State.checkOverrun_keeps {s0 s : State} (q : Nat) (hk : Keeps s0 s) : Keeps s0 (State.checkOverrun s q) := by
  unfold State.checkOverrun
  repeat' with_reducible first
    | assumption | apply State.haltQueue_keeps | apply State.queueEvent_keeps | apply Keeps.ite

theorem State.doDoorbell_keeps {s0 s : State} (v : View) (win : Nat) (q : Nat) (tail : BitVec 32) (hk : Keeps s0 s) :
    Keeps s0 (State.doDoorbell s v win q tail) := by
  unfold State.doDoorbell
  repeat' with_reducible first
    | assumption | intro _ | apply State.checkOverrun_keeps | apply State.updQ_keeps | apply Keeps.ite

theorem execHifDoorbell_keeps {s0 s : State} (v : View) (win : Fin 1024) (q : Fin 4096) (tail : BitVec 32) (hk : Keeps s0 s) :
    ResKeeps s0 (execHifDoorbell v win q tail s) := by
  unfold execHifDoorbell
  repeat' with_reducible first
    | assumption | apply ResKeeps.next | apply State.doDoorbell_keeps

theorem State.fetchFails_keeps {s0 s : State} (q : Nat) (code : Code) (detail : List Byte) (hk : Keeps s0 s) :
    Keeps s0 (State.fetchFails s q code detail) := by
  unfold State.fetchFails
  repeat' with_reducible first
    | assumption | apply State.haltQueue_keeps | apply State.queueEvent_keeps

theorem State.acceptLetter_keeps {s0 s : State} (q : Nat) (raw : List Byte) (hk : Keeps s0 s) : Keeps s0 (State.acceptLetter s q raw) := by
  unfold State.acceptLetter
  repeat' with_reducible first
    | assumption | intro _ | apply OptKeeps.some | apply OptKeeps.none | apply OptKeeps.ite | apply State.haltQueue_keeps
    | apply State.updQ_keeps | apply Keeps.ite

theorem State.doLetterFetch_keeps {s0 s : State} (q : Nat) (host : HostReply) (rd : ReadRes) (hk : Keeps s0 s) :
    Keeps s0 (State.doLetterFetch s q host rd) := by
  unfold State.doLetterFetch
  repeat' with_reducible first
    | assumption | apply OptKeeps.some | apply OptKeeps.none | apply OptKeeps.ite | apply State.acceptLetter_keeps
    | apply State.fetchFails_keeps | apply State.hbmAccess_keeps | apply State.hbmNote_keeps | apply State.toHost_keeps | apply Keeps.ite
    | split

theorem execLetterFetch_keeps {s0 s : State} (q : Fin 4096) (host : HostReply) (rd : ReadRes) (hk : Keeps s0 s) :
    ResKeeps s0 (execLetterFetch q host rd s) := by
  unfold execLetterFetch
  repeat' with_reducible first
    | assumption | apply ResKeeps.next | apply State.doLetterFetch_keeps

theorem execNopLetter_keeps {s0 s : State} (q : Fin 4096) (hk : Keeps s0 s) : ResKeeps s0 (execNopLetter q s) := by
  unfold execNopLetter
  repeat' with_reducible first
    | assumption | intro _ | apply ResKeeps.next | apply State.endLetter_keeps | apply State.startWith_keeps

theorem State.startSignal_keeps {s0 s : State} (l : LetterId) (x : Letter) (hk : Keeps s0 s) : Keeps s0 (State.startSignal s l x) := by
  unfold State.startSignal
  repeat' with_reducible first
    | assumption | apply OptKeeps.some | apply OptKeeps.none | apply OptKeeps.ite | apply State.endLetter_keeps | apply State.sendSync_keeps
    | split | refine OptKeeps.get ?_ (by assumption) | refine Keeps.fst ?_ (by assumption) | refine Keeps.snd ?_ (by assumption)
    | dsimp only

theorem execSignalLetter_keeps {s0 s : State} (q : Fin 4096) (hk : Keeps s0 s) : ResKeeps s0 (execSignalLetter q s) := by
  unfold execSignalLetter
  repeat' with_reducible first
    | assumption | intro _ | apply ResKeeps.next | apply State.startSignal_keeps | apply State.startWith_keeps

theorem State.startWait_keeps {s0 s : State} (l : LetterId) (x : Letter) (hk : Keeps s0 s) : Keeps s0 (State.startWait s l x) := by
  unfold State.startWait
  repeat' with_reducible first
    | assumption | apply OptKeeps.some | apply OptKeeps.none | apply OptKeeps.ite | apply State.endLetter_keeps | apply State.sendSync_keeps
    | apply State.setWork_keeps | apply Keeps.ite | split | refine OptKeeps.get ?_ (by assumption) | refine Keeps.fst ?_ (by assumption)
    | refine Keeps.snd ?_ (by assumption) | dsimp only

theorem execWaitLetter_keeps {s0 s : State} (q : Fin 4096) (hk : Keeps s0 s) : ResKeeps s0 (execWaitLetter q s) := by
  unfold execWaitLetter
  repeat' with_reducible first
    | assumption | intro _ | apply ResKeeps.next | apply State.startWait_keeps | apply State.startWith_keeps

theorem State.advance_keeps {s0 s : State} (q : Nat) (hk : Keeps s0 s) : Keeps s0 (State.advance s q) := by
  unfold State.advance
  repeat' with_reducible first
    | assumption | intro _ | apply State.updQ_keeps

theorem State.completeLetter_keeps {s0 s : State} (q : Nat) (x : Letter) (hostErr : Bool) (hk : Keeps s0 s) :
    Keeps s0 (State.completeLetter s q x hostErr) := by
  unfold State.completeLetter
  repeat' with_reducible first
    | assumption | intro _ | apply State.advance_keeps | apply State.countCtx_keeps | apply State.each_keeps | apply State.failQueue_keeps
    | apply State.postCtx_keeps | apply State.updLetter_keeps | apply Keeps.ite

theorem execLetterComplete_keeps {s0 s : State} (q : Fin 4096) (pm : BitVec 32) (hostErr : Bool) (hk : Keeps s0 s) :
    ResKeeps s0 (execLetterComplete q pm hostErr s) := by
  unfold execLetterComplete
  repeat' with_reducible first
    | assumption | apply ResKeeps.next | apply OptKeeps.some | apply OptKeeps.none | apply OptKeeps.ite | apply State.completeLetter_keeps
    | apply ResKeeps.ite | apply Keeps.ite | split

theorem State.doRecordWrite_keeps {s0 s : State} (q : Nat) (hostErr : Bool) (hk : Keeps s0 s) : Keeps s0 (State.doRecordWrite s q hostErr) := by
  unfold State.doRecordWrite
  repeat' with_reducible first
    | assumption | intro _ | apply OptKeeps.some | apply OptKeeps.none | apply OptKeeps.ite | apply State.advance_keeps
    | apply State.each_keeps | apply State.failQueue_keeps | apply State.haltQueue_keeps | apply State.reportLost_keeps
    | apply State.ringAdvance_keeps | apply State.ringWrite_keeps | apply State.updLetter_keeps | apply State.updQ_keeps | apply Keeps.ite
    | split | refine OptKeeps.get ?_ (by assumption) | refine Keeps.fst ?_ (by assumption) | refine Keeps.snd ?_ (by assumption)
    | dsimp only

theorem execCompletionRecordWrite_keeps {s0 s : State} (q : Fin 4096) (hostErr : Bool) (hk : Keeps s0 s) :
    ResKeeps s0 (execCompletionRecordWrite q hostErr s) := by
  unfold execCompletionRecordWrite
  repeat' with_reducible first
    | assumption | apply ResKeeps.next | apply State.doRecordWrite_keeps

theorem State.activate_keeps {s0 s : State} (q : Nat) (hk : Keeps s0 s) : Keeps s0 (State.activate s q) := by
  unfold State.activate
  repeat' with_reducible first
    | assumption | intro _ | apply State.checkOverrun_keeps | apply State.updQ_keeps

theorem State.keepQport_keeps {s0 s : State} (v : View) (win : Nat) (q : Nat) (hk : Keeps s0 s) : Keeps s0 (State.keepQport s v win q) := by
  unfold State.keepQport
  repeat' with_reducible first
    | assumption | intro _ | apply OptKeeps.some | apply OptKeeps.none | apply OptKeeps.ite | apply State.setFld_keeps | split
    | refine OptKeeps.get ?_ (by assumption) | refine Keeps.fst ?_ (by assumption) | refine Keeps.snd ?_ (by assumption) | dsimp only
    | refine Keeps.lit ?_ rfl rfl rfl rfl rfl rfl rfl rfl

theorem State.queueCmd_keeps {s0 s : State} (v : View) (win : Nat) (q : Nat) (go : State → State) (hk : Keeps s0 s) (hgo : ∀ s, Keeps s0 s → Keeps s0 (go s)) :
    Keeps s0 (State.queueCmd s v win q go) := by
  unfold State.queueCmd
  repeat' with_reducible first
    | assumption | intro _ | apply State.keepQport_keeps | apply hgo | apply Keeps.ite

theorem State.doRestart_keeps {s0 s : State} (q : Nat) (hk : Keeps s0 s) : Keeps s0 (State.doRestart s q) := by
  unfold State.doRestart
  repeat' with_reducible first
    | assumption | intro _ | apply State.activate_keeps | apply State.updQ_keeps | apply Keeps.ite

theorem execQueueRestart_keeps {s0 s : State} (v : View) (win : Fin 1024) (q : Fin 4096) (hk : Keeps s0 s) :
    ResKeeps s0 (execQueueRestart v win q s) := by
  unfold execQueueRestart
  repeat' with_reducible first
    | assumption | intro _ | apply ResKeeps.next | apply State.doRestart_keeps | apply State.queueCmd_keeps

theorem execQueuePause_keeps {s0 s : State} (v : View) (win : Fin 1024) (q : Fin 4096) (hk : Keeps s0 s) :
    ResKeeps s0 (execQueuePause v win q s) := by
  unfold execQueuePause
  repeat' with_reducible first
    | assumption | intro _ | apply ResKeeps.next | apply State.queueCmd_keeps | apply State.updQ_keeps | apply ResKeeps.ite
    | apply Keeps.ite

theorem execQueueResume_keeps {s0 s : State} (v : View) (win : Fin 1024) (q : Fin 4096) (hk : Keeps s0 s) :
    ResKeeps s0 (execQueueResume v win q s) := by
  unfold execQueueResume
  repeat' with_reducible first
    | assumption | intro _ | apply ResKeeps.next | apply State.activate_keeps | apply State.queueCmd_keeps | apply ResKeeps.ite
    | apply Keeps.ite

theorem execQueueReset_keeps {s0 s : State} (v : View) (win : Fin 1024) (q : Fin 4096) (hk : Keeps s0 s) :
    ResKeeps s0 (execQueueReset v win q s) := by
  unfold execQueueReset
  repeat' with_reducible first
    | assumption | intro _ | apply ResKeeps.next | apply State.queueCmd_keeps | apply State.resetQueue_keeps | apply ResKeeps.ite
    | apply Keeps.ite

theorem State.doWindback_keeps {s0 s : State} (q : Nat) (hk : Keeps s0 s) : Keeps s0 (State.doWindback s q) := by
  unfold State.doWindback
  repeat' with_reducible first
    | assumption | intro _ | apply State.activate_keeps | apply State.updQ_keeps | apply Keeps.ite

theorem execQueueWindback_keeps {s0 s : State} (q : Fin 4096) (hk : Keeps s0 s) : ResKeeps s0 (execQueueWindback q s) := by
  unfold execQueueWindback
  repeat' with_reducible first
    | assumption | apply ResKeeps.next | apply State.doWindback_keeps

end Sys2Proof.Machine
end

