-- ==== Sys2Proof/Laws/KeepsCore.lean ====
section
/-! SUPPORT. Streams, vectors, arrays and attention keep what `Keeps` says. -/

namespace Sys2Proof.Machine

/-! ## Streams -/

theorem State.startRun_keeps {s0 s : State} (l : LetterId) (x : Letter) (rd : ReadRes) (hk : Keeps s0 s) :
    Keeps s0 (State.startRun s l x rd) := by
  unfold State.startRun
  repeat' with_reducible first
    | assumption | intro _ | apply OptKeeps.some | apply OptKeeps.none | apply OptKeeps.ite | apply OptKeeps.getD
    | apply State.contained_keeps | apply State.each_keeps | apply State.endLetter_keeps | apply State.hbmAccess_keeps
    | apply State.hbmNote_keeps | apply State.runEnds_keeps | apply State.setWork_keeps | apply State.updSeqr_keeps | apply Keeps.ite
    | split | refine OptKeeps.get ?_ (by assumption) | refine Keeps.fst ?_ (by assumption) | refine Keeps.snd ?_ (by assumption)
    | dsimp only

theorem execRun_keeps {s0 s : State} (q : Fin 4096) (rd : ReadRes) (hk : Keeps s0 s) : ResKeeps s0 (execRun q rd s) := by
  unfold execRun
  repeat' with_reducible first
    | assumption | intro _ | apply ResKeeps.next | apply State.startRun_keeps | apply State.startWith_keeps

theorem State.doStreamBegin_keeps {s0 s : State} (c : Nat) (hk : Keeps s0 s) : Keeps s0 (State.doStreamBegin s c) := by
  unfold State.doStreamBegin
  repeat' with_reducible first
    | assumption | intro _ | apply OptKeeps.some | apply OptKeeps.none | apply OptKeeps.ite | apply State.benchWrite_keeps
    | apply State.notePhase_keeps | apply State.updLetter_keeps | apply State.updSeqr_keeps | apply Keeps.ite | split

theorem execStreamBegin_keeps {s0 s : State} (c : Fin 272) (hk : Keeps s0 s) : ResKeeps s0 (execStreamBegin c s) := by
  unfold execStreamBegin
  repeat' with_reducible first
    | assumption | apply ResKeeps.next | apply State.doStreamBegin_keeps

theorem State.doStreamFetch_keeps {s0 s : State} (c : Nat) (n : Nat) (rd : ReadRes) (hk : Keeps s0 s) :
    Keeps s0 (State.doStreamFetch s c n rd) := by
  unfold State.doStreamFetch
  repeat' with_reducible first
    | assumption | intro _ | apply OptKeeps.some | apply OptKeeps.none | apply OptKeeps.ite | apply State.contained_keeps
    | apply State.failStream_keeps | apply State.hbmAccess_keeps | apply State.hbmNote_keeps | apply State.updSeqr_keeps | apply Keeps.ite
    | split | refine OptKeeps.get ?_ (by assumption) | refine Keeps.fst ?_ (by assumption) | refine Keeps.snd ?_ (by assumption)
    | dsimp only

theorem execStreamFetch_keeps {s0 s : State} (c : Fin 272) (n : Nat) (rd : StreamRead) (hk : Keeps s0 s) :
    ResKeeps s0 (execStreamFetch c n rd s) := by
  unfold execStreamFetch
  repeat' with_reducible first
    | assumption | intro _ | apply ResKeeps.next | apply State.doStreamFetch_keeps | apply State.inCore_keeps

theorem execNop_keeps {s0 s : State} (c : Fin 272) (hk : Keeps s0 s) : ResKeeps s0 (execNop c s) := by
  unfold execNop
  repeat' with_reducible first
    | assumption | intro _ | apply ResKeeps.next | apply State.dispatch_keeps | apply State.popHead_keeps

theorem execEndCmd_keeps {s0 s : State} (c : Fin 272) (hk : Keeps s0 s) : ResKeeps s0 (execEndCmd c s) := by
  unfold execEndCmd
  repeat' with_reducible first
    | assumption | intro _ | apply ResKeeps.next | apply State.dispatch_keeps | apply State.popHead_keeps | apply State.updSeqr_keeps

theorem execPhase_keeps {s0 s : State} (c : Fin 272) (hk : Keeps s0 s) : ResKeeps s0 (execPhase c s) := by
  unfold execPhase
  repeat' with_reducible first
    | assumption | intro _ | apply ResKeeps.next | apply State.dispatch_keeps | apply State.notePhase_keeps | apply State.popHead_keeps
    | apply State.updSeqr_keeps

theorem State.startFiller_keeps {s0 s : State} (c : Nat) (hk : Keeps s0 s) : Keeps s0 (State.startFiller s c) := by
  unfold State.startFiller
  repeat' with_reducible first
    | assumption | intro _ | apply State.updCore_keeps | apply Keeps.ite

theorem State.dispatchWait_keeps {s0 s : State} (p : CorePlace) (t : Stream) (r : BitVec 128) (hk : Keeps s0 s) :
    Keeps s0 (State.dispatchWait s p t r) := by
  unfold State.dispatchWait
  repeat' with_reducible first
    | assumption | intro _ | apply OptKeeps.some | apply OptKeeps.none | apply OptKeeps.ite | apply State.popHead_keeps
    | apply State.sendSync_keeps | apply State.startFiller_keeps | apply State.updSeqr_keeps | apply Keeps.ite | split
    | refine OptKeeps.get ?_ (by assumption) | refine Keeps.fst ?_ (by assumption) | refine Keeps.snd ?_ (by assumption) | dsimp only

theorem execWait_keeps {s0 s : State} (c : Fin 272) (hk : Keeps s0 s) : ResKeeps s0 (execWait c s) := by
  unfold execWait
  repeat' with_reducible first
    | assumption | intro _ | apply ResKeeps.next | apply State.dispatch_keeps | apply State.dispatchWait_keeps

theorem State.dispatchSignal_keeps {s0 s : State} (p : CorePlace) (t : Stream) (r : BitVec 128) (hk : Keeps s0 s) :
    Keeps s0 (State.dispatchSignal s p t r) := by
  unfold State.dispatchSignal
  repeat' with_reducible first
    | assumption | intro _ | apply OptKeeps.some | apply OptKeeps.none | apply OptKeeps.ite | apply State.popHead_keeps
    | apply State.updSeqr_keeps | apply Keeps.ite | split | refine OptKeeps.get ?_ (by assumption) | refine Keeps.fst ?_ (by assumption)
    | refine Keeps.snd ?_ (by assumption) | dsimp only

theorem execSignal_keeps {s0 s : State} (c : Fin 272) (hk : Keeps s0 s) : ResKeeps s0 (execSignal c s) := by
  unfold execSignal
  repeat' with_reducible first
    | assumption | intro _ | apply ResKeeps.next | apply State.dispatch_keeps | apply State.dispatchSignal_keeps

theorem State.doSignalRelease_keeps {s0 s : State} (c : Nat) (hk : Keeps s0 s) : Keeps s0 (State.doSignalRelease s c) := by
  unfold State.doSignalRelease
  repeat' with_reducible first
    | assumption | intro _ | apply OptKeeps.some | apply OptKeeps.none | apply OptKeeps.ite | apply State.sendSync_keeps
    | apply State.updSeqr_keeps | apply Keeps.ite | split

theorem execSignalQueueRelease_keeps {s0 s : State} (c : Fin 272) (hk : Keeps s0 s) : ResKeeps s0 (execSignalQueueRelease c s) := by
  unfold execSignalQueueRelease
  repeat' with_reducible first
    | assumption | apply ResKeeps.next | apply State.doSignalRelease_keeps

theorem State.dispatchXfer_keeps {s0 s : State} (p : CorePlace) (t : Stream) (r : BitVec 128) (hk : Keeps s0 s) :
    Keeps s0 (State.dispatchXfer s p t r) := by
  unfold State.dispatchXfer
  repeat' with_reducible first
    | assumption | apply State.engineHands_keeps | apply State.handOver_keeps

theorem execXferBenchToRemote_keeps {s0 s : State} (c : Fin 272) (hk : Keeps s0 s) : ResKeeps s0 (execXferBenchToRemote c s) := by
  unfold execXferBenchToRemote
  repeat' with_reducible first
    | assumption | intro _ | apply ResKeeps.next | apply State.dispatch_keeps | apply State.dispatchXfer_keeps

theorem execXferRemoteToBench_keeps {s0 s : State} (c : Fin 272) (hk : Keeps s0 s) : ResKeeps s0 (execXferRemoteToBench c s) := by
  unfold execXferRemoteToBench
  repeat' with_reducible first
    | assumption | intro _ | apply ResKeeps.next | apply State.dispatch_keeps | apply State.dispatchXfer_keeps

theorem execLdt_keeps {s0 s : State} (c : Fin 272) (hk : Keeps s0 s) : ResKeeps s0 (execLdt c s) := by
  unfold execLdt
  repeat' with_reducible first
    | assumption | intro _ | apply ResKeeps.next | apply State.dispatch_keeps | apply State.handOver_keeps

theorem execLds_keeps {s0 s : State} (c : Fin 272) (hk : Keeps s0 s) : ResKeeps s0 (execLds c s) := by
  unfold execLds
  repeat' with_reducible first
    | assumption | intro _ | apply ResKeeps.next | apply OptKeeps.some | apply OptKeeps.none | apply OptKeeps.ite | apply OptKeeps.getD
    | apply State.dispatch_keeps | apply State.handOver_keeps | apply State.updCore_keeps

theorem execMac_keeps {s0 s : State} (c : Fin 272) (hk : Keeps s0 s) : ResKeeps s0 (execMac c s) := by
  unfold execMac
  repeat' with_reducible first
    | assumption | intro _ | apply ResKeeps.next | apply State.dispatch_keeps | apply State.handOver_keeps

theorem State.dispatchDrain_keeps {s0 s : State} (p : CorePlace) (t : Stream) (r : BitVec 128) (hk : Keeps s0 s) :
    Keeps s0 (State.dispatchDrain s p t r) := by
  unfold State.dispatchDrain
  repeat' with_reducible first
    | assumption | apply State.engineHands_keeps | apply State.handOver_keeps

theorem execDrain_keeps {s0 s : State} (c : Fin 272) (hk : Keeps s0 s) : ResKeeps s0 (execDrain c s) := by
  unfold execDrain
  repeat' with_reducible first
    | assumption | intro _ | apply ResKeeps.next | apply State.dispatch_keeps | apply State.dispatchDrain_keeps

theorem State.closeStream_keeps {s0 s : State} (p : CorePlace) (t : Stream) (code : Option Code) (hk : Keeps s0 s) :
    Keeps s0 (State.closeStream s p t code) := by
  unfold State.closeStream
  repeat' with_reducible first
    | assumption | intro _ | apply OptKeeps.some | apply OptKeeps.none | apply OptKeeps.ite | apply State.cancelWaits_keeps
    | apply State.endFiller_keeps | apply State.reportStream_keeps | apply State.updSeqr_keeps | apply Keeps.ite

theorem State.doStreamEnd_keeps {s0 s : State} (c : Nat) (hk : Keeps s0 s) : Keeps s0 (State.doStreamEnd s c) := by
  unfold State.doStreamEnd
  repeat' with_reducible first
    | assumption | intro _ | apply OptKeeps.some | apply OptKeeps.none | apply OptKeeps.ite | apply OptKeeps.getD
    | apply State.closeStream_keeps | apply Keeps.ite | split | refine OptKeeps.get ?_ (by assumption) | refine Keeps.fst ?_ (by assumption)
    | refine Keeps.snd ?_ (by assumption) | dsimp only

theorem execStreamEnd_keeps {s0 s : State} (c : Fin 272) (hk : Keeps s0 s) : ResKeeps s0 (execStreamEnd c s) := by
  unfold execStreamEnd
  repeat' with_reducible first
    | assumption | apply ResKeeps.next | apply State.doStreamEnd_keeps

/-! ## Vector -/

theorem State.vecCounts_keeps {s0 s : State} (c : Nat) (r : BitVec 128) (hk : Keeps s0 s) : Keeps s0 (State.vecCounts s c r) := by
  unfold State.vecCounts
  repeat' with_reducible first
    | assumption | intro _ | apply State.count_keeps | apply State.when_keeps | apply Keeps.ite

theorem State.vecStart_keeps {s0 s : State} (c : Nat) (id : Nat) (hk : Keeps s0 s) : Keeps s0 (State.vecStart s c id) := by
  unfold State.vecStart
  repeat' with_reducible first
    | assumption | intro _ | apply OptKeeps.some | apply OptKeeps.none | apply OptKeeps.ite | apply State.benchFails_keeps
    | apply State.benchReads_keeps | apply State.updCmd_keeps | apply State.vecCounts_keeps | apply Keeps.ite | split
    | refine OptKeeps.get ?_ (by assumption) | refine Keeps.fst ?_ (by assumption) | refine Keeps.snd ?_ (by assumption) | dsimp only

theorem State.vecFinish_keeps {s0 s : State} (c : Nat) (x : Cmd) (hk : Keeps s0 s) : Keeps s0 (State.vecFinish s c x) := by
  unfold State.vecFinish
  repeat' with_reducible first
    | assumption | intro _ | apply OptKeeps.some | apply OptKeeps.none | apply OptKeeps.ite | apply State.benchWriteAll_keeps
    | apply State.count_keeps | apply State.each_keeps | apply State.setVreg_keeps | apply State.updCmd_keeps | apply Keeps.ite | split

theorem State.dispatchVec_keeps {s0 s : State} (p : CorePlace) (t : Stream) (r : BitVec 128) (rd : ReadRes) (hk : Keeps s0 s) :
    Keeps s0 (State.dispatchVec s p t r rd) := by
  unfold State.dispatchVec
  repeat' with_reducible first
    | assumption | intro _ | apply State.handOver_keeps | apply State.updCmd_keeps | apply State.vecStart_keeps

theorem State.doVec_keeps {s0 s : State} (c : Nat) (op : Nat) (hk : Keeps s0 s) : Keeps s0 (State.doVec s c op) := by
  unfold State.doVec
  repeat' with_reducible first
    | assumption | intro _ | apply State.dispatch_keeps | apply State.dispatchVec_keeps

theorem execVecAdd_keeps {s0 s : State} (c : Fin 272) (hk : Keeps s0 s) : ResKeeps s0 (execVecAdd c s) := by
  unfold execVecAdd
  repeat' with_reducible first
    | assumption | apply ResKeeps.next | apply State.doVec_keeps

theorem execVecSub_keeps {s0 s : State} (c : Fin 272) (hk : Keeps s0 s) : ResKeeps s0 (execVecSub c s) := by
  unfold execVecSub
  repeat' with_reducible first
    | assumption | apply ResKeeps.next | apply State.doVec_keeps

theorem execVecMul_keeps {s0 s : State} (c : Fin 272) (hk : Keeps s0 s) : ResKeeps s0 (execVecMul c s) := by
  unfold execVecMul
  repeat' with_reducible first
    | assumption | apply ResKeeps.next | apply State.doVec_keeps

theorem execVecFma_keeps {s0 s : State} (c : Fin 272) (hk : Keeps s0 s) : ResKeeps s0 (execVecFma c s) := by
  unfold execVecFma
  repeat' with_reducible first
    | assumption | apply ResKeeps.next | apply State.doVec_keeps

theorem execVecMin_keeps {s0 s : State} (c : Fin 272) (hk : Keeps s0 s) : ResKeeps s0 (execVecMin c s) := by
  unfold execVecMin
  repeat' with_reducible first
    | assumption | apply ResKeeps.next | apply State.doVec_keeps

theorem execVecMax_keeps {s0 s : State} (c : Fin 272) (hk : Keeps s0 s) : ResKeeps s0 (execVecMax c s) := by
  unfold execVecMax
  repeat' with_reducible first
    | assumption | apply ResKeeps.next | apply State.doVec_keeps

theorem execVecCmplt_keeps {s0 s : State} (c : Fin 272) (hk : Keeps s0 s) : ResKeeps s0 (execVecCmplt c s) := by
  unfold execVecCmplt
  repeat' with_reducible first
    | assumption | apply ResKeeps.next | apply State.doVec_keeps

theorem execVecCmpeq_keeps {s0 s : State} (c : Fin 272) (hk : Keeps s0 s) : ResKeeps s0 (execVecCmpeq c s) := by
  unfold execVecCmpeq
  repeat' with_reducible first
    | assumption | apply ResKeeps.next | apply State.doVec_keeps

theorem execVecSel_keeps {s0 s : State} (c : Fin 272) (hk : Keeps s0 s) : ResKeeps s0 (execVecSel c s) := by
  unfold execVecSel
  repeat' with_reducible first
    | assumption | apply ResKeeps.next | apply State.doVec_keeps

theorem execVecCvt_keeps {s0 s : State} (c : Fin 272) (hk : Keeps s0 s) : ResKeeps s0 (execVecCvt c s) := by
  unfold execVecCvt
  repeat' with_reducible first
    | assumption | apply ResKeeps.next | apply State.doVec_keeps

theorem execVecSum_keeps {s0 s : State} (c : Fin 272) (hk : Keeps s0 s) : ResKeeps s0 (execVecSum c s) := by
  unfold execVecSum
  repeat' with_reducible first
    | assumption | apply ResKeeps.next | apply State.doVec_keeps

theorem execVecHmax_keeps {s0 s : State} (c : Fin 272) (hk : Keeps s0 s) : ResKeeps s0 (execVecHmax c s) := by
  unfold execVecHmax
  repeat' with_reducible first
    | assumption | apply ResKeeps.next | apply State.doVec_keeps

theorem execVecExp2_keeps {s0 s : State} (c : Fin 272) (hk : Keeps s0 s) : ResKeeps s0 (execVecExp2 c s) := by
  unfold execVecExp2
  repeat' with_reducible first
    | assumption | apply ResKeeps.next | apply State.doVec_keeps

theorem execVecRcp_keeps {s0 s : State} (c : Fin 272) (hk : Keeps s0 s) : ResKeeps s0 (execVecRcp c s) := by
  unfold execVecRcp
  repeat' with_reducible first
    | assumption | apply ResKeeps.next | apply State.doVec_keeps

theorem execVecRsq_keeps {s0 s : State} (c : Fin 272) (hk : Keeps s0 s) : ResKeeps s0 (execVecRsq c s) := by
  unfold execVecRsq
  repeat' with_reducible first
    | assumption | apply ResKeeps.next | apply State.doVec_keeps

theorem execVecStateL_keeps {s0 s : State} (c : Fin 272) (hk : Keeps s0 s) : ResKeeps s0 (execVecStateL c s) := by
  unfold execVecStateL
  repeat' with_reducible first
    | assumption | apply ResKeeps.next | apply State.doVec_keeps

theorem execVecStateM_keeps {s0 s : State} (c : Fin 272) (hk : Keeps s0 s) : ResKeeps s0 (execVecStateM c s) := by
  unfold execVecStateM
  repeat' with_reducible first
    | assumption | apply ResKeeps.next | apply State.doVec_keeps

theorem execVmemLoad_keeps {s0 s : State} (c : Fin 272) (rd : ReadRes) (hk : Keeps s0 s) : ResKeeps s0 (execVmemLoad c rd s) := by
  unfold execVmemLoad
  repeat' with_reducible first
    | assumption | intro _ | apply ResKeeps.next | apply State.dispatch_keeps | apply State.dispatchVec_keeps

theorem execVmemStore_keeps {s0 s : State} (c : Fin 272) (hk : Keeps s0 s) : ResKeeps s0 (execVmemStore c s) := by
  unfold execVmemStore
  repeat' with_reducible first
    | assumption | intro _ | apply ResKeeps.next | apply State.dispatch_keeps | apply State.dispatchVec_keeps

theorem State.scrambleScratch_keeps {s0 s : State} (c : Nat) (hk : Keeps s0 s) : Keeps s0 (State.scrambleScratch s c) := by
  unfold State.scrambleScratch
  repeat' with_reducible first
    | assumption | intro _ | apply State.each_keeps | apply State.freeBytes_keeps | apply State.setVreg_keeps

theorem State.scrambleAttn_keeps {s0 s : State} (c D : Nat) (r : BitVec 128) (h : Keeps s0 s) : Keeps s0 (s.scrambleAttn c D r) :=
  h.drew rfl rfl (Nat.le_trans (Nat.le_add_right _ _) (Nat.le_add_right _ _)) rfl rfl rfl rfl rfl

theorem State.afterCmd_keeps {s0 s : State} (p : CorePlace) (x : Cmd) (hk : Keeps s0 s) : Keeps s0 (State.afterCmd s p x) := by
  unfold State.afterCmd
  repeat' with_reducible first
    | assumption | apply OptKeeps.some | apply OptKeeps.none | apply OptKeeps.ite | apply State.failStream_keeps
    | apply State.scrambleScratch_keeps | apply State.sendSync_keeps | apply Keeps.ite | split

theorem State.doComplete_keeps {s0 s : State} (c : Nat) (eng : Engine) (hk : Keeps s0 s) : Keeps s0 (State.doComplete s c eng) := by
  unfold State.doComplete
  repeat' with_reducible first
    | assumption | intro _ | apply OptKeeps.some | apply OptKeeps.none | apply OptKeeps.ite | apply State.afterCmd_keeps
    | apply State.coreHands_keeps | apply State.scrambleAttn_keeps | apply State.settleAbort_keeps | apply State.updCore_keeps
    | apply State.vecFinish_keeps | apply State.vecStart_keeps | apply Keeps.ite | split | refine OptKeeps.get ?_ (by assumption)
    | refine Keeps.fst ?_ (by assumption) | refine Keeps.snd ?_ (by assumption) | dsimp only

theorem execCommandComplete_keeps {s0 s : State} (c : Fin 272) (eng : Engine) (fault : CoreFault) (hk : Keeps s0 s) :
    ResKeeps s0 (execCommandComplete c eng fault s) := by
  unfold execCommandComplete
  repeat' with_reducible first
    | assumption | intro _ | apply ResKeeps.next | apply State.doComplete_keeps | apply State.inCore_keeps

/-! ## AttnOps -/

theorem State.updAttn_keeps {s0 s : State} (c : Nat) (f : Attn → Attn) (hk : Keeps s0 s) : Keeps s0 (State.updAttn s c f) := by
  unfold State.updAttn
  repeat' with_reducible first
    | assumption | intro _ | apply State.updCore_keeps

theorem State.failAttn_keeps {s0 s : State} (c : Nat) (code : Code) (hk : Keeps s0 s) : Keeps s0 (State.failAttn s c code) := by
  unfold State.failAttn
  repeat' with_reducible first
    | assumption | intro _ | apply OptKeeps.some | apply OptKeeps.none | apply OptKeeps.ite | apply State.failCmd_keeps
    | apply State.updCore_keeps | split

theorem State.attnBenchFails_keeps {s0 s : State} (c : Nat) (hk : Keeps s0 s) : Keeps s0 (State.attnBenchFails s c) := by
  unfold State.attnBenchFails
  repeat' with_reducible first
    | assumption | intro _ | apply OptKeeps.some | apply OptKeeps.none | apply OptKeeps.ite | apply State.benchFails_keeps
    | apply State.updCore_keeps | split

/-! ## Arrays -/

theorem State.bubble_keeps {s0 s : State} (c : Nat) (a : Nat) (cause : Nat) (hk : Keeps s0 s) : Keeps s0 (State.bubble s c a cause) := by
  unfold State.bubble
  repeat' with_reducible first
    | assumption | intro _ | apply State.count_keeps | apply State.updCore_keeps

theorem State.issueSlot_keeps {s0 s : State} (c : Nat) (a : Nat) (vs : List VecIn) (hk : Keeps s0 s) : Keeps s0 (State.issueSlot s c a vs) := by
  unfold State.issueSlot
  repeat' with_reducible first
    | assumption | intro _ | apply OptKeeps.some | apply OptKeeps.none | apply OptKeeps.ite | apply State.count_keeps
    | apply State.updCore_keeps | apply State.when_keeps

theorem State.reissue_keeps {s0 s : State} (c : Nat) (a : Nat) (hk : Keeps s0 s) : Keeps s0 (State.reissue s c a) := by
  unfold State.reissue
  repeat' with_reducible first
    | assumption | intro _ | apply OptKeeps.some | apply OptKeeps.none | apply OptKeeps.ite | apply State.updCore_keeps

theorem State.attnIssue_keeps {s0 s t : State} {v : Option VecIn} (c a : Nat) (h : Keeps s0 s) (e : s.attnIssue c a = some (t, v)) :
    Keeps s0 t := by
  unfold State.attnIssue at e
  split at e
  · exact absurd e (by simp)
  · split at e
    · exact absurd e (by simp)
    · split at e
      · dsimp only at e
        split at e
        · exact absurd e (by simp)
        · have e2 := congrArg Prod.fst (Option.some.inj e)
          dsimp only at e2
          rw [← e2]
          exact State.benchRead_keeps _ _ _ h
      · have e2 := congrArg Prod.fst (Option.some.inj e)
        dsimp only at e2
        rw [← e2]
        exact h

theorem State.freeSlot_keeps {s0 s : State} (c : Nat) (a : Nat) (cause : Nat) (hk : Keeps s0 s) : Keeps s0 (State.freeSlot s c a cause) := by
  unfold State.freeSlot
  repeat' with_reducible first
    | assumption | intro _ | apply OptKeeps.some | apply OptKeeps.none | apply OptKeeps.ite | apply State.attnBenchFails_keeps
    | refine State.attnIssue_keeps _ _ ?_ (by assumption) | apply State.bubble_keeps | apply State.count_keeps | apply State.issueSlot_keeps
    | apply State.updAttn_keeps | apply State.updCore_keeps | apply Keeps.ite | split

theorem State.issue_keeps {s0 s : State} (c : Nat) (a : Nat) (hk : Keeps s0 s) : Keeps s0 (State.issue s c a) := by
  unfold State.issue
  repeat' with_reducible first
    | assumption | intro _ | apply OptKeeps.some | apply OptKeeps.none | apply OptKeeps.ite | apply State.bubble_keeps
    | apply State.count_keeps | apply State.freeSlot_keeps | apply State.issueSlot_keeps | apply State.reissue_keeps
    | apply State.updCmd_keeps | apply State.updCore_keeps | apply Keeps.ite | split

theorem execVectorIssue_keeps {s0 s : State} (c : Fin 272) (a : Fin 4) (fault : CoreFault) (hk : Keeps s0 s) :
    ResKeeps s0 (execVectorIssue c a fault s) := by
  unfold execVectorIssue
  repeat' with_reducible first
    | assumption | intro _ | apply ResKeeps.next | apply State.inCore_keeps | apply State.issue_keeps

theorem State.load128_keeps {s0 s t : State} {bs : List Byte} (c id line : Nat) (rd : ReadRes) (h : Keeps s0 s)
    (e : s.load128 c id line rd = some (.ok (bs, t))) : Keeps s0 t := by
  unfold State.load128 at e
  dsimp only at e
  split at e
  · exact absurd e (by simp)
  · split at e
    · exact absurd e (by simp)
    · have e2 := congrArg Prod.snd (Except.ok.inj (Option.some.inj e))
      dsimp only at e2
      rw [← e2]
      exact State.benchReads_keeps _ _ _ h

/-- What a load leaves where its line cannot be read. -/
theorem State.load128_bad {s0 s t : State} (c id line : Nat) (rd : ReadRes) (h : Keeps s0 s)
    (e : s.load128 c id line rd = some (.error t)) : Keeps s0 t := by
  unfold State.load128 at e
  dsimp only at e
  split at e
  · exact absurd e (by simp)
  · split at e
    · rw [← Except.error.inj (Option.some.inj e)]
      exact State.benchReads_keeps _ _ _ h
    · exact absurd e (by simp)

theorem State.ldsCycle_keeps {s0 s : State} (c : Nat) (a : Nat) (cause : Nat) (x : Cmd) (rd : ReadRes) (hk : Keeps s0 s) :
    Keeps s0 (State.ldsCycle s c a cause x rd) := by
  unfold State.ldsCycle
  repeat' with_reducible first
    | assumption | intro _ | apply OptKeeps.some | apply OptKeeps.none | apply OptKeeps.ite | apply State.benchFails_keeps
    | apply State.bubble_keeps | apply State.countTile_keeps | refine State.load128_keeps _ _ _ _ ?_ (by assumption)
    | refine State.load128_bad _ _ _ _ ?_ (by assumption) | apply State.updCmd_keeps | apply State.updCore_keeps | apply Keeps.ite | split
    | dsimp only

theorem State.attnLoad_keeps {s0 s : State} (c : Nat) (a : Nat) (cause : Nat) (at_ : Attn) (rd : ReadRes) (hk : Keeps s0 s) :
    Keeps s0 (State.attnLoad s c a cause at_ rd) := by
  unfold State.attnLoad
  repeat' with_reducible first
    | assumption | intro _ | apply OptKeeps.some | apply OptKeeps.none | apply OptKeeps.ite | apply State.attnBenchFails_keeps
    | apply State.bubble_keeps | apply State.countTile_keeps | refine State.load128_keeps _ _ _ _ ?_ (by assumption)
    | refine State.load128_bad _ _ _ _ ?_ (by assumption) | apply State.updAttn_keeps | apply State.updCore_keeps | apply Keeps.ite | split

theorem State.statCycle_keeps {s0 s : State} (c : Nat) (a : Nat) (rd : ReadRes) (hk : Keeps s0 s) : Keeps s0 (State.statCycle s c a rd) := by
  unfold State.statCycle
  repeat' with_reducible first
    | assumption | apply OptKeeps.some | apply OptKeeps.none | apply OptKeeps.ite | apply State.attnLoad_keeps | apply State.ldsCycle_keeps
    | apply Keeps.ite | split

theorem execStationaryLoadCycle_keeps {s0 s : State} (c : Fin 272) (a : Fin 4) (rd : ReadRes) (fault : CoreFault) (hk : Keeps s0 s) :
    ResKeeps s0 (execStationaryLoadCycle c a rd fault s) := by
  unfold execStationaryLoadCycle
  repeat' with_reducible first
    | assumption | intro _ | apply ResKeeps.next | apply State.inCore_keeps | apply State.statCycle_keeps

theorem State.commitVec_keeps {s0 s : State} (c : Nat) (a : Nat) (v : VecIn) (r : VecRes) (hk : Keeps s0 s) :
    Keeps s0 (State.commitVec s c a v r) := by
  unfold State.commitVec
  repeat' with_reducible first
    | assumption | intro _ | apply OptKeeps.some | apply OptKeeps.none | apply OptKeeps.ite | apply State.accSet_keeps
    | apply State.count_keeps | apply State.each_keeps | apply State.updAttn_keeps | apply State.updCmd_keeps | apply State.when_keeps
    | apply Keeps.ite | split | refine OptKeeps.get ?_ (by assumption) | refine Keeps.fst ?_ (by assumption)
    | refine Keeps.snd ?_ (by assumption) | dsimp only

theorem State.accumulate_keeps {s0 s : State} (c : Nat) (a : Nat) (ups : List Upset) (hk : Keeps s0 s) :
    Keeps s0 (State.accumulate s c a ups) := by
  unfold State.accumulate
  repeat' with_reducible first
    | assumption | intro _ | apply OptKeeps.some | apply OptKeeps.none | apply OptKeeps.ite | apply State.bumpSat_keeps
    | apply State.commitVec_keeps | apply State.count_keeps | apply State.each_keeps | apply State.haltCore_keeps
    | apply State.updCore_keeps | apply State.when_keeps | apply Keeps.ite | split | refine OptKeeps.get ?_ (by assumption)
    | refine Keeps.fst ?_ (by assumption) | refine Keeps.snd ?_ (by assumption) | dsimp only

theorem execVectorAccumulate_keeps {s0 s : State} (c : Fin 272) (a : Fin 4) (upsets : List Upset) (fault : CoreFault) (hk : Keeps s0 s) :
    ResKeeps s0 (execVectorAccumulate c a upsets fault s) := by
  unfold execVectorAccumulate
  repeat' with_reducible first
    | assumption | intro _ | apply ResKeeps.next | apply State.accumulate_keeps | apply State.inCore_keeps

theorem State.dropFeeds_keeps {s0 s : State} (c : Nat) (id : Nat) (hk : Keeps s0 s) : Keeps s0 (State.dropFeeds s c id) := by
  unfold State.dropFeeds
  repeat' with_reducible first
    | assumption | intro _ | apply State.updCore_keeps

theorem State.doTileSwap_keeps {s0 s : State} (c : Nat) (hk : Keeps s0 s) : Keeps s0 (State.doTileSwap s c) := by
  unfold State.doTileSwap
  repeat' with_reducible first
    | assumption | intro _ | apply OptKeeps.some | apply OptKeeps.none | apply OptKeeps.ite | apply State.dropFeeds_keeps
    | apply State.failCmd_keeps | apply State.updCmd_keeps | apply State.updCore_keeps | apply Keeps.ite | split
    | refine OptKeeps.get ?_ (by assumption) | refine Keeps.fst ?_ (by assumption) | refine Keeps.snd ?_ (by assumption) | dsimp only

theorem execTileSwap_keeps {s0 s : State} (c : Fin 272) (hk : Keeps s0 s) : ResKeeps s0 (execTileSwap c s) := by
  unfold execTileSwap
  repeat' with_reducible first
    | assumption | apply ResKeeps.next | apply State.doTileSwap_keeps | apply ResKeeps.ite | apply Keeps.ite

theorem State.feedVec_keeps {s0 s : State} (c : Nat) (a : Nat) (f : Nat) (x : Cmd) (idx : Nat) (bytes : List Byte) (scales : List Byte) (hk : Keeps s0 s) :
    Keeps s0 (State.feedVec s c a f x idx bytes scales) := by
  unfold State.feedVec
  repeat' with_reducible first
    | assumption | intro _ | apply State.updCore_keeps

theorem State.feederLine_keeps {s0 s : State} (c : Nat) (a : Nat) (f : Nat) (rd : ReadRes) (hk : Keeps s0 s) :
    Keeps s0 (State.feederLine s c a f rd) := by
  unfold State.feederLine
  repeat' with_reducible first
    | assumption | intro _ | apply OptKeeps.some | apply OptKeeps.none | apply OptKeeps.ite | apply OptKeeps.getD
    | apply State.benchFails_keeps | apply State.benchRead_keeps | apply State.dropFeeds_keeps | apply State.feedVec_keeps
    | apply State.updCore_keeps | apply Keeps.ite | split | refine OptKeeps.get ?_ (by assumption) | refine Keeps.fst ?_ (by assumption)
    | refine Keeps.snd ?_ (by assumption) | dsimp only

theorem execFeederLineArrive_keeps {s0 s : State} (c : Fin 272) (a : Fin 4) (f : Fin 2) (rd : ReadRes) (fault : CoreFault) (hk : Keeps s0 s) :
    ResKeeps s0 (execFeederLineArrive c a f rd fault s) := by
  unfold execFeederLineArrive
  repeat' with_reducible first
    | assumption | intro _ | apply ResKeeps.next | apply State.feederLine_keeps | apply State.inCore_keeps

theorem State.doExpand_keeps {s0 s : State} (c : Nat) (a : Nat) (f : Nat) (hk : Keeps s0 s) : Keeps s0 (State.doExpand s c a f) := by
  unfold State.doExpand
  repeat' with_reducible first
    | assumption | intro _ | apply OptKeeps.some | apply OptKeeps.none | apply OptKeeps.ite | apply OptKeeps.getD
    | apply State.bumpSat_keeps | apply State.count_keeps | apply State.feedVec_keeps | apply State.postCtx_keeps
    | apply State.updCore_keeps | apply State.when_keeps | apply Keeps.ite | split | refine OptKeeps.get ?_ (by assumption)
    | refine Keeps.fst ?_ (by assumption) | refine Keeps.snd ?_ (by assumption) | dsimp only

theorem execBlockExpand_keeps {s0 s : State} (c : Fin 272) (a : Fin 4) (f : Fin 2) (fault : CoreFault) (hk : Keeps s0 s) :
    ResKeeps s0 (execBlockExpand c a f fault s) := by
  unfold execBlockExpand
  repeat' with_reducible first
    | assumption | intro _ | apply ResKeeps.next | apply State.doExpand_keeps | apply State.inCore_keeps

theorem State.drainRow_keeps {s0 s : State} (c : Nat) (a : Nat) (x : Cmd) (hk : Keeps s0 s) : Keeps s0 (State.drainRow s c a x) := by
  unfold State.drainRow
  repeat' with_reducible first
    | assumption | intro _ | apply State.accSet_keeps | apply State.count_keeps | apply State.each_keeps | apply State.updCmd_keeps
    | apply State.updCore_keeps | apply State.when_keeps | apply Keeps.ite

theorem State.drainNext_keeps {s0 s : State} (c : Nat) (a : Nat) (hk : Keeps s0 s) : Keeps s0 (State.drainNext s c a) := by
  unfold State.drainNext
  repeat' with_reducible first
    | assumption | intro _ | apply OptKeeps.some | apply OptKeeps.none | apply OptKeeps.ite | apply State.coreHands_keeps
    | apply State.drainRow_keeps | apply Keeps.ite | split

theorem execDrainRowRead_keeps {s0 s : State} (c : Fin 272) (a : Fin 4) (fault : CoreFault) (hk : Keeps s0 s) :
    ResKeeps s0 (execDrainRowRead c a fault s) := by
  unfold execDrainRowRead
  repeat' with_reducible first
    | assumption | intro _ | apply ResKeeps.next | apply State.drainNext_keeps | apply State.inCore_keeps

theorem State.deliver_keeps {s0 s : State} (p : CorePlace) (x : Cmd) (o : ORow) (hk : Keeps s0 s) : OptKeeps s0 (State.deliver s p x o) := by
  unfold State.deliver
  repeat' with_reducible first
    | assumption | intro _ | apply OptKeeps.some | apply OptKeeps.none | apply State.benchWriteAll_keeps | apply State.setVreg_keeps
    | apply State.updDesc_keeps | apply OptKeeps.ite | apply Keeps.ite | split | refine OptKeeps.get ?_ (by assumption)
    | refine Keeps.fst ?_ (by assumption) | refine Keeps.snd ?_ (by assumption) | dsimp only

theorem State.deliverScales_keeps {s0 s : State} (p : CorePlace) (x : Cmd) (o : ORow) (hk : Keeps s0 s) :
    Keeps s0 (State.deliverScales s p x o) := by
  unfold State.deliverScales
  repeat' with_reducible first
    | assumption | intro _ | apply OptKeeps.some | apply OptKeeps.none | apply OptKeeps.ite | apply OptKeeps.getD
    | apply State.benchWrite_keeps | apply State.updCmd_keeps | apply Keeps.ite

theorem State.takeRow_keeps {s0 s : State} (p : CorePlace) (a : Nat) (o : ORow) (hk : Keeps s0 s) : OptKeeps s0 (State.takeRow s p a o) := by
  unfold State.takeRow
  repeat' with_reducible first
    | assumption | intro _ | apply OptKeeps.some | apply OptKeeps.none | apply State.deliver_keeps | apply State.deliverScales_keeps
    | apply State.updCmd_keeps | apply State.updCore_keeps | apply OptKeeps.ite | apply Keeps.ite | split
    | refine OptKeeps.get ?_ (by assumption)

theorem State.refuseRows_keeps {s0 s : State} (c : Nat) (l : List Nat) (hk : Keeps s0 s) : Keeps s0 (State.refuseRows s c l) := by
  unfold State.refuseRows
  repeat' with_reducible first
    | assumption | intro _ | apply State.updCore_keeps

theorem State.takeRows_keeps {s0 : State} (p : CorePlace) (l : List Nat) : ∀ (n : Nat) {s : State}, Keeps s0 s →
    Keeps s0 (s.takeRows p n l) := by
  induction l with
  | nil => intro n s h; unfold State.takeRows; exact h
  | cons a l ih =>
    intro n s h
    unfold State.takeRows
    split
    · exact ih _ h
    · repeat' with_reducible first
        | assumption | apply ih | apply State.refuseRows_keeps | apply Keeps.ite | refine OptKeeps.get (State.takeRow_keeps _ _ _ h) (by assumption)
        | split

theorem execOPortTake_keeps {s0 s : State} (c : Fin 272) (fault : CoreFault) (hk : Keeps s0 s) : ResKeeps s0 (execOPortTake c fault s) := by
  unfold execOPortTake
  repeat' with_reducible first
    | assumption | intro _ | apply ResKeeps.next | apply OptKeeps.some | apply OptKeeps.none | apply OptKeeps.ite | apply State.inCore_keeps
    | apply State.takeRows_keeps | split

theorem execBenchCorrectedWriteback_keeps {s0 s : State} (c : Fin 272) (line : Fin 16384) (hk : Keeps s0 s) :
    ResKeeps s0 (execBenchCorrectedWriteback c line s) := by
  unfold execBenchCorrectedWriteback
  repeat' with_reducible first
    | assumption | intro _ | apply ResKeeps.next | apply State.updCore_keeps | apply ResKeeps.ite | apply Keeps.ite

theorem State.steerIn_keeps {s0 s : State} (c : Nat) (l : List Steer) (hk : Keeps s0 s) : Keeps s0 (State.steerIn s c l) := by
  unfold State.steerIn
  repeat' with_reducible first
    | assumption | intro _ | apply OptKeeps.some | apply OptKeeps.none | apply OptKeeps.ite | apply State.each_keeps
    | apply State.setFld_keeps | split

theorem State.takeSpare_keeps {s0 s : State} (c : Nat) (c' : Nat) (m : Nat) (hk : Keeps s0 s) : Keeps s0 (State.takeSpare s c c' m) := by
  unfold State.takeSpare
  repeat' with_reducible first
    | assumption | apply State.setFld_keeps | apply State.spareSwitched_keeps | apply State.zeroCore_keeps

theorem State.coreEvent_keeps {s0 s : State} (c : Nat) (before : Nat) (action : Nat) (after : Nat) (codes : List Code) (status : Nat) (hk : Keeps s0 s) :
    Keeps s0 (State.coreEvent s c before action after codes status) := by
  unfold State.coreEvent
  repeat' with_reducible first
    | assumption | intro _ | apply State.each_keeps | apply State.postDev_keeps

theorem State.selfTest_keeps {s0 s : State} (c : Nat) (m : Nat) (finding : SelfTest) (hk : Keeps s0 s) :
    Keeps s0 (State.selfTest s c m finding) := by
  unfold State.selfTest
  repeat' with_reducible first
    | assumption | intro _ | apply OptKeeps.some | apply OptKeeps.none | apply OptKeeps.ite | apply OptKeeps.getD
    | apply State.clusterOut_keeps | apply State.coreEvent_keeps | apply State.setFld_keeps | apply State.spareSwitched_keeps
    | apply State.steerIn_keeps | apply State.takeSpare_keeps | apply State.thawLace_keeps | apply State.updCore_keeps | apply Keeps.ite
    | split | refine OptKeeps.get ?_ (by assumption) | refine Keeps.fst ?_ (by assumption) | refine Keeps.snd ?_ (by assumption)
    | dsimp only

theorem State.spareCtl_keeps {s0 s : State} (c : Nat) (finding : SelfTest) (hk : Keeps s0 s) : Keeps s0 (State.spareCtl s c finding) := by
  unfold State.spareCtl
  repeat' with_reducible first
    | assumption | intro _ | apply OptKeeps.some | apply OptKeeps.none | apply OptKeeps.ite | apply State.setFld_keeps
    | apply State.takeSpare_keeps | apply State.updCore_keeps | apply Keeps.ite | split

theorem execCoreSelfTest_keeps {s0 s : State} (c : Fin 272) (finding : SelfTest) (hk : Keeps s0 s) :
    ResKeeps s0 (execCoreSelfTest c finding s) := by
  unfold execCoreSelfTest
  repeat' with_reducible first
    | assumption | apply ResKeeps.next | apply OptKeeps.some | apply OptKeeps.none | apply OptKeeps.ite | apply State.selfTest_keeps
    | apply State.spareCtl_keeps | apply ResKeeps.ite | apply Keeps.ite | split

theorem State.updFiller_keeps {s0 s : State} (c : Nat) (a : Nat) (f : Filler → Filler) (hk : Keeps s0 s) :
    Keeps s0 (State.updFiller s c a f) := by
  unfold State.updFiller
  repeat' with_reducible first
    | assumption | intro _ | apply State.updCore_keeps

theorem execFillerHoldExpiry_keeps {s0 s : State} (c : Fin 272) (a : Fin 4) (hk : Keeps s0 s) : ResKeeps s0 (execFillerHoldExpiry c a s) := by
  unfold execFillerHoldExpiry
  repeat' with_reducible first
    | assumption | intro _ | apply ResKeeps.next | apply State.updFiller_keeps | apply ResKeeps.ite | apply Keeps.ite

theorem execFillerStepExpiry_keeps {s0 s : State} (c : Fin 272) (a : Fin 4) (hk : Keeps s0 s) : ResKeeps s0 (execFillerStepExpiry c a s) := by
  unfold execFillerStepExpiry
  repeat' with_reducible first
    | assumption | intro _ | apply ResKeeps.next | apply State.updFiller_keeps | apply ResKeeps.ite | apply Keeps.ite

theorem execFillerRiseFrame_keeps {s0 s : State} (c : Fin 272) (a : Fin 4) (hk : Keeps s0 s) : ResKeeps s0 (execFillerRiseFrame c a s) := by
  unfold execFillerRiseFrame
  repeat' with_reducible first
    | assumption | intro _ | apply ResKeeps.next | apply OptKeeps.some | apply OptKeeps.none | apply OptKeeps.ite
    | apply State.updFiller_keeps | apply ResKeeps.ite | apply Keeps.ite | split

/-! ## Attention -/

theorem State.attnStart_keeps {s0 s : State} (p : CorePlace) (hk : Keeps s0 s) : Keeps s0 (State.attnStart s p) := by
  unfold State.attnStart
  repeat' with_reducible first
    | assumption | intro _ | apply OptKeeps.some | apply OptKeeps.none | apply OptKeeps.ite | apply State.updCore_keeps | split
    | refine OptKeeps.get ?_ (by assumption) | refine Keeps.fst ?_ (by assumption) | refine Keeps.snd ?_ (by assumption) | dsimp only
    | refine Keeps.lit ?_ rfl rfl rfl rfl rfl rfl rfl rfl

theorem State.dispatchAttn_keeps {s0 s : State} (p : CorePlace) (t : Stream) (r : BitVec 128) (hk : Keeps s0 s) :
    Keeps s0 (State.dispatchAttn s p t r) := by
  unfold State.dispatchAttn
  repeat' with_reducible first
    | assumption | intro _ | apply OptKeeps.some | apply OptKeeps.none | apply OptKeeps.ite | apply OptKeeps.getD
    | apply State.attnStart_keeps | apply State.failStream_keeps | apply State.handOver_keeps | apply State.popHead_keeps
    | apply State.updCmd_keeps | apply State.updCore_keeps | apply Keeps.ite | split

theorem execAttnPipelined_keeps {s0 s : State} (c : Fin 272) (hk : Keeps s0 s) : ResKeeps s0 (execAttnPipelined c s) := by
  unfold execAttnPipelined
  repeat' with_reducible first
    | assumption | intro _ | apply ResKeeps.next | apply State.dispatch_keeps | apply State.dispatchAttn_keeps

theorem execAttnSequenced_keeps {s0 s : State} (c : Fin 272) (hk : Keeps s0 s) : ResKeeps s0 (execAttnSequenced c s) := by
  unfold execAttnSequenced
  repeat' with_reducible first
    | assumption | intro _ | apply ResKeeps.next | apply State.dispatch_keeps | apply State.dispatchAttn_keeps

theorem State.walkReq_keeps {s0 s : State} (cl : Nat) (c : Nat) (a : Attn) (cls : ReqClass) (line : Nat) (lines : Nat) (addr : Nat) (data : List Byte) (hk : Keeps s0 s) :
    Keeps s0 (State.walkReq s cl c a cls line lines addr data) := by
  unfold State.walkReq
  repeat' with_reducible first
    | assumption | apply OptKeeps.some | apply OptKeeps.none | apply OptKeeps.ite | apply State.addReq_keeps | apply State.fresh_keeps

theorem State.walkAppend_keeps {s0 s : State} (cl : Nat) (c : Nat) (a : Attn) (hk : Keeps s0 s) : Keeps s0 (State.walkAppend s cl c a) := by
  unfold State.walkAppend
  repeat' with_reducible first
    | assumption | intro _ | apply OptKeeps.some | apply OptKeeps.none | apply OptKeeps.ite | apply State.attnBenchFails_keeps
    | apply State.benchRead_keeps | apply State.failAttn_keeps | apply State.updAttn_keeps | apply State.walkReq_keeps | apply Keeps.ite
    | split

theorem State.blockStaged_keeps {s0 s : State} (cl : Nat) (c : Nat) (a : Attn) (hk : Keeps s0 s) : Keeps s0 (State.blockStaged s cl c a) := by
  unfold State.blockStaged
  repeat' with_reducible first
    | assumption | intro _ | apply State.count_keeps | apply State.updAttn_keeps | apply State.when_keeps

theorem State.walkRead_keeps {s0 s : State} (cl : Nat) (c : Nat) (a : Attn) (hk : Keeps s0 s) : Keeps s0 (State.walkRead s cl c a) := by
  unfold State.walkRead
  repeat' with_reducible first
    | assumption | intro _ | apply OptKeeps.some | apply OptKeeps.none | apply OptKeeps.ite | apply State.benchWriteAll_keeps
    | apply State.blockStaged_keeps | apply State.count_keeps | apply State.failAttn_keeps | apply State.updAttn_keeps
    | apply State.walkReq_keeps | apply State.when_keeps | apply Keeps.ite | split | refine OptKeeps.get ?_ (by assumption)
    | refine Keeps.fst ?_ (by assumption) | refine Keeps.snd ?_ (by assumption) | dsimp only

theorem State.walkIssue_keeps {s0 s : State} (cl : Nat) (fault : AgentFault) (hk : Keeps s0 s) : Keeps s0 (State.walkIssue s cl fault) := by
  unfold State.walkIssue
  repeat' with_reducible first
    | assumption | apply OptKeeps.some | apply OptKeeps.none | apply OptKeeps.ite | apply State.contained_keeps | apply State.failAttn_keeps
    | apply State.walkAppend_keeps | apply State.walkRead_keeps | apply Keeps.ite | split | refine OptKeeps.get ?_ (by assumption)
    | refine Keeps.fst ?_ (by assumption) | refine Keeps.snd ?_ (by assumption) | dsimp only
    | refine Keeps.lit ?_ rfl rfl rfl rfl rfl rfl rfl rfl

theorem execWalkerRequestIssue_keeps {s0 s : State} (cl : Fin 16) (fault : AgentFault) (hk : Keeps s0 s) :
    ResKeeps s0 (execWalkerRequestIssue cl fault s) := by
  unfold execWalkerRequestIssue
  repeat' with_reducible first
    | assumption | apply ResKeeps.next | apply State.clusterAgentFault_keeps | apply State.walkIssue_keeps | apply ResKeeps.ite
    | apply Keeps.ite

theorem execWalkerAppendAck_keeps {s0 s : State} (cl : Fin 16) (tag : Nat) (hk : Keeps s0 s) : ResKeeps s0 (execWalkerAppendAck cl tag s) := by
  unfold execWalkerAppendAck
  repeat' with_reducible first
    | assumption
    | apply State.contained_keeps | apply State.failAttn_keeps
    | intro _ | apply ResKeeps.next | apply OptKeeps.some | apply OptKeeps.none | apply OptKeeps.ite
    | apply State.dropReq_keeps | apply State.hbmWriteLines_keeps | apply State.updAttn_keeps | apply ResKeeps.ite | apply Keeps.ite | split
    | refine OptKeeps.get ?_ (by assumption) | refine Keeps.fst ?_ (by assumption) | refine Keeps.snd ?_ (by assumption) | dsimp only

theorem State.walkStage_keeps {s0 s : State} (cl : Nat) (c : Nat) (a : Attn) (r : Req) (hk : Keeps s0 s) :
    Keeps s0 (State.walkStage s cl c a r) := by
  unfold State.walkStage
  repeat' with_reducible first
    | assumption | intro _ | apply OptKeeps.some | apply OptKeeps.none | apply OptKeeps.ite | apply State.benchWrite_keeps
    | apply State.blockStaged_keeps | apply State.each_keeps | apply State.updAttn_keeps | apply Keeps.ite | split

theorem execWalkerReadReturn_keeps {s0 s : State} (cl : Fin 16) (tag : Nat) (rd : ReadRes) (hk : Keeps s0 s) :
    ResKeeps s0 (execWalkerReadReturn cl tag rd s) := by
  unfold execWalkerReadReturn
  repeat' with_reducible first
    | assumption | apply ResKeeps.next | apply OptKeeps.some | apply OptKeeps.none | apply OptKeeps.ite | apply State.contained_keeps
    | apply State.dropReq_keeps | apply State.failAttn_keeps | apply State.hbmReads_keeps | apply State.walkStage_keeps | apply ResKeeps.ite
    | apply Keeps.ite | split | refine OptKeeps.get ?_ (by assumption) | refine Keeps.fst ?_ (by assumption)
    | refine Keeps.snd ?_ (by assumption) | dsimp only

theorem State.smEnter_keeps {s0 s : State} (c : Nat) (hk : Keeps s0 s) : Keeps s0 (State.smEnter s c) := by
  unfold State.smEnter
  repeat' with_reducible first
    | assumption | intro _ | apply OptKeeps.some | apply OptKeeps.none | apply OptKeeps.ite | apply State.updAttn_keeps
    | apply State.updCore_keeps | apply Keeps.ite | split

theorem execSoftmaxRowEnter_keeps {s0 s : State} (c : CoreTurn) (hk : Keeps s0 s) :
    ResKeeps s0 (execSoftmaxRowEnter c s) := by
  unfold execSoftmaxRowEnter
  repeat' with_reducible first
    | assumption | intro _ | apply ResKeeps.next | apply State.inCore_keeps | apply State.smEnter_keeps

theorem State.smDeliver_keeps {s0 s : State} (c : Nat) (hk : Keeps s0 s) : Keeps s0 (State.smDeliver s c) := by
  unfold State.smDeliver
  repeat' with_reducible first
    | assumption | intro _ | apply OptKeeps.some | apply OptKeeps.none | apply OptKeeps.ite | apply State.updAttn_keeps
    | apply State.updCore_keeps | apply Keeps.ite | split | refine OptKeeps.get ?_ (by assumption) | refine Keeps.fst ?_ (by assumption)
    | refine Keeps.snd ?_ (by assumption) | dsimp only | refine Keeps.lit ?_ rfl rfl rfl rfl rfl rfl rfl rfl

theorem execSoftmaxRowDeliver_keeps {s0 s : State} (c : Fin 272) (fault : CoreFault) (hk : Keeps s0 s) :
    ResKeeps s0 (execSoftmaxRowDeliver c fault s) := by
  unfold execSoftmaxRowDeliver
  repeat' with_reducible first
    | assumption | intro _ | apply ResKeeps.next | apply State.inCore_keeps | apply State.smDeliver_keeps

theorem State.normalise_keeps {s0 s : State} (p : CorePlace) (hk : Keeps s0 s) : Keeps s0 (State.normalise s p) := by
  unfold State.normalise
  repeat' with_reducible first
    | assumption | intro _ | apply OptKeeps.some | apply OptKeeps.none | apply OptKeeps.ite | apply State.attnStart_keeps
    | apply State.benchWriteAll_keeps | apply State.updAttn_keeps | apply State.updCmd_keeps | apply State.updCore_keeps | apply Keeps.ite
    | split

theorem execAttnNormalise_keeps {s0 s : State} (c : CoreTurn) (hk : Keeps s0 s) :
    ResKeeps s0 (execAttnNormalise c s) := by
  unfold execAttnNormalise
  repeat' with_reducible first
    | assumption | intro _ | apply ResKeeps.next | apply OptKeeps.some | apply OptKeeps.none | apply OptKeeps.ite | apply State.inCore_keeps
    | apply State.normalise_keeps | split

end Sys2Proof.Machine
end

