-- ==== Sys2Proof/Laws/KeepsFlash.lean ====
section
/-! SUPPORT. Sequences, flash, the parcel and gathers keep what `Keeps` says. -/

namespace Sys2Proof.Machine

/-! ## Sequences -/

theorem State.failStep_keeps {s0 s : State} (o : SeqOp) (code : Code) (detail : List Byte) (hk : Keeps s0 s) :
    Keeps s0 (State.failStep s o code detail) := by
  unfold State.failStep
  repeat' with_reducible first
    | assumption | intro _ | apply State.cancelSeqOp_keeps | apply State.endLetter_keeps | apply State.epochSince_keeps
    | apply State.postCtx_keeps | apply State.releaseAll_keeps | apply State.updSequence_keeps

theorem State.hungerCheck_keeps {s0 s : State} (x : Nat) (hk : Keeps s0 s) : Keeps s0 (State.hungerCheck s x) := by
  unfold State.hungerCheck
  repeat' with_reducible first
    | assumption | intro _ | apply State.count_keeps | apply State.each_keeps | apply State.failStep_keeps | apply State.updSequence_keeps
    | apply Keeps.ite

theorem State.setLoc_keeps {s0 s : State} (n : Nat) (layer : Nat) (page : Nat) (loc : Nat) (frame : Nat) (hk : Keeps s0 s) :
    Keeps s0 (State.setLoc s n layer page loc frame) := by
  unfold State.setLoc
  repeat' with_reducible first
    | assumption | intro _ | apply State.each_keeps | apply State.setPage_keeps | apply Keeps.ite

theorem State.settleParking_keeps {s0 s : State} (n : Nat) (hk : Keeps s0 s) : Keeps s0 (State.settleParking s n) := by
  unfold State.settleParking
  repeat' with_reducible first
    | assumption | intro _ | apply State.hungerCheck_keeps | apply State.updSequence_keeps | apply Keeps.ite

theorem State.demotionFails_keeps {s0 s : State} (n : Nat) (layer : Nat) (page : Nat) (kslot : Nat) (hk : Keeps s0 s) :
    Keeps s0 (State.demotionFails s n layer page kslot) := by
  unfold State.demotionFails
  repeat' with_reducible first
    | assumption | intro _ | apply State.bumpEpoch_keeps | apply State.freeKvSlot_keeps | apply State.setLoc_keeps
    | apply State.settleParking_keeps | apply State.updSequence_keeps

theorem State.demoteUnit_keeps {s0 s : State} (n : Nat) (layer : Nat) (page : Nat) (kslot : Nat) (i : Nat) (g : FlashGroup) (hk : Keeps s0 s) :
    OptKeeps s0 (State.demoteUnit s n layer page kslot i g) := by
  unfold State.demoteUnit
  repeat' with_reducible first
    | assumption
    | apply State.winAccess_keeps
    | apply OptKeeps.some | apply OptKeeps.none | apply State.addProg_keeps | apply State.demotionFails_keeps
    | apply State.postCtx_keeps | apply OptKeeps.ite

theorem State.demoteNext_keeps {s0 s : State} (n : Nat) (kslot : Nat) (g : FlashGroup) (hk : Keeps s0 s) :
    OptKeeps s0 (State.demoteNext s n kslot g) := by
  unfold State.demoteNext
  repeat' with_reducible first
    | assumption | intro _ | apply OptKeeps.some | apply OptKeeps.none | apply State.bumpEpoch_keeps | apply State.demoteUnit_keeps
    | apply State.setKvSlot_keeps | apply State.setLoc_keeps | apply State.settleParking_keeps | apply State.updSequence_keeps
    | apply OptKeeps.ite | apply Keeps.ite | split

theorem State.doVictim_keeps {s0 s : State} (x : Nat) (kslot : Nat) (g : FlashGroup) (hk : Keeps s0 s) :
    Keeps s0 (State.doVictim s x kslot g) := by
  unfold State.doVictim
  repeat' with_reducible first
    | assumption | intro _ | apply OptKeeps.some | apply OptKeeps.none | apply OptKeeps.ite | apply OptKeeps.getD
    | apply State.demoteNext_keeps | apply State.flKick_keeps | apply State.hungerCheck_keeps | apply State.updSequence_keeps
    | apply Keeps.ite | split | refine OptKeeps.get ?_ (by assumption) | refine Keeps.fst ?_ (by assumption)
    | refine Keeps.snd ?_ (by assumption) | dsimp only

theorem execVictimDemotion_keeps {s0 s : State} (x : Fin 1024) (slot : Nat) (grp : FlashGroup) (hk : Keeps s0 s) :
    ResKeeps s0 (execVictimDemotion x slot grp s) := by
  unfold execVictimDemotion
  repeat' with_reducible first
    | assumption | apply ResKeeps.next | apply State.doVictim_keeps

theorem State.doDemoted_keeps {s0 s : State} (n : Nat) (ok : Bool) (slot : Nat) (g : FlashGroup) (hk : Keeps s0 s) :
    Keeps s0 (State.doDemoted s n ok slot g) := by
  unfold State.doDemoted
  repeat' with_reducible first
    | assumption | intro _ | apply OptKeeps.some | apply OptKeeps.none | apply OptKeeps.ite | apply State.bumpEpoch_keeps
    | apply State.demoteNext_keeps | apply State.demotionFails_keeps | apply State.flKick_keeps | apply State.freeFrame_keeps
    | apply State.hungerCheck_keeps | apply State.setLoc_keeps | apply State.settleParking_keeps | apply State.updSequence_keeps
    | apply Keeps.ite | split | refine OptKeeps.get ?_ (by assumption) | refine Keeps.fst ?_ (by assumption)
    | refine Keeps.snd ?_ (by assumption) | dsimp only

theorem execPageDemoted_keeps {s0 s : State} (n : Fin 65536) (ok : Bool) (slot : Nat) (grp : FlashGroup) (hk : Keeps s0 s) :
    ResKeeps s0 (execPageDemoted n ok slot grp s) := by
  unfold execPageDemoted
  repeat' with_reducible first
    | assumption | apply ResKeeps.next | apply State.doDemoted_keeps

theorem State.addSeqOp_keeps {s0 s : State} (l : LetterId) (n : Nat) (op : Nat) (count : Nat) (table : Nat) (hk : Keeps s0 s) :
    Keeps s0 (State.addSeqOp s l n op count table) := by
  unfold State.addSeqOp
  repeat' with_reducible first
    | assumption | apply State.count_keeps | dsimp only | refine Keeps.lit ?_ rfl rfl rfl rfl rfl rfl rfl rfl

theorem State.updSeqOp_keeps {s0 s : State} (l : LetterId) (f : SeqOp → SeqOp) (hk : Keeps s0 s) : Keeps s0 (State.updSeqOp s l f) := by
  unfold State.updSeqOp
  repeat' with_reducible first
    | assumption | intro _ | dsimp only | refine Keeps.lit ?_ rfl rfl rfl rfl rfl rfl rfl rfl

theorem State.startSeq_keeps {s0 s : State} (q : Nat) (op : Nat) (go : State → LetterId → Letter → State) (hk : Keeps s0 s) (hgo : ∀ s x1 x2, Keeps s0 s → Keeps s0 (go s x1 x2)) :
    Keeps s0 (State.startSeq s q op go) := by
  unfold State.startSeq
  repeat' with_reducible first
    | assumption | intro _ | apply State.endLetter_keeps | apply State.startWith_keeps | apply hgo | apply Keeps.ite

theorem State.startOpen_keeps {s0 s : State} (l : LetterId) (x : Letter) (hk : Keeps s0 s) : Keeps s0 (State.startOpen s l x) := by
  unfold State.startOpen
  repeat' with_reducible first
    | assumption | apply OptKeeps.some | apply OptKeeps.none | apply OptKeeps.ite | apply State.addSeqOp_keeps | apply State.endLetter_keeps
    | apply Keeps.ite | split | refine OptKeeps.get ?_ (by assumption) | refine Keeps.fst ?_ (by assumption)
    | refine Keeps.snd ?_ (by assumption) | dsimp only | refine Keeps.lit ?_ rfl rfl rfl rfl rfl rfl rfl rfl

theorem execSeqOpen_keeps {s0 s : State} (q : Fin 4096) (hk : Keeps s0 s) : ResKeeps s0 (execSeqOpen q s) := by
  unfold execSeqOpen
  repeat' with_reducible first
    | assumption | intro _ | apply ResKeeps.next | apply State.startOpen_keeps | apply State.startSeq_keeps

theorem State.grantStep_keeps {s0 s : State} (o : SeqOp) (fs : List Nat) (hk : Keeps s0 s) : Keeps s0 (State.grantStep s o fs) := by
  unfold State.grantStep
  repeat' with_reducible first
    | assumption | intro _ | apply State.each_keeps | apply State.takeFrame_keeps | apply State.updSeqOp_keeps
    | apply State.updSequence_keeps

theorem State.tryStep_keeps {s0 s : State} (l : LetterId) (fs : List Nat) (hk : Keeps s0 s) : OptKeeps s0 (State.tryStep s l fs) := by
  unfold State.tryStep
  repeat' with_reducible first
    | assumption | intro _ | apply OptKeeps.some | apply OptKeeps.none | apply State.cancelSeqOp_keeps | apply State.count_keeps
    | apply State.endLetter_keeps | apply State.grantStep_keeps | apply OptKeeps.ite | apply Keeps.ite | split

theorem State.startStep_keeps {s0 s : State} (l : LetterId) (x : Letter) (fs : List Nat) (hk : Keeps s0 s) :
    Keeps s0 (State.startStep s l x fs) := by
  unfold State.startStep
  repeat' with_reducible first
    | assumption | apply OptKeeps.some | apply OptKeeps.none | apply OptKeeps.ite | apply State.addSeqOp_keeps | apply State.count_keeps
    | apply State.endLetter_keeps | apply State.hungerCheck_keeps | apply State.settleParking_keeps | apply State.tryStep_keeps
    | apply Keeps.ite | split | refine OptKeeps.get ?_ (by assumption) | refine Keeps.fst ?_ (by assumption)
    | refine Keeps.snd ?_ (by assumption) | dsimp only

theorem execSeqStep_keeps {s0 s : State} (q : Fin 4096) (frames : List Nat) (hk : Keeps s0 s) : ResKeeps s0 (execSeqStep q frames s) := by
  unfold execSeqStep
  repeat' with_reducible first
    | assumption | intro _ | apply ResKeeps.next | apply State.startSeq_keeps | apply State.startStep_keeps

theorem execStepFramesGranted_keeps {s0 s : State} (n : Fin 65536) (frames : List Nat) (hk : Keeps s0 s) :
    ResKeeps s0 (execStepFramesGranted n frames s) := by
  unfold execStepFramesGranted
  repeat' with_reducible first
    | assumption | intro _ | apply ResKeeps.next | apply OptKeeps.some | apply OptKeeps.none | apply OptKeeps.ite | apply OptKeeps.getD
    | apply State.settleParking_keeps | apply State.tryStep_keeps | apply ResKeeps.ite | apply Keeps.ite | split

theorem State.frameWrite_keeps {s0 s : State} (x : Nat) (f : Nat) (bs : List Byte) (hk : Keeps s0 s) : Keeps s0 (State.frameWrite s x f bs) := by
  unfold State.frameWrite
  repeat' with_reducible first
    | assumption | intro _ | apply OptKeeps.some | apply OptKeeps.none | apply OptKeeps.ite | apply State.each_keeps
    | apply State.hbmWrite_keeps | split

theorem State.doReadback_keeps {s0 s : State} (n : Nat) (rd : ReadRes) (hk : Keeps s0 s) : Keeps s0 (State.doReadback s n rd) := by
  unfold State.doReadback
  repeat' with_reducible first
    | assumption
    | apply State.winAccess_keeps | apply State.sectorReads_keeps
    | intro _ | apply OptKeeps.some | apply OptKeeps.none | apply OptKeeps.ite | apply OptKeeps.getD
    | apply State.bumpEpoch_keeps | apply State.each_keeps | apply State.failStep_keeps | apply State.flashTouch_keeps
    | apply State.frameWrite_keeps | apply State.freeKvSlot_keeps | apply State.setLoc_keeps | apply State.updSeqOp_keeps | apply Keeps.ite
    | split | refine OptKeeps.get ?_ (by assumption) | refine Keeps.fst ?_ (by assumption) | refine Keeps.snd ?_ (by assumption)
    | dsimp only

theorem execPageReadback_keeps {s0 s : State} (n : Fin 65536) (rd : ReadRes) (hk : Keeps s0 s) : ResKeeps s0 (execPageReadback n rd s) := by
  unfold execPageReadback
  repeat' with_reducible first
    | assumption | apply ResKeeps.next | apply State.doReadback_keeps | apply ResKeeps.ite | apply Keeps.ite

theorem State.startEnd_keeps {s0 s : State} (l : LetterId) (x : Letter) (hk : Keeps s0 s) : Keeps s0 (State.startEnd s l x) := by
  unfold State.startEnd
  repeat' with_reducible first
    | assumption | apply State.addSeqOp_keeps | apply State.endLetter_keeps | apply Keeps.ite

theorem execSeqEnd_keeps {s0 s : State} (q : Fin 4096) (hk : Keeps s0 s) : ResKeeps s0 (execSeqEnd q s) := by
  unfold execSeqEnd
  repeat' with_reducible first
    | assumption | intro _ | apply ResKeeps.next | apply State.startEnd_keeps | apply State.startSeq_keeps

theorem State.startClose_keeps {s0 s : State} (l : LetterId) (x : Letter) (hk : Keeps s0 s) : Keeps s0 (State.startClose s l x) := by
  unfold State.startClose
  repeat' with_reducible first
    | assumption | apply State.addSeqOp_keeps | apply State.endLetter_keeps | apply State.settleParking_keeps | apply Keeps.ite

theorem execSeqClose_keeps {s0 s : State} (q : Fin 4096) (hk : Keeps s0 s) : ResKeeps s0 (execSeqClose q s) := by
  unfold execSeqClose
  repeat' with_reducible first
    | assumption | intro _ | apply ResKeeps.next | apply State.startClose_keeps | apply State.startSeq_keeps

theorem State.createPage_keeps {s0 s : State} (x : Nat) (n : Nat) (p : Nat × Nat) (f : Nat) (hk : Keeps s0 s) :
    Keeps s0 (State.createPage s x n p f) := by
  unfold State.createPage
  repeat' with_reducible first
    | assumption | apply State.dropPin_keeps | apply State.dropRing_keeps | apply State.setPage_keeps | apply Keeps.ite

theorem State.seqEffect_keeps {s0 s : State} (o : SeqOp) (hk : Keeps s0 s) : Keeps s0 (State.seqEffect s o).1 := by
  unfold State.seqEffect
  repeat' with_reducible first
    | assumption | intro _ | apply OptKeeps.some | apply OptKeeps.none | apply OptKeeps.ite | apply State.adoptEdits_keeps
    | apply State.closeSeq_keeps | apply State.count_keeps | apply State.createPage_keeps | apply State.each_keeps
    | apply State.epochSince_keeps | apply State.releaseBelow_keeps | apply State.updSequence_keeps | apply State.writeTables_keeps | split
    | refine OptKeeps.get ?_ (by assumption) | refine Keeps.fst ?_ (by assumption) | refine Keeps.snd ?_ (by assumption) | dsimp only
    | refine Keeps.lit ?_ rfl rfl rfl rfl rfl rfl rfl rfl

theorem State.doTableWrites_keeps {s0 s : State} (n : Nat) (hk : Keeps s0 s) : Keeps s0 (State.doTableWrites s n) := by
  unfold State.doTableWrites
  repeat' with_reducible first
    | assumption | intro _ | apply OptKeeps.some | apply OptKeeps.none | apply OptKeeps.ite | apply State.endLetter_keeps
    | apply State.flKick_keeps | apply State.hungerCheck_keeps | apply State.letterDone_keeps | apply State.seqEffect_keeps
    | apply Keeps.ite | split | refine OptKeeps.get ?_ (by assumption) | refine Keeps.fst ?_ (by assumption)
    | refine Keeps.snd ?_ (by assumption) | dsimp only | refine Keeps.lit ?_ rfl rfl rfl rfl rfl rfl rfl rfl

theorem execSeqTableWritesDone_keeps {s0 s : State} (n : Fin 65536) (hk : Keeps s0 s) : ResKeeps s0 (execSeqTableWritesDone n s) := by
  unfold execSeqTableWritesDone
  repeat' with_reducible first
    | assumption | apply ResKeeps.next | apply State.doTableWrites_keeps

/-! ## Flash -/

theorem State.flGo_keeps {s0 s : State} (op : Nat) (slot : Nat) (units : Nat) (go : State → FlReq → Option State) (hk : Keeps s0 s) (hgo : ∀ s x1, Keeps s0 s → OptKeeps s0 (go s x1)) :
    Keeps s0 (State.flGo s op slot units go) := by
  unfold State.flGo
  repeat' with_reducible first
    | assumption | intro _ | apply OptKeeps.some | apply OptKeeps.none | apply OptKeeps.ite | apply State.endFlReq_keeps
    | apply State.flKick_keeps | apply State.setFlReq_keeps | apply State.setFld_keeps | apply State.setReg_keeps | apply hgo
    | apply Keeps.ite | split | refine OptKeeps.get ?_ (by assumption) | refine Keeps.fst ?_ (by assumption)
    | refine Keeps.snd ?_ (by assumption) | dsimp only

theorem execFlsReqWrite_keeps {s0 s : State} (slot : Fin 4) (units : BitVec 32) (grp : FlashGroup) (hk : Keeps s0 s) :
    ResKeeps s0 (execFlsReqWrite slot units grp s) := by
  unfold execFlsReqWrite
  repeat' with_reducible first
    | assumption | intro _ | apply ResKeeps.next | apply State.flGo_keeps | apply State.flNext_keeps

theorem execFlsReqTrim_keeps {s0 s : State} (slot : Fin 4) (units : BitVec 32) (hk : Keeps s0 s) : ResKeeps s0 (execFlsReqTrim slot units s) := by
  unfold execFlsReqTrim
  repeat' with_reducible first
    | assumption | intro _ | apply ResKeeps.next | apply OptKeeps.some | apply OptKeeps.none | apply OptKeeps.ite | apply State.flGo_keeps

theorem execFlsReqConfig_keeps {s0 s : State} (slot : Fin 4) (units : BitVec 32) (hk : Keeps s0 s) :
    ResKeeps s0 (execFlsReqConfig slot units s) := by
  unfold execFlsReqConfig
  repeat' with_reducible first
    | assumption | intro _ | apply ResKeeps.next | apply OptKeeps.some | apply OptKeeps.none | apply OptKeeps.ite | apply State.flGo_keeps

theorem State.formatReq_keeps {s0 s : State} (slot : Nat) (r : FlReq) (hk : Keeps s0 s) : Keeps s0 (State.formatReq s slot r) := by
  unfold State.formatReq
  repeat' with_reducible first
    | assumption | intro _ | apply State.addErase_keeps | apply State.addProg_keeps | apply State.each_keeps | apply Keeps.ite

theorem execFlsReqFormat_keeps {s0 s : State} (slot : Fin 4) (units : BitVec 32) (hk : Keeps s0 s) :
    ResKeeps s0 (execFlsReqFormat slot units s) := by
  unfold execFlsReqFormat
  repeat' with_reducible first
    | assumption | intro _ | apply ResKeeps.next | apply OptKeeps.some | apply OptKeeps.none | apply OptKeeps.ite | apply State.flGo_keeps
    | apply State.formatReq_keeps

theorem State.formatDone_keeps {s0 s : State} (slot : Nat) (hk : Keeps s0 s) : Keeps s0 (State.formatDone s slot) := by
  unfold State.formatDone
  repeat' with_reducible first
    | assumption | intro _ | apply OptKeeps.some | apply OptKeeps.none | apply OptKeeps.ite | apply State.cacheInv_keeps
    | apply State.each_keeps | apply State.endFlReq_keeps | apply State.noteFree_keeps | apply State.setFld_keeps | apply State.setReg_keeps
    | split | refine OptKeeps.get ?_ (by assumption) | refine Keeps.fst ?_ (by assumption) | refine Keeps.snd ?_ (by assumption)
    | dsimp only | refine Keeps.lit ?_ rfl rfl rfl rfl rfl rfl rfl rfl

theorem State.dropProg_keeps {s0 s : State} (j : ProgJob) (hk : Keeps s0 s) : Keeps s0 (State.dropProg s j) := by
  unfold State.dropProg
  repeat' with_reducible first
    | assumption | intro _ | dsimp only | refine Keeps.lit ?_ rfl rfl rfl rfl rfl rfl rfl rfl

theorem State.programmed_keeps {s0 s : State} (j : ProgJob) (hk : Keeps s0 s) : Keeps s0 (State.programmed s j) := by
  unfold State.programmed
  repeat' with_reducible first
    | assumption | intro _ | apply OptKeeps.some | apply OptKeeps.none | apply OptKeeps.ite | apply State.cacheInv_keeps
    | apply State.count_keeps | apply State.countBw_keeps | apply State.dropProg_keeps | apply State.setMap_keeps | apply Keeps.ite | split
    | dsimp only | refine Keeps.lit ?_ rfl rfl rfl rfl rfl rfl rfl rfl

theorem State.programNext_keeps {s0 s : State} (j : ProgJob) (g : FlashGroup) (hk : Keeps s0 s) : OptKeeps s0 (State.programNext s j g) := by
  unfold State.programNext
  repeat' with_reducible first
    | assumption | intro _ | apply OptKeeps.some | apply OptKeeps.none | apply State.demoteUnit_keeps | apply State.flNext_keeps
    | apply State.flProgress_keeps | apply State.formatDone_keeps | apply State.freeKvSlot_keeps | apply OptKeeps.ite | apply Keeps.ite
    | split

theorem State.programFails_keeps {s0 s : State} (j : ProgJob) (hk : Keeps s0 s) : Keeps s0 (State.programFails s j) := by
  unfold State.programFails
  repeat' with_reducible first
    | assumption
    | apply State.postDev_keeps
    | intro _ | apply OptKeeps.some | apply OptKeeps.none | apply OptKeeps.ite | apply State.dropProg_keeps
    | apply State.endFlReq_keeps | apply State.freeKvSlot_keeps | apply State.postCtx_keeps | apply State.setFld_keeps | apply Keeps.ite
    | split | refine OptKeeps.get ?_ (by assumption) | refine Keeps.fst ?_ (by assumption) | refine Keeps.snd ?_ (by assumption)
    | dsimp only | refine Keeps.lit ?_ rfl rfl rfl rfl rfl rfl rfl rfl

theorem State.markBlock_keeps {s0 s : State} (blk : Nat) (hk : Keeps s0 s) : Keeps s0 (State.markBlock s blk) := by
  unfold State.markBlock
  repeat' with_reducible first
    | assumption | refine Keeps.lit ?_ rfl rfl rfl rfl rfl rfl rfl rfl

theorem State.gateNclk_keeps {s0 s : State} (ch : Nat) (hk : Keeps s0 s) : Keeps s0 (State.gateNclk s ch) := by
  unfold State.gateNclk
  repeat' with_reducible first
    | assumption | intro _ | apply State.setFld_keeps | apply Keeps.ite

theorem State.doProgramDone_keeps {s0 s : State} (ch : Nat) (res : ProgramResult) (g : FlashGroup) (hk : Keeps s0 s) :
    Keeps s0 (State.doProgramDone s ch res g) := by
  unfold State.doProgramDone
  repeat' with_reducible first
    | assumption | intro _ | apply OptKeeps.some | apply OptKeeps.none | apply OptKeeps.ite | apply State.count_keeps
    | apply State.flKick_keeps | apply State.gateNclk_keeps | apply State.markBlock_keeps | apply State.programFails_keeps
    | apply State.programNext_keeps | apply State.programmed_keeps | apply Keeps.ite | split | refine OptKeeps.get ?_ (by assumption)
    | refine Keeps.fst ?_ (by assumption) | refine Keeps.snd ?_ (by assumption) | dsimp only
    | refine Keeps.lit ?_ rfl rfl rfl rfl rfl rfl rfl rfl

theorem execFlProgramDone_keeps {s0 s : State} (ch : Fin 16) (res : ProgramResult) (grp : FlashGroup) (hk : Keeps s0 s) :
    ResKeeps s0 (execFlProgramDone ch res grp s) := by
  unfold execFlProgramDone
  repeat' with_reducible first
    | assumption | apply ResKeeps.next | apply State.doProgramDone_keeps

theorem State.doEraseDone_keeps {s0 s : State} (ch : Nat) (blank : Bool) (hk : Keeps s0 s) : Keeps s0 (State.doEraseDone s ch blank) := by
  unfold State.doEraseDone
  repeat' with_reducible first
    | assumption | intro _ | apply OptKeeps.some | apply OptKeeps.none | apply OptKeeps.ite | apply State.count_keeps
    | apply State.countBw_keeps | apply State.flKick_keeps | apply Keeps.ite | split | refine OptKeeps.get ?_ (by assumption)
    | refine Keeps.fst ?_ (by assumption) | refine Keeps.snd ?_ (by assumption) | dsimp only
    | refine Keeps.lit ?_ rfl rfl rfl rfl rfl rfl rfl rfl

theorem execFlEraseDone_keeps {s0 s : State} (ch : Fin 16) (blank : Bool) (hk : Keeps s0 s) : ResKeeps s0 (execFlEraseDone ch blank s) := by
  unfold execFlEraseDone
  repeat' with_reducible first
    | assumption | apply ResKeeps.next | apply State.doEraseDone_keeps

theorem State.moveUnit_keeps {s0 s : State} (ch : Nat) (g : Nat × GroupMeta) (dst : Nat) (hk : Keeps s0 s) :
    Keeps s0 (State.moveUnit s ch g dst) := by
  unfold State.moveUnit
  repeat' with_reducible first
    | assumption | intro _ | apply OptKeeps.some | apply OptKeeps.none | apply OptKeeps.ite | apply State.cacheInv_keeps
    | apply State.count_keeps | apply State.countBw_keeps | apply State.setErased_keeps | apply State.setMap_keeps | apply Keeps.ite | split
    | refine OptKeeps.get ?_ (by assumption) | refine Keeps.fst ?_ (by assumption) | refine Keeps.snd ?_ (by assumption) | dsimp only
    | refine Keeps.lit ?_ rfl rfl rfl rfl rfl rfl rfl rfl

theorem State.relocate_keeps {s0 s : State} (ch : Nat) (blk : Nat) (dst : List Nat) (hk : Keeps s0 s) :
    OptKeeps s0 (State.relocate s ch blk dst) := by
  unfold State.relocate
  repeat' with_reducible first
    | assumption | intro _ | apply OptKeeps.some | apply OptKeeps.none | apply State.each_keeps | apply State.moveUnit_keeps
    | apply OptKeeps.ite

theorem State.doRetire_keeps {s0 s : State} (ch : Nat) (blk : Nat) (dst : List Nat) (hk : Keeps s0 s) :
    Keeps s0 (State.doRetire s ch blk dst) := by
  unfold State.doRetire
  repeat' with_reducible first
    | assumption | intro _ | apply OptKeeps.some | apply OptKeeps.none | apply OptKeeps.ite | apply State.bumpSat_keeps
    | apply State.flKick_keeps | apply State.noteFree_keeps | apply State.postDev_keeps | apply State.relocate_keeps | apply Keeps.ite
    | split | refine OptKeeps.get ?_ (by assumption) | refine Keeps.fst ?_ (by assumption) | refine Keeps.snd ?_ (by assumption)
    | dsimp only | refine Keeps.lit ?_ rfl rfl rfl rfl rfl rfl rfl rfl

theorem execBlockRetire_keeps {s0 s : State} (ch : Fin 16) (blk : FlashGroup) (grps : List FlashGroup) (hk : Keeps s0 s) :
    ResKeeps s0 (execBlockRetire ch blk grps s) := by
  unfold execBlockRetire
  repeat' with_reducible first
    | assumption | apply ResKeeps.next | apply State.doRetire_keeps

theorem State.doDisturb_keeps {s0 s : State} (ch : Nat) (blk : Nat) (retried : Bool) (dst : List Nat) (hk : Keeps s0 s) :
    Keeps s0 (State.doDisturb s ch blk retried dst) := by
  unfold State.doDisturb
  repeat' with_reducible first
    | assumption | intro _ | apply OptKeeps.some | apply OptKeeps.none | apply OptKeeps.ite | apply State.addErase_keeps
    | apply State.count_keeps | apply State.flKick_keeps | apply State.relocate_keeps | apply State.when_keeps | apply Keeps.ite | split
    | refine OptKeeps.get ?_ (by assumption)

theorem execReadDisturbRelocate_keeps {s0 s : State} (ch : Fin 16) (blk : FlashGroup) (retried : Bool) (grps : List FlashGroup) (hk : Keeps s0 s) :
    ResKeeps s0 (execReadDisturbRelocate ch blk retried grps s) := by
  unfold execReadDisturbRelocate
  repeat' with_reducible first
    | assumption | apply ResKeeps.next | apply State.doDisturb_keeps

theorem State.pwGo_keeps {s0 s : State} (cmd : Nat) (slot : Nat) (len : Nat) (hk : Keeps s0 s) : Keeps s0 (State.pwGo s cmd slot len) := by
  unfold State.pwGo
  repeat' with_reducible first
    | assumption | intro _ | apply OptKeeps.some | apply OptKeeps.none | apply OptKeeps.ite | apply State.setFld_keeps | apply Keeps.ite
    | split | dsimp only | refine Keeps.lit ?_ rfl rfl rfl rfl rfl rfl rfl rfl

theorem execFlsPwUnlock_keeps {s0 s : State} (slot : Fin 64) (len : BitVec 6) (hk : Keeps s0 s) : ResKeeps s0 (execFlsPwUnlock slot len s) := by
  unfold execFlsPwUnlock
  repeat' with_reducible first
    | assumption | apply ResKeeps.next | apply State.pwGo_keeps

theorem execFlsPwRelock_keeps {s0 s : State} (slot : Fin 64) (len : BitVec 6) (hk : Keeps s0 s) : ResKeeps s0 (execFlsPwRelock slot len s) := by
  unfold execFlsPwRelock
  repeat' with_reducible first
    | assumption | apply ResKeeps.next | apply State.pwGo_keeps

theorem execFlsPwSet_keeps {s0 s : State} (slot : Fin 64) (len : BitVec 6) (hk : Keeps s0 s) : ResKeeps s0 (execFlsPwSet slot len s) := by
  unfold execFlsPwSet
  repeat' with_reducible first
    | assumption | apply ResKeeps.next | apply State.pwGo_keeps

theorem State.noteProtected_keeps {s0 s : State} (r : Nat) (hk : Keeps s0 s) : Keeps s0 (State.noteProtected s r) := by
  unfold State.noteProtected
  repeat' with_reducible first
    | assumption | apply OptKeeps.some | apply OptKeeps.none | apply OptKeeps.ite | apply State.setReg_keeps

theorem State.pwUnlock_keeps {s0 s : State} (j : PwJob) (hk : Keeps s0 s) : Keeps s0 (State.pwUnlock s j).1 := by
  unfold State.pwUnlock
  repeat' with_reducible first
    | assumption | apply OptKeeps.some | apply OptKeeps.none | apply OptKeeps.ite | apply State.drawCode_keeps | apply State.postCtx_keeps
    | apply State.setFld_keeps | apply Keeps.ite1 | apply Keeps.ite | split

theorem State.pwSet_keeps {s0 s : State} (j : PwJob) (hk : Keeps s0 s) : Keeps s0 (State.pwSet s j).1 := by
  unfold State.pwSet
  repeat' with_reducible first
    | assumption | apply OptKeeps.some | apply OptKeeps.none | apply OptKeeps.ite | apply State.draw_keeps | apply State.noteProtected_keeps
    | apply State.setFld_keeps | apply Keeps.ite1 | apply Keeps.ite | split | refine OptKeeps.get ?_ (by assumption)
    | refine Keeps.fst ?_ (by assumption) | refine Keeps.snd ?_ (by assumption) | dsimp only
    | refine Keeps.lit ?_ rfl rfl rfl rfl rfl rfl rfl rfl

theorem State.doPwEnd_keeps {s0 s : State} (hk : Keeps s0 s) : Keeps s0 (State.doPwEnd s) := by
  unfold State.doPwEnd
  repeat' with_reducible first
    | assumption | intro _ | apply OptKeeps.some | apply OptKeeps.none | apply OptKeeps.ite | apply State.drawCode_keeps
    | apply State.each_keeps | apply State.pwSet_keeps | apply State.pwUnlock_keeps | apply State.setFld_keeps | apply State.setReg_keeps
    | apply State.when_keeps | apply Keeps.ite | split | refine OptKeeps.get ?_ (by assumption) | refine Keeps.fst ?_ (by assumption)
    | refine Keeps.snd ?_ (by assumption) | dsimp only | refine Keeps.lit ?_ rfl rfl rfl rfl rfl rfl rfl rfl

theorem execFlsPwCommandEnd_keeps {s0 s : State} (hk : Keeps s0 s) : ResKeeps s0 (execFlsPwCommandEnd s) := by
  unfold execFlsPwCommandEnd
  repeat' with_reducible first
    | assumption | apply ResKeeps.next | apply State.doPwEnd_keeps

theorem execPwrwarnAssert_keeps {s0 s : State} (hk : Keeps s0 s) : ResKeeps s0 (execPwrwarnAssert s) := by
  unfold execPwrwarnAssert
  repeat' with_reducible first
    | assumption | apply ResKeeps.next | apply State.postDev_keeps | apply ResKeeps.ite | apply Keeps.ite | split | dsimp only
    | refine Keeps.lit ?_ rfl rfl rfl rfl rfl rfl rfl rfl

theorem execPwrwarnDeassert_keeps {s0 s : State} (hk : Keeps s0 s) : ResKeeps s0 (execPwrwarnDeassert s) := by
  unfold execPwrwarnDeassert
  repeat' with_reducible first
    | assumption | apply ResKeeps.next | apply State.flKick_keeps | apply ResKeeps.ite | apply Keeps.ite | split
    | refine Keeps.lit ?_ rfl rfl rfl rfl rfl rfl rfl rfl

theorem execJournalFlushDone_keeps {s0 s : State} (ch : Fin 16) (hk : Keeps s0 s) : ResKeeps s0 (execJournalFlushDone ch s) := by
  unfold execJournalFlushDone
  repeat' with_reducible first
    | assumption | intro _ | apply ResKeeps.next | apply State.gateNclk_keeps | apply ResKeeps.ite | apply Keeps.ite | split | dsimp only
    | refine Keeps.lit ?_ rfl rfl rfl rfl rfl rfl rfl rfl

theorem State.doNorDone_keeps {s0 s : State} (ok : Bool) (hk : Keeps s0 s) : Keeps s0 (State.doNorDone s ok) := by
  unfold State.doNorDone
  repeat' with_reducible first
    | assumption | apply OptKeeps.some | apply OptKeeps.none | apply OptKeeps.ite | apply State.drawCode_keeps | apply State.emit_keeps
    | apply State.endFlReq_keeps | apply State.flKick_keeps | apply State.flProgress_keeps | apply State.setFld_keeps | apply Keeps.ite
    | split | refine OptKeeps.get ?_ (by assumption) | refine Keeps.fst ?_ (by assumption) | refine Keeps.snd ?_ (by assumption)
    | dsimp only | refine Keeps.lit ?_ rfl rfl rfl rfl rfl rfl rfl rfl

theorem execNorUpdateDone_keeps {s0 s : State} (ok : Bool) (hk : Keeps s0 s) : ResKeeps s0 (execNorUpdateDone ok s) := by
  unfold execNorUpdateDone
  repeat' with_reducible first
    | assumption | apply ResKeeps.next | apply State.doNorDone_keeps

/-! ## Parcel -/

theorem State.setPcl_keeps {s0 s : State} (st : Nat) (hk : Keeps s0 s) : Keeps s0 (State.setPcl s st) := by
  unfold State.setPcl
  repeat' with_reducible first
    | assumption | apply State.setFld_keeps

theorem State.parcelTrain_keeps {s0 s : State} (b : Nat) (hk : Keeps s0 s) : Keeps s0 (State.parcelTrain s b) := by
  unfold State.parcelTrain
  repeat' with_reducible first
    | assumption | intro _ | apply State.adoptShare_keeps | apply State.each_keeps | apply State.setFld_keeps | apply Keeps.ite

theorem execParcelPresent_keeps {s0 s : State} (hk : Keeps s0 s) : ResKeeps s0 (execParcelPresent s) := by
  unfold execParcelPresent
  repeat' with_reducible first
    | assumption | apply ResKeeps.next | apply State.setFld_keeps | apply State.setPcl_keeps | apply ResKeeps.ite | apply Keeps.ite | split
    | dsimp only | refine Keeps.lit ?_ rfl rfl rfl rfl rfl rfl rfl rfl

theorem execParcelPgood_keeps {s0 s : State} (hk : Keeps s0 s) : ResKeeps s0 (execParcelPgood s) := by
  unfold execParcelPgood
  repeat' with_reducible first
    | assumption | apply ResKeeps.next | apply ResKeeps.ite | apply Keeps.ite | split | refine Keeps.lit ?_ rfl rfl rfl rfl rfl rfl rfl rfl

theorem execParcelTrained_keeps {s0 s : State} (hk : Keeps s0 s) : ResKeeps s0 (execParcelTrained s) := by
  unfold execParcelTrained
  repeat' with_reducible first
    | assumption | apply ResKeeps.next | apply State.parcelTrain_keeps | apply ResKeeps.ite | apply Keeps.ite | split
    | refine Keeps.lit ?_ rfl rfl rfl rfl rfl rfl rfl rfl

theorem State.endParcelReads_keeps {s0 s : State} (hk : Keeps s0 s) : Keeps s0 (State.endParcelReads s).1 := by
  unfold State.endParcelReads
  repeat' with_reducible first
    | assumption | intro _ | apply OptKeeps.some | apply OptKeeps.none | apply OptKeeps.ite | apply State.each_keeps
    | apply State.failBag_keeps | apply State.failDesc_keeps | apply State.srtNote_keeps | apply Keeps.ite1 | apply Keeps.ite | split
    | refine OptKeeps.get ?_ (by assumption) | refine Keeps.fst ?_ (by assumption) | refine Keeps.snd ?_ (by assumption) | dsimp only
    | refine Keeps.lit ?_ rfl rfl rfl rfl rfl rfl rfl rfl

theorem State.dropParcelCache_keeps {s0 s : State} (hk : Keeps s0 s) : Keeps s0 (State.dropParcelCache s) := by
  unfold State.dropParcelCache
  repeat' with_reducible first
    | assumption | intro _ | apply State.cacheInv_keeps

theorem State.beginDrain_keeps {s0 s : State} (hk : Keeps s0 s) : Keeps s0 (State.beginDrain s) := by
  unfold State.beginDrain
  repeat' with_reducible first
    | assumption | refine Keeps.lit ?_ rfl rfl rfl rfl rfl rfl rfl rfl

theorem State.pclRequest_keeps {s0 s : State} (hk : Keeps s0 s) : Keeps s0 (State.pclRequest s) := by
  unfold State.pclRequest
  repeat' with_reducible first
    | assumption | apply State.beginDrain_keeps | apply State.setFld_keeps | apply State.setPcl_keeps | apply Keeps.ite | split | dsimp only
    | refine Keeps.lit ?_ rfl rfl rfl rfl rfl rfl rfl rfl

theorem execParcelButton_keeps {s0 s : State} (hk : Keeps s0 s) : ResKeeps s0 (execParcelButton s) := by
  unfold execParcelButton
  repeat' with_reducible first
    | assumption | apply ResKeeps.next | apply State.pclRequest_keeps | apply ResKeeps.ite | apply Keeps.ite

theorem execPclCmdRequest_keeps {s0 s : State} (hk : Keeps s0 s) : ResKeeps s0 (execPclCmdRequest s) := by
  unfold execPclCmdRequest
  repeat' with_reducible first
    | assumption | apply ResKeeps.next | apply State.pclRequest_keeps

theorem execPclCmdRelease_keeps {s0 s : State} (hk : Keeps s0 s) : ResKeeps s0 (execPclCmdRelease s) := by
  unfold execPclCmdRelease
  repeat' with_reducible first
    | assumption | apply ResKeeps.next | apply State.beginDrain_keeps | apply ResKeeps.ite | apply Keeps.ite

theorem execParcelReadDrainExpiry_keeps {s0 s : State} (hk : Keeps s0 s) : ResKeeps s0 (execParcelReadDrainExpiry s) := by
  unfold execParcelReadDrainExpiry
  repeat' with_reducible first
    | assumption | intro _ | apply ResKeeps.next | apply OptKeeps.some | apply OptKeeps.none | apply OptKeeps.ite
    | apply State.abortFlReq_keeps | apply State.abortFlReqs_keeps | apply State.each_keeps | apply State.endParcelReads_keeps
    | apply ResKeeps.ite | apply Keeps.ite | split | refine OptKeeps.get ?_ (by assumption) | refine Keeps.fst ?_ (by assumption)
    | refine Keeps.snd ?_ (by assumption) | dsimp only | refine Keeps.lit ?_ rfl rfl rfl rfl rfl rfl rfl rfl

theorem State.parcelOff_keeps {s0 s : State} (hk : Keeps s0 s) : Keeps s0 (State.parcelOff s) := by
  unfold State.parcelOff
  repeat' with_reducible first
    | assumption | intro _ | apply State.dropParcelCache_keeps | apply State.parcelTrain_keeps | apply State.setFld_keeps
    | apply State.setPcl_keeps | dsimp only | refine Keeps.lit ?_ rfl rfl rfl rfl rfl rfl rfl rfl

theorem execParcelLatchPulseEnd_keeps {s0 s : State} (hk : Keeps s0 s) : ResKeeps s0 (execParcelLatchPulseEnd s) := by
  unfold execParcelLatchPulseEnd
  repeat' with_reducible first
    | assumption | intro _ | apply ResKeeps.next | apply State.parcelOff_keeps | apply State.pclChange_keeps | apply ResKeeps.ite
    | apply Keeps.ite | split | dsimp only | refine Keeps.lit ?_ rfl rfl rfl rfl rfl rfl rfl rfl

theorem State.noteParcel_keeps {s0 s : State} (hk : Keeps s0 s) : Keeps s0 (State.noteParcel s) := by
  unfold State.noteParcel
  repeat' with_reducible first
    | assumption | intro _ | apply State.noteFree_keeps | dsimp only | refine Keeps.lit ?_ rfl rfl rfl rfl rfl rfl rfl rfl

theorem State.parcelOn_keeps {s0 s : State} (h : Option ParcelHeader) (hk : Keeps s0 s) : Keeps s0 (State.parcelOn s h) := by
  unfold State.parcelOn
  repeat' with_reducible first
    | assumption | apply OptKeeps.some | apply OptKeeps.none | apply OptKeeps.ite | apply State.noteParcel_keeps
    | apply State.pclChange_keeps | apply State.pclRequest_keeps | apply State.setFld_keeps | apply State.setPcl_keeps
    | apply State.setReg_keeps | apply Keeps.ite | split | refine OptKeeps.get ?_ (by assumption) | refine Keeps.fst ?_ (by assumption)
    | refine Keeps.snd ?_ (by assumption) | dsimp only | refine Keeps.lit ?_ rfl rfl rfl rfl rfl rfl rfl rfl

theorem execParcelIdentified_keeps {s0 s : State} (header : Option ParcelHeader) (hk : Keeps s0 s) :
    ResKeeps s0 (execParcelIdentified header s) := by
  unfold execParcelIdentified
  repeat' with_reducible first
    | assumption | apply ResKeeps.next | apply State.parcelOn_keeps | apply ResKeeps.ite | apply Keeps.ite

theorem execParcelStepTimeout_keeps {s0 s : State} (hk : Keeps s0 s) : ResKeeps s0 (execParcelStepTimeout s) := by
  unfold execParcelStepTimeout
  repeat' with_reducible first
    | assumption | apply ResKeeps.next | apply State.parcelOff_keeps | apply State.parcelOn_keeps | apply State.pclChange_keeps
    | apply State.setFld_keeps | apply ResKeeps.ite | apply Keeps.ite | split | dsimp only
    | refine Keeps.lit ?_ rfl rfl rfl rfl rfl rfl rfl rfl

theorem State.loseParcel_keeps {s0 s : State} (hk : Keeps s0 s) : Keeps s0 (State.loseParcel s) := by
  unfold State.loseParcel
  repeat' with_reducible first
    | assumption | intro _ | apply OptKeeps.some | apply OptKeeps.none | apply OptKeeps.ite | apply State.each_keeps
    | apply State.endFlReq_keeps | apply State.endParcelReads_keeps | apply State.parcelOff_keeps | apply State.pclChange_keeps
    | apply State.postDev_keeps | apply State.setFld_keeps | apply Keeps.ite | split | refine OptKeeps.get ?_ (by assumption)
    | refine Keeps.fst ?_ (by assumption) | refine Keeps.snd ?_ (by assumption) | dsimp only
    | refine Keeps.lit ?_ rfl rfl rfl rfl rfl rfl rfl rfl

theorem execParcelRemoved_keeps {s0 s : State} (hk : Keeps s0 s) : ResKeeps s0 (execParcelRemoved s) := by
  unfold execParcelRemoved
  repeat' with_reducible first
    | assumption | apply ResKeeps.next | apply State.loseParcel_keeps | apply State.setFld_keeps | apply ResKeeps.ite | apply Keeps.ite

theorem execPclPgoodLoss_keeps {s0 s : State} (hk : Keeps s0 s) : ResKeeps s0 (execPclPgoodLoss s) := by
  unfold execPclPgoodLoss
  repeat' with_reducible first
    | assumption | apply ResKeeps.next | apply State.loseParcel_keeps | apply ResKeeps.ite | apply Keeps.ite

/-! ## Gather -/

theorem State.startGather_keeps {s0 s : State} (l : LetterId) (x : Letter) (rd : ReadRes) (hk : Keeps s0 s) :
    Keeps s0 (State.startGather s l x rd) := by
  unfold State.startGather
  repeat' with_reducible first
    | assumption
    | apply State.contained_keeps
    | intro _ | apply OptKeeps.some | apply OptKeeps.none | apply OptKeeps.ite | apply State.each_keeps
    | apply State.endLetter_keeps | apply State.setWork_keeps | apply State.srtNote_keeps | apply State.winAccess_keeps | split
    | refine OptKeeps.get ?_ (by assumption) | refine Keeps.fst ?_ (by assumption) | refine Keeps.snd ?_ (by assumption) | dsimp only
    | refine Keeps.lit ?_ rfl rfl rfl rfl rfl rfl rfl rfl

theorem execGather_keeps {s0 s : State} (q : Fin 4096) (rd : ReadRes) (hk : Keeps s0 s) : ResKeeps s0 (execGather q rd s) := by
  unfold execGather
  repeat' with_reducible first
    | assumption | intro _ | apply ResKeeps.next | apply State.startGather_keeps | apply State.startWith_keeps

theorem State.chargeBag_keeps {s0 s : State} (k : Nat) (ctx : Nat) (g : GatherSpec) (b : Nat) (n : Nat) (hk : Keeps s0 s) :
    Keeps s0 (State.chargeBag s k ctx g b n) := by
  unfold State.chargeBag
  repeat' with_reducible first
    | assumption | apply State.winAccess_keeps | apply Keeps.ite

theorem State.doBagStart_keeps {s0 s : State} (k : Nat) (rd : ReadRes) (hk : Keeps s0 s) : Keeps s0 (State.doBagStart s k rd) := by
  unfold State.doBagStart
  repeat' with_reducible first
    | assumption | apply OptKeeps.some | apply OptKeeps.none | apply OptKeeps.ite | apply State.chargeBag_keeps | apply State.failBag_keeps
    | apply State.srtNote_keeps | apply Keeps.ite | split | refine OptKeeps.get ?_ (by assumption) | refine Keeps.fst ?_ (by assumption)
    | refine Keeps.snd ?_ (by assumption) | dsimp only | refine Keeps.lit ?_ rfl rfl rfl rfl rfl rfl rfl rfl

theorem execBagStart_keeps {s0 s : State} (k : Fin 6) (rd : ReadRes) (hk : Keeps s0 s) : ResKeeps s0 (execBagStart k rd s) := by
  unfold execBagStart
  repeat' with_reducible first
    | assumption | apply ResKeeps.next | apply State.doBagStart_keeps | apply ResKeeps.ite | apply Keeps.ite

theorem State.giveLine_keeps {s0 s : State} (x : Lookup) (data : List Byte) (hk : Keeps s0 s) : Keeps s0 (State.giveLine s x data) := by
  unfold State.giveLine
  repeat' with_reducible first
    | assumption | intro _ | apply State.updBag_keeps

theorem State.setCache_keeps {s0 s : State} (set : Nat) (ws : List CacheWay) (hk : Keeps s0 s) : Keeps s0 (State.setCache s set ws) := by
  unfold State.setCache
  repeat' with_reducible first
    | assumption | refine Keeps.lit ?_ rfl rfl rfl rfl rfl rfl rfl rfl

theorem State.cacheInsert_keeps {s0 s : State} (k : Nat) (region : Nat) (line : Nat) (data : List Byte) (hk : Keeps s0 s) :
    Keeps s0 (State.cacheInsert s k region line data) := by
  unfold State.cacheInsert
  repeat' with_reducible first
    | assumption | intro _ | apply OptKeeps.some | apply OptKeeps.none | apply OptKeeps.ite | apply OptKeeps.getD | apply State.count_keeps
    | apply State.setCache_keeps | apply State.storeWrite_keeps | apply Keeps.ite | split | refine OptKeeps.get ?_ (by assumption)
    | refine Keeps.fst ?_ (by assumption) | refine Keeps.snd ?_ (by assumption) | dsimp only

theorem State.flashLine_keeps {s0 s : State} (x : Lookup) (stale : Bool) (sector : List Byte) (hk : Keeps s0 s) :
    Keeps s0 (State.flashLine s x stale sector) := by
  unfold State.flashLine
  repeat' with_reducible first
    | assumption | apply OptKeeps.some | apply OptKeeps.none | apply OptKeeps.ite | apply State.cacheInsert_keeps
    | apply State.giveLine_keeps | apply Keeps.ite | split

theorem State.coldMiss_keeps {s0 s : State} (x : Lookup) (hk : Keeps s0 s) : Keeps s0 (State.coldMiss s x) := by
  unfold State.coldMiss
  repeat' with_reducible first
    | assumption | intro _ | apply OptKeeps.some | apply OptKeeps.none | apply OptKeeps.ite | apply State.flashLine_keeps | apply Keeps.ite
    | split | refine OptKeeps.get ?_ (by assumption) | refine Keeps.fst ?_ (by assumption) | refine Keeps.snd ?_ (by assumption)
    | dsimp only | refine Keeps.lit ?_ rfl rfl rfl rfl rfl rfl rfl rfl

theorem State.issueSector_keeps {s0 s : State} (k : Nat) (slot : Nat) (g : GatherSpec) (sector : Nat) (hk : Keeps s0 s) :
    Keeps s0 (State.issueSector s k slot g sector) := by
  unfold State.issueSector
  repeat' with_reducible first
    | assumption | apply OptKeeps.some | apply OptKeeps.none | apply OptKeeps.ite | apply State.addReq_keeps | apply State.failBag_keeps
    | apply State.fresh_keeps | apply State.srtNote_keeps | apply Keeps.ite | split

theorem State.sorterReq_keeps {s0 s : State} (k : Nat) (slot : Nat) (line : Nat) (lines : Nat) (cls : ReqClass) (port : Option Nat) (addr : Nat) (data : List Byte) (hk : Keeps s0 s) :
    Keeps s0 (State.sorterReq s k slot line lines cls port addr data) := by
  unfold State.sorterReq
  repeat' with_reducible first
    | assumption | apply State.addReq_keeps | apply State.fresh_keeps | apply State.srtNote_keeps

theorem State.issueOut_keeps {s0 s : State} (b : Bag) (g : GatherSpec) (hk : Keeps s0 s) : Keeps s0 (State.issueOut s b g) := by
  unfold State.issueOut
  repeat' with_reducible first
    | assumption | intro _ | apply OptKeeps.some | apply OptKeeps.none | apply OptKeeps.ite | apply State.failBag_keeps
    | apply State.sorterReq_keeps | apply State.updBag_keeps | apply Keeps.ite | split

theorem State.issueHot_keeps {s0 s : State} (b : Bag) (g : GatherSpec) (i : Nat) (r : BagRow) (hk : Keeps s0 s) :
    Keeps s0 (State.issueHot s b g i r) := by
  unfold State.issueHot
  repeat' with_reducible first
    | assumption | intro _ | apply OptKeeps.some | apply OptKeeps.none | apply OptKeeps.ite | apply State.count_keeps
    | apply State.failBag_keeps | apply State.sorterReq_keeps | apply State.updBag_keeps | apply State.when_keeps | apply Keeps.ite | split

theorem State.issueCold_keeps {s0 s : State} (b : Bag) (g : GatherSpec) (i : Nat) (r : BagRow) (hk : Keeps s0 s) :
    Keeps s0 (State.issueCold s b g i r) := by
  unfold State.issueCold
  repeat' with_reducible first
    | assumption | intro _ | apply OptKeeps.some | apply OptKeeps.none | apply OptKeeps.ite | apply State.coldMiss_keeps
    | apply State.count_keeps | apply State.failBag_keeps | apply State.srtNote_keeps | apply State.updBag_keeps | apply State.when_keeps
    | apply Keeps.ite | split | refine OptKeeps.get ?_ (by assumption) | refine Keeps.fst ?_ (by assumption)
    | refine Keeps.snd ?_ (by assumption) | dsimp only | refine Keeps.lit ?_ rfl rfl rfl rfl rfl rfl rfl rfl

theorem State.bagIssue_keeps {s0 s : State} (b : Bag) (g : GatherSpec) (hk : Keeps s0 s) : Keeps s0 (State.bagIssue s b g) := by
  unfold State.bagIssue
  repeat' with_reducible first
    | assumption | intro _ | apply OptKeeps.some | apply OptKeeps.none | apply OptKeeps.ite | apply State.issueCold_keeps
    | apply State.issueHot_keeps | apply State.issueOut_keeps | apply State.issueSector_keeps | apply Keeps.ite | split

theorem execSorterRequestIssue_keeps {s0 s : State} (k : Fin 6) (slot : Fin 16) (fault : AgentFault) (hk : Keeps s0 s) :
    ResKeeps s0 (execSorterRequestIssue k slot fault s) := by
  unfold execSorterRequestIssue
  repeat' with_reducible first
    | assumption | apply ResKeeps.next | apply OptKeeps.some | apply OptKeeps.none | apply OptKeeps.ite | apply State.bagIssue_keeps
    | apply State.controlDetect_keeps | apply State.failBag_keeps | apply ResKeeps.ite | apply Keeps.ite | split

theorem State.giveRow_keeps {s0 s : State} (b : Bag) (g : GatherSpec) (i : Nat) (bs : List Byte) (hk : Keeps s0 s) :
    Keeps s0 (State.giveRow s b g i bs) := by
  unfold State.giveRow
  repeat' with_reducible first
    | assumption | intro _ | apply OptKeeps.some | apply OptKeeps.none | apply OptKeeps.ite | apply State.purgeHeld_keeps
    | apply State.updBag_keeps

theorem State.readAll_keeps {s0 : State} (l : List Req) : ∀ (rd : ReadRes) {s : State}, Keeps s0 s → Keeps s0 (s.readAll l rd).1 := by
  induction l with
  | nil => intro _ s h; exact h
  | cons q l ih => intro rd s h; exact ih _ (State.hbmReads_keeps _ _ h)

theorem State.doRowArrive_keeps {s0 s : State} (b : Bag) (g : GatherSpec) (rd : ReadRes) (hk : Keeps s0 s) :
    Keeps s0 (State.doRowArrive s b g rd) := by
  unfold State.doRowArrive
  repeat' with_reducible first
    | assumption | intro _ | apply OptKeeps.some | apply OptKeeps.none | apply OptKeeps.ite | apply State.dropReq_keeps
    | apply State.each_keeps | apply State.failBag_keeps | apply State.giveRow_keeps | apply State.readAll_keeps | apply State.srtNote_keeps
    | apply Keeps.ite | split | refine OptKeeps.get ?_ (by assumption) | refine Keeps.fst ?_ (by assumption)
    | refine Keeps.snd ?_ (by assumption) | dsimp only

theorem execBagRowArrive_keeps {s0 s : State} (k : Fin 6) (slot : Fin 16) (rd : ReadRes) (hk : Keeps s0 s) :
    ResKeeps s0 (execBagRowArrive k slot rd s) := by
  unfold execBagRowArrive
  repeat' with_reducible first
    | assumption | apply ResKeeps.next | apply OptKeeps.some | apply OptKeeps.none | apply OptKeeps.ite | apply State.doRowArrive_keeps
    | apply ResKeeps.ite | apply Keeps.ite | split

theorem State.doOutputAck_keeps {s0 s : State} (b : Bag) (g : GatherSpec) (hk : Keeps s0 s) : Keeps s0 (State.doOutputAck s b g) := by
  unfold State.doOutputAck
  repeat' with_reducible first
    | assumption | intro _ | apply OptKeeps.some | apply OptKeeps.none | apply OptKeeps.ite | apply State.count_keeps
    | apply State.each_keeps | apply State.failBag_keeps | apply State.gatherEnds_keeps | apply State.hbmWriteLines_keeps
    | apply State.removeBag_keeps | apply State.storeWriteLines_keeps | apply State.updLetter_keeps | apply Keeps.ite

theorem execBagOutputAck_keeps {s0 s : State} (k : Fin 6) (slot : Fin 16) (hk : Keeps s0 s) : ResKeeps s0 (execBagOutputAck k slot s) := by
  unfold execBagOutputAck
  repeat' with_reducible first
    | assumption | apply ResKeeps.next | apply OptKeeps.some | apply OptKeeps.none | apply OptKeeps.ite | apply State.doOutputAck_keeps
    | apply ResKeeps.ite | apply Keeps.ite | split

theorem State.doCacheLookup_keeps {s0 s : State} (x : Lookup) (ue : Bool) (hk : Keeps s0 s) : Keeps s0 (State.doCacheLookup s x ue) := by
  unfold State.doCacheLookup
  repeat' with_reducible first
    | assumption | intro _ | apply OptKeeps.some | apply OptKeeps.none | apply OptKeeps.ite | apply State.coldMiss_keeps
    | apply State.count_keeps | apply State.giveLine_keeps | apply State.setCache_keeps | apply State.srtNote_keeps
    | apply State.storeReads_keeps | apply Keeps.ite | split | refine OptKeeps.get ?_ (by assumption) | refine Keeps.fst ?_ (by assumption)
    | refine Keeps.snd ?_ (by assumption) | dsimp only | refine Keeps.lit ?_ rfl rfl rfl rfl rfl rfl rfl rfl

theorem execCacheLookup_keeps {s0 s : State} (k : Fin 6) (slot : Fin 16) (ue : Bool) (hk : Keeps s0 s) :
    ResKeeps s0 (execCacheLookup k slot ue s) := by
  unfold execCacheLookup
  repeat' with_reducible first
    | assumption | intro _ | apply ResKeeps.next | apply OptKeeps.some | apply OptKeeps.none | apply OptKeeps.ite
    | apply State.doCacheLookup_keeps | apply ResKeeps.ite | apply Keeps.ite | split

theorem State.sectorHere_keeps {s0 s : State} (k : Nat) (region : Nat) (sector : Nat) (stale : Bool) (data : List Byte) (hk : Keeps s0 s) :
    Keeps s0 (State.sectorHere s k region sector stale data) := by
  unfold State.sectorHere
  repeat' with_reducible first
    | assumption | intro _ | apply OptKeeps.some | apply OptKeeps.none | apply OptKeeps.ite | apply State.each_keeps
    | apply State.flashLine_keeps | apply State.purgeHeld_keeps | apply Keeps.ite | split | refine OptKeeps.get ?_ (by assumption)
    | refine Keeps.fst ?_ (by assumption) | refine Keeps.snd ?_ (by assumption) | dsimp only
    | refine Keeps.lit ?_ rfl rfl rfl rfl rfl rfl rfl rfl

theorem State.doSector_keeps {s0 s : State} (k : Nat) (r : Req) (rd : ReadRes) (hk : Keeps s0 s) : Keeps s0 (State.doSector s k r rd) := by
  unfold State.doSector
  repeat' with_reducible first
    | assumption | intro _ | apply OptKeeps.some | apply OptKeeps.none | apply OptKeeps.ite | apply OptKeeps.getD | apply State.count_keeps
    | apply State.countCtx_keeps | apply State.dropReq_keeps | apply State.each_keeps | apply State.failBag_keeps
    | apply State.flashTouch_keeps | apply State.sectorHere_keeps | apply State.srtNote_keeps | apply Keeps.ite | split
    | refine OptKeeps.get ?_ (by assumption) | refine Keeps.fst ?_ (by assumption) | refine Keeps.snd ?_ (by assumption) | dsimp only
    | refine Keeps.lit ?_ rfl rfl rfl rfl rfl rfl rfl rfl

theorem execSectorReadReturn_keeps {s0 s : State} (k : Fin 6) (tag : Nat) (rd : ReadRes) (hk : Keeps s0 s) :
    ResKeeps s0 (execSectorReadReturn k tag rd s) := by
  unfold execSectorReadReturn
  repeat' with_reducible first
    | assumption | apply ResKeeps.next | apply OptKeeps.some | apply OptKeeps.none | apply OptKeeps.ite | apply State.doSector_keeps
    | apply ResKeeps.ite | apply Keeps.ite | split

theorem State.beginInv_keeps {s0 s : State} (r : Nat) (hk : Keeps s0 s) : Keeps s0 (State.beginInv s r) := by
  unfold State.beginInv
  repeat' with_reducible first
    | assumption | intro _ | apply State.cacheInv_keeps | apply State.setFld_keeps | dsimp only
    | refine Keeps.lit ?_ rfl rfl rfl rfl rfl rfl rfl rfl

theorem execSrtCacheInvAll_keeps {s0 s : State} (hk : Keeps s0 s) : ResKeeps s0 (execSrtCacheInvAll s) := by
  unfold execSrtCacheInvAll
  repeat' with_reducible first
    | assumption | apply ResKeeps.next | apply State.beginInv_keeps | apply ResKeeps.ite | apply Keeps.ite

theorem execSrtCacheInv_keeps {s0 s : State} (r : BitVec 8) (hk : Keeps s0 s) : ResKeeps s0 (execSrtCacheInv r s) := by
  unfold execSrtCacheInv
  repeat' with_reducible first
    | assumption | apply ResKeeps.next | apply State.beginInv_keeps | apply ResKeeps.ite | apply Keeps.ite

theorem State.invDone_keeps {s0 s : State} (hk : Keeps s0 s) : Keeps s0 (State.invDone s) := by
  unfold State.invDone
  repeat' with_reducible first
    | assumption | apply OptKeeps.some | apply OptKeeps.none | apply OptKeeps.ite | apply State.setFld_keeps | split
    | refine OptKeeps.get ?_ (by assumption) | refine Keeps.fst ?_ (by assumption) | refine Keeps.snd ?_ (by assumption) | dsimp only
    | refine Keeps.lit ?_ rfl rfl rfl rfl rfl rfl rfl rfl

theorem execCacheInvalidateDone_keeps {s0 s : State} (hk : Keeps s0 s) : ResKeeps s0 (execCacheInvalidateDone s) := by
  unfold execCacheInvalidateDone
  repeat' with_reducible first
    | assumption | apply ResKeeps.next | apply State.invDone_keeps | apply ResKeeps.ite | apply Keeps.ite

end Sys2Proof.Machine
end

