-- ==== Sys2Proof/Laws/KeepsLinks.lean ====
section
/-! SUPPORT. The regulator, registers, collectives and the Olila links keep what `Keeps` says. -/

namespace Sys2Proof.Machine

/-! ## Regulator -/

theorem State.setOutside_keeps {s0 s : State} (id : Nat) (op : OutsideOp) (hk : Keeps s0 s) : Keeps s0 (State.setOutside s id op) := by
  unfold State.setOutside
  repeat' with_reducible first
    | assumption | intro _ | dsimp only | refine Keeps.lit ?_ rfl rfl rfl rfl rfl rfl rfl rfl

theorem State.dropOutside_keeps {s0 s : State} (id : Nat) (hk : Keeps s0 s) : Keeps s0 (State.dropOutside s id) := by
  unfold State.dropOutside
  repeat' with_reducible first
    | assumption | intro _ | apply OptKeeps.some | apply OptKeeps.none | apply OptKeeps.ite | split | refine OptKeeps.get ?_ (by assumption)
    | refine Keeps.fst ?_ (by assumption) | refine Keeps.snd ?_ (by assumption) | dsimp only
    | refine Keeps.lit ?_ rfl rfl rfl rfl rfl rfl rfl rfl

theorem State.askOutside_keeps {s0 s : State} (src : Nat) (id : Nat) (line : Nat) (lines : Nat) (addr : Nat) (hk : Keeps s0 s) :
    Keeps s0 (State.askOutside s src id line lines addr) := by
  unfold State.askOutside
  repeat' with_reducible first
    | assumption | apply OptKeeps.some | apply OptKeeps.none | apply OptKeeps.ite | apply State.addReq_keeps | apply State.fresh_keeps

theorem State.newOutside_keeps {s0 s : State} (op : OutsideOp) (hk : Keeps s0 s) : Keeps s0 (State.newOutside s op).2 := by
  unfold State.newOutside
  repeat' with_reducible first
    | assumption | apply State.fresh_keeps | split | refine OptKeeps.get ?_ (by assumption) | refine Keeps.fst ?_ (by assumption)
    | refine Keeps.snd ?_ (by assumption) | dsimp only | refine Keeps.lit ?_ rfl rfl rfl rfl rfl rfl rfl rfl

theorem State.askLines_keeps {s0 : State} (src id ctx off : Nat) (fuel : Nat) : ∀ (i n : Nat) {s : State}, Keeps s0 s →
    Keeps s0 (s.askLines src id ctx off fuel i n) := by
  induction fuel with
  | zero => intro _ _ s h; exact h
  | succ fuel ih =>
    intro i n s h
    unfold State.askLines
    split
    · exact h
    · dsimp only
      refine ih _ _ ?_
      split
      · exact State.askOutside_keeps _ _ _ _ _ h
      · exact h

theorem State.answer_keeps {s0 s : State} (f : Frame) (code : Code) (payload : List Byte) (prot : Bool) (hk : Keeps s0 s) :
    Keeps s0 (State.answer s f code payload prot) := by
  unfold State.answer
  repeat' with_reducible first
    | assumption | apply State.sendFrame_keeps

theorem State.hostUe_keeps {s0 s : State} (a : Nat) (src : Nat) (hk : Keeps s0 s) : Keeps s0 (State.hostUe s a src) := by
  unfold State.hostUe
  repeat' with_reducible first
    | assumption | apply State.postDev_keeps

theorem State.readForHost_keeps {s0 s : State} (a : Nat) (rd : ReadRes) (hk : Keeps s0 s) : Keeps s0 (State.readForHost s a rd) := by
  unfold State.readForHost
  repeat' with_reducible first
    | assumption | apply State.hbmNote_keeps | apply State.hostUe_keeps | apply State.toHost_keeps | apply Keeps.ite

theorem State.writeForHost_keeps {s0 s : State} (a : Nat) (be : BitVec 64) (data : List Byte) (hk : Keeps s0 s) :
    Keeps s0 (State.writeForHost s a be data) := by
  unfold State.writeForHost
  repeat' with_reducible first
    | assumption | apply OptKeeps.some | apply OptKeeps.none | apply OptKeeps.ite | apply State.hbmWrite_keeps | apply State.hostUe_keeps
    | apply State.postDev_keeps | apply State.toHost_keeps | apply Keeps.ite | split

theorem State.serveOutside_keeps {s0 s : State} (r : Req) (hk : Keeps s0 s) : Keeps s0 (State.serveOutside s r) := by
  unfold State.serveOutside
  repeat' with_reducible first
    | assumption | intro _ | apply OptKeeps.some | apply OptKeeps.none | apply OptKeeps.ite | apply OptKeeps.getD | apply State.answer_keeps
    | apply State.dropOutside_keeps | apply State.dropReq_keeps | apply State.each_keeps | apply State.frameWrite_keeps
    | apply State.hbmReads_keeps | apply State.hbmWrite_keeps | apply State.readForHost_keeps | apply State.setOutside_keeps
    | apply State.writeForHost_keeps | apply Keeps.ite | split | refine OptKeeps.get ?_ (by assumption)
    | refine Keeps.fst ?_ (by assumption) | refine Keeps.snd ?_ (by assumption) | dsimp only

theorem State.failOutside_keeps {s0 s : State} (r : Req) (hk : Keeps s0 s) : Keeps s0 (State.failOutside s r) := by
  unfold State.failOutside
  repeat' with_reducible first
    | assumption | apply OptKeeps.some | apply OptKeeps.none | apply OptKeeps.ite | apply State.answer_keeps | apply State.dropOutside_keeps
    | apply State.dropReq_keeps | apply State.frameWrite_keeps | apply State.freeBytes_keeps | apply State.toHost_keeps | split

theorem State.granted_keeps {s0 s : State} (r : Req) (hk : Keeps s0 s) : Keeps s0 (State.granted s r) := by
  unfold State.granted
  repeat' with_reducible first
    | assumption | intro _ | apply OptKeeps.some | apply OptKeeps.none | apply OptKeeps.ite | apply State.dropReq_keeps
    | apply State.serveOutside_keeps | apply State.zeroLines_keeps | apply Keeps.ite | split | refine OptKeeps.get ?_ (by assumption)
    | refine Keeps.fst ?_ (by assumption) | refine Keeps.snd ?_ (by assumption) | dsimp only
    | refine Keeps.lit ?_ rfl rfl rfl rfl rfl rfl rfl rfl

theorem State.grantReq_keeps {s0 s : State} (p : Nat) (r : Req) (hk : Keeps s0 s) : Keeps s0 (State.grantReq s p r) := by
  unfold State.grantReq
  repeat' with_reducible first
    | assumption | apply OptKeeps.some | apply OptKeeps.none | apply OptKeeps.ite | apply State.charge_keeps | apply State.countCtx_keeps
    | apply State.granted_keeps | apply Keeps.ite | split | refine OptKeeps.get ?_ (by assumption) | refine Keeps.fst ?_ (by assumption)
    | refine Keeps.snd ?_ (by assumption) | dsimp only

theorem State.portParity_keeps {s0 s : State} (r : Req) (hk : Keeps s0 s) : Keeps s0 (State.portParity s r) := by
  unfold State.portParity
  repeat' with_reducible first
    | assumption | intro _ | apply OptKeeps.some | apply OptKeeps.none | apply OptKeeps.ite | apply State.contained_keeps
    | apply State.dropReq_keeps | apply State.each_keeps | apply State.failAttn_keeps | apply State.failBag_keeps
    | apply State.failDesc_keeps | apply State.failOutside_keeps | apply State.srtNote_keeps | apply State.switchGo_keeps | apply Keeps.ite
    | split

theorem State.doGrant_keeps {s0 s : State} (p : Nat) (hk : Keeps s0 s) : Keeps s0 (State.doGrant s p) := by
  unfold State.doGrant
  repeat' with_reducible first
    | assumption | apply OptKeeps.some | apply OptKeeps.none | apply OptKeeps.ite | apply State.charge_keeps | apply State.grantReq_keeps
    | apply State.issueJob_keeps | split

theorem execRegulatorGrant_keeps {s0 s : State} (p : Fin 22) (fault : GrantFault) (hk : Keeps s0 s) :
    ResKeeps s0 (execRegulatorGrant p fault s) := by
  unfold execRegulatorGrant
  repeat' with_reducible first
    | assumption | apply ResKeeps.next | apply OptKeeps.some | apply OptKeeps.none | apply OptKeeps.ite | apply State.controlDetect_keeps
    | apply State.doGrant_keeps | apply State.portParity_keeps | apply ResKeeps.ite | apply Keeps.ite | split

theorem execRegulatorWindowEnd_keeps {s0 s : State} (p : Fin 22) (hk : Keeps s0 s) : ResKeeps s0 (execRegulatorWindowEnd p s) := by
  unfold execRegulatorWindowEnd
  repeat' with_reducible first
    | assumption | apply ResKeeps.next | apply State.adoptShare_keeps | apply ResKeeps.ite | apply Keeps.ite

/-! ## Registers -/

theorem State.postMalformed_keeps {s0 s : State} (v : View) (off : Nat) (len : Nat) (write : Bool) (hk : Keeps s0 s) :
    Keeps s0 (State.postMalformed s v off len write) := by
  unfold State.postMalformed
  repeat' with_reducible first
    | assumption | apply State.postDev_keeps

theorem State.writeReg_keeps {s0 s : State} (v : View) (win : Nat) (r : RegName) (i : Nat) (w : Nat) (m : Word) (x : Word) (hk : Keeps s0 s) :
    Keeps s0 (State.writeReg s v win r i w m x) := by
  unfold State.writeReg
  repeat' with_reducible first
    | assumption | intro _ | apply OptKeeps.some | apply OptKeeps.none | apply OptKeeps.ite | apply State.setFld_keeps
    | apply State.setReg_keeps | apply Keeps.ite | split | refine OptKeeps.get ?_ (by assumption) | refine Keeps.fst ?_ (by assumption)
    | refine Keeps.snd ?_ (by assumption) | dsimp only | refine Keeps.lit ?_ rfl rfl rfl rfl rfl rfl rfl rfl

theorem State.registerWrite_keeps {s0 s : State} (v : View) (off : Nat) (len : Nat) (value : Nat) (hk : Keeps s0 s) :
    Keeps s0 (State.registerWrite s v off len value) := by
  unfold State.registerWrite
  repeat' with_reducible first
    | assumption | apply OptKeeps.some | apply OptKeeps.none | apply OptKeeps.ite | apply State.postMalformed_keeps
    | apply State.writeReg_keeps | apply Keeps.ite | split

theorem execRegisterWrite_keeps {s0 s : State} (v : View) (off : Nat) (len : Nat) (value : Nat) (hk : Keeps s0 s) :
    ResKeeps s0 (execRegisterWrite v off len value s) := by
  unfold execRegisterWrite
  repeat' with_reducible first
    | assumption | apply ResKeeps.next | apply State.registerWrite_keeps

theorem execMalformedRead_keeps {s0 s : State} (v : View) (off : Nat) (len : Nat) (hk : Keeps s0 s) :
    ResKeeps s0 (execMalformedRead v off len s) := by
  unfold execMalformedRead
  repeat' with_reducible first
    | assumption | apply ResKeeps.next | apply State.postMalformed_keeps | apply State.toHost_keeps | apply ResKeeps.ite | apply Keeps.ite

/-! ## OlaOps -/

theorem State.unpack_keeps {s0 s : State} (p : Nat) (ctx : Nat) (f : Frame) (dst : Nat → Nat) (hk : Keeps s0 s) :
    Keeps s0 (State.unpack s p ctx f dst).1 := by
  unfold State.unpack
  repeat' with_reducible first
    | assumption | intro _ | apply OptKeeps.some | apply OptKeeps.none | apply OptKeeps.ite | apply State.bumpSat_keeps
    | apply State.postCtx_keeps | apply State.when_keeps | apply Keeps.ite1 | apply Keeps.ite | split
    | refine OptKeeps.get ?_ (by assumption) | refine Keeps.fst ?_ (by assumption) | refine Keeps.snd ?_ (by assumption) | dsimp only

theorem State.setPortState_keeps {s0 s : State} (p : Nat) (st : Nat) (hk : Keeps s0 s) : Keeps s0 (State.setPortState s p st) := by
  unfold State.setPortState
  repeat' with_reducible first
    | assumption | apply State.setFld_keeps

theorem State.transmit_keeps {s0 s : State} (p : Nat) (hk : Keeps s0 s) : Keeps s0 (State.transmit s p) := by
  unfold State.transmit
  repeat' with_reducible first
    | assumption | intro _ | apply OptKeeps.some | apply OptKeeps.none | apply OptKeeps.ite | apply State.count_keeps
    | apply State.countBw_keeps | apply State.countCtx_keeps | apply State.emit_keeps | apply State.updPort_keeps | apply Keeps.ite | split
    | refine OptKeeps.get ?_ (by assumption) | refine Keeps.fst ?_ (by assumption) | refine Keeps.snd ?_ (by assumption) | dsimp only

theorem State.endRemote_keeps {s0 s : State} (tag : Nat) (code : Code) (hk : Keeps s0 s) : Keeps s0 (State.endRemote s tag code) := by
  unfold State.endRemote
  repeat' with_reducible first
    | assumption | intro _ | apply OptKeeps.some | apply OptKeeps.none | apply OptKeeps.ite | apply State.dropReq_keeps
    | apply State.failDesc_keeps | split | refine OptKeeps.get ?_ (by assumption) | refine Keeps.fst ?_ (by assumption)
    | refine Keeps.snd ?_ (by assumption) | dsimp only | refine Keeps.lit ?_ rfl rfl rfl rfl rfl rfl rfl rfl

theorem State.frameLost_keeps {s0 s : State} (f : Frame) (code : Code) (hk : Keeps s0 s) : Keeps s0 (State.frameLost s f code) := by
  unfold State.frameLost
  repeat' with_reducible first
    | assumption | apply State.answer_keeps | apply State.endRemote_keeps | apply State.sendFrame_keeps | apply State.signalLost_keeps
    | apply Keeps.ite

theorem State.resend_keeps {s0 s : State} (i : TxItem) (code : Code → Code) (hk : Keeps s0 s) : Keeps s0 (State.resend s i code) := by
  unfold State.resend
  repeat' with_reducible first
    | assumption | intro _ | apply OptKeeps.some | apply OptKeeps.none | apply OptKeeps.ite | apply State.frameLost_keeps
    | apply State.sendFrame_keeps | apply Keeps.ite | split | refine OptKeeps.get ?_ (by assumption) | refine Keeps.fst ?_ (by assumption)
    | refine Keeps.snd ?_ (by assumption) | dsimp only | refine Keeps.lit ?_ rfl rfl rfl rfl rfl rfl rfl rfl

theorem State.reroute_keeps {s0 s : State} (p : Nat) (hk : Keeps s0 s) : Keeps s0 (State.reroute s p) := by
  unfold State.reroute
  repeat' with_reducible first
    | assumption | intro _ | apply State.each_keeps | apply State.resend_keeps | apply State.updPort_keeps

theorem State.releaseFrames_keeps {s0 s : State} (hk : Keeps s0 s) : Keeps s0 (State.releaseFrames s) := by
  unfold State.releaseFrames
  repeat' with_reducible first
    | assumption | intro _ | apply State.each_keeps | apply State.resend_keeps | dsimp only
    | refine Keeps.lit ?_ rfl rfl rfl rfl rfl rfl rfl rfl

theorem State.collFail_keeps {s0 s : State} (l : LetterId) (hk : Keeps s0 s) : Keeps s0 (State.collFail s l) := by
  unfold State.collFail
  repeat' with_reducible first
    | assumption | apply OptKeeps.some | apply OptKeeps.none | apply OptKeeps.ite | apply State.endLetter_keeps | split
    | refine OptKeeps.get ?_ (by assumption) | refine Keeps.fst ?_ (by assumption) | refine Keeps.snd ?_ (by assumption) | dsimp only
    | refine Keeps.lit ?_ rfl rfl rfl rfl rfl rfl rfl rfl

theorem State.lettersDown_keeps {s0 s : State} (p : Nat) (hk : Keeps s0 s) : Keeps s0 (State.lettersDown s p) := by
  unfold State.lettersDown
  repeat' with_reducible first
    | assumption | intro _ | apply OptKeeps.some | apply OptKeeps.none | apply OptKeeps.ite | apply State.collFail_keeps
    | apply State.each_keeps | apply State.endLetter_keeps | apply State.placeFails_keeps | apply Keeps.ite | split

theorem State.collsLost_keeps {s0 s : State} (fs : List Frame) (hk : Keeps s0 s) : Keeps s0 (State.collsLost s fs) := by
  unfold State.collsLost
  repeat' with_reducible first
    | assumption | intro _ | apply State.each_keeps | apply State.collFail_keeps | apply Keeps.ite | split

theorem State.portDown_keeps {s0 s : State} (p : Nat) (code : Code) (reason : Nat) (hk : Keeps s0 s) :
    Keeps s0 (State.portDown s p code reason) := by
  unfold State.portDown
  repeat' with_reducible first
    | assumption
    | apply State.collsLost_keeps
    | intro _ | apply OptKeeps.some | apply OptKeeps.none | apply OptKeeps.ite | apply State.each_keeps
    | apply State.endRemote_keeps | apply State.frameLost_keeps | apply State.lettersDown_keeps | apply State.postDev_keeps
    | apply State.reroute_keeps | apply State.setFld_keeps | apply State.setPortState_keeps | apply State.updPort_keeps

theorem State.trainPort_keeps {s0 s : State} (p : Nat) (hk : Keeps s0 s) : Keeps s0 (State.trainPort s p) := by
  unfold State.trainPort
  repeat' with_reducible first
    | assumption | intro _ | apply State.reroute_keeps | apply State.setFld_keeps | apply State.setPortState_keeps
    | apply State.setReg_keeps | apply State.updPort_keeps

theorem State.activatePort_keeps {s0 s : State} (p : Nat) (hk : Keeps s0 s) : Keeps s0 (State.activatePort s p) := by
  unfold State.activatePort
  repeat' with_reducible first
    | assumption | intro _ | apply State.setFld_keeps | apply State.setPortState_keeps | apply State.updPort_keeps

theorem State.laneFails_keeps {s0 s : State} (p : Nat) (lane : Nat) (hk : Keeps s0 s) : Keeps s0 (State.laneFails s p lane) := by
  unfold State.laneFails
  repeat' with_reducible first
    | assumption | intro _ | apply OptKeeps.some | apply OptKeeps.none | apply OptKeeps.ite | apply State.emit_keeps
    | apply State.portDown_keeps | apply State.setPortState_keeps | apply State.updPort_keeps | apply Keeps.ite

theorem State.fecNote_keeps {s0 s : State} (p : Nat) (r : RxFrame) (hk : Keeps s0 s) : Keeps s0 (State.fecNote s p r) := by
  unfold State.fecNote
  repeat' with_reducible first
    | assumption | intro _ | apply OptKeeps.some | apply OptKeeps.none | apply OptKeeps.ite | apply OptKeeps.getD | apply State.count_keeps
    | apply State.laneFails_keeps | apply State.updPort_keeps | apply Keeps.ite | split | refine OptKeeps.get ?_ (by assumption)
    | refine Keeps.fst ?_ (by assumption) | refine Keeps.snd ?_ (by assumption) | dsimp only

theorem State.acceptFrame_keeps {s0 s : State} (p : Nat) (f : Frame) (hk : Keeps s0 s) : Keeps s0 (State.acceptFrame s p f).1 := by
  unfold State.acceptFrame
  repeat' with_reducible first
    | assumption | intro _ | apply State.count_keeps | apply State.countBw_keeps | apply State.emit_keeps | apply State.updPort_keeps

theorem State.receive_keeps {s0 s : State} (p : Nat) (r : RxFrame) (hk : Keeps s0 s) : Keeps s0 (State.receive s p r).1 := by
  unfold State.receive
  repeat' with_reducible first
    | assumption | intro _ | apply OptKeeps.some | apply OptKeeps.none | apply OptKeeps.ite | apply State.acceptFrame_keeps
    | apply State.count_keeps | apply State.countBw_keeps | apply State.emit_keeps | apply State.fecNote_keeps | apply State.frameLost_keeps
    | apply State.portDown_keeps | apply State.sendFrame_keeps | apply State.updPort_keeps | apply Keeps.ite1 | apply Keeps.ite | split
    | refine OptKeeps.get ?_ (by assumption) | refine Keeps.fst ?_ (by assumption) | refine Keeps.snd ?_ (by assumption) | dsimp only

theorem State.rand256_keeps {s0 s : State} (h : Keeps s0 s) : Keeps s0 s.rand256.2 :=
  h.drew rfl rfl (Nat.le_add_right _ _) rfl rfl rfl rfl rfl

theorem State.keyStart_keeps {s0 s : State} (p : Nat) (h : Keeps s0 s) : Keeps s0 (s.keyStart p) := by
  unfold State.keyStart
  split
  · exact h
  · exact State.emit_keeps _ (State.updPort_keeps _ _ ((State.rand256_keeps h).drew rfl rfl (Nat.le_succ _) rfl rfl rfl rfl rfl))

theorem State.keyKick_keeps {s0 s : State} (hk : Keeps s0 s) : Keeps s0 (State.keyKick s) := by
  unfold State.keyKick
  repeat' with_reducible first
    | assumption | intro _ | apply State.each_keeps | apply State.keyStart_keeps | apply Keeps.ite

theorem State.key1_keeps {s0 s : State} (p : Nat) (m : KeyMsg) (h : Keeps s0 s) : Keeps s0 (s.key1 p m) := by
  unfold State.key1
  dsimp only
  split
  · exact h
  · split
    · exact State.portDown_keeps _ _ _ h
    · exact State.emit_keeps _ (State.updPort_keeps _ _ ((State.rand256_keeps h).drew rfl rfl (Nat.le_succ _) rfl rfl rfl rfl rfl))

theorem State.key2_keeps {s0 s : State} (p : Nat) (m : KeyMsg) (hk : Keeps s0 s) : Keeps s0 (State.key2 s p m) := by
  unfold State.key2
  repeat' with_reducible first
    | assumption | intro _ | apply OptKeeps.some | apply OptKeeps.none | apply OptKeeps.ite | apply State.activatePort_keeps
    | apply State.emit_keeps | apply State.portDown_keeps | apply State.updPort_keeps | apply Keeps.ite | split
    | refine OptKeeps.get ?_ (by assumption) | refine Keeps.fst ?_ (by assumption) | refine Keeps.snd ?_ (by assumption) | dsimp only

theorem State.key4_keeps {s0 s : State} (p : Nat) (tagOk : Bool) (hk : Keeps s0 s) : Keeps s0 (State.key4 s p tagOk) := by
  unfold State.key4
  repeat' with_reducible first
    | assumption | intro _ | apply State.activatePort_keeps | apply State.portDown_keeps | apply State.updPort_keeps | apply Keeps.ite

/-! ## Collectives -/

theorem State.winWrite_keeps {s0 s : State} (ctx : Nat) (off : Nat) (bs : List Byte) (c : ReqClass) (src : Nat) (hk : Keeps s0 s) :
    Keeps s0 (State.winWrite s ctx off bs c src) := by
  unfold State.winWrite
  repeat' with_reducible first
    | assumption | intro _ | apply State.each_keeps | apply State.hbmWrite_keeps | apply State.countCtx_keeps | apply State.charge_keeps
    | split

theorem State.collLost_keeps {s0 s : State} (l : LetterId) (a : Nat) (hk : Keeps s0 s) : Keeps s0 (State.collLost s l a) := by
  unfold State.collLost
  repeat' with_reducible first
    | assumption | apply State.endLetter_keeps | apply State.contained_keeps

theorem State.shake_keeps {s0 s : State} (l : LetterId) (ctx : Nat) (dst : Nat) (id : Nat) (step : Nat) (hk : Keeps s0 s) :
    Keeps s0 (State.shake s l ctx dst id step) := by
  unfold State.shake
  repeat' with_reducible first
    | assumption | apply OptKeeps.some | apply OptKeeps.none | apply OptKeeps.ite | apply State.collFail_keeps | apply State.sendFrame_keeps
    | split | refine OptKeeps.get ?_ (by assumption) | refine Keeps.fst ?_ (by assumption) | refine Keeps.snd ?_ (by assumption)
    | dsimp only

theorem State.collSend_keeps {s0 s : State} (l : LetterId) (x : Letter) (w : CollWork) (hk : Keeps s0 s) : Keeps s0 (State.collSend s l x w) := by
  unfold State.collSend
  repeat' with_reducible first
    | assumption
    | apply State.winAccess_keeps | apply State.collLost_keeps
    | intro _ | apply OptKeeps.some | apply OptKeeps.none | apply OptKeeps.ite | apply OptKeeps.getD
    | apply State.collFail_keeps | apply State.each_keeps | apply State.sendFrame_keeps | apply State.setWork_keeps | apply Keeps.ite
    | split | refine OptKeeps.get ?_ (by assumption) | refine Keeps.fst ?_ (by assumption) | refine Keeps.snd ?_ (by assumption)
    | dsimp only

theorem State.collRecv_keeps {s0 s : State} (l : LetterId) (x : Letter) (w : CollWork) (hk : Keeps s0 s) : Keeps s0 (State.collRecv s l x w) := by
  unfold State.collRecv
  repeat' with_reducible first
    | assumption | intro _ | apply State.winAccess_keeps | apply State.collLost_keeps | apply State.setWork_keeps | apply State.shake_keeps
    | apply State.winWrite_keeps | apply Keeps.ite | dsimp only | split

theorem State.collEnds_keeps {s0 s : State} (l : LetterId) (hk : Keeps s0 s) : Keeps s0 (State.collEnds s l) := by
  unfold State.collEnds
  repeat' with_reducible first
    | assumption | apply OptKeeps.some | apply OptKeeps.none | apply OptKeeps.ite | apply State.endLetter_keeps
    | apply State.letterDone_keeps | apply Keeps.ite | split

theorem State.castSend_keeps {s0 s : State} (l : LetterId) (x : Letter) (w : CollWork) (hk : Keeps s0 s) : Keeps s0 (State.castSend s l x w) := by
  unfold State.castSend
  repeat' with_reducible first
    | assumption | intro _ | apply State.queueDesc_keeps | apply State.setWork_keeps | apply Keeps.ite

theorem State.collPush_keeps {s0 s : State} (l : LetterId) (hk : Keeps s0 s) : Keeps s0 (State.collPush s l) := by
  unfold State.collPush
  repeat' with_reducible first
    | assumption | intro _ | apply OptKeeps.some | apply OptKeeps.none | apply OptKeeps.ite | apply State.castSend_keeps
    | apply State.collEnds_keeps | apply State.collRecv_keeps | apply State.collSend_keeps | apply Keeps.ite | split
    | refine OptKeeps.get ?_ (by assumption) | refine Keeps.fst ?_ (by assumption) | refine Keeps.snd ?_ (by assumption) | dsimp only

theorem State.startColl_keeps {s0 s : State} (l : LetterId) (x : Letter) (hk : Keeps s0 s) : Keeps s0 (State.startColl s l x) := by
  unfold State.startColl
  repeat' with_reducible first
    | assumption | intro _ | apply State.winAccess_keeps | apply State.collLost_keeps | apply State.collPush_keeps | apply State.endLetter_keeps
    | apply State.letterDone_keeps | apply State.setWork_keeps | apply State.shake_keeps | apply State.winWrite_keeps | apply Keeps.ite | split | dsimp only
    | refine Keeps.lit ?_ rfl rfl rfl rfl rfl rfl rfl rfl

theorem State.collStart_keeps {s0 s : State} (q : Nat) (op : Nat) (hk : Keeps s0 s) : Keeps s0 (State.collStart s q op) := by
  unfold State.collStart
  repeat' with_reducible first
    | assumption | intro _ | apply OptKeeps.some | apply OptKeeps.none | apply OptKeeps.ite | apply State.collPush_keeps
    | apply State.each_keeps | apply State.startColl_keeps | apply State.startWith_keeps

theorem execCollectiveAllGather_keeps {s0 s : State} (q : Fin 4096) (hk : Keeps s0 s) : ResKeeps s0 (execCollectiveAllGather q s) := by
  unfold execCollectiveAllGather
  repeat' with_reducible first
    | assumption | apply ResKeeps.next | apply State.collStart_keeps

theorem execCollectiveAllReduce_keeps {s0 s : State} (q : Fin 4096) (hk : Keeps s0 s) : ResKeeps s0 (execCollectiveAllReduce q s) := by
  unfold execCollectiveAllReduce
  repeat' with_reducible first
    | assumption | apply ResKeeps.next | apply State.collStart_keeps

theorem execCollectiveBroadcast_keeps {s0 s : State} (q : Fin 4096) (hk : Keeps s0 s) : ResKeeps s0 (execCollectiveBroadcast q s) := by
  unfold execCollectiveBroadcast
  repeat' with_reducible first
    | assumption | apply ResKeeps.next | apply State.collStart_keeps

theorem State.collArrive_keeps {s0 s : State} (p : Nat) (f : Frame) (hk : Keeps s0 s) : Keeps s0 (State.collArrive s p f) := by
  unfold State.collArrive
  repeat' with_reducible first
    | assumption | intro _ | apply OptKeeps.some | apply OptKeeps.none | apply OptKeeps.ite | apply State.collPush_keeps
    | apply State.unpack_keeps | apply State.updLetter_keeps | apply Keeps.ite | split | refine OptKeeps.get ?_ (by assumption)
    | refine Keeps.fst ?_ (by assumption) | refine Keeps.snd ?_ (by assumption) | dsimp only
    | refine Keeps.lit ?_ rfl rfl rfl rfl rfl rfl rfl rfl

theorem State.timeAsk_keeps {s0 s : State} (l : LetterId) (peer : Nat) (round : Nat) (hk : Keeps s0 s) :
    Keeps s0 (State.timeAsk s l peer round) := by
  unfold State.timeAsk
  repeat' with_reducible first
    | assumption | apply OptKeeps.some | apply OptKeeps.none | apply OptKeeps.ite | apply State.endLetter_keeps | apply State.fresh_keeps
    | apply State.sendFrame_keeps | apply State.setWork_keeps | split | refine OptKeeps.get ?_ (by assumption)
    | refine Keeps.fst ?_ (by assumption) | refine Keeps.snd ?_ (by assumption)

theorem State.timeRecord_keeps {s0 s : State} (l : LetterId) (x : Letter) (round : Nat) (bs : List Byte) (hk : Keeps s0 s) :
    Keeps s0 (State.timeRecord s l x round bs).1 := by
  unfold State.timeRecord
  repeat' with_reducible first
    | assumption | intro _ | apply State.contained_keeps | apply State.hbmWrite_keeps | apply State.hbmAccess_keeps | split | dsimp only

theorem State.timeRound_keeps {s0 s : State} (l : LetterId) (round : Nat) (t1 : BitVec 64) (t2 : BitVec 64) (t3 : BitVec 64) (t4 : BitVec 64) (hk : Keeps s0 s) :
    Keeps s0 (State.timeRound s l round t1 t2 t3 t4) := by
  unfold State.timeRound
  repeat' with_reducible first
    | assumption | apply State.timeRecord_keeps | apply State.endLetter_keeps | apply State.letterDone_keeps | apply State.timeAsk_keeps
    | apply Keeps.ite | split | refine Keeps.fst ?_ (by assumption) | dsimp only

theorem State.timeOwn_keeps {s0 : State} (l : LetterId) (x : Letter) (n : Nat) (bs : List Byte) :
    ∀ {s : State}, Keeps s0 s → Keeps s0 (State.timeOwn s l x n bs) := by
  induction n with
  | zero => intro s hk; exact State.endLetter_keeps _ _ (State.letterDone_keeps _ _ _ hk)
  | succ n ih =>
    intro s hk
    have h := State.timeRecord_keeps l x (x.field 0x11 1 - (n + 1)) bs hk
    unfold State.timeOwn
    dsimp only
    split
    · rename_i e; rw [e] at h; exact State.endLetter_keeps _ _ h
    · rename_i e; rw [e] at h; exact ih h

theorem State.startTime_keeps {s0 s : State} (l : LetterId) (x : Letter) (hk : Keeps s0 s) : Keeps s0 (State.startTime s l x) := by
  unfold State.startTime
  repeat' with_reducible first
    | assumption | apply State.endLetter_keeps | apply State.timeOwn_keeps | apply State.timeAsk_keeps | apply Keeps.ite | split

theorem execTime_keeps {s0 s : State} (q : Fin 4096) (hk : Keeps s0 s) : ResKeeps s0 (execTime q s) := by
  unfold execTime
  repeat' with_reducible first
    | assumption | intro _ | apply ResKeeps.next | apply State.startTime_keeps | apply State.startWith_keeps

theorem State.timeArrive_keeps {s0 s : State} (f : Frame) (hk : Keeps s0 s) : Keeps s0 (State.timeArrive s f) := by
  unfold State.timeArrive
  repeat' with_reducible first
    | assumption | intro _ | apply OptKeeps.some | apply OptKeeps.none | apply OptKeeps.ite | apply State.sendFrame_keeps
    | apply State.timeRound_keeps | apply Keeps.ite | split

/-! ## Olila -/

theorem State.trainStep_keeps {s0 s : State} (p : Nat) (peer : PeerInfo) (hk : Keeps s0 s) : Keeps s0 (State.trainStep s p peer) := by
  unfold State.trainStep
  repeat' with_reducible first
    | assumption | intro _ | apply OptKeeps.some | apply OptKeeps.none | apply OptKeeps.ite | apply State.activatePort_keeps
    | apply State.emit_keeps | apply State.keyStart_keeps | apply State.portDown_keeps | apply State.setFld_keeps
    | apply State.setPortState_keeps | apply State.updPort_keeps | apply Keeps.ite | split

theorem execOlaTrainStepDone_keeps {s0 s : State} (p : Fin 12) (peer : PeerInfo) (hk : Keeps s0 s) :
    ResKeeps s0 (execOlaTrainStepDone p peer s) := by
  unfold execOlaTrainStepDone
  repeat' with_reducible first
    | assumption | apply ResKeeps.next | apply State.trainStep_keeps

theorem State.trainTimeout_keeps {s0 s : State} (p : Nat) (hk : Keeps s0 s) : Keeps s0 (State.trainTimeout s p) := by
  unfold State.trainTimeout
  repeat' with_reducible first
    | assumption | apply OptKeeps.some | apply OptKeeps.none | apply OptKeeps.ite | apply State.portDown_keeps | apply Keeps.ite | split

theorem execOlaTrainTimeout_keeps {s0 s : State} (p : Fin 12) (hk : Keeps s0 s) : ResKeeps s0 (execOlaTrainTimeout p s) := by
  unfold execOlaTrainTimeout
  repeat' with_reducible first
    | assumption | apply ResKeeps.next | apply State.trainTimeout_keeps | apply ResKeeps.ite | apply Keeps.ite

theorem execLaneErrorLimit_keeps {s0 s : State} (p : Fin 12) (lane : Fin 8) (hk : Keeps s0 s) : ResKeeps s0 (execLaneErrorLimit p lane s) := by
  unfold execLaneErrorLimit
  repeat' with_reducible first
    | assumption | apply ResKeeps.next | apply State.laneFails_keeps

theorem execLaneLockLoss_keeps {s0 s : State} (p : Fin 12) (lane : Fin 8) (hk : Keeps s0 s) : ResKeeps s0 (execLaneLockLoss p lane s) := by
  unfold execLaneLockLoss
  repeat' with_reducible first
    | assumption | apply ResKeeps.next | apply State.laneFails_keeps

theorem State.repairFrame_keeps {s0 s : State} (p : Nat) (lane : Nat) (hk : Keeps s0 s) : Keeps s0 (State.repairFrame s p lane) := by
  unfold State.repairFrame
  repeat' with_reducible first
    | assumption | intro _ | apply OptKeeps.some | apply OptKeeps.none | apply OptKeeps.ite | apply State.emit_keeps
    | apply State.portDown_keeps | apply State.setFld_keeps | apply State.setPortState_keeps | apply State.updPort_keeps | apply Keeps.ite

theorem execControlRepair_keeps {s0 s : State} (p : Fin 12) (lane : Fin 8) (hk : Keeps s0 s) : ResKeeps s0 (execControlRepair p lane s) := by
  unfold execControlRepair
  repeat' with_reducible first
    | assumption | apply ResKeeps.next | apply State.repairFrame_keeps

theorem execRepairDone_keeps {s0 s : State} (p : Fin 12) (hk : Keeps s0 s) : ResKeeps s0 (execRepairDone p s) := by
  unfold execRepairDone
  repeat' with_reducible first
    | assumption | intro _ | apply ResKeeps.next | apply State.setPortState_keeps | apply State.updPort_keeps | apply ResKeeps.ite
    | apply Keeps.ite

theorem execAutoRetrain_keeps {s0 s : State} (p : Fin 12) (hk : Keeps s0 s) : ResKeeps s0 (execAutoRetrain p s) := by
  unfold execAutoRetrain
  repeat' with_reducible first
    | assumption | apply ResKeeps.next | apply State.trainPort_keeps | apply ResKeeps.ite | apply Keeps.ite

theorem execFrameTransmit_keeps {s0 s : State} (p : Fin 12) (hk : Keeps s0 s) : ResKeeps s0 (execFrameTransmit p s) := by
  unfold execFrameTransmit
  repeat' with_reducible first
    | assumption | apply ResKeeps.next | apply State.transmit_keeps | apply ResKeeps.ite | apply Keeps.ite

theorem State.nakFrame_keeps {s0 s : State} (p : Nat) (n : Nat) (hk : Keeps s0 s) : Keeps s0 (State.nakFrame s p n) := by
  unfold State.nakFrame
  repeat' with_reducible first
    | assumption | intro _ | apply State.portDown_keeps | apply State.updPort_keeps | apply Keeps.ite

theorem execControlNak_keeps {s0 s : State} (p : Fin 12) (expected : BitVec 12) (hk : Keeps s0 s) :
    ResKeeps s0 (execControlNak p expected s) := by
  unfold execControlNak
  repeat' with_reducible first
    | assumption | apply ResKeeps.next | apply State.nakFrame_keeps

theorem execControlCredit_keeps {s0 s : State} (p : Fin 12) (vc : Fin 4) (n : CreditFrame) (hk : Keeps s0 s) :
    ResKeeps s0 (execControlCredit p vc n s) := by
  unfold execControlCredit
  repeat' with_reducible first
    | assumption | intro _ | apply ResKeeps.next | apply State.updPort_keeps | apply ResKeeps.ite | apply Keeps.ite

theorem State.withFrame_keeps {s0 s : State} (p : Nat) (typ : Nat) (r : RxFrame) (go : State → Frame → State) (hk : Keeps s0 s) (hgo : ∀ s x1, Keeps s0 s → Keeps s0 (go s x1)) :
    Keeps s0 (State.withFrame s p typ r go) := by
  unfold State.withFrame
  repeat' with_reducible first
    | assumption | intro _ | apply OptKeeps.some | apply OptKeeps.none | apply OptKeeps.ite | apply State.receive_keeps | apply hgo
    | apply Keeps.ite | split | refine OptKeeps.get ?_ (by assumption) | refine Keeps.fst ?_ (by assumption)

theorem State.writeArrive_keeps {s0 s : State} (p : Nat) (f : Frame) (hk : Keeps s0 s) : Keeps s0 (State.writeArrive s p f) := by
  unfold State.writeArrive
  repeat' with_reducible first
    | assumption | intro _ | apply OptKeeps.some | apply OptKeeps.none | apply OptKeeps.ite | apply State.answer_keeps
    | apply State.askLines_keeps | apply State.frameWrite_keeps | apply State.newOutside_keeps | apply State.unpack_keeps | apply Keeps.ite
    | split | refine OptKeeps.get ?_ (by assumption) | refine Keeps.fst ?_ (by assumption) | refine Keeps.snd ?_ (by assumption)
    | dsimp only

theorem execFrameWrite_keeps {s0 s : State} (p : Fin 12) (f : RxFrame) (hk : Keeps s0 s) : ResKeeps s0 (execFrameWrite p f s) := by
  unfold execFrameWrite
  repeat' with_reducible first
    | assumption | intro _ | apply ResKeeps.next | apply State.withFrame_keeps | apply State.writeArrive_keeps

theorem State.readArrive_keeps {s0 s : State} (p : Nat) (f : Frame) (hk : Keeps s0 s) : Keeps s0 (State.readArrive s p f) := by
  unfold State.readArrive
  repeat' with_reducible first
    | assumption | apply OptKeeps.some | apply OptKeeps.none | apply OptKeeps.ite | apply State.answer_keeps | apply State.askLines_keeps
    | apply State.newOutside_keeps | apply Keeps.ite | split

theorem execFrameReadReq_keeps {s0 s : State} (p : Fin 12) (f : RxFrame) (hk : Keeps s0 s) : ResKeeps s0 (execFrameReadReq p f s) := by
  unfold execFrameReadReq
  repeat' with_reducible first
    | assumption | intro _ | apply ResKeeps.next | apply State.readArrive_keeps | apply State.withFrame_keeps

theorem State.responseArrive_keeps {s0 s : State} (p : Nat) (f : Frame) (hk : Keeps s0 s) : Keeps s0 (State.responseArrive s p f) := by
  unfold State.responseArrive
  repeat' with_reducible first
    | assumption | intro _ | apply OptKeeps.some | apply OptKeeps.none | apply OptKeeps.ite | apply State.count_keeps
    | apply State.countCtx_keeps | apply State.crrNote_keeps | apply State.dropReq_keeps | apply State.endRemote_keeps
    | apply State.feedEntry_keeps | apply State.settleDesc_keeps | apply State.signalLost_keeps | apply State.unpack_keeps
    | apply State.updDesc_keeps | apply Keeps.ite | split | refine OptKeeps.get ?_ (by assumption) | refine Keeps.fst ?_ (by assumption)
    | refine Keeps.snd ?_ (by assumption) | dsimp only | refine Keeps.lit ?_ rfl rfl rfl rfl rfl rfl rfl rfl

theorem execFrameResponse_keeps {s0 s : State} (p : Fin 12) (f : RxFrame) (hk : Keeps s0 s) : ResKeeps s0 (execFrameResponse p f s) := by
  unfold execFrameResponse
  repeat' with_reducible first
    | assumption | intro _ | apply ResKeeps.next | apply State.responseArrive_keeps | apply State.withFrame_keeps

theorem State.signalArrive_keeps {s0 s : State} (f : Frame) (hk : Keeps s0 s) : Keeps s0 (State.signalArrive s f) := by
  unfold State.signalArrive
  repeat' with_reducible first
    | assumption | apply OptKeeps.some | apply OptKeeps.none | apply OptKeeps.ite | apply State.sendSync_keeps | apply Keeps.ite | split
    | refine OptKeeps.get ?_ (by assumption) | refine Keeps.fst ?_ (by assumption) | refine Keeps.snd ?_ (by assumption) | dsimp only

theorem execFrameSignal_keeps {s0 s : State} (p : Fin 12) (f : RxFrame) (hk : Keeps s0 s) : ResKeeps s0 (execFrameSignal p f s) := by
  unfold execFrameSignal
  repeat' with_reducible first
    | assumption | intro _ | apply ResKeeps.next | apply State.signalArrive_keeps | apply State.withFrame_keeps

theorem execTimeFrame_keeps {s0 s : State} (p : Fin 12) (f : RxFrame) (hk : Keeps s0 s) : ResKeeps s0 (execTimeFrame p f s) := by
  unfold execTimeFrame
  repeat' with_reducible first
    | assumption | intro _ | apply ResKeeps.next | apply State.timeArrive_keeps | apply State.withFrame_keeps

theorem execCollFrame_keeps {s0 s : State} (p : Fin 12) (f : RxFrame) (hk : Keeps s0 s) : ResKeeps s0 (execCollFrame p f s) := by
  unfold execCollFrame
  repeat' with_reducible first
    | assumption | intro _ | apply ResKeeps.next | apply State.collArrive_keeps | apply State.withFrame_keeps

theorem execCounterRekey_keeps {s0 s : State} (p : Fin 12) (hk : Keeps s0 s) : ResKeeps s0 (execCounterRekey p s) := by
  unfold execCounterRekey
  repeat' with_reducible first
    | assumption | apply ResKeeps.next | apply State.keyStart_keeps | apply ResKeeps.ite | apply Keeps.ite

theorem execKeyingMessage1_keeps {s0 s : State} (p : Fin 12) (m : KeyMsg) (hk : Keeps s0 s) : ResKeeps s0 (execKeyingMessage1 p m s) := by
  unfold execKeyingMessage1
  repeat' with_reducible first
    | assumption | apply ResKeeps.next | apply State.key1_keeps

theorem execKeyingMessage2_keeps {s0 s : State} (p : Fin 12) (m : KeyMsg) (hk : Keeps s0 s) : ResKeeps s0 (execKeyingMessage2 p m s) := by
  unfold execKeyingMessage2
  repeat' with_reducible first
    | assumption | apply ResKeeps.next | apply State.key2_keeps

theorem execKeyingMessage4_keeps {s0 s : State} (p : Fin 12) (tagOk : Bool) (hk : Keeps s0 s) : ResKeeps s0 (execKeyingMessage4 p tagOk s) := by
  unfold execKeyingMessage4
  repeat' with_reducible first
    | assumption | apply ResKeeps.next | apply State.key4_keeps

end Sys2Proof.Machine
end

