-- ==== Sys2Proof/Laws/KeepsContexts.lean ====
section
/-! SUPPORT. Contexts, firmware, the host link and transactions keep what `Keeps` says. -/

namespace Sys2Proof.Machine

/-! ## Contexts -/

theorem State.schedule_keeps {s0 s : State} (hk : Keeps s0 s) : Keeps s0 (State.schedule s) := by
  unfold State.schedule
  repeat' with_reducible first
    | assumption | intro _ | apply OptKeeps.some | apply OptKeeps.none | apply OptKeeps.ite | apply Keeps.ite | split
    | refine OptKeeps.get ?_ (by assumption) | refine Keeps.fst ?_ (by assumption) | refine Keeps.snd ?_ (by assumption) | dsimp only
    | refine Keeps.lit ?_ rfl rfl rfl rfl rfl rfl rfl rfl

theorem State.orderSwitch_keeps {s0 s : State} (cl : Nat) (out : Option Nat) (inn : Nat) (hk : Keeps s0 s) :
    Keeps s0 (State.orderSwitch s cl out inn) := by
  unfold State.orderSwitch
  repeat' with_reducible first
    | assumption | apply OptKeeps.some | apply OptKeeps.none | apply OptKeeps.ite | apply State.setFld_keeps | dsimp only
    | refine Keeps.lit ?_ rfl rfl rfl rfl rfl rfl rfl rfl

theorem State.preempt_keeps {s0 s : State} (cl : Nat) (hk : Keeps s0 s) : Keeps s0 (State.preempt s cl) := by
  unfold State.preempt
  repeat' with_reducible first
    | assumption | intro _ | apply OptKeeps.some | apply OptKeeps.none | apply OptKeeps.ite | apply State.orderSwitch_keeps
    | apply State.schedule_keeps | apply Keeps.ite | split | refine OptKeeps.get ?_ (by assumption) | refine Keeps.fst ?_ (by assumption)
    | refine Keeps.snd ?_ (by assumption) | dsimp only | refine Keeps.lit ?_ rfl rfl rfl rfl rfl rfl rfl rfl

theorem execPreemptionPoint_keeps {s0 s : State} (cl : Fin 16) (hk : Keeps s0 s) : ResKeeps s0 (execPreemptionPoint cl s) := by
  unfold execPreemptionPoint
  repeat' with_reducible first
    | assumption | apply ResKeeps.next | apply State.preempt_keeps | apply ResKeeps.ite | apply Keeps.ite

theorem execSliceExpiry_keeps {s0 s : State} (cl : Fin 16) (hk : Keeps s0 s) : ResKeeps s0 (execSliceExpiry cl s) := by
  unfold execSliceExpiry
  repeat' with_reducible first
    | assumption | apply ResKeeps.next | apply OptKeeps.some | apply OptKeeps.none | apply OptKeeps.ite | apply ResKeeps.ite
    | apply Keeps.ite | split | refine OptKeeps.get ?_ (by assumption) | refine Keeps.fst ?_ (by assumption)
    | refine Keeps.snd ?_ (by assumption) | dsimp only | refine Keeps.lit ?_ rfl rfl rfl rfl rfl rfl rfl rfl

theorem execWaitYieldExpiry_keeps {s0 s : State} (cl : Fin 16) (hk : Keeps s0 s) : ResKeeps s0 (execWaitYieldExpiry cl s) := by
  unfold execWaitYieldExpiry
  repeat' with_reducible first
    | assumption | apply ResKeeps.next | apply OptKeeps.some | apply OptKeeps.none | apply OptKeeps.ite | apply ResKeeps.ite
    | apply Keeps.ite | split | refine OptKeeps.get ?_ (by assumption) | refine Keeps.fst ?_ (by assumption)
    | refine Keeps.snd ?_ (by assumption) | dsimp only | refine Keeps.lit ?_ rfl rfl rfl rfl rfl rfl rfl rfl

theorem execContextSwitch_keeps {s0 s : State} (cl : Fin 16) (hk : Keeps s0 s) : ResKeeps s0 (execContextSwitch cl s) := by
  unfold execContextSwitch
  repeat' with_reducible first
    | assumption | apply ResKeeps.next | apply OptKeeps.some | apply OptKeeps.none | apply OptKeeps.ite | apply State.doSwitch_keeps
    | apply ResKeeps.ite | apply Keeps.ite | split

theorem State.switchDone_keeps {s0 s : State} (cl : Nat) (w : Switch) (hk : Keeps s0 s) : Keeps s0 (State.switchDone s cl w) := by
  unfold State.switchDone
  repeat' with_reducible first
    | assumption | intro _ | apply State.bump_keeps | apply State.countCtx_keeps | apply State.each_keeps | apply State.notePhase_keeps
    | apply State.setFld_keeps | dsimp only | refine Keeps.lit ?_ rfl rfl rfl rfl rfl rfl rfl rfl

theorem execContextSwitchDone_keeps {s0 s : State} (cl : Fin 16) (hk : Keeps s0 s) : ResKeeps s0 (execContextSwitchDone cl s) := by
  unfold execContextSwitchDone
  repeat' with_reducible first
    | assumption | apply ResKeeps.next | apply OptKeeps.some | apply OptKeeps.none | apply OptKeeps.ite | apply State.switchDone_keeps
    | apply ResKeeps.ite | apply Keeps.ite | split

theorem State.beginReset_keeps {s0 s : State} (x : Nat) (hk : Keeps s0 s) : Keeps s0 (State.beginReset s x) := by
  unfold State.beginReset
  repeat' with_reducible first
    | assumption | intro _ | apply State.abortFlReqs_keeps | apply State.resetContext_keeps

theorem execCtxCmdReset_keeps {s0 s : State} (x : Fin 1024) (hk : Keeps s0 s) : ResKeeps s0 (execCtxCmdReset x s) := by
  unfold execCtxCmdReset
  repeat' with_reducible first
    | assumption | apply ResKeeps.next | apply State.beginReset_keeps | apply State.setFld_keeps | apply ResKeeps.ite | apply Keeps.ite

theorem State.leaveClusters_keeps {s0 s : State} (x : Nat) (hk : Keeps s0 s) : Keeps s0 (State.leaveClusters s x) := by
  unfold State.leaveClusters
  repeat' with_reducible first
    | assumption | intro _ | apply State.dropWaits_keeps | apply State.each_keeps | apply State.setFld_keeps | apply State.setObj_keeps
    | apply State.zeroCluster_keeps | apply Keeps.ite | split | refine OptKeeps.get ?_ (by assumption) | refine Keeps.fst ?_ (by assumption)
    | refine Keeps.snd ?_ (by assumption) | dsimp only | refine Keeps.lit ?_ rfl rfl rfl rfl rfl rfl rfl rfl

theorem execContextResetDone_keeps {s0 s : State} (hk : Keeps s0 s) : ResKeeps s0 (execContextResetDone s) := by
  unfold execContextResetDone
  repeat' with_reducible first
    | assumption | intro _ | apply ResKeeps.next | apply OptKeeps.some | apply OptKeeps.none | apply OptKeeps.ite
    | apply State.leaveClusters_keeps | apply State.setFld_keeps | apply ResKeeps.ite | apply Keeps.ite | split

theorem State.allotSlabs_keeps {s0 s : State} (x : Nat) (n : Nat) (hk : Keeps s0 s) : Keeps s0 (State.allotSlabs s x n) := by
  unfold State.allotSlabs
  repeat' with_reducible first
    | assumption | intro _ | apply State.dropWaits_keeps | apply State.each_keeps | apply State.setObj_keeps | apply Keeps.ite | split
    | refine OptKeeps.get ?_ (by assumption) | refine Keeps.fst ?_ (by assumption) | refine Keeps.snd ?_ (by assumption) | dsimp only
    | refine Keeps.lit ?_ rfl rfl rfl rfl rfl rfl rfl rfl

theorem State.ctxStart_keeps {s0 s : State} (x : Nat) (hk : Keeps s0 s) : Keeps s0 (State.ctxStart s x) := by
  unfold State.ctxStart
  repeat' with_reducible first
    | assumption | apply State.allotSlabs_keeps | apply State.setFld_keeps | dsimp only
    | refine Keeps.lit ?_ rfl rfl rfl rfl rfl rfl rfl rfl

theorem State.ctxDrain_keeps {s0 s : State} (x : Nat) (hk : Keeps s0 s) : Keeps s0 (State.ctxDrain s x) := by
  unfold State.ctxDrain
  repeat' with_reducible first
    | assumption | apply State.beginReset_keeps | apply State.setFld_keeps

theorem State.ctxRequest_keeps {s0 s : State} (x : Nat) (on : Bool) (hk : Keeps s0 s) : Keeps s0 (State.ctxRequest s x on) := by
  unfold State.ctxRequest
  repeat' with_reducible first
    | assumption | apply State.ctxDrain_keeps | apply State.ctxStart_keeps | apply State.setFld_keeps | apply Keeps.ite

theorem execContextStartDone_keeps {s0 s : State} (x : Fin 1024) (hk : Keeps s0 s) : ResKeeps s0 (execContextStartDone x s) := by
  unfold execContextStartDone
  repeat' with_reducible first
    | assumption | apply ResKeeps.next | apply State.ctxDrain_keeps | apply State.setFld_keeps | apply ResKeeps.ite | apply Keeps.ite

theorem State.noteClusters_keeps {s0 s : State} (x : Nat) (hk : Keeps s0 s) : Keeps s0 (State.noteClusters s x) := by
  unfold State.noteClusters
  repeat' with_reducible first
    | assumption | intro _ | apply State.setFld_keeps

theorem State.clearProt_keeps {s0 s : State} (i : Nat) (hk : Keeps s0 s) : Keeps s0 (State.clearProt s i) := by
  unfold State.clearProt
  repeat' with_reducible first
    | assumption | apply State.setReg_keeps | refine Keeps.lit ?_ rfl rfl rfl rfl rfl rfl rfl rfl

theorem State.retable_keeps {s0 s : State} (old : Nat) (new : Nat) (hk : Keeps s0 s) : Keeps s0 (State.retable s old new) := by
  unfold State.retable
  repeat' with_reducible first
    | assumption | refine Keeps.lit ?_ rfl rfl rfl rfl rfl rfl rfl rfl

theorem State.forgetExperts_keeps {s0 s : State} (r : Nat) (hk : Keeps s0 s) : Keeps s0 (State.forgetExperts s r) := by
  unfold State.forgetExperts
  repeat' with_reducible first
    | assumption | refine Keeps.lit ?_ rfl rfl rfl rfl rfl rfl rfl rfl

theorem State.unmakeRegion_keeps {s0 s : State} (r : Nat) (hk : Keeps s0 s) : Keeps s0 (State.unmakeRegion s r) := by
  unfold State.unmakeRegion
  repeat' with_reducible first
    | assumption | intro _ | apply OptKeeps.some | apply OptKeeps.none | apply OptKeeps.ite | apply State.cacheInv_keeps
    | apply State.clearProt_keeps | apply State.forgetExperts_keeps | apply State.retable_keeps | apply State.trimUnits_keeps
    | apply Keeps.ite | split | refine OptKeeps.get ?_ (by assumption) | refine Keeps.fst ?_ (by assumption)
    | refine Keeps.snd ?_ (by assumption) | dsimp only | refine Keeps.lit ?_ rfl rfl rfl rfl rfl rfl rfl rfl

theorem State.dropRegion_keeps {s0 s : State} (r : Nat) (hk : Keeps s0 s) : Keeps s0 (State.dropRegion s r) := by
  unfold State.dropRegion
  repeat' with_reducible first
    | assumption | intro _ | apply State.each_keeps | apply State.noteFree_keeps | apply State.setReg_keeps | apply State.unmakeRegion_keeps

theorem State.releaseContext_keeps {s0 s : State} (x : Nat) (hk : Keeps s0 s) : Keeps s0 (State.releaseContext s x) := by
  unfold State.releaseContext
  repeat' with_reducible first
    | assumption | intro _ | apply State.allotSlabs_keeps | apply State.dropRegion_keeps | apply State.dropWaits_keeps
    | apply State.each_keeps | apply State.noteClusters_keeps | apply State.queueZero_keeps | apply State.setObj_keeps
    | apply State.setReg_keeps | apply State.updQ_keeps

theorem execContextDrainDone_keeps {s0 s : State} (x : Fin 1024) (hk : Keeps s0 s) : ResKeeps s0 (execContextDrainDone x s) := by
  unfold execContextDrainDone
  repeat' with_reducible first
    | assumption | apply ResKeeps.next | apply State.ctxStart_keeps | apply State.leaveClusters_keeps | apply State.releaseContext_keeps
    | apply State.setFld_keeps | apply ResKeeps.ite | apply Keeps.ite

/-! ## Firmware -/

theorem execRstFwWindowWrite_keeps {s0 s : State} (off : Nat) (data : List Byte) (hk : Keeps s0 s) :
    ResKeeps s0 (execRstFwWindowWrite off data s) := by
  unfold execRstFwWindowWrite
  repeat' with_reducible first
    | assumption | apply ResKeeps.next | apply State.postMalformed_keeps | apply ResKeeps.ite | apply Keeps.ite | split
    | refine Keeps.lit ?_ rfl rfl rfl rfl rfl rfl rfl rfl

theorem execRstFwLoadGo_keeps {s0 s : State} (image : Fin 4) (bytes : BitVec 21) (hk : Keeps s0 s) :
    ResKeeps s0 (execRstFwLoadGo image bytes s) := by
  unfold execRstFwLoadGo
  repeat' with_reducible first
    | assumption | apply ResKeeps.next | apply OptKeeps.some | apply OptKeeps.none | apply OptKeeps.ite | apply State.setFld_keeps
    | apply ResKeeps.ite | apply Keeps.ite | split | dsimp only | refine Keeps.lit ?_ rfl rfl rfl rfl rfl rfl rfl rfl

theorem State.updFw_keeps {s0 s : State} (f : Nat) (g : FwCore → FwCore) (hk : Keeps s0 s) : Keeps s0 (State.updFw s f g) := by
  unfold State.updFw
  repeat' with_reducible first
    | assumption | refine Keeps.lit ?_ rfl rfl rfl rfl rfl rfl rfl rfl

theorem State.setFwState_keeps {s0 s : State} (f : Nat) (st : Nat) (hk : Keeps s0 s) : Keeps s0 (State.setFwState s f st) := by
  unfold State.setFwState
  repeat' with_reducible first
    | assumption | apply State.setFld_keeps

theorem State.releaseFw_keeps {s0 s : State} (hk : Keeps s0 s) : Keeps s0 (State.releaseFw s) := by
  unfold State.releaseFw
  repeat' with_reducible first
    | assumption | intro _ | apply State.each_keeps | apply State.setFld_keeps | apply State.setFwState_keeps | apply State.updFw_keeps
    | apply Keeps.ite

theorem State.endVerify_keeps {s0 s : State} (hk : Keeps s0 s) : Keeps s0 (State.endVerify s) := by
  unfold State.endVerify
  repeat' with_reducible first
    | assumption | refine Keeps.lit ?_ rfl rfl rfl rfl rfl rfl rfl rfl

theorem State.keepImage_keeps {s0 s : State} (kind : Nat) (b : List Byte) (hk : Keeps s0 s) : Keeps s0 (State.keepImage s kind b) := by
  unfold State.keepImage
  repeat' with_reducible first
    | assumption | apply OptKeeps.some | apply OptKeeps.none | apply OptKeeps.ite | refine Keeps.lit ?_ rfl rfl rfl rfl rfl rfl rfl rfl

theorem State.markVerified_keeps {s0 s : State} (kind : Nat) (hk : Keeps s0 s) : Keeps s0 (State.markVerified s kind) := by
  unfold State.markVerified
  repeat' with_reducible first
    | assumption | apply State.setFld_keeps

theorem State.fwVerified_keeps {s0 s : State} (kind : Nat) (b : List Byte) (hk : Keeps s0 s) : Keeps s0 (State.fwVerified s kind b) := by
  unfold State.fwVerified
  repeat' with_reducible first
    | assumption | apply OptKeeps.some | apply OptKeeps.none | apply OptKeeps.ite | apply State.endVerify_keeps
    | apply State.keepImage_keeps | apply State.markVerified_keeps | apply State.postSignature_keeps | apply State.releaseFw_keeps
    | apply State.setFld_keeps | split

theorem execFwVerifyDone_keeps {s0 s : State} (hk : Keeps s0 s) : ResKeeps s0 (execFwVerifyDone s) := by
  unfold execFwVerifyDone
  repeat' with_reducible first
    | assumption | apply ResKeeps.next | apply OptKeeps.some | apply OptKeeps.none | apply OptKeeps.ite | apply State.fwVerified_keeps
    | split

theorem State.fwEvent_keeps {s0 s : State} (f : Nat) (cause : Nat) (outcome : Nat) (cclk : BitVec 32) (hk : Keeps s0 s) :
    Keeps s0 (State.fwEvent s f cause outcome cclk) := by
  unfold State.fwEvent
  repeat' with_reducible first
    | assumption | apply State.postDev_keeps

theorem State.fwRestart_keeps {s0 s : State} (f : Nat) (cause : Nat) (hk : Keeps s0 s) : Keeps s0 (State.fwRestart s f cause) := by
  unfold State.fwRestart
  repeat' with_reducible first
    | assumption | intro _ | apply State.bumpSat_keeps | apply State.draw_keeps | apply State.fwEvent_keeps | apply State.setFld_keeps
    | apply State.setFwState_keeps | apply State.updFw_keeps | apply Keeps.ite

theorem execFwWatchdogExpiry_keeps {s0 s : State} (f : Fin 19) (hk : Keeps s0 s) : ResKeeps s0 (execFwWatchdogExpiry f s) := by
  unfold execFwWatchdogExpiry
  repeat' with_reducible first
    | assumption | apply ResKeeps.next | apply State.fwRestart_keeps

theorem execFwComparisonFail_keeps {s0 s : State} (f : Fin 19) (hk : Keeps s0 s) : ResKeeps s0 (execFwComparisonFail f s) := by
  unfold execFwComparisonFail
  repeat' with_reducible first
    | assumption | apply ResKeeps.next | apply State.fwRestart_keeps

theorem execFwException_keeps {s0 s : State} (f : Fin 19) (hk : Keeps s0 s) : ResKeeps s0 (execFwException f s) := by
  unfold execFwException
  repeat' with_reducible first
    | assumption | apply ResKeeps.next | apply State.fwRestart_keeps

theorem execFwLocalMemoryUe_keeps {s0 s : State} (f : Fin 19) (hk : Keeps s0 s) : ResKeeps s0 (execFwLocalMemoryUe f s) := by
  unfold execFwLocalMemoryUe
  repeat' with_reducible first
    | assumption | apply ResKeeps.next | apply State.fwRestart_keeps

theorem State.fwPhase_keeps {s0 s : State} (f : Nat) (hk : Keeps s0 s) : Keeps s0 (State.fwPhase s f) := by
  unfold State.fwPhase
  repeat' with_reducible first
    | assumption | intro _ | apply State.fwEvent_keeps | apply State.setFld_keeps | apply State.setFwState_keeps | apply State.updFw_keeps
    | apply Keeps.ite

theorem execFwRestartPhaseDone_keeps {s0 s : State} (f : Fin 19) (hk : Keeps s0 s) : ResKeeps s0 (execFwRestartPhaseDone f s) := by
  unfold execFwRestartPhaseDone
  repeat' with_reducible first
    | assumption | apply ResKeeps.next | apply State.fwPhase_keeps | apply ResKeeps.ite | apply Keeps.ite

theorem State.appendTrim_keeps {s0 s : State} (hk : Keeps s0 s) : Keeps s0 (State.appendTrim s) := by
  unfold State.appendTrim
  exact hk.lit rfl rfl rfl rfl rfl rfl rfl rfl

theorem State.fwUp_keeps {s0 s : State} (f : Nat) (cclk : BitVec 32) (hk : Keeps s0 s) : Keeps s0 (State.fwUp s f cclk) := by
  unfold State.fwUp
  repeat' with_reducible first
    | assumption
    | apply State.appendTrim_keeps
    | intro _ | apply State.flKick_keeps | apply State.fwEvent_keeps | apply State.keyKick_keeps | apply State.setFwState_keeps
    | apply State.updFw_keeps | apply Keeps.ite

theorem execFwReady_keeps {s0 s : State} (f : Fin 19) (cclk : BitVec 32) (hk : Keeps s0 s) : ResKeeps s0 (execFwReady f cclk s) := by
  unfold execFwReady
  repeat' with_reducible first
    | assumption | apply ResKeeps.next | apply State.fwUp_keeps | apply ResKeeps.ite | apply Keeps.ite

/-! ## HostLink -/

theorem State.hostRead_keeps {s0 s : State} (addr : Nat) (rd : ReadRes) (hk : Keeps s0 s) : Keeps s0 (State.hostRead s addr rd) := by
  unfold State.hostRead
  repeat' with_reducible first
    | assumption | apply State.askOutside_keeps | apply State.newOutside_keeps | apply Keeps.ite

theorem State.hostWrite_keeps {s0 s : State} (addr : Nat) (be : BitVec 64) (data : List Byte) (hk : Keeps s0 s) :
    Keeps s0 (State.hostWrite s addr be data) := by
  unfold State.hostWrite
  repeat' with_reducible first
    | assumption | apply State.askOutside_keeps | apply State.newOutside_keeps | apply State.toHost_keeps | apply Keeps.ite

theorem execMemRd_keeps {s0 s : State} (addr : Nat) (rd : ReadRes) (hk : Keeps s0 s) : ResKeeps s0 (execMemRd addr rd s) := by
  unfold execMemRd
  repeat' with_reducible first
    | assumption | apply ResKeeps.next | apply State.hostRead_keeps

theorem execMemRdData_keeps {s0 s : State} (addr : Nat) (rd : ReadRes) (hk : Keeps s0 s) : ResKeeps s0 (execMemRdData addr rd s) := by
  unfold execMemRdData
  repeat' with_reducible first
    | assumption | apply ResKeeps.next | apply State.hostRead_keeps

theorem execMemWr_keeps {s0 s : State} (addr : Nat) (data : List Byte) (hk : Keeps s0 s) : ResKeeps s0 (execMemWr addr data s) := by
  unfold execMemWr
  repeat' with_reducible first
    | assumption | apply ResKeeps.next | apply State.hostWrite_keeps

theorem execMemWrPtl_keeps {s0 s : State} (addr : Nat) (be : BitVec 64) (data : List Byte) (hk : Keeps s0 s) :
    ResKeeps s0 (execMemWrPtl addr be data s) := by
  unfold execMemWrPtl
  repeat' with_reducible first
    | assumption | apply ResKeeps.next | apply State.hostWrite_keeps

theorem execMemSpecRd_keeps {s0 s : State} (_addr : Nat) (hk : Keeps s0 s) : ResKeeps s0 (execMemSpecRd _addr s) := by
  unfold execMemSpecRd
  repeat' with_reducible first
    | assumption | apply ResKeeps.next

theorem execH2dSnoop_keeps {s0 s : State} (addr : Nat) (hk : Keeps s0 s) : ResKeeps s0 (execH2dSnoop addr s) := by
  unfold execH2dSnoop
  repeat' with_reducible first
    | assumption | apply ResKeeps.next | apply State.toHost_keeps

theorem State.freeRecords_keeps {s0 s : State} (ring : Nat) (cons : BitVec 32) (hk : Keeps s0 s) : Keeps s0 (State.freeRecords s ring cons) := by
  unfold State.freeRecords
  repeat' with_reducible first
    | assumption | apply State.count_keeps | apply State.setFld_keeps | apply State.toHost_keeps | apply Keeps.ite

theorem execHifRingConsWrite_keeps {s0 s : State} (v : View) (win : Fin 1024) (ring : Fin 2049) (cons : BitVec 32) (hk : Keeps s0 s) :
    ResKeeps s0 (execHifRingConsWrite v win ring cons s) := by
  unfold execHifRingConsWrite
  repeat' with_reducible first
    | assumption | apply ResKeeps.next | apply State.freeRecords_keeps | apply ResKeeps.ite | apply Keeps.ite

/-! ## Txn -/

theorem State.updTxn_keeps {s0 s : State} (i : Nat) (f : Txn → Txn) (hk : Keeps s0 s) : Keeps s0 (State.updTxn s i f) := by
  unfold State.updTxn
  repeat' with_reducible first
    | assumption | refine Keeps.lit ?_ rfl rfl rfl rfl rfl rfl rfl rfl

theorem State.setTxnState_keeps {s0 s : State} (i : Nat) (st : Nat) (hk : Keeps s0 s) : Keeps s0 (State.setTxnState s i st) := by
  unfold State.setTxnState
  repeat' with_reducible first
    | assumption | apply State.setFld_keeps

theorem State.setTxnCode_keeps {s0 s : State} (i : Nat) (c : Code) (hk : Keeps s0 s) : Keeps s0 (State.setTxnCode s i c) := by
  unfold State.setTxnCode
  repeat' with_reducible first
    | assumption | apply State.setFld_keeps

theorem State.rollback_keeps {s0 s : State} (i : Nat) (c : Code) (hk : Keeps s0 s) : Keeps s0 (State.rollback s i c) := by
  unfold State.rollback
  repeat' with_reducible first
    | assumption | intro _ | apply State.postDev_keeps | apply State.setTxnCode_keeps | apply State.setTxnState_keeps
    | apply State.updTxn_keeps | apply Keeps.ite

theorem State.keepCtl_keeps {s0 s : State} (i : Nat) (owner : Nat) (domains : Nat) (hk : Keeps s0 s) :
    Keeps s0 (State.keepCtl s i owner domains) := by
  unfold State.keepCtl
  repeat' with_reducible first
    | assumption | apply State.setFld_keeps

theorem State.txnOpen_keeps {s0 s : State} (i : Nat) (owner : Nat) (domains : Nat) (hk : Keeps s0 s) :
    Keeps s0 (State.txnOpen s i owner domains) := by
  unfold State.txnOpen
  repeat' with_reducible first
    | assumption | intro _ | apply State.bump_keeps | apply State.keepCtl_keeps | apply State.setFld_keeps | apply State.setTxnCode_keeps
    | apply State.setTxnState_keeps | apply State.updTxn_keeps | apply Keeps.ite

theorem execTxnOpen_keeps {s0 s : State} (slot : Fin 8) (owner : Fin 16) (domains : BitVec 7) (hk : Keeps s0 s) :
    ResKeeps s0 (execTxnOpen slot owner domains s) := by
  unfold execTxnOpen
  repeat' with_reducible first
    | assumption | apply ResKeeps.next | apply State.txnOpen_keeps | apply ResKeeps.ite | apply Keeps.ite

theorem execTxnCommit_keeps {s0 s : State} (slot : Fin 8) (owner : Fin 16) (domains : BitVec 7) (hk : Keeps s0 s) :
    ResKeeps s0 (execTxnCommit slot owner domains s) := by
  unfold execTxnCommit
  repeat' with_reducible first
    | assumption | apply ResKeeps.next | apply State.keepCtl_keeps | apply State.setTxnState_keeps | apply ResKeeps.ite | apply Keeps.ite

theorem execTxnAbort_keeps {s0 s : State} (slot : Fin 8) (owner : Fin 16) (domains : BitVec 7) (hk : Keeps s0 s) :
    ResKeeps s0 (execTxnAbort slot owner domains s) := by
  unfold execTxnAbort
  repeat' with_reducible first
    | assumption | apply ResKeeps.next | apply State.keepCtl_keeps | apply State.rollback_keeps | apply ResKeeps.ite | apply Keeps.ite

theorem execTxnTimeout_keeps {s0 s : State} (slot : Fin 8) (hk : Keeps s0 s) : ResKeeps s0 (execTxnTimeout slot s) := by
  unfold execTxnTimeout
  repeat' with_reducible first
    | assumption | apply ResKeeps.next | apply State.rollback_keeps | apply ResKeeps.ite | apply Keeps.ite

theorem State.shadowWrite_keeps {s0 s : State} (off : Nat) (len : Nat) (value : Nat) (hk : Keeps s0 s) :
    Keeps s0 (State.shadowWrite s off len value) := by
  unfold State.shadowWrite
  repeat' with_reducible first
    | assumption | intro _ | apply OptKeeps.some | apply OptKeeps.none | apply OptKeeps.ite | apply State.bump_keeps
    | apply State.postMalformed_keeps | apply State.rollback_keeps | apply State.updTxn_keeps | apply Keeps.ite | split

theorem execShadowWrite_keeps {s0 s : State} (off : Nat) (len : Nat) (value : Nat) (hk : Keeps s0 s) :
    ResKeeps s0 (execShadowWrite off len value s) := by
  unfold execShadowWrite
  repeat' with_reducible first
    | assumption | apply ResKeeps.next | apply State.shadowWrite_keeps

theorem State.loseLease_keeps {s0 s : State} (k : Nat) (hk : Keeps s0 s) : Keeps s0 (State.loseLease s k) := by
  unfold State.loseLease
  repeat' with_reducible first
    | assumption | intro _ | apply State.each_keeps | apply State.rollback_keeps | apply State.setFld_keeps | apply Keeps.ite

theorem execHifLeaseClaim_keeps {s0 s : State} (slot : Fin 16) (id : BitVec 16) (period : BitVec 16) (hk : Keeps s0 s) :
    ResKeeps s0 (execHifLeaseClaim slot id period s) := by
  unfold execHifLeaseClaim
  repeat' with_reducible first
    | assumption | apply ResKeeps.next | apply State.setFld_keeps | apply ResKeeps.ite | apply Keeps.ite

theorem execHifLeaseRelease_keeps {s0 s : State} (slot : Fin 16) (id : BitVec 16) (hk : Keeps s0 s) :
    ResKeeps s0 (execHifLeaseRelease slot id s) := by
  unfold execHifLeaseRelease
  repeat' with_reducible first
    | assumption | apply ResKeeps.next | apply State.loseLease_keeps | apply ResKeeps.ite | apply Keeps.ite

theorem execLeaseExpiry_keeps {s0 s : State} (slot : Fin 16) (hk : Keeps s0 s) : ResKeeps s0 (execLeaseExpiry slot s) := by
  unfold execLeaseExpiry
  repeat' with_reducible first
    | assumption | apply ResKeeps.next | apply State.loseLease_keeps | apply ResKeeps.ite | apply Keeps.ite

theorem State.endLeases_keeps {s0 s : State} (hk : Keeps s0 s) : Keeps s0 (State.endLeases s) := by
  unfold State.endLeases
  repeat' with_reducible first
    | assumption | intro _ | apply State.each_keeps | apply State.loseLease_keeps | apply Keeps.ite

theorem execHostHotReset_keeps {s0 s : State} (hk : Keeps s0 s) : ResKeeps s0 (execHostHotReset s) := by
  unfold execHostHotReset
  repeat' with_reducible first
    | assumption | apply ResKeeps.next | apply State.endLeases_keeps

theorem State.ucieSet_keeps {s0 s : State} (m : Nat) (w : Nat) (tx : Nat) (rx : Nat) (hk : Keeps s0 s) :
    Keeps s0 (State.ucieSet s m w tx rx) := by
  unfold State.ucieSet
  repeat' with_reducible first
    | assumption | intro _ | apply State.bumpSat_keeps | apply State.endLeases_keeps | apply State.hostFlush_keeps
    | apply State.setFld_keeps | apply State.spareSwitched_keeps | apply Keeps.ite | split | dsimp only
    | refine Keeps.lit ?_ rfl rfl rfl rfl rfl rfl rfl rfl

theorem execUcieModuleTrain_keeps {s0 s : State} (m : Fin 4) (t : LaneTest) (hk : Keeps s0 s) : ResKeeps s0 (execUcieModuleTrain m t s) := by
  unfold execUcieModuleTrain
  repeat' with_reducible first
    | assumption | apply ResKeeps.next | apply State.ucieSet_keeps | apply ResKeeps.ite | apply Keeps.ite

theorem execUcieRetrain_keeps {s0 s : State} (m : Fin 4) (hk : Keeps s0 s) : ResKeeps s0 (execUcieRetrain m s) := by
  unfold execUcieRetrain
  repeat' with_reducible first
    | assumption | apply ResKeeps.next | apply State.bumpSat_keeps | apply ResKeeps.ite | apply Keeps.ite | split | dsimp only
    | refine Keeps.lit ?_ rfl rfl rfl rfl rfl rfl rfl rfl

theorem execUcieRetrainTimeout_keeps {s0 s : State} (m : Fin 4) (hk : Keeps s0 s) : ResKeeps s0 (execUcieRetrainTimeout m s) := by
  unfold execUcieRetrainTimeout
  repeat' with_reducible first
    | assumption | apply ResKeeps.next | apply State.ucieSet_keeps | apply ResKeeps.ite | apply Keeps.ite

/-! ## TxnCheck -/

theorem State.applyShadow_keeps {s0 t : State} (e : Shadow) (hk : Keeps s0 t) : Keeps s0 (State.applyShadow t e) := by
  unfold State.applyShadow
  repeat' with_reducible first
    | assumption | apply OptKeeps.some | apply OptKeeps.none | apply OptKeeps.ite | apply State.setReg_keeps | apply Keeps.ite | split

theorem State.copyDomain_keeps {s0 s : State} (t : Txn) (d : Nat) (hk : Keeps s0 s) : Keeps s0 (State.copyDomain s t d) := by
  unfold State.copyDomain
  repeat' with_reducible first
    | assumption | intro _ | apply State.applyShadow_keeps | apply State.each_keeps

theorem State.copyQueues_keeps {s0 s : State} (m : Tab (Option QPlan)) (hk : Keeps s0 s) : Keeps s0 (State.copyQueues s m) := by
  unfold State.copyQueues
  repeat' with_reducible first
    | assumption | intro _ | apply OptKeeps.some | apply OptKeeps.none | apply OptKeeps.ite | apply State.each_keeps
    | apply State.updQ_keeps | split

theorem State.atHand_keeps {s0 s : State} (i : Nat) (hk : Keeps s0 s) : Keeps s0 (State.atHand s i) := by
  unfold State.atHand
  repeat' with_reducible first
    | assumption | intro _ | apply OptKeeps.some | apply OptKeeps.none | apply OptKeeps.ite | apply State.copyDomain_keeps
    | apply State.updTxn_keeps | split | refine OptKeeps.get ?_ (by assumption) | refine Keeps.fst ?_ (by assumption)
    | refine Keeps.snd ?_ (by assumption) | dsimp only | refine Keeps.lit ?_ rfl rfl rfl rfl rfl rfl rfl rfl

theorem execTxnCheckDone_keeps {s0 s : State} (slot : Fin 8) (journal : List Nat) (hk : Keeps s0 s) : ResKeeps s0 (execTxnCheckDone slot journal s) := by
  unfold execTxnCheckDone
  repeat' with_reducible first
    | assumption | intro _ | apply ResKeeps.next | apply State.atHand_keeps | apply State.rollback_keeps | apply State.setTxnState_keeps
    | apply State.updTxn_keeps | apply ResKeeps.ite | apply Keeps.ite

/-! ## TxnAdopt -/

theorem State.buildUnitLasts_keeps {s0 s : State} (hk : Keeps s0 s) : Keeps s0 (State.buildUnitLasts s) := by
  unfold State.buildUnitLasts
  repeat' with_reducible first
    | assumption | intro _ | apply State.each_keeps | apply State.setReg_keeps

theorem State.adoptLinks_keeps {s0 s : State} (t : Txn) (hk : Keeps s0 s) : Keeps s0 (State.adoptLinks s t) := by
  unfold State.adoptLinks
  repeat' with_reducible first
    | assumption | intro _ | apply State.buildUnitLasts_keeps | apply State.copyDomain_keeps | apply State.each_keeps
    | apply State.releaseFrames_keeps | apply State.trainPort_keeps

theorem State.adoptSpares_keeps {s0 s : State} (t : Txn) (hk : Keeps s0 s) : Keeps s0 (State.adoptSpares s t) := by
  unfold State.adoptSpares
  repeat' with_reducible first
    | assumption | apply State.copyDomain_keeps

theorem State.movePages_keeps {s0 s : State} (old : State) (xs : List Nat) (hk : Keeps s0 s) : Keeps s0 (State.movePages s old xs) := by
  unfold State.movePages
  repeat' with_reducible first
    | assumption | intro _ | apply State.each_keeps | apply State.queueZero_keeps | apply State.setFld_keeps

theorem State.remakeRegion_keeps {s0 s : State} (old : State) (r : Nat) (hk : Keeps s0 s) : Keeps s0 (State.remakeRegion s old r) := by
  unfold State.remakeRegion
  repeat' with_reducible first
    | assumption | intro _ | apply State.cacheInv_keeps | apply State.each_keeps | apply State.forgetExperts_keeps
    | apply State.noteProtected_keeps | apply State.retable_keeps | apply State.setReg_keeps | apply State.trimUnits_keeps
    | apply State.unmakeRegion_keeps | apply Keeps.ite | split | refine OptKeeps.get ?_ (by assumption)
    | refine Keeps.fst ?_ (by assumption) | refine Keeps.snd ?_ (by assumption) | dsimp only
    | refine Keeps.lit ?_ rfl rfl rfl rfl rfl rfl rfl rfl

theorem State.rebindRing_keeps {s0 s : State} (old : State) (i : Nat) (hk : Keeps s0 s) : Keeps s0 (State.rebindRing s old i) := by
  unfold State.rebindRing
  repeat' with_reducible first
    | assumption | apply State.setReg_keeps | apply Keeps.ite

theorem State.remakeContext_keeps {s0 s : State} (old : State) (x : Nat) (hk : Keeps s0 s) : Keeps s0 (State.remakeContext s old x) := by
  unfold State.remakeContext
  repeat' with_reducible first
    | assumption | apply State.allotSlabs_keeps | apply State.ctxRequest_keeps | apply Keeps.ite

theorem State.adoptContexts_keeps {s0 s : State} (t : Txn) (hk : Keeps s0 s) : Keeps s0 (State.adoptContexts s t) := by
  unfold State.adoptContexts
  repeat' with_reducible first
    | assumption | intro _ | apply OptKeeps.some | apply OptKeeps.none | apply OptKeeps.ite | apply State.copyDomain_keeps
    | apply State.copyQueues_keeps | apply State.each_keeps | apply State.movePages_keeps | apply State.noteClusters_keeps
    | apply State.noteFree_keeps | apply State.rebindRing_keeps | apply State.remakeContext_keeps | apply State.remakeRegion_keeps
    | apply State.resetQueue_keeps | apply State.setFld_keeps | apply Keeps.ite | split | refine OptKeeps.get ?_ (by assumption)
    | refine Keeps.fst ?_ (by assumption) | refine Keeps.snd ?_ (by assumption) | dsimp only
    | refine Keeps.lit ?_ rfl rfl rfl rfl rfl rfl rfl rfl

theorem State.adoptProtection_keeps {s0 s : State} (t : Txn) (hk : Keeps s0 s) : Keeps s0 (State.adoptProtection s t) := by
  unfold State.adoptProtection
  repeat' with_reducible first
    | assumption | intro _ | apply State.clearProt_keeps | apply State.copyDomain_keeps | apply State.each_keeps | apply State.fresh_keeps
    | apply State.noteProtected_keeps | apply State.setFld_keeps

theorem State.stageEdit_keeps {s0 s : State} (n : Nat) (e : Edit) (hk : Keeps s0 s) : Keeps s0 (State.stageEdit s n e) := by
  unfold State.stageEdit
  repeat' with_reducible first
    | assumption | intro _ | apply State.adoptEdit_keeps | apply State.epochSince_keeps | apply State.granted_keeps
    | apply State.updSequence_keeps | apply Keeps.ite

theorem State.adoptPages_keeps {s0 s : State} (t : Txn) (hk : Keeps s0 s) : Keeps s0 (State.adoptPages s t) := by
  unfold State.adoptPages
  repeat' with_reducible first
    | assumption | intro _ | apply State.each_keeps | apply State.stageEdit_keeps

theorem State.adoptSplit_keeps {s0 s : State} (t : Txn) (hk : Keeps s0 s) : Keeps s0 (State.adoptSplit s t) := by
  unfold State.adoptSplit
  repeat' with_reducible first
    | assumption | intro _ | apply State.bump_keeps | apply State.copyDomain_keeps | apply State.each_keeps | dsimp only
    | refine Keeps.lit ?_ rfl rfl rfl rfl rfl rfl rfl rfl

theorem State.adoptDomain_keeps {s0 s : State} (t : Txn) (d : Nat) (hk : Keeps s0 s) : Keeps s0 (State.adoptDomain s t d) := by
  unfold State.adoptDomain
  repeat' with_reducible first
    | assumption | apply OptKeeps.some | apply OptKeeps.none | apply OptKeeps.ite | apply State.adoptContexts_keeps
    | apply State.adoptLinks_keeps | apply State.adoptPages_keeps | apply State.adoptProtection_keeps | apply State.adoptSpares_keeps
    | apply State.adoptSplit_keeps | apply State.copyDomain_keeps | split

theorem State.endDomain_keeps {s0 s : State} (i : Nat) (d : Nat) (rest : List Nat) (hk : Keeps s0 s) : Keeps s0 (State.endDomain s i d rest) := by
  unfold State.endDomain
  repeat' with_reducible first
    | assumption | intro _ | apply State.atHand_keeps | apply State.setFld_keeps | apply State.setTxnCode_keeps
    | apply State.setTxnState_keeps | apply State.updTxn_keeps | apply Keeps.ite

theorem State.beginDomain_keeps {s0 s : State} (i : Nat) (d : Nat) (hk : Keeps s0 s) : Keeps s0 (State.beginDomain s i d) := by
  unfold State.beginDomain
  repeat' with_reducible first
    | assumption | intro _ | apply State.adoptDomain_keeps | apply State.updTxn_keeps | apply Keeps.ite

theorem execTxnDomainAdopt_keeps {s0 s : State} (slot : Fin 8) (hk : Keeps s0 s) : ResKeeps s0 (execTxnDomainAdopt slot s) := by
  unfold execTxnDomainAdopt
  repeat' with_reducible first
    | assumption | apply ResKeeps.next | apply OptKeeps.some | apply OptKeeps.none | apply OptKeeps.ite | apply State.beginDomain_keeps
    | apply State.endDomain_keeps | apply ResKeeps.ite | apply Keeps.ite | split

end Sys2Proof.Machine
end

