-- ==== Sys2Proof/Laws/KeepsDie.lean ====
section
/-! SUPPORT. Start, power, reliability, security and test keep what `Keeps` says. -/

namespace Sys2Proof.Machine

/-! ## Start -/

theorem State.afterReset_keeps {s0 s : State} (h : Keeps s0 s) : Keeps s0 s.afterReset := by
  unfold State.afterReset
  with_reducible exact Keeps.lit h rfl rfl rfl rfl rfl rfl rfl rfl

theorem execResetNAssert_keeps {s0 s : State} (hk : Keeps s0 s) : ResKeeps s0 (execResetNAssert s) := by
  unfold execResetNAssert
  repeat' with_reducible first
    | assumption | apply ResKeeps.next | apply State.afterReset_keeps

theorem State.setStage_keeps {s0 s : State} (n : Nat) (hk : Keeps s0 s) : Keeps s0 (State.setStage s n) := by
  unfold State.setStage
  repeat' with_reducible first
    | assumption | apply State.setFld_keeps

theorem State.toStep_keeps {s0 s : State} (k : Nat) (stage : Nat) (hk : Keeps s0 s) : Keeps s0 (State.toStep s k stage) := by
  unfold State.toStep
  repeat' with_reducible first
    | assumption | apply State.setStage_keeps | refine Keeps.lit ?_ rfl rfl rfl rfl rfl rfl rfl rfl

theorem execResetNDeassert_keeps {s0 s : State} (hk : Keeps s0 s) : ResKeeps s0 (execResetNDeassert s) := by
  unfold execResetNDeassert
  repeat' with_reducible first
    | assumption | apply ResKeeps.next | apply State.toStep_keeps | apply ResKeeps.ite | apply Keeps.ite

theorem State.startFails_keeps {s0 s : State} (code : Nat) (hk : Keeps s0 s) : Keeps s0 (State.startFails s code) := by
  unfold State.startFails
  repeat' with_reducible first
    | assumption | apply State.setFld_keeps | apply State.setStage_keeps

theorem execStartStepTimeout_keeps {s0 s : State} (code : BitVec 16) (hk : Keeps s0 s) : ResKeeps s0 (execStartStepTimeout code s) := by
  unfold execStartStepTimeout
  repeat' with_reducible first
    | assumption | apply ResKeeps.next | apply State.startFails_keeps | apply ResKeeps.ite | apply Keeps.ite

theorem State.readNor_keeps {s0 s : State} (a : List Byte) (b : List Byte) (hk : Keeps s0 s) : Keeps s0 (State.readNor s a b) := by
  unfold State.readNor
  repeat' with_reducible first
    | assumption | intro _ | apply Keeps.ite | split | refine OptKeeps.get ?_ (by assumption) | refine Keeps.fst ?_ (by assumption)
    | refine Keeps.snd ?_ (by assumption) | dsimp only | refine Keeps.lit ?_ rfl rfl rfl rfl rfl rfl rfl rfl

theorem State.takeImage_keeps {s0 s : State} (slot : Nat) (b : List Byte) (hk : Keeps s0 s) : Keeps s0 (State.takeImage s slot b) := by
  unfold State.takeImage
  repeat' with_reducible first
    | assumption | intro _ | apply State.each_keeps | apply State.setFld_keeps | apply State.setReg_keeps | apply State.toStep_keeps
    | dsimp only | refine Keeps.lit ?_ rfl rfl rfl rfl rfl rfl rfl rfl

theorem State.selectImage_keeps {s0 : State} (l : List (Nat × List Byte)) : ∀ {s : State}, Keeps s0 s → Keeps s0 (s.selectImage l) := by
  induction l with
  | nil => intro s h; unfold State.selectImage; exact State.startFails_keeps _ h
  | cons x l ih =>
    intro s h
    unfold State.selectImage
    split
    · exact State.takeImage_keeps _ _ h
    · exact ih (State.postSignature_keeps _ _ h)

theorem State.boardUp_keeps {s0 s : State} (trained : BitVec 16) (hk : Keeps s0 s) : Keeps s0 (State.boardUp s trained) := by
  unfold State.boardUp
  repeat' with_reducible first
    | assumption | intro _ | apply State.each_keeps | apply State.noteFree_keeps | apply State.setFld_keeps | apply State.setReg_keeps
    | refine OptKeeps.get ?_ (by assumption) | refine Keeps.fst ?_ (by assumption) | refine Keeps.snd ?_ (by assumption) | dsimp only
    | refine Keeps.lit ?_ rfl rfl rfl rfl rfl rfl rfl rfl

theorem State.applySpares_keeps {s0 s : State} (b : List Byte) (hk : Keeps s0 s) : Keeps s0 (State.applySpares s b) := by
  unfold State.applySpares
  repeat' with_reducible first
    | assumption | intro _ | apply State.each_keeps | apply State.setFld_keeps | apply State.setReg_keeps

theorem State.applyRecord_keeps {s0 s : State} (r : Nat × Nat) (hk : Keeps s0 s) : Keeps s0 (State.applyRecord s r) := by
  unfold State.applyRecord
  repeat' with_reducible first
    | assumption | apply OptKeeps.some | apply OptKeeps.none | apply OptKeeps.ite | apply State.setFld_keeps | apply State.setReg_keeps
    | split

theorem State.buildLasts_keeps {s0 s : State} (hk : Keeps s0 s) : Keeps s0 (State.buildLasts s) := by
  unfold State.buildLasts
  repeat' with_reducible first
    | assumption | intro _ | apply State.each_keeps | apply State.setReg_keeps

theorem State.configure_keeps {s0 s : State} (hk : Keeps s0 s) : Keeps s0 (State.configure s) := by
  unfold State.configure
  repeat' with_reducible first
    | assumption | intro _ | apply State.applyRecord_keeps | apply State.applySpares_keeps | apply State.buildLasts_keeps
    | apply State.each_keeps | apply State.setReg_keeps

theorem State.hbmUp_keeps {s0 s : State} (hk : Keeps s0 s) : Keeps s0 (State.hbmUp s) := by
  unfold State.hbmUp
  repeat' with_reducible first
    | assumption | apply State.setFld_keeps | dsimp only | refine Keeps.lit ?_ rfl rfl rfl rfl rfl rfl rfl rfl

theorem State.fabricUp_keeps {s0 s : State} (hk : Keeps s0 s) : Keeps s0 (State.fabricUp s) := by
  unfold State.fabricUp
  repeat' with_reducible first
    | assumption | intro _ | apply State.each_keeps | apply State.setFld_keeps | apply State.trainPort_keeps | dsimp only
    | refine Keeps.lit ?_ rfl rfl rfl rfl rfl rfl rfl rfl

theorem State.identify_keeps {s0 s : State} (hk : Keeps s0 s) : Keeps s0 (State.identify s) := by
  unfold State.identify
  repeat' with_reducible first
    | assumption | intro _ | apply State.each_keeps | apply State.setFld_keeps | apply State.setReg_keeps

theorem State.plainStep_keeps {s0 s : State} (hk : Keeps s0 s) : Keeps s0 (State.plainStep s) := by
  unfold State.plainStep
  repeat' with_reducible first
    | assumption | intro _ | apply State.configure_keeps | apply State.fabricUp_keeps | apply State.hbmUp_keeps | apply State.identify_keeps
    | apply State.selectImage_keeps | apply State.setFld_keeps | apply State.toStep_keeps | apply Keeps.ite

theorem State.bootStep_keeps {s0 s : State} (d : StartData) (hk : Keeps s0 s) : Keeps s0 (State.bootStep s d) := by
  unfold State.bootStep
  repeat' with_reducible first
    | assumption | apply OptKeeps.some | apply OptKeeps.none | apply OptKeeps.ite | apply State.boardUp_keeps | apply State.plainStep_keeps
    | apply State.readNor_keeps | apply State.toStep_keeps | apply Keeps.ite | split

theorem execStartStepDone_keeps {s0 s : State} (d : StartData) (hk : Keeps s0 s) : ResKeeps s0 (execStartStepDone d s) := by
  unfold execStartStepDone
  repeat' with_reducible first
    | assumption | apply ResKeeps.next | apply State.bootStep_keeps | apply ResKeeps.ite | apply Keeps.ite

theorem State.recover_keeps {s0 s : State} (hk : Keeps s0 s) : Keeps s0 (State.recover s) := by
  unfold State.recover
  repeat' with_reducible first
    | assumption | apply OptKeeps.some | apply OptKeeps.none | apply OptKeeps.ite | apply State.postSignature_keeps | apply Keeps.ite
    | split | dsimp only | refine Keeps.lit ?_ rfl rfl rfl rfl rfl rfl rfl rfl

theorem execCfgCtlRecover_keeps {s0 s : State} (hk : Keeps s0 s) : ResKeeps s0 (execCfgCtlRecover s) := by
  unfold execCfgCtlRecover
  repeat' with_reducible first
    | assumption | apply ResKeeps.next | apply State.recover_keeps

theorem State.hottest_keeps {s0 s : State} (hk : Keeps s0 s) : Keeps s0 (State.hottest s).2 := by
  unfold State.hottest
  repeat' with_reducible first
    | assumption | apply State.draw_keeps | apply Keeps.ite2

theorem execI3cEntdaa_keeps {s0 s : State} (addr : BitVec 7) (hk : Keeps s0 s) : ResKeeps s0 (execI3cEntdaa addr s) := by
  unfold execI3cEntdaa
  repeat' with_reducible first
    | assumption | apply ResKeeps.next | apply ResKeeps.ite | apply Keeps.ite | split | refine Keeps.lit ?_ rfl rfl rfl rfl rfl rfl rfl rfl

theorem execI3cReadStatus_keeps {s0 s : State} (hk : Keeps s0 s) : ResKeeps s0 (execI3cReadStatus s) := by
  unfold execI3cReadStatus
  repeat' with_reducible first
    | assumption | apply ResKeeps.next | apply State.emit_keeps | apply ResKeeps.ite | apply Keeps.ite

theorem execI3cReadTemp_keeps {s0 s : State} (hk : Keeps s0 s) : ResKeeps s0 (execI3cReadTemp s) := by
  unfold execI3cReadTemp
  repeat' with_reducible first
    | assumption | apply ResKeeps.next | apply State.emit_keeps | apply State.hottest_keeps | apply ResKeeps.ite | apply Keeps.ite

theorem execI3cWriteBudget_keeps {s0 s : State} (w : BitVec 16) (hk : Keeps s0 s) : ResKeeps s0 (execI3cWriteBudget w s) := by
  unfold execI3cWriteBudget
  repeat' with_reducible first
    | assumption | apply ResKeeps.next | apply State.setFld_keeps | apply ResKeeps.ite | apply Keeps.ite

theorem execI3cReadCap_keeps {s0 s : State} (hk : Keeps s0 s) : ResKeeps s0 (execI3cReadCap s) := by
  unfold execI3cReadCap
  repeat' with_reducible first
    | assumption | apply ResKeeps.next | apply State.emit_keeps | apply ResKeeps.ite | apply Keeps.ite

/-! ## Power -/

theorem State.learn_keeps {s0 s : State} (cl : Nat) (measured : Nat) (hk : Keeps s0 s) : Keeps s0 (State.learn s cl measured) := by
  unfold State.learn
  repeat' with_reducible first
    | assumption | apply OptKeeps.some | apply OptKeeps.none | apply OptKeeps.ite | apply Keeps.ite | split
    | refine OptKeeps.get ?_ (by assumption) | refine Keeps.fst ?_ (by assumption) | refine Keeps.snd ?_ (by assumption) | dsimp only
    | refine Keeps.lit ?_ rfl rfl rfl rfl rfl rfl rfl rfl

theorem State.shareCap_keeps {s0 s : State} (m : PowerMeas) (cap : Nat) (hk : Keeps s0 s) : Keeps s0 (State.shareCap s m cap) := by
  unfold State.shareCap
  repeat' with_reducible first
    | assumption | intro _ | apply Keeps.ite | split | dsimp only | refine Keeps.lit ?_ rfl rfl rfl rfl rfl rfl rfl rfl

theorem State.meterEnergy_keeps {s0 s : State} (hk : Keeps s0 s) : Keeps s0 (State.meterEnergy s) := by
  unfold State.meterEnergy
  repeat' with_reducible first
    | assumption | intro _ | apply State.draw_keeps | apply State.each_keeps | apply State.setReg_keeps

theorem execPowerControlPeriod_keeps {s0 s : State} (m : PowerMeas) (hk : Keeps s0 s) : ResKeeps s0 (execPowerControlPeriod m s) := by
  unfold execPowerControlPeriod
  repeat' with_reducible first
    | assumption | intro _ | apply ResKeeps.next | apply OptKeeps.getD | apply State.each_keeps | apply State.learn_keeps
    | apply State.meterEnergy_keeps | apply State.setFld_keeps | apply State.shareCap_keeps | apply ResKeeps.ite | apply Keeps.ite | split
    | dsimp only | refine Keeps.lit ?_ rfl rfl rfl rfl rfl rfl rfl rfl

theorem execLimiterCompare_keeps {s0 s : State} (power : BitVec 12) (fault : AgentFault) (hk : Keeps s0 s) :
    ResKeeps s0 (execLimiterCompare power fault s) := by
  unfold execLimiterCompare
  repeat' with_reducible first
    | assumption | apply ResKeeps.next | apply State.controlDetect_keeps | apply State.setFld_keeps | apply ResKeeps.ite | apply Keeps.ite
    | split | dsimp only | refine Keeps.lit ?_ rfl rfl rfl rfl rfl rfl rfl rfl

theorem State.setLevel_keeps {s0 s : State} (cl : Nat) (v : Nat) (hk : Keeps s0 s) : Keeps s0 (State.setLevel s cl v) := by
  unfold State.setLevel
  repeat' with_reducible first
    | assumption | apply Keeps.ite | split | refine Keeps.lit ?_ rfl rfl rfl rfl rfl rfl rfl rfl

theorem execThrottleRampFrame_keeps {s0 s : State} (cl : Fin 16) (hk : Keeps s0 s) : ResKeeps s0 (execThrottleRampFrame cl s) := by
  unfold execThrottleRampFrame
  repeat' with_reducible first
    | assumption | apply ResKeeps.next | apply State.setLevel_keeps | apply ResKeeps.ite | apply Keeps.ite

theorem execDroopTrip_keeps {s0 s : State} (cl : Fin 16) (hk : Keeps s0 s) : ResKeeps s0 (execDroopTrip cl s) := by
  unfold execDroopTrip
  repeat' with_reducible first
    | assumption | apply ResKeeps.next | apply State.bumpSat_keeps | apply State.setLevel_keeps | apply ResKeeps.ite | apply Keeps.ite
    | split | dsimp only | refine Keeps.lit ?_ rfl rfl rfl rfl rfl rfl rfl rfl

theorem execDroopHoldExpiry_keeps {s0 s : State} (cl : Fin 16) (hk : Keeps s0 s) : ResKeeps s0 (execDroopHoldExpiry cl s) := by
  unfold execDroopHoldExpiry
  repeat' with_reducible first
    | assumption | apply ResKeeps.next | apply ResKeeps.ite | apply Keeps.ite | split | refine Keeps.lit ?_ rfl rfl rfl rfl rfl rfl rfl rfl

theorem State.age_keeps {s0 s : State} (need : List Nat) (hk : Keeps s0 s) : Keeps s0 (State.age s need) := by
  unfold State.age
  repeat' with_reducible first
    | assumption | intro _ | apply OptKeeps.getD | apply State.setFld_keeps | apply Keeps.ite | split | dsimp only
    | refine Keeps.lit ?_ rfl rfl rfl rfl rfl rfl rfl rfl

theorem execAgeingMeasure_keeps {s0 s : State} (need : List Nat) (hk : Keeps s0 s) : ResKeeps s0 (execAgeingMeasure need s) := by
  unfold execAgeingMeasure
  repeat' with_reducible first
    | assumption
    | apply State.appendTrim_keeps
    | apply ResKeeps.next | apply State.age_keeps | apply ResKeeps.ite | apply Keeps.ite | split | dsimp only
    | refine Keeps.lit ?_ rfl rfl rfl rfl rfl rfl rfl rfl

theorem State.beginStop_keeps {s0 s : State} (cause : Nat) (hk : Keeps s0 s) : Keeps s0 (State.beginStop s cause) := by
  unfold State.beginStop
  repeat' with_reducible first
    | assumption | apply State.setFld_keeps | apply Keeps.ite | split | dsimp only | refine Keeps.lit ?_ rfl rfl rfl rfl rfl rfl rfl rfl

theorem execCoolantOkDeassert_keeps {s0 s : State} (hk : Keeps s0 s) : ResKeeps s0 (execCoolantOkDeassert s) := by
  unfold execCoolantOkDeassert
  repeat' with_reducible first
    | assumption | apply ResKeeps.next | apply State.beginStop_keeps | apply ResKeeps.ite | apply Keeps.ite | split | dsimp only
    | refine Keeps.lit ?_ rfl rfl rfl rfl rfl rfl rfl rfl

theorem execCoolantOkAssert_keeps {s0 s : State} (hk : Keeps s0 s) : ResKeeps s0 (execCoolantOkAssert s) := by
  unfold execCoolantOkAssert
  repeat' with_reducible first
    | assumption | apply ResKeeps.next | refine Keeps.lit ?_ rfl rfl rfl rfl rfl rfl rfl rfl

theorem execThermalConversion_keeps {s0 s : State} (temps : List (BitVec 16)) (hk : Keeps s0 s) :
    ResKeeps s0 (execThermalConversion temps s) := by
  unfold execThermalConversion
  repeat' with_reducible first
    | assumption | intro _ | apply ResKeeps.next | apply OptKeeps.getD | apply State.beginStop_keeps | apply State.fresh_keeps
    | apply ResKeeps.ite | apply Keeps.ite | split | dsimp only | refine Keeps.lit ?_ rfl rfl rfl rfl rfl rfl rfl rfl

theorem State.portStops_keeps {s0 s : State} (p : Nat) (hk : Keeps s0 s) : Keeps s0 (State.portStops s p) := by
  unfold State.portStops
  repeat' with_reducible first
    | assumption | apply State.draw_keeps | apply State.portDown_keeps | apply Keeps.ite

theorem State.postStop_keeps {s0 s : State} (hk : Keeps s0 s) : Keeps s0 (State.postStop s) := by
  unfold State.postStop
  repeat' with_reducible first
    | assumption | apply OptKeeps.some | apply OptKeeps.none | apply OptKeeps.ite | apply State.postDev_keeps | split

theorem State.coresDrain_keeps {s0 s : State} (hk : Keeps s0 s) : Keeps s0 (State.coresDrain s) := by
  unfold State.coresDrain
  repeat' with_reducible first
    | assumption | intro _ | apply State.each_keeps | apply State.setFwState_keeps | apply State.updFw_keeps | apply Keeps.ite

theorem State.coresOff_keeps {s0 s : State} (hk : Keeps s0 s) : Keeps s0 (State.coresOff s) := by
  unfold State.coresOff
  repeat' with_reducible first
    | assumption | intro _ | apply State.each_keeps | apply State.setFwState_keeps | apply State.updFw_keeps

theorem State.gateClocks_keeps {s0 s : State} (hk : Keeps s0 s) : Keeps s0 (State.gateClocks s) := by
  unfold State.gateClocks
  repeat' with_reducible first
    | assumption | intro _ | apply State.coresOff_keeps | apply State.each_keeps | apply State.gateNclk_keeps | apply State.setFld_keeps

theorem State.beginResume_keeps {s0 s : State} (hk : Keeps s0 s) : Keeps s0 (State.beginResume s) := by
  unfold State.beginResume
  repeat' with_reducible first
    | assumption | intro _ | apply State.each_keeps | apply State.setFld_keeps | apply State.setFwState_keeps | apply State.updFw_keeps
    | apply Keeps.ite

theorem State.hostBack_keeps {s0 s : State} (hk : Keeps s0 s) : Keeps s0 (State.hostBack s) := by
  unfold State.hostBack
  repeat' with_reducible first
    | assumption | apply State.beginResume_keeps | apply State.setFld_keeps | apply Keeps.ite

theorem State.stopStageDone_keeps {s0 s : State} (hk : Keeps s0 s) : Keeps s0 (State.stopStageDone s) := by
  unfold State.stopStageDone
  repeat' with_reducible first
    | assumption | intro _ | apply OptKeeps.some | apply OptKeeps.none | apply OptKeeps.ite | apply State.coresDrain_keeps
    | apply State.each_keeps | apply State.gateClocks_keeps | apply State.hostBack_keeps | apply State.portStops_keeps
    | apply State.postStop_keeps | apply Keeps.ite | split | refine OptKeeps.get ?_ (by assumption) | refine Keeps.fst ?_ (by assumption)
    | refine Keeps.snd ?_ (by assumption) | dsimp only | refine Keeps.lit ?_ rfl rfl rfl rfl rfl rfl rfl rfl

theorem execColdStopStageDone_keeps {s0 s : State} (hk : Keeps s0 s) : ResKeeps s0 (execColdStopStageDone s) := by
  unfold execColdStopStageDone
  repeat' with_reducible first
    | assumption | apply ResKeeps.next | apply State.stopStageDone_keeps

theorem execPwrStateResume_keeps {s0 s : State} (hk : Keeps s0 s) : ResKeeps s0 (execPwrStateResume s) := by
  unfold execPwrStateResume
  repeat' with_reducible first
    | assumption | apply ResKeeps.next | apply State.beginResume_keeps | apply State.setFld_keeps | apply ResKeeps.ite | apply Keeps.ite

theorem State.resumed_keeps {s0 s : State} (hk : Keeps s0 s) : Keeps s0 (State.resumed s) := by
  unfold State.resumed
  repeat' with_reducible first
    | assumption | intro _ | apply State.adoptShare_keeps | apply State.each_keeps | apply State.flKick_keeps | apply State.setFld_keeps
    | apply State.setReg_keeps | apply Keeps.ite | split | dsimp only | refine Keeps.lit ?_ rfl rfl rfl rfl rfl rfl rfl rfl

theorem execResumeDone_keeps {s0 s : State} (hk : Keeps s0 s) : ResKeeps s0 (execResumeDone s) := by
  unfold execResumeDone
  repeat' with_reducible first
    | assumption | intro _ | apply ResKeeps.next | apply State.resumed_keeps | apply ResKeeps.ite | apply Keeps.ite

theorem execD3hotEntry_keeps {s0 s : State} (hk : Keeps s0 s) : ResKeeps s0 (execD3hotEntry s) := by
  unfold execD3hotEntry
  repeat' with_reducible first
    | assumption | apply ResKeeps.next | apply State.beginStop_keeps | apply ResKeeps.ite | apply Keeps.ite | split | dsimp only
    | refine Keeps.lit ?_ rfl rfl rfl rfl rfl rfl rfl rfl

theorem execD0Return_keeps {s0 s : State} (hk : Keeps s0 s) : ResKeeps s0 (execD0Return s) := by
  unfold execD0Return
  repeat' with_reducible first
    | assumption | apply ResKeeps.next | apply State.hostBack_keeps | refine Keeps.lit ?_ rfl rfl rfl rfl rfl rfl rfl rfl

/-! ## Reliability -/

theorem State.postOwner_keeps {s0 s : State} (owner : Option Nat) (e : Event) (hk : Keeps s0 s) : Keeps s0 (State.postOwner s owner e) := by
  unfold State.postOwner
  repeat' with_reducible first
    | assumption | apply OptKeeps.some | apply OptKeeps.none | apply OptKeeps.ite | apply State.postCtx_keeps | apply State.postDev_keeps
    | split

theorem State.noFresh_keeps {s0 s : State} (store : Nat) (line : Nat) (hk : Keeps s0 s) : Keeps s0 (State.noFresh s store line) := by
  unfold State.noFresh
  repeat' with_reducible first
    | assumption | intro _ | apply State.fresh_keeps | dsimp only | refine Keeps.lit ?_ rfl rfl rfl rfl rfl rfl rfl rfl

theorem State.poisons_keeps {s0 s : State} (store : Nat) (line : Nat) (known : Bool) (bad : State → State) (post : State → State) (hk : Keeps s0 s) (hbad : ∀ s, Keeps s0 s → Keeps s0 (bad s)) (hpost : ∀ s, Keeps s0 s → Keeps s0 (post s)) :
    Keeps s0 (State.poisons s store line known bad post) := by
  unfold State.poisons
  repeat' with_reducible first
    | assumption | intro _ | apply State.fresh_keeps | apply State.mend_keeps | apply State.noFresh_keeps | apply hbad | apply hpost
    | apply Keeps.ite

theorem State.newPeriod_keeps {s0 s : State} (line : Nat) (bank : Nat) (banks : Nat) (hk : Keeps s0 s) :
    Keeps s0 (State.newPeriod s line bank banks) := by
  unfold State.newPeriod
  repeat' with_reducible first
    | assumption | apply Keeps.ite | split | refine Keeps.lit ?_ rfl rfl rfl rfl rfl rfl rfl rfl

theorem State.scrubBench_keeps {s0 s : State} (c : Nat) (line : Nat) (rd : ReadRes) (hk : Keeps s0 s) :
    Keeps s0 (State.scrubBench s c line rd) := by
  unfold State.scrubBench
  repeat' with_reducible first
    | assumption | intro _ | apply OptKeeps.some | apply OptKeeps.none | apply OptKeeps.ite | apply State.benchUe_keeps
    | apply State.count_keeps | apply State.mend_keeps | apply State.newPeriod_keeps | apply State.poisons_keeps
    | apply State.postOwner_keeps | apply State.sramCorrected_keeps | split | refine OptKeeps.get ?_ (by assumption)
    | refine Keeps.fst ?_ (by assumption) | refine Keeps.snd ?_ (by assumption) | dsimp only
    | refine Keeps.lit ?_ rfl rfl rfl rfl rfl rfl rfl rfl

theorem State.scrubStore_keeps {s0 s : State} (cl : Nat) (line : Nat) (rd : ReadRes) (hk : Keeps s0 s) :
    Keeps s0 (State.scrubStore s cl line rd) := by
  unfold State.scrubStore
  repeat' with_reducible first
    | assumption | intro _ | apply OptKeeps.some | apply OptKeeps.none | apply OptKeeps.ite | apply State.mend_keeps
    | apply State.newPeriod_keeps | apply State.poisons_keeps | apply State.postOwner_keeps | apply State.storeCorrected_keeps | split
    | refine OptKeeps.get ?_ (by assumption) | refine Keeps.fst ?_ (by assumption) | refine Keeps.snd ?_ (by assumption) | dsimp only
    | refine Keeps.lit ?_ rfl rfl rfl rfl rfl rfl rfl rfl

theorem State.structReset_keeps {s0 s : State} (x : Nat) (hk : Keeps s0 s) : Keeps s0 (State.structReset s x) := by
  unfold State.structReset
  repeat' with_reducible first
    | assumption | apply State.beginReset_keeps | apply Keeps.ite

theorem State.hubLost_keeps {s0 s : State} (w : HubStruct) (h : Keeps s0 s) : Keeps s0 (s.hubLost w) := by
  unfold State.hubLost
  repeat' with_reducible first
    | assumption | apply State.structReset_keeps | apply State.fwRestart_keeps | apply State.rollback_keeps | apply Keeps.ite | split
    | refine Keeps.lit ?_ rfl rfl rfl rfl rfl rfl rfl rfl

theorem State.scrubHub_keeps {s0 s : State} (h : HubStruct) (line : Nat) (rd : ReadRes) (hk : Keeps s0 s) :
    Keeps s0 (State.scrubHub s h line rd) := by
  unfold State.scrubHub
  repeat' with_reducible first
    | assumption | intro _ | apply OptKeeps.some | apply OptKeeps.none | apply OptKeeps.ite | apply State.count_keeps
    | apply State.hubLost_keeps | apply State.mend_keeps | apply State.newPeriod_keeps | apply State.poisons_keeps
    | apply State.postDev_keeps | apply State.sramCorrected_keeps | apply Keeps.ite | split | refine OptKeeps.get ?_ (by assumption)
    | refine Keeps.fst ?_ (by assumption) | refine Keeps.snd ?_ (by assumption) | dsimp only
    | refine Keeps.lit ?_ rfl rfl rfl rfl rfl rfl rfl rfl

theorem State.newSyncPeriod_keeps {s0 s : State} (home : Nat) (idx : Nat) (hk : Keeps s0 s) : Keeps s0 (State.newSyncPeriod s home idx) := by
  unfold State.newSyncPeriod
  repeat' with_reducible first
    | assumption | intro _ | apply Keeps.ite | split | refine OptKeeps.get ?_ (by assumption) | refine Keeps.fst ?_ (by assumption)
    | refine Keeps.snd ?_ (by assumption) | dsimp only | refine Keeps.lit ?_ rfl rfl rfl rfl rfl rfl rfl rfl

theorem State.scrubObj_keeps {s0 s : State} (k : ObjKey) (rd : ReadRes) (hk : Keeps s0 s) : Keeps s0 (State.scrubObj s k rd) := by
  unfold State.scrubObj
  repeat' with_reducible first
    | assumption | intro _ | apply OptKeeps.some | apply OptKeeps.none | apply OptKeeps.ite | apply State.mend_keeps
    | apply State.objCorrected_keeps | apply State.objFails_keeps | apply Keeps.ite | split | refine OptKeeps.get ?_ (by assumption)
    | refine Keeps.fst ?_ (by assumption) | refine Keeps.snd ?_ (by assumption) | dsimp only

theorem State.scrubHbm_keeps {s0 s : State} (line : Nat) (rd : ReadRes) (hk : Keeps s0 s) : Keeps s0 (State.scrubHbm s line rd) := by
  unfold State.scrubHbm
  repeat' with_reducible first
    | assumption | intro _ | apply OptKeeps.some | apply OptKeeps.none | apply OptKeeps.ite | apply State.count_keeps
    | apply State.hbmAccess_keeps | apply State.hbmCorrected_keeps | apply State.logRow_keeps | apply State.mend_keeps
    | apply State.poisons_keeps | apply State.postOwner_keeps | apply Keeps.ite | split | refine OptKeeps.get ?_ (by assumption)
    | refine Keeps.fst ?_ (by assumption) | refine Keeps.snd ?_ (by assumption) | dsimp only
    | refine Keeps.lit ?_ rfl rfl rfl rfl rfl rfl rfl rfl

theorem State.scrub_keeps {s0 s : State} (t : ScrubTarget) (rd : ReadRes) (hk : Keeps s0 s) : Keeps s0 (State.scrub s t rd) := by
  unfold State.scrub
  repeat' with_reducible first
    | assumption | apply OptKeeps.some | apply OptKeeps.none | apply OptKeeps.ite | apply State.newSyncPeriod_keeps
    | apply State.scrubBench_keeps | apply State.scrubHbm_keeps | apply State.scrubHub_keeps | apply State.scrubObj_keeps
    | apply State.scrubStore_keeps | split

theorem execScrubRead_keeps {s0 s : State} (t : ScrubTarget) (rd : ReadRes) (hk : Keeps s0 s) : ResKeeps s0 (execScrubRead t rd s) := by
  unfold execScrubRead
  repeat' with_reducible first
    | assumption | apply ResKeeps.next | apply State.scrub_keeps | apply ResKeeps.ite | apply Keeps.ite

theorem State.clockFault_keeps {s0 s : State} (d : ClockDom) (inst : Nat) (kind : Nat) (hk : Keeps s0 s) :
    Keeps s0 (State.clockFault s d inst kind) := by
  unfold State.clockFault
  repeat' with_reducible first
    | assumption | intro _ | apply OptKeeps.some | apply OptKeeps.none | apply OptKeeps.ite | apply State.dieDetect_keeps
    | apply State.each_keeps | apply State.portStops_keeps | apply State.postDev_keeps | apply State.setFld_keeps | apply State.setReg_keeps
    | apply State.startFails_keeps | apply State.ucieSet_keeps | apply Keeps.ite | split | refine OptKeeps.get ?_ (by assumption)
    | refine Keeps.fst ?_ (by assumption) | refine Keeps.snd ?_ (by assumption) | dsimp only
    | refine Keeps.lit ?_ rfl rfl rfl rfl rfl rfl rfl rfl

theorem execClockMonitorWindow_keeps {s0 s : State} (d : ClockDom) (inst : Nat) (obs : ClockObs) (hk : Keeps s0 s) :
    ResKeeps s0 (execClockMonitorWindow d inst obs s) := by
  unfold execClockMonitorWindow
  repeat' with_reducible first
    | assumption | apply ResKeeps.next | apply OptKeeps.some | apply OptKeeps.none | apply OptKeeps.ite | apply State.clockFault_keeps
    | apply ResKeeps.ite | apply Keeps.ite | split | refine OptKeeps.get ?_ (by assumption) | refine Keeps.fst ?_ (by assumption)
    | refine Keeps.snd ?_ (by assumption) | dsimp only | refine Keeps.lit ?_ rfl rfl rfl rfl rfl rfl rfl rfl

theorem execResponseTimeout_keeps {s0 s : State} (tag : Nat) (hk : Keeps s0 s) : ResKeeps s0 (execResponseTimeout tag s) := by
  unfold execResponseTimeout
  repeat' with_reducible first
    | assumption | intro _ | apply ResKeeps.next | apply OptKeeps.some | apply OptKeeps.none | apply OptKeeps.ite
    | apply State.controlDetect_keeps | apply ResKeeps.ite | apply Keeps.ite | split

theorem State.rowSpared_keeps {s0 s : State} (r : SramRow) (hk : Keeps s0 s) : Keeps s0 (State.rowSpared s r) := by
  unfold State.rowSpared
  repeat' with_reducible first
    | assumption | intro _ | apply OptKeeps.some | apply OptKeeps.none | apply OptKeeps.ite | apply State.bump_keeps
    | apply State.count_keeps | apply State.spareSwitched_keeps | split | refine OptKeeps.get ?_ (by assumption)
    | refine Keeps.fst ?_ (by assumption) | refine Keeps.snd ?_ (by assumption) | dsimp only
    | refine Keeps.lit ?_ rfl rfl rfl rfl rfl rfl rfl rfl

theorem execSramRowSpareDone_keeps {s0 s : State} (r : SramRow) (hk : Keeps s0 s) : ResKeeps s0 (execSramRowSpareDone r s) := by
  unfold execSramRowSpareDone
  repeat' with_reducible first
    | assumption | apply ResKeeps.next | apply State.rowSpared_keeps | apply ResKeeps.ite | apply Keeps.ite

theorem execHubBankCopyDone_keeps {s0 s : State} (bank : Fin 24) (hk : Keeps s0 s) : ResKeeps s0 (execHubBankCopyDone bank s) := by
  unfold execHubBankCopyDone
  repeat' with_reducible first
    | assumption | apply ResKeeps.next | apply State.setFld_keeps | apply State.spareSwitched_keeps | apply ResKeeps.ite | apply Keeps.ite
    | split | dsimp only | refine Keeps.lit ?_ rfl rfl rfl rfl rfl rfl rfl rfl

/-! ## Security -/

theorem execEntropyHealthFail_keeps {s0 s : State} (hk : Keeps s0 s) : ResKeeps s0 (execEntropyHealthFail s) := by
  unfold execEntropyHealthFail
  repeat' with_reducible first
    | assumption | apply ResKeeps.next | apply State.setFld_keeps

theorem execEntropyHealthPass_keeps {s0 s : State} (hk : Keeps s0 s) : ResKeeps s0 (execEntropyHealthPass s) := by
  unfold execEntropyHealthPass
  repeat' with_reducible first
    | assumption | apply ResKeeps.next | apply State.keyKick_keeps | apply State.setFld_keeps | apply ResKeeps.ite | apply Keeps.ite

theorem execSecAttGo_keeps {s0 s : State} (hk : Keeps s0 s) : ResKeeps s0 (execSecAttGo s) := by
  unfold execSecAttGo
  repeat' with_reducible first
    | assumption | apply ResKeeps.next | apply OptKeeps.some | apply OptKeeps.none | apply OptKeeps.ite | apply State.setFld_keeps
    | apply ResKeeps.ite | apply Keeps.ite | split | dsimp only | refine Keeps.lit ?_ rfl rfl rfl rfl rfl rfl rfl rfl

theorem execAttestationDone_keeps {s0 s : State} (hk : Keeps s0 s) : ResKeeps s0 (execAttestationDone s) := by
  unfold execAttestationDone
  repeat' with_reducible first
    | assumption | apply ResKeeps.next | apply OptKeeps.some | apply OptKeeps.none | apply OptKeeps.ite | apply State.setFld_keeps
    | apply ResKeeps.ite | apply Keeps.ite | split | refine OptKeeps.get ?_ (by assumption) | refine Keeps.fst ?_ (by assumption)
    | refine Keeps.snd ?_ (by assumption) | dsimp only | refine Keeps.lit ?_ rfl rfl rfl rfl rfl rfl rfl rfl

theorem execPmcBwWindowEnd_keeps {s0 s : State} (p : Fin 48) (hk : Keeps s0 s) : ResKeeps s0 (execPmcBwWindowEnd p s) := by
  unfold execPmcBwWindowEnd
  repeat' with_reducible first
    | assumption | apply ResKeeps.next | apply State.bump_keeps | apply State.setFld_keeps | apply ResKeeps.ite | apply Keeps.ite | split
    | dsimp only | refine Keeps.lit ?_ rfl rfl rfl rfl rfl rfl rfl rfl

theorem State.awlWrite_keeps {s0 s : State} (f : State → State) (hk : Keeps s0 s) (hf : ∀ s, Keeps s0 s → Keeps s0 (f s)) :
    Keeps s0 (State.awlWrite s f) := by
  unfold State.awlWrite
  repeat' with_reducible first
    | assumption | intro _ | apply State.setFld_keeps | apply hf | apply Keeps.ite

theorem State.setAwl_keeps {s0 s : State} (st : Nat) (hk : Keeps s0 s) : Keeps s0 (State.setAwl s st) := by
  unfold State.setAwl
  repeat' with_reducible first
    | assumption | apply State.setFld_keeps

theorem State.awlPending_keeps {s0 s : State} (b : Nat) (hk : Keeps s0 s) : Keeps s0 (State.awlPending s b) := by
  unfold State.awlPending
  repeat' with_reducible first
    | assumption | apply State.setFld_keeps

theorem State.awlRequest_keeps {s0 s : State} (on : Bool) (hk : Keeps s0 s) : Keeps s0 (State.awlRequest s on) := by
  unfold State.awlRequest
  repeat' with_reducible first
    | assumption | apply State.awlPending_keeps | apply State.setAwl_keeps | apply Keeps.ite

theorem execAwlEnable_keeps {s0 s : State} (hk : Keeps s0 s) : ResKeeps s0 (execAwlEnable s) := by
  unfold execAwlEnable
  repeat' with_reducible first
    | assumption | intro _ | apply ResKeeps.next | apply State.awlRequest_keeps | apply State.awlWrite_keeps | apply State.setFld_keeps

theorem execAwlDisable_keeps {s0 s : State} (hk : Keeps s0 s) : ResKeeps s0 (execAwlDisable s) := by
  unfold execAwlDisable
  repeat' with_reducible first
    | assumption | intro _ | apply ResKeeps.next | apply State.awlRequest_keeps | apply State.awlWrite_keeps | apply State.setFld_keeps

theorem execAwlStartDone_keeps {s0 s : State} (hk : Keeps s0 s) : ResKeeps s0 (execAwlStartDone s) := by
  unfold execAwlStartDone
  repeat' with_reducible first
    | assumption | apply ResKeeps.next | apply State.awlPending_keeps | apply State.setAwl_keeps | apply ResKeeps.ite | apply Keeps.ite

theorem execAwlDrainDone_keeps {s0 s : State} (hk : Keeps s0 s) : ResKeeps s0 (execAwlDrainDone s) := by
  unfold execAwlDrainDone
  repeat' with_reducible first
    | assumption | apply ResKeeps.next | apply State.awlPending_keeps | apply State.setAwl_keeps | apply ResKeeps.ite | apply Keeps.ite

theorem State.flipBit_keeps {s0 s : State} (f : Flip) (hk : Keeps s0 s) : Keeps s0 (State.flipBit s f) := by
  unfold State.flipBit
  repeat' with_reducible first
    | assumption | intro _ | apply Keeps.ite | split | dsimp only | refine Keeps.lit ?_ rfl rfl rfl rfl rfl rfl rfl rfl

theorem State.settleFlips_keeps {s0 s : State} (store : Nat) (line : Nat) (hk : Keeps s0 s) : Keeps s0 (State.settleFlips s store line) := by
  unfold State.settleFlips
  repeat' with_reducible first
    | assumption | intro _ | apply State.fresh_keeps | apply State.mend_keeps | apply Keeps.ite | split | dsimp only
    | refine Keeps.lit ?_ rfl rfl rfl rfl rfl rfl rfl rfl

theorem State.inject_keeps {s0 s : State} (store : Nat) (bits : Nat) (hk : Keeps s0 s) : Keeps s0 (State.inject s store bits) := by
  unfold State.inject
  repeat' with_reducible first
    | assumption | apply OptKeeps.some | apply OptKeeps.none | apply OptKeeps.ite | apply State.bump_keeps | apply State.flipBit_keeps
    | apply State.setFld_keeps | apply State.settleFlips_keeps | apply Keeps.ite | split | refine OptKeeps.get ?_ (by assumption)
    | refine Keeps.fst ?_ (by assumption) | refine Keeps.snd ?_ (by assumption) | dsimp only

theorem execAwlInjGo_keeps {s0 s : State} (store : BitVec 4) (bits : BitVec 2) (hk : Keeps s0 s) : ResKeeps s0 (execAwlInjGo store bits s) := by
  unfold execAwlInjGo
  repeat' with_reducible first
    | assumption | intro _ | apply ResKeeps.next | apply State.awlWrite_keeps | apply State.inject_keeps | apply State.setFld_keeps
    | apply ResKeeps.ite | apply Keeps.ite

theorem State.tap_keeps {s0 s : State} (n : Nat) (hk : Keeps s0 s) : Keeps s0 (State.tap s n) := by
  unfold State.tap
  repeat' with_reducible first
    | assumption | refine Keeps.lit ?_ rfl rfl rfl rfl rfl rfl rfl rfl

theorem execTapBypass_keeps {s0 s : State} (hk : Keeps s0 s) : ResKeeps s0 (execTapBypass s) := by
  unfold execTapBypass
  repeat' with_reducible first
    | assumption | apply ResKeeps.next | apply State.tap_keeps

theorem execTapSamplePreload_keeps {s0 s : State} (preload : BitVec 64) (hk : Keeps s0 s) : ResKeeps s0 (execTapSamplePreload preload s) := by
  unfold execTapSamplePreload
  repeat' with_reducible first
    | assumption | apply ResKeeps.next | apply State.draw_keeps | apply State.emit_keeps | apply State.tap_keeps
    | refine OptKeeps.get ?_ (by assumption) | refine Keeps.fst ?_ (by assumption) | refine Keeps.snd ?_ (by assumption) | dsimp only
    | refine Keeps.lit ?_ rfl rfl rfl rfl rfl rfl rfl rfl

theorem execTapExtest_keeps {s0 s : State} (drive : BitVec 64) (hk : Keeps s0 s) : ResKeeps s0 (execTapExtest drive s) := by
  unfold execTapExtest
  repeat' with_reducible first
    | assumption | apply ResKeeps.next | apply State.draw_keeps | apply State.emit_keeps | apply State.tap_keeps
    | refine OptKeeps.get ?_ (by assumption) | refine Keeps.fst ?_ (by assumption) | refine Keeps.snd ?_ (by assumption) | dsimp only
    | refine Keeps.lit ?_ rfl rfl rfl rfl rfl rfl rfl rfl

theorem execTapOwnerFuse_keeps {s0 s : State} (digest : BitVec 256) (vpp : Bool) (h : Keeps s0 s) : ResKeeps s0 (execTapOwnerFuse digest vpp s) := by
  unfold execTapOwnerFuse
  apply ResKeeps.next
  have k := State.tap_keeps (s := s) 3 h
  dsimp only
  split
  · rename_i c
    refine State.each_keeps _ _ (k.trans ⟨rfl, List.prefix_rfl, Nat.le_refl _, fun d e => ?_, id, id, id, id⟩) (fun s i h => State.emit_keeps _ h)
    exact absurd (c.2.2.symm.trans e) (by simp)
  · exact k

end Sys2Proof.Machine
end

