-- ==== Sys2Proof/Laws/State.lean ====
section
/-! SUPPORT. What each named update of the state leaves as it is, field by field, and what the common updates write. -/

namespace Sys2Proof.Machine

/-! `setReg` writes `regs` alone. -/

@[simp] theorem State.setReg_pending (s : State) (r : RegName) (i : Nat) (w : Nat) (v : Word) : (s.setReg r i w v).pending = s.pending := rfl
@[simp] theorem State.setReg_uregs (s : State) (r : RegName) (i : Nat) (w : Nat) (v : Word) : (s.setReg r i w v).uregs = s.uregs := rfl
@[simp] theorem State.setReg_out (s : State) (r : RegName) (i : Nat) (w : Nat) (v : Word) : (s.setReg r i w v).out = s.out := rfl
@[simp] theorem State.setReg_toSend (s : State) (r : RegName) (i : Nat) (w : Nat) (v : Word) : (s.setReg r i w v).toSend = s.toSend := rfl
@[simp] theorem State.setReg_mem (s : State) (r : RegName) (i : Nat) (w : Nat) (v : Word) : (s.setReg r i w v).mem = s.mem := rfl
@[simp] theorem State.setReg_queues (s : State) (r : RegName) (i : Nat) (w : Nat) (v : Word) : (s.setReg r i w v).queues = s.queues := rfl
@[simp] theorem State.setReg_lost (s : State) (r : RegName) (i : Nat) (w : Nat) (v : Word) : (s.setReg r i w v).lost = s.lost := rfl
@[simp] theorem State.setReg_sync (s : State) (r : RegName) (i : Nat) (w : Nat) (v : Word) : (s.setReg r i w v).sync = s.sync := rfl
@[simp] theorem State.setReg_mv (s : State) (r : RegName) (i : Nat) (w : Nat) (v : Word) : (s.setReg r i w v).mv = s.mv := rfl
@[simp] theorem State.setReg_cs (s : State) (r : RegName) (i : Nat) (w : Nat) (v : Word) : (s.setReg r i w v).cs = s.cs := rfl
@[simp] theorem State.setReg_kv (s : State) (r : RegName) (i : Nat) (w : Nat) (v : Word) : (s.setReg r i w v).kv = s.kv := rfl
@[simp] theorem State.setReg_tier (s : State) (r : RegName) (i : Nat) (w : Nat) (v : Word) : (s.setReg r i w v).tier = s.tier := rfl
@[simp] theorem State.setReg_srt (s : State) (r : RegName) (i : Nat) (w : Nat) (v : Word) : (s.setReg r i w v).srt = s.srt := rfl
@[simp] theorem State.setReg_cx (s : State) (r : RegName) (i : Nat) (w : Nat) (v : Word) : (s.setReg r i w v).cx = s.cx := rfl
@[simp] theorem State.setReg_fw (s : State) (r : RegName) (i : Nat) (w : Nat) (v : Word) : (s.setReg r i w v).fw = s.fw := rfl
@[simp] theorem State.setReg_ola (s : State) (r : RegName) (i : Nat) (w : Nat) (v : Word) : (s.setReg r i w v).ola = s.ola := rfl
@[simp] theorem State.setReg_pw (s : State) (r : RegName) (i : Nat) (w : Nat) (v : Word) : (s.setReg r i w v).pw = s.pw := rfl
@[simp] theorem State.setReg_fl (s : State) (r : RegName) (i : Nat) (w : Nat) (v : Word) : (s.setReg r i w v).fl = s.fl := rfl
@[simp] theorem State.setReg_host (s : State) (r : RegName) (i : Nat) (w : Nat) (v : Word) : (s.setReg r i w v).host = s.host := rfl
@[simp] theorem State.setReg_start (s : State) (r : RegName) (i : Nat) (w : Nat) (v : Word) : (s.setReg r i w v).start = s.start := rfl
@[simp] theorem State.setReg_sec (s : State) (r : RegName) (i : Nat) (w : Nat) (v : Word) : (s.setReg r i w v).sec = s.sec := rfl
@[simp] theorem State.setReg_test (s : State) (r : RegName) (i : Nat) (w : Nat) (v : Word) : (s.setReg r i w v).test = s.test := rfl
@[simp] theorem State.setReg_flt (s : State) (r : RegName) (i : Nat) (w : Nat) (v : Word) : (s.setReg r i w v).flt = s.flt := rfl
@[simp] theorem State.setReg_pmc (s : State) (r : RegName) (i : Nat) (w : Nat) (v : Word) : (s.setReg r i w v).pmc = s.pmc := rfl
@[simp] theorem State.setReg_bwc (s : State) (r : RegName) (i : Nat) (w : Nat) (v : Word) : (s.setReg r i w v).bwc = s.bwc := rfl
@[simp] theorem State.setReg_drawn (s : State) (r : RegName) (i : Nat) (w : Nat) (v : Word) : (s.setReg r i w v).drawn = s.drawn := rfl

/-! `setFld` writes `regs` alone. -/

@[simp] theorem State.setFld_pending (s : State) (r : RegName) (f : Fl) (i : Nat) (x : Nat) : (s.setFld r f i x).pending = s.pending := rfl
@[simp] theorem State.setFld_uregs (s : State) (r : RegName) (f : Fl) (i : Nat) (x : Nat) : (s.setFld r f i x).uregs = s.uregs := rfl
@[simp] theorem State.setFld_out (s : State) (r : RegName) (f : Fl) (i : Nat) (x : Nat) : (s.setFld r f i x).out = s.out := rfl
@[simp] theorem State.setFld_toSend (s : State) (r : RegName) (f : Fl) (i : Nat) (x : Nat) : (s.setFld r f i x).toSend = s.toSend := rfl
@[simp] theorem State.setFld_mem (s : State) (r : RegName) (f : Fl) (i : Nat) (x : Nat) : (s.setFld r f i x).mem = s.mem := rfl
@[simp] theorem State.setFld_queues (s : State) (r : RegName) (f : Fl) (i : Nat) (x : Nat) : (s.setFld r f i x).queues = s.queues := rfl
@[simp] theorem State.setFld_lost (s : State) (r : RegName) (f : Fl) (i : Nat) (x : Nat) : (s.setFld r f i x).lost = s.lost := rfl
@[simp] theorem State.setFld_sync (s : State) (r : RegName) (f : Fl) (i : Nat) (x : Nat) : (s.setFld r f i x).sync = s.sync := rfl
@[simp] theorem State.setFld_mv (s : State) (r : RegName) (f : Fl) (i : Nat) (x : Nat) : (s.setFld r f i x).mv = s.mv := rfl
@[simp] theorem State.setFld_cs (s : State) (r : RegName) (f : Fl) (i : Nat) (x : Nat) : (s.setFld r f i x).cs = s.cs := rfl
@[simp] theorem State.setFld_kv (s : State) (r : RegName) (f : Fl) (i : Nat) (x : Nat) : (s.setFld r f i x).kv = s.kv := rfl
@[simp] theorem State.setFld_tier (s : State) (r : RegName) (f : Fl) (i : Nat) (x : Nat) : (s.setFld r f i x).tier = s.tier := rfl
@[simp] theorem State.setFld_srt (s : State) (r : RegName) (f : Fl) (i : Nat) (x : Nat) : (s.setFld r f i x).srt = s.srt := rfl
@[simp] theorem State.setFld_cx (s : State) (r : RegName) (f : Fl) (i : Nat) (x : Nat) : (s.setFld r f i x).cx = s.cx := rfl
@[simp] theorem State.setFld_fw (s : State) (r : RegName) (f : Fl) (i : Nat) (x : Nat) : (s.setFld r f i x).fw = s.fw := rfl
@[simp] theorem State.setFld_ola (s : State) (r : RegName) (f : Fl) (i : Nat) (x : Nat) : (s.setFld r f i x).ola = s.ola := rfl
@[simp] theorem State.setFld_pw (s : State) (r : RegName) (f : Fl) (i : Nat) (x : Nat) : (s.setFld r f i x).pw = s.pw := rfl
@[simp] theorem State.setFld_fl (s : State) (r : RegName) (f : Fl) (i : Nat) (x : Nat) : (s.setFld r f i x).fl = s.fl := rfl
@[simp] theorem State.setFld_host (s : State) (r : RegName) (f : Fl) (i : Nat) (x : Nat) : (s.setFld r f i x).host = s.host := rfl
@[simp] theorem State.setFld_start (s : State) (r : RegName) (f : Fl) (i : Nat) (x : Nat) : (s.setFld r f i x).start = s.start := rfl
@[simp] theorem State.setFld_sec (s : State) (r : RegName) (f : Fl) (i : Nat) (x : Nat) : (s.setFld r f i x).sec = s.sec := rfl
@[simp] theorem State.setFld_test (s : State) (r : RegName) (f : Fl) (i : Nat) (x : Nat) : (s.setFld r f i x).test = s.test := rfl
@[simp] theorem State.setFld_flt (s : State) (r : RegName) (f : Fl) (i : Nat) (x : Nat) : (s.setFld r f i x).flt = s.flt := rfl
@[simp] theorem State.setFld_pmc (s : State) (r : RegName) (f : Fl) (i : Nat) (x : Nat) : (s.setFld r f i x).pmc = s.pmc := rfl
@[simp] theorem State.setFld_bwc (s : State) (r : RegName) (f : Fl) (i : Nat) (x : Nat) : (s.setFld r f i x).bwc = s.bwc := rfl
@[simp] theorem State.setFld_drawn (s : State) (r : RegName) (f : Fl) (i : Nat) (x : Nat) : (s.setFld r f i x).drawn = s.drawn := rfl

/-! `bump` writes `regs` alone. -/

@[simp] theorem State.bump_pending (s : State) (r : RegName) (f : Fl) (i : Nat) (n : Nat) : (s.bump r f i n).pending = s.pending := rfl
@[simp] theorem State.bump_uregs (s : State) (r : RegName) (f : Fl) (i : Nat) (n : Nat) : (s.bump r f i n).uregs = s.uregs := rfl
@[simp] theorem State.bump_out (s : State) (r : RegName) (f : Fl) (i : Nat) (n : Nat) : (s.bump r f i n).out = s.out := rfl
@[simp] theorem State.bump_toSend (s : State) (r : RegName) (f : Fl) (i : Nat) (n : Nat) : (s.bump r f i n).toSend = s.toSend := rfl
@[simp] theorem State.bump_mem (s : State) (r : RegName) (f : Fl) (i : Nat) (n : Nat) : (s.bump r f i n).mem = s.mem := rfl
@[simp] theorem State.bump_queues (s : State) (r : RegName) (f : Fl) (i : Nat) (n : Nat) : (s.bump r f i n).queues = s.queues := rfl
@[simp] theorem State.bump_lost (s : State) (r : RegName) (f : Fl) (i : Nat) (n : Nat) : (s.bump r f i n).lost = s.lost := rfl
@[simp] theorem State.bump_sync (s : State) (r : RegName) (f : Fl) (i : Nat) (n : Nat) : (s.bump r f i n).sync = s.sync := rfl
@[simp] theorem State.bump_mv (s : State) (r : RegName) (f : Fl) (i : Nat) (n : Nat) : (s.bump r f i n).mv = s.mv := rfl
@[simp] theorem State.bump_cs (s : State) (r : RegName) (f : Fl) (i : Nat) (n : Nat) : (s.bump r f i n).cs = s.cs := rfl
@[simp] theorem State.bump_kv (s : State) (r : RegName) (f : Fl) (i : Nat) (n : Nat) : (s.bump r f i n).kv = s.kv := rfl
@[simp] theorem State.bump_tier (s : State) (r : RegName) (f : Fl) (i : Nat) (n : Nat) : (s.bump r f i n).tier = s.tier := rfl
@[simp] theorem State.bump_srt (s : State) (r : RegName) (f : Fl) (i : Nat) (n : Nat) : (s.bump r f i n).srt = s.srt := rfl
@[simp] theorem State.bump_cx (s : State) (r : RegName) (f : Fl) (i : Nat) (n : Nat) : (s.bump r f i n).cx = s.cx := rfl
@[simp] theorem State.bump_fw (s : State) (r : RegName) (f : Fl) (i : Nat) (n : Nat) : (s.bump r f i n).fw = s.fw := rfl
@[simp] theorem State.bump_ola (s : State) (r : RegName) (f : Fl) (i : Nat) (n : Nat) : (s.bump r f i n).ola = s.ola := rfl
@[simp] theorem State.bump_pw (s : State) (r : RegName) (f : Fl) (i : Nat) (n : Nat) : (s.bump r f i n).pw = s.pw := rfl
@[simp] theorem State.bump_fl (s : State) (r : RegName) (f : Fl) (i : Nat) (n : Nat) : (s.bump r f i n).fl = s.fl := rfl
@[simp] theorem State.bump_host (s : State) (r : RegName) (f : Fl) (i : Nat) (n : Nat) : (s.bump r f i n).host = s.host := rfl
@[simp] theorem State.bump_start (s : State) (r : RegName) (f : Fl) (i : Nat) (n : Nat) : (s.bump r f i n).start = s.start := rfl
@[simp] theorem State.bump_sec (s : State) (r : RegName) (f : Fl) (i : Nat) (n : Nat) : (s.bump r f i n).sec = s.sec := rfl
@[simp] theorem State.bump_test (s : State) (r : RegName) (f : Fl) (i : Nat) (n : Nat) : (s.bump r f i n).test = s.test := rfl
@[simp] theorem State.bump_flt (s : State) (r : RegName) (f : Fl) (i : Nat) (n : Nat) : (s.bump r f i n).flt = s.flt := rfl
@[simp] theorem State.bump_pmc (s : State) (r : RegName) (f : Fl) (i : Nat) (n : Nat) : (s.bump r f i n).pmc = s.pmc := rfl
@[simp] theorem State.bump_bwc (s : State) (r : RegName) (f : Fl) (i : Nat) (n : Nat) : (s.bump r f i n).bwc = s.bwc := rfl
@[simp] theorem State.bump_drawn (s : State) (r : RegName) (f : Fl) (i : Nat) (n : Nat) : (s.bump r f i n).drawn = s.drawn := rfl

/-! `count` writes `pmc` alone. -/

@[simp] theorem State.count_pending (s : State) (kind : Nat) (inst : Nat) (ev : Nat) (n : Nat) : (s.count kind inst ev n).pending = s.pending := rfl
@[simp] theorem State.count_regs (s : State) (kind : Nat) (inst : Nat) (ev : Nat) (n : Nat) : (s.count kind inst ev n).regs = s.regs := rfl
@[simp] theorem State.count_uregs (s : State) (kind : Nat) (inst : Nat) (ev : Nat) (n : Nat) : (s.count kind inst ev n).uregs = s.uregs := rfl
@[simp] theorem State.count_out (s : State) (kind : Nat) (inst : Nat) (ev : Nat) (n : Nat) : (s.count kind inst ev n).out = s.out := rfl
@[simp] theorem State.count_toSend (s : State) (kind : Nat) (inst : Nat) (ev : Nat) (n : Nat) : (s.count kind inst ev n).toSend = s.toSend := rfl
@[simp] theorem State.count_mem (s : State) (kind : Nat) (inst : Nat) (ev : Nat) (n : Nat) : (s.count kind inst ev n).mem = s.mem := rfl
@[simp] theorem State.count_queues (s : State) (kind : Nat) (inst : Nat) (ev : Nat) (n : Nat) : (s.count kind inst ev n).queues = s.queues := rfl
@[simp] theorem State.count_lost (s : State) (kind : Nat) (inst : Nat) (ev : Nat) (n : Nat) : (s.count kind inst ev n).lost = s.lost := rfl
@[simp] theorem State.count_sync (s : State) (kind : Nat) (inst : Nat) (ev : Nat) (n : Nat) : (s.count kind inst ev n).sync = s.sync := rfl
@[simp] theorem State.count_mv (s : State) (kind : Nat) (inst : Nat) (ev : Nat) (n : Nat) : (s.count kind inst ev n).mv = s.mv := rfl
@[simp] theorem State.count_cs (s : State) (kind : Nat) (inst : Nat) (ev : Nat) (n : Nat) : (s.count kind inst ev n).cs = s.cs := rfl
@[simp] theorem State.count_kv (s : State) (kind : Nat) (inst : Nat) (ev : Nat) (n : Nat) : (s.count kind inst ev n).kv = s.kv := rfl
@[simp] theorem State.count_tier (s : State) (kind : Nat) (inst : Nat) (ev : Nat) (n : Nat) : (s.count kind inst ev n).tier = s.tier := rfl
@[simp] theorem State.count_srt (s : State) (kind : Nat) (inst : Nat) (ev : Nat) (n : Nat) : (s.count kind inst ev n).srt = s.srt := rfl
@[simp] theorem State.count_cx (s : State) (kind : Nat) (inst : Nat) (ev : Nat) (n : Nat) : (s.count kind inst ev n).cx = s.cx := rfl
@[simp] theorem State.count_fw (s : State) (kind : Nat) (inst : Nat) (ev : Nat) (n : Nat) : (s.count kind inst ev n).fw = s.fw := rfl
@[simp] theorem State.count_ola (s : State) (kind : Nat) (inst : Nat) (ev : Nat) (n : Nat) : (s.count kind inst ev n).ola = s.ola := rfl
@[simp] theorem State.count_pw (s : State) (kind : Nat) (inst : Nat) (ev : Nat) (n : Nat) : (s.count kind inst ev n).pw = s.pw := rfl
@[simp] theorem State.count_fl (s : State) (kind : Nat) (inst : Nat) (ev : Nat) (n : Nat) : (s.count kind inst ev n).fl = s.fl := rfl
@[simp] theorem State.count_host (s : State) (kind : Nat) (inst : Nat) (ev : Nat) (n : Nat) : (s.count kind inst ev n).host = s.host := rfl
@[simp] theorem State.count_start (s : State) (kind : Nat) (inst : Nat) (ev : Nat) (n : Nat) : (s.count kind inst ev n).start = s.start := rfl
@[simp] theorem State.count_sec (s : State) (kind : Nat) (inst : Nat) (ev : Nat) (n : Nat) : (s.count kind inst ev n).sec = s.sec := rfl
@[simp] theorem State.count_test (s : State) (kind : Nat) (inst : Nat) (ev : Nat) (n : Nat) : (s.count kind inst ev n).test = s.test := rfl
@[simp] theorem State.count_flt (s : State) (kind : Nat) (inst : Nat) (ev : Nat) (n : Nat) : (s.count kind inst ev n).flt = s.flt := rfl
@[simp] theorem State.count_bwc (s : State) (kind : Nat) (inst : Nat) (ev : Nat) (n : Nat) : (s.count kind inst ev n).bwc = s.bwc := rfl
@[simp] theorem State.count_drawn (s : State) (kind : Nat) (inst : Nat) (ev : Nat) (n : Nat) : (s.count kind inst ev n).drawn = s.drawn := rfl
@[simp] theorem State.count_reg (s : State) (kind : Nat) (inst : Nat) (ev : Nat) (n : Nat) (r' : RegName) (i' : Nat) : (s.count kind inst ev n).reg r' i' = s.reg r' i' := rfl
@[simp] theorem State.count_fld (s : State) (kind : Nat) (inst : Nat) (ev : Nat) (n : Nat) (r' : RegName) (g' : Fl) (i' : Nat) : (s.count kind inst ev n).fld r' g' i' = s.fld r' g' i' := rfl

/-! `countCtx` writes `pmc` alone. -/

@[simp] theorem State.countCtx_pending (s : State) (ctx : Nat) (ev : Nat) (n : Nat) : (s.countCtx ctx ev n).pending = s.pending := rfl
@[simp] theorem State.countCtx_regs (s : State) (ctx : Nat) (ev : Nat) (n : Nat) : (s.countCtx ctx ev n).regs = s.regs := rfl
@[simp] theorem State.countCtx_uregs (s : State) (ctx : Nat) (ev : Nat) (n : Nat) : (s.countCtx ctx ev n).uregs = s.uregs := rfl
@[simp] theorem State.countCtx_out (s : State) (ctx : Nat) (ev : Nat) (n : Nat) : (s.countCtx ctx ev n).out = s.out := rfl
@[simp] theorem State.countCtx_toSend (s : State) (ctx : Nat) (ev : Nat) (n : Nat) : (s.countCtx ctx ev n).toSend = s.toSend := rfl
@[simp] theorem State.countCtx_mem (s : State) (ctx : Nat) (ev : Nat) (n : Nat) : (s.countCtx ctx ev n).mem = s.mem := rfl
@[simp] theorem State.countCtx_queues (s : State) (ctx : Nat) (ev : Nat) (n : Nat) : (s.countCtx ctx ev n).queues = s.queues := rfl
@[simp] theorem State.countCtx_lost (s : State) (ctx : Nat) (ev : Nat) (n : Nat) : (s.countCtx ctx ev n).lost = s.lost := rfl
@[simp] theorem State.countCtx_sync (s : State) (ctx : Nat) (ev : Nat) (n : Nat) : (s.countCtx ctx ev n).sync = s.sync := rfl
@[simp] theorem State.countCtx_mv (s : State) (ctx : Nat) (ev : Nat) (n : Nat) : (s.countCtx ctx ev n).mv = s.mv := rfl
@[simp] theorem State.countCtx_cs (s : State) (ctx : Nat) (ev : Nat) (n : Nat) : (s.countCtx ctx ev n).cs = s.cs := rfl
@[simp] theorem State.countCtx_kv (s : State) (ctx : Nat) (ev : Nat) (n : Nat) : (s.countCtx ctx ev n).kv = s.kv := rfl
@[simp] theorem State.countCtx_tier (s : State) (ctx : Nat) (ev : Nat) (n : Nat) : (s.countCtx ctx ev n).tier = s.tier := rfl
@[simp] theorem State.countCtx_srt (s : State) (ctx : Nat) (ev : Nat) (n : Nat) : (s.countCtx ctx ev n).srt = s.srt := rfl
@[simp] theorem State.countCtx_cx (s : State) (ctx : Nat) (ev : Nat) (n : Nat) : (s.countCtx ctx ev n).cx = s.cx := rfl
@[simp] theorem State.countCtx_fw (s : State) (ctx : Nat) (ev : Nat) (n : Nat) : (s.countCtx ctx ev n).fw = s.fw := rfl
@[simp] theorem State.countCtx_ola (s : State) (ctx : Nat) (ev : Nat) (n : Nat) : (s.countCtx ctx ev n).ola = s.ola := rfl
@[simp] theorem State.countCtx_pw (s : State) (ctx : Nat) (ev : Nat) (n : Nat) : (s.countCtx ctx ev n).pw = s.pw := rfl
@[simp] theorem State.countCtx_fl (s : State) (ctx : Nat) (ev : Nat) (n : Nat) : (s.countCtx ctx ev n).fl = s.fl := rfl
@[simp] theorem State.countCtx_host (s : State) (ctx : Nat) (ev : Nat) (n : Nat) : (s.countCtx ctx ev n).host = s.host := rfl
@[simp] theorem State.countCtx_start (s : State) (ctx : Nat) (ev : Nat) (n : Nat) : (s.countCtx ctx ev n).start = s.start := rfl
@[simp] theorem State.countCtx_sec (s : State) (ctx : Nat) (ev : Nat) (n : Nat) : (s.countCtx ctx ev n).sec = s.sec := rfl
@[simp] theorem State.countCtx_test (s : State) (ctx : Nat) (ev : Nat) (n : Nat) : (s.countCtx ctx ev n).test = s.test := rfl
@[simp] theorem State.countCtx_flt (s : State) (ctx : Nat) (ev : Nat) (n : Nat) : (s.countCtx ctx ev n).flt = s.flt := rfl
@[simp] theorem State.countCtx_bwc (s : State) (ctx : Nat) (ev : Nat) (n : Nat) : (s.countCtx ctx ev n).bwc = s.bwc := rfl
@[simp] theorem State.countCtx_drawn (s : State) (ctx : Nat) (ev : Nat) (n : Nat) : (s.countCtx ctx ev n).drawn = s.drawn := rfl
@[simp] theorem State.countCtx_reg (s : State) (ctx : Nat) (ev : Nat) (n : Nat) (r' : RegName) (i' : Nat) : (s.countCtx ctx ev n).reg r' i' = s.reg r' i' := rfl
@[simp] theorem State.countCtx_fld (s : State) (ctx : Nat) (ev : Nat) (n : Nat) (r' : RegName) (g' : Fl) (i' : Nat) : (s.countCtx ctx ev n).fld r' g' i' = s.fld r' g' i' := rfl

/-! `countBw` writes `bwc` alone. -/

@[simp] theorem State.countBw_pending (s : State) (port : Nat) (side : Nat) (n : Nat) : (s.countBw port side n).pending = s.pending := rfl
@[simp] theorem State.countBw_regs (s : State) (port : Nat) (side : Nat) (n : Nat) : (s.countBw port side n).regs = s.regs := rfl
@[simp] theorem State.countBw_uregs (s : State) (port : Nat) (side : Nat) (n : Nat) : (s.countBw port side n).uregs = s.uregs := rfl
@[simp] theorem State.countBw_out (s : State) (port : Nat) (side : Nat) (n : Nat) : (s.countBw port side n).out = s.out := rfl
@[simp] theorem State.countBw_toSend (s : State) (port : Nat) (side : Nat) (n : Nat) : (s.countBw port side n).toSend = s.toSend := rfl
@[simp] theorem State.countBw_mem (s : State) (port : Nat) (side : Nat) (n : Nat) : (s.countBw port side n).mem = s.mem := rfl
@[simp] theorem State.countBw_queues (s : State) (port : Nat) (side : Nat) (n : Nat) : (s.countBw port side n).queues = s.queues := rfl
@[simp] theorem State.countBw_lost (s : State) (port : Nat) (side : Nat) (n : Nat) : (s.countBw port side n).lost = s.lost := rfl
@[simp] theorem State.countBw_sync (s : State) (port : Nat) (side : Nat) (n : Nat) : (s.countBw port side n).sync = s.sync := rfl
@[simp] theorem State.countBw_mv (s : State) (port : Nat) (side : Nat) (n : Nat) : (s.countBw port side n).mv = s.mv := rfl
@[simp] theorem State.countBw_cs (s : State) (port : Nat) (side : Nat) (n : Nat) : (s.countBw port side n).cs = s.cs := rfl
@[simp] theorem State.countBw_kv (s : State) (port : Nat) (side : Nat) (n : Nat) : (s.countBw port side n).kv = s.kv := rfl
@[simp] theorem State.countBw_tier (s : State) (port : Nat) (side : Nat) (n : Nat) : (s.countBw port side n).tier = s.tier := rfl
@[simp] theorem State.countBw_srt (s : State) (port : Nat) (side : Nat) (n : Nat) : (s.countBw port side n).srt = s.srt := rfl
@[simp] theorem State.countBw_cx (s : State) (port : Nat) (side : Nat) (n : Nat) : (s.countBw port side n).cx = s.cx := rfl
@[simp] theorem State.countBw_fw (s : State) (port : Nat) (side : Nat) (n : Nat) : (s.countBw port side n).fw = s.fw := rfl
@[simp] theorem State.countBw_ola (s : State) (port : Nat) (side : Nat) (n : Nat) : (s.countBw port side n).ola = s.ola := rfl
@[simp] theorem State.countBw_pw (s : State) (port : Nat) (side : Nat) (n : Nat) : (s.countBw port side n).pw = s.pw := rfl
@[simp] theorem State.countBw_fl (s : State) (port : Nat) (side : Nat) (n : Nat) : (s.countBw port side n).fl = s.fl := rfl
@[simp] theorem State.countBw_host (s : State) (port : Nat) (side : Nat) (n : Nat) : (s.countBw port side n).host = s.host := rfl
@[simp] theorem State.countBw_start (s : State) (port : Nat) (side : Nat) (n : Nat) : (s.countBw port side n).start = s.start := rfl
@[simp] theorem State.countBw_sec (s : State) (port : Nat) (side : Nat) (n : Nat) : (s.countBw port side n).sec = s.sec := rfl
@[simp] theorem State.countBw_test (s : State) (port : Nat) (side : Nat) (n : Nat) : (s.countBw port side n).test = s.test := rfl
@[simp] theorem State.countBw_flt (s : State) (port : Nat) (side : Nat) (n : Nat) : (s.countBw port side n).flt = s.flt := rfl
@[simp] theorem State.countBw_pmc (s : State) (port : Nat) (side : Nat) (n : Nat) : (s.countBw port side n).pmc = s.pmc := rfl
@[simp] theorem State.countBw_drawn (s : State) (port : Nat) (side : Nat) (n : Nat) : (s.countBw port side n).drawn = s.drawn := rfl
@[simp] theorem State.countBw_reg (s : State) (port : Nat) (side : Nat) (n : Nat) (r' : RegName) (i' : Nat) : (s.countBw port side n).reg r' i' = s.reg r' i' := rfl
@[simp] theorem State.countBw_fld (s : State) (port : Nat) (side : Nat) (n : Nat) (r' : RegName) (g' : Fl) (i' : Nat) : (s.countBw port side n).fld r' g' i' = s.fld r' g' i' := rfl

/-! `emit` writes `out` alone. -/

@[simp] theorem State.emit_pending (s : State) (o : Out) : (s.emit o).pending = s.pending := rfl
@[simp] theorem State.emit_regs (s : State) (o : Out) : (s.emit o).regs = s.regs := rfl
@[simp] theorem State.emit_uregs (s : State) (o : Out) : (s.emit o).uregs = s.uregs := rfl
@[simp] theorem State.emit_toSend (s : State) (o : Out) : (s.emit o).toSend = s.toSend := rfl
@[simp] theorem State.emit_mem (s : State) (o : Out) : (s.emit o).mem = s.mem := rfl
@[simp] theorem State.emit_queues (s : State) (o : Out) : (s.emit o).queues = s.queues := rfl
@[simp] theorem State.emit_lost (s : State) (o : Out) : (s.emit o).lost = s.lost := rfl
@[simp] theorem State.emit_sync (s : State) (o : Out) : (s.emit o).sync = s.sync := rfl
@[simp] theorem State.emit_mv (s : State) (o : Out) : (s.emit o).mv = s.mv := rfl
@[simp] theorem State.emit_cs (s : State) (o : Out) : (s.emit o).cs = s.cs := rfl
@[simp] theorem State.emit_kv (s : State) (o : Out) : (s.emit o).kv = s.kv := rfl
@[simp] theorem State.emit_tier (s : State) (o : Out) : (s.emit o).tier = s.tier := rfl
@[simp] theorem State.emit_srt (s : State) (o : Out) : (s.emit o).srt = s.srt := rfl
@[simp] theorem State.emit_cx (s : State) (o : Out) : (s.emit o).cx = s.cx := rfl
@[simp] theorem State.emit_fw (s : State) (o : Out) : (s.emit o).fw = s.fw := rfl
@[simp] theorem State.emit_ola (s : State) (o : Out) : (s.emit o).ola = s.ola := rfl
@[simp] theorem State.emit_pw (s : State) (o : Out) : (s.emit o).pw = s.pw := rfl
@[simp] theorem State.emit_fl (s : State) (o : Out) : (s.emit o).fl = s.fl := rfl
@[simp] theorem State.emit_host (s : State) (o : Out) : (s.emit o).host = s.host := rfl
@[simp] theorem State.emit_start (s : State) (o : Out) : (s.emit o).start = s.start := rfl
@[simp] theorem State.emit_sec (s : State) (o : Out) : (s.emit o).sec = s.sec := rfl
@[simp] theorem State.emit_test (s : State) (o : Out) : (s.emit o).test = s.test := rfl
@[simp] theorem State.emit_flt (s : State) (o : Out) : (s.emit o).flt = s.flt := rfl
@[simp] theorem State.emit_pmc (s : State) (o : Out) : (s.emit o).pmc = s.pmc := rfl
@[simp] theorem State.emit_bwc (s : State) (o : Out) : (s.emit o).bwc = s.bwc := rfl
@[simp] theorem State.emit_drawn (s : State) (o : Out) : (s.emit o).drawn = s.drawn := rfl
@[simp] theorem State.emit_reg (s : State) (o : Out) (r' : RegName) (i' : Nat) : (s.emit o).reg r' i' = s.reg r' i' := rfl
@[simp] theorem State.emit_fld (s : State) (o : Out) (r' : RegName) (g' : Fl) (i' : Nat) : (s.emit o).fld r' g' i' = s.fld r' g' i' := rfl

/-! `mend` writes `test` alone. -/

@[simp] theorem State.mend_pending (s : State) (store : Nat) (p : Nat → Bool) : (s.mend store p).pending = s.pending := rfl
@[simp] theorem State.mend_regs (s : State) (store : Nat) (p : Nat → Bool) : (s.mend store p).regs = s.regs := rfl
@[simp] theorem State.mend_uregs (s : State) (store : Nat) (p : Nat → Bool) : (s.mend store p).uregs = s.uregs := rfl
@[simp] theorem State.mend_out (s : State) (store : Nat) (p : Nat → Bool) : (s.mend store p).out = s.out := rfl
@[simp] theorem State.mend_toSend (s : State) (store : Nat) (p : Nat → Bool) : (s.mend store p).toSend = s.toSend := rfl
@[simp] theorem State.mend_mem (s : State) (store : Nat) (p : Nat → Bool) : (s.mend store p).mem = s.mem := rfl
@[simp] theorem State.mend_queues (s : State) (store : Nat) (p : Nat → Bool) : (s.mend store p).queues = s.queues := rfl
@[simp] theorem State.mend_lost (s : State) (store : Nat) (p : Nat → Bool) : (s.mend store p).lost = s.lost := rfl
@[simp] theorem State.mend_sync (s : State) (store : Nat) (p : Nat → Bool) : (s.mend store p).sync = s.sync := rfl
@[simp] theorem State.mend_mv (s : State) (store : Nat) (p : Nat → Bool) : (s.mend store p).mv = s.mv := rfl
@[simp] theorem State.mend_cs (s : State) (store : Nat) (p : Nat → Bool) : (s.mend store p).cs = s.cs := rfl
@[simp] theorem State.mend_kv (s : State) (store : Nat) (p : Nat → Bool) : (s.mend store p).kv = s.kv := rfl
@[simp] theorem State.mend_tier (s : State) (store : Nat) (p : Nat → Bool) : (s.mend store p).tier = s.tier := rfl
@[simp] theorem State.mend_srt (s : State) (store : Nat) (p : Nat → Bool) : (s.mend store p).srt = s.srt := rfl
@[simp] theorem State.mend_cx (s : State) (store : Nat) (p : Nat → Bool) : (s.mend store p).cx = s.cx := rfl
@[simp] theorem State.mend_fw (s : State) (store : Nat) (p : Nat → Bool) : (s.mend store p).fw = s.fw := rfl
@[simp] theorem State.mend_ola (s : State) (store : Nat) (p : Nat → Bool) : (s.mend store p).ola = s.ola := rfl
@[simp] theorem State.mend_pw (s : State) (store : Nat) (p : Nat → Bool) : (s.mend store p).pw = s.pw := rfl
@[simp] theorem State.mend_fl (s : State) (store : Nat) (p : Nat → Bool) : (s.mend store p).fl = s.fl := rfl
@[simp] theorem State.mend_host (s : State) (store : Nat) (p : Nat → Bool) : (s.mend store p).host = s.host := rfl
@[simp] theorem State.mend_start (s : State) (store : Nat) (p : Nat → Bool) : (s.mend store p).start = s.start := rfl
@[simp] theorem State.mend_sec (s : State) (store : Nat) (p : Nat → Bool) : (s.mend store p).sec = s.sec := rfl
@[simp] theorem State.mend_flt (s : State) (store : Nat) (p : Nat → Bool) : (s.mend store p).flt = s.flt := rfl
@[simp] theorem State.mend_pmc (s : State) (store : Nat) (p : Nat → Bool) : (s.mend store p).pmc = s.pmc := rfl
@[simp] theorem State.mend_bwc (s : State) (store : Nat) (p : Nat → Bool) : (s.mend store p).bwc = s.bwc := rfl
@[simp] theorem State.mend_drawn (s : State) (store : Nat) (p : Nat → Bool) : (s.mend store p).drawn = s.drawn := rfl
@[simp] theorem State.mend_reg (s : State) (store : Nat) (p : Nat → Bool) (r' : RegName) (i' : Nat) : (s.mend store p).reg r' i' = s.reg r' i' := rfl
@[simp] theorem State.mend_fld (s : State) (store : Nat) (p : Nat → Bool) (r' : RegName) (g' : Fl) (i' : Nat) : (s.mend store p).fld r' g' i' = s.fld r' g' i' := rfl

/-! `loseEvent` writes `lost` alone. -/

@[simp] theorem State.loseEvent_pending (s : State) (i : Nat) : (s.loseEvent i).pending = s.pending := rfl
@[simp] theorem State.loseEvent_regs (s : State) (i : Nat) : (s.loseEvent i).regs = s.regs := rfl
@[simp] theorem State.loseEvent_uregs (s : State) (i : Nat) : (s.loseEvent i).uregs = s.uregs := rfl
@[simp] theorem State.loseEvent_out (s : State) (i : Nat) : (s.loseEvent i).out = s.out := rfl
@[simp] theorem State.loseEvent_toSend (s : State) (i : Nat) : (s.loseEvent i).toSend = s.toSend := rfl
@[simp] theorem State.loseEvent_mem (s : State) (i : Nat) : (s.loseEvent i).mem = s.mem := rfl
@[simp] theorem State.loseEvent_queues (s : State) (i : Nat) : (s.loseEvent i).queues = s.queues := rfl
@[simp] theorem State.loseEvent_sync (s : State) (i : Nat) : (s.loseEvent i).sync = s.sync := rfl
@[simp] theorem State.loseEvent_mv (s : State) (i : Nat) : (s.loseEvent i).mv = s.mv := rfl
@[simp] theorem State.loseEvent_cs (s : State) (i : Nat) : (s.loseEvent i).cs = s.cs := rfl
@[simp] theorem State.loseEvent_kv (s : State) (i : Nat) : (s.loseEvent i).kv = s.kv := rfl
@[simp] theorem State.loseEvent_tier (s : State) (i : Nat) : (s.loseEvent i).tier = s.tier := rfl
@[simp] theorem State.loseEvent_srt (s : State) (i : Nat) : (s.loseEvent i).srt = s.srt := rfl
@[simp] theorem State.loseEvent_cx (s : State) (i : Nat) : (s.loseEvent i).cx = s.cx := rfl
@[simp] theorem State.loseEvent_fw (s : State) (i : Nat) : (s.loseEvent i).fw = s.fw := rfl
@[simp] theorem State.loseEvent_ola (s : State) (i : Nat) : (s.loseEvent i).ola = s.ola := rfl
@[simp] theorem State.loseEvent_pw (s : State) (i : Nat) : (s.loseEvent i).pw = s.pw := rfl
@[simp] theorem State.loseEvent_fl (s : State) (i : Nat) : (s.loseEvent i).fl = s.fl := rfl
@[simp] theorem State.loseEvent_host (s : State) (i : Nat) : (s.loseEvent i).host = s.host := rfl
@[simp] theorem State.loseEvent_start (s : State) (i : Nat) : (s.loseEvent i).start = s.start := rfl
@[simp] theorem State.loseEvent_sec (s : State) (i : Nat) : (s.loseEvent i).sec = s.sec := rfl
@[simp] theorem State.loseEvent_test (s : State) (i : Nat) : (s.loseEvent i).test = s.test := rfl
@[simp] theorem State.loseEvent_flt (s : State) (i : Nat) : (s.loseEvent i).flt = s.flt := rfl
@[simp] theorem State.loseEvent_pmc (s : State) (i : Nat) : (s.loseEvent i).pmc = s.pmc := rfl
@[simp] theorem State.loseEvent_bwc (s : State) (i : Nat) : (s.loseEvent i).bwc = s.bwc := rfl
@[simp] theorem State.loseEvent_drawn (s : State) (i : Nat) : (s.loseEvent i).drawn = s.drawn := rfl
@[simp] theorem State.loseEvent_reg (s : State) (i : Nat) (r' : RegName) (i' : Nat) : (s.loseEvent i).reg r' i' = s.reg r' i' := rfl
@[simp] theorem State.loseEvent_fld (s : State) (i : Nat) (r' : RegName) (g' : Fl) (i' : Nat) : (s.loseEvent i).fld r' g' i' = s.fld r' g' i' := rfl

/-! `updQ` writes `queues` alone. -/

@[simp] theorem State.updQ_pending (s : State) (q : Nat) (f : Queue → Queue) : (s.updQ q f).pending = s.pending := rfl
@[simp] theorem State.updQ_regs (s : State) (q : Nat) (f : Queue → Queue) : (s.updQ q f).regs = s.regs := rfl
@[simp] theorem State.updQ_uregs (s : State) (q : Nat) (f : Queue → Queue) : (s.updQ q f).uregs = s.uregs := rfl
@[simp] theorem State.updQ_out (s : State) (q : Nat) (f : Queue → Queue) : (s.updQ q f).out = s.out := rfl
@[simp] theorem State.updQ_toSend (s : State) (q : Nat) (f : Queue → Queue) : (s.updQ q f).toSend = s.toSend := rfl
@[simp] theorem State.updQ_mem (s : State) (q : Nat) (f : Queue → Queue) : (s.updQ q f).mem = s.mem := rfl
@[simp] theorem State.updQ_lost (s : State) (q : Nat) (f : Queue → Queue) : (s.updQ q f).lost = s.lost := rfl
@[simp] theorem State.updQ_sync (s : State) (q : Nat) (f : Queue → Queue) : (s.updQ q f).sync = s.sync := rfl
@[simp] theorem State.updQ_mv (s : State) (q : Nat) (f : Queue → Queue) : (s.updQ q f).mv = s.mv := rfl
@[simp] theorem State.updQ_cs (s : State) (q : Nat) (f : Queue → Queue) : (s.updQ q f).cs = s.cs := rfl
@[simp] theorem State.updQ_kv (s : State) (q : Nat) (f : Queue → Queue) : (s.updQ q f).kv = s.kv := rfl
@[simp] theorem State.updQ_tier (s : State) (q : Nat) (f : Queue → Queue) : (s.updQ q f).tier = s.tier := rfl
@[simp] theorem State.updQ_srt (s : State) (q : Nat) (f : Queue → Queue) : (s.updQ q f).srt = s.srt := rfl
@[simp] theorem State.updQ_cx (s : State) (q : Nat) (f : Queue → Queue) : (s.updQ q f).cx = s.cx := rfl
@[simp] theorem State.updQ_fw (s : State) (q : Nat) (f : Queue → Queue) : (s.updQ q f).fw = s.fw := rfl
@[simp] theorem State.updQ_ola (s : State) (q : Nat) (f : Queue → Queue) : (s.updQ q f).ola = s.ola := rfl
@[simp] theorem State.updQ_pw (s : State) (q : Nat) (f : Queue → Queue) : (s.updQ q f).pw = s.pw := rfl
@[simp] theorem State.updQ_fl (s : State) (q : Nat) (f : Queue → Queue) : (s.updQ q f).fl = s.fl := rfl
@[simp] theorem State.updQ_host (s : State) (q : Nat) (f : Queue → Queue) : (s.updQ q f).host = s.host := rfl
@[simp] theorem State.updQ_start (s : State) (q : Nat) (f : Queue → Queue) : (s.updQ q f).start = s.start := rfl
@[simp] theorem State.updQ_sec (s : State) (q : Nat) (f : Queue → Queue) : (s.updQ q f).sec = s.sec := rfl
@[simp] theorem State.updQ_test (s : State) (q : Nat) (f : Queue → Queue) : (s.updQ q f).test = s.test := rfl
@[simp] theorem State.updQ_flt (s : State) (q : Nat) (f : Queue → Queue) : (s.updQ q f).flt = s.flt := rfl
@[simp] theorem State.updQ_pmc (s : State) (q : Nat) (f : Queue → Queue) : (s.updQ q f).pmc = s.pmc := rfl
@[simp] theorem State.updQ_bwc (s : State) (q : Nat) (f : Queue → Queue) : (s.updQ q f).bwc = s.bwc := rfl
@[simp] theorem State.updQ_drawn (s : State) (q : Nat) (f : Queue → Queue) : (s.updQ q f).drawn = s.drawn := rfl
@[simp] theorem State.updQ_reg (s : State) (q : Nat) (f : Queue → Queue) (r' : RegName) (i' : Nat) : (s.updQ q f).reg r' i' = s.reg r' i' := rfl
@[simp] theorem State.updQ_fld (s : State) (q : Nat) (f : Queue → Queue) (r' : RegName) (g' : Fl) (i' : Nat) : (s.updQ q f).fld r' g' i' = s.fld r' g' i' := rfl

/-! `sendSync` writes `sync` alone. -/

@[simp] theorem State.sendSync_pending (s : State) (op : SyncOp) : (s.sendSync op).pending = s.pending := rfl
@[simp] theorem State.sendSync_regs (s : State) (op : SyncOp) : (s.sendSync op).regs = s.regs := rfl
@[simp] theorem State.sendSync_uregs (s : State) (op : SyncOp) : (s.sendSync op).uregs = s.uregs := rfl
@[simp] theorem State.sendSync_out (s : State) (op : SyncOp) : (s.sendSync op).out = s.out := rfl
@[simp] theorem State.sendSync_toSend (s : State) (op : SyncOp) : (s.sendSync op).toSend = s.toSend := rfl
@[simp] theorem State.sendSync_mem (s : State) (op : SyncOp) : (s.sendSync op).mem = s.mem := rfl
@[simp] theorem State.sendSync_queues (s : State) (op : SyncOp) : (s.sendSync op).queues = s.queues := rfl
@[simp] theorem State.sendSync_lost (s : State) (op : SyncOp) : (s.sendSync op).lost = s.lost := rfl
@[simp] theorem State.sendSync_mv (s : State) (op : SyncOp) : (s.sendSync op).mv = s.mv := rfl
@[simp] theorem State.sendSync_cs (s : State) (op : SyncOp) : (s.sendSync op).cs = s.cs := rfl
@[simp] theorem State.sendSync_kv (s : State) (op : SyncOp) : (s.sendSync op).kv = s.kv := rfl
@[simp] theorem State.sendSync_tier (s : State) (op : SyncOp) : (s.sendSync op).tier = s.tier := rfl
@[simp] theorem State.sendSync_srt (s : State) (op : SyncOp) : (s.sendSync op).srt = s.srt := rfl
@[simp] theorem State.sendSync_cx (s : State) (op : SyncOp) : (s.sendSync op).cx = s.cx := rfl
@[simp] theorem State.sendSync_fw (s : State) (op : SyncOp) : (s.sendSync op).fw = s.fw := rfl
@[simp] theorem State.sendSync_ola (s : State) (op : SyncOp) : (s.sendSync op).ola = s.ola := rfl
@[simp] theorem State.sendSync_pw (s : State) (op : SyncOp) : (s.sendSync op).pw = s.pw := rfl
@[simp] theorem State.sendSync_fl (s : State) (op : SyncOp) : (s.sendSync op).fl = s.fl := rfl
@[simp] theorem State.sendSync_host (s : State) (op : SyncOp) : (s.sendSync op).host = s.host := rfl
@[simp] theorem State.sendSync_start (s : State) (op : SyncOp) : (s.sendSync op).start = s.start := rfl
@[simp] theorem State.sendSync_sec (s : State) (op : SyncOp) : (s.sendSync op).sec = s.sec := rfl
@[simp] theorem State.sendSync_test (s : State) (op : SyncOp) : (s.sendSync op).test = s.test := rfl
@[simp] theorem State.sendSync_flt (s : State) (op : SyncOp) : (s.sendSync op).flt = s.flt := rfl
@[simp] theorem State.sendSync_pmc (s : State) (op : SyncOp) : (s.sendSync op).pmc = s.pmc := rfl
@[simp] theorem State.sendSync_bwc (s : State) (op : SyncOp) : (s.sendSync op).bwc = s.bwc := rfl
@[simp] theorem State.sendSync_drawn (s : State) (op : SyncOp) : (s.sendSync op).drawn = s.drawn := rfl
@[simp] theorem State.sendSync_reg (s : State) (op : SyncOp) (r' : RegName) (i' : Nat) : (s.sendSync op).reg r' i' = s.reg r' i' := rfl
@[simp] theorem State.sendSync_fld (s : State) (op : SyncOp) (r' : RegName) (g' : Fl) (i' : Nat) : (s.sendSync op).fld r' g' i' = s.fld r' g' i' := rfl

/-! `updCore` writes `cs` alone. -/

@[simp] theorem State.updCore_pending (s : State) (c : Nat) (f : Core → Core) : (s.updCore c f).pending = s.pending := rfl
@[simp] theorem State.updCore_regs (s : State) (c : Nat) (f : Core → Core) : (s.updCore c f).regs = s.regs := rfl
@[simp] theorem State.updCore_uregs (s : State) (c : Nat) (f : Core → Core) : (s.updCore c f).uregs = s.uregs := rfl
@[simp] theorem State.updCore_out (s : State) (c : Nat) (f : Core → Core) : (s.updCore c f).out = s.out := rfl
@[simp] theorem State.updCore_toSend (s : State) (c : Nat) (f : Core → Core) : (s.updCore c f).toSend = s.toSend := rfl
@[simp] theorem State.updCore_mem (s : State) (c : Nat) (f : Core → Core) : (s.updCore c f).mem = s.mem := rfl
@[simp] theorem State.updCore_queues (s : State) (c : Nat) (f : Core → Core) : (s.updCore c f).queues = s.queues := rfl
@[simp] theorem State.updCore_lost (s : State) (c : Nat) (f : Core → Core) : (s.updCore c f).lost = s.lost := rfl
@[simp] theorem State.updCore_sync (s : State) (c : Nat) (f : Core → Core) : (s.updCore c f).sync = s.sync := rfl
@[simp] theorem State.updCore_mv (s : State) (c : Nat) (f : Core → Core) : (s.updCore c f).mv = s.mv := rfl
@[simp] theorem State.updCore_kv (s : State) (c : Nat) (f : Core → Core) : (s.updCore c f).kv = s.kv := rfl
@[simp] theorem State.updCore_tier (s : State) (c : Nat) (f : Core → Core) : (s.updCore c f).tier = s.tier := rfl
@[simp] theorem State.updCore_srt (s : State) (c : Nat) (f : Core → Core) : (s.updCore c f).srt = s.srt := rfl
@[simp] theorem State.updCore_cx (s : State) (c : Nat) (f : Core → Core) : (s.updCore c f).cx = s.cx := rfl
@[simp] theorem State.updCore_fw (s : State) (c : Nat) (f : Core → Core) : (s.updCore c f).fw = s.fw := rfl
@[simp] theorem State.updCore_ola (s : State) (c : Nat) (f : Core → Core) : (s.updCore c f).ola = s.ola := rfl
@[simp] theorem State.updCore_pw (s : State) (c : Nat) (f : Core → Core) : (s.updCore c f).pw = s.pw := rfl
@[simp] theorem State.updCore_fl (s : State) (c : Nat) (f : Core → Core) : (s.updCore c f).fl = s.fl := rfl
@[simp] theorem State.updCore_host (s : State) (c : Nat) (f : Core → Core) : (s.updCore c f).host = s.host := rfl
@[simp] theorem State.updCore_start (s : State) (c : Nat) (f : Core → Core) : (s.updCore c f).start = s.start := rfl
@[simp] theorem State.updCore_sec (s : State) (c : Nat) (f : Core → Core) : (s.updCore c f).sec = s.sec := rfl
@[simp] theorem State.updCore_test (s : State) (c : Nat) (f : Core → Core) : (s.updCore c f).test = s.test := rfl
@[simp] theorem State.updCore_flt (s : State) (c : Nat) (f : Core → Core) : (s.updCore c f).flt = s.flt := rfl
@[simp] theorem State.updCore_pmc (s : State) (c : Nat) (f : Core → Core) : (s.updCore c f).pmc = s.pmc := rfl
@[simp] theorem State.updCore_bwc (s : State) (c : Nat) (f : Core → Core) : (s.updCore c f).bwc = s.bwc := rfl
@[simp] theorem State.updCore_drawn (s : State) (c : Nat) (f : Core → Core) : (s.updCore c f).drawn = s.drawn := rfl
@[simp] theorem State.updCore_reg (s : State) (c : Nat) (f : Core → Core) (r' : RegName) (i' : Nat) : (s.updCore c f).reg r' i' = s.reg r' i' := rfl
@[simp] theorem State.updCore_fld (s : State) (c : Nat) (f : Core → Core) (r' : RegName) (g' : Fl) (i' : Nat) : (s.updCore c f).fld r' g' i' = s.fld r' g' i' := rfl

/-! `updSeqr` writes `cs` alone. -/

@[simp] theorem State.updSeqr_pending (s : State) (x : Nat) (cm : Nat) (f : Seqr → Seqr) : (s.updSeqr x cm f).pending = s.pending := rfl
@[simp] theorem State.updSeqr_regs (s : State) (x : Nat) (cm : Nat) (f : Seqr → Seqr) : (s.updSeqr x cm f).regs = s.regs := rfl
@[simp] theorem State.updSeqr_uregs (s : State) (x : Nat) (cm : Nat) (f : Seqr → Seqr) : (s.updSeqr x cm f).uregs = s.uregs := rfl
@[simp] theorem State.updSeqr_out (s : State) (x : Nat) (cm : Nat) (f : Seqr → Seqr) : (s.updSeqr x cm f).out = s.out := rfl
@[simp] theorem State.updSeqr_toSend (s : State) (x : Nat) (cm : Nat) (f : Seqr → Seqr) : (s.updSeqr x cm f).toSend = s.toSend := rfl
@[simp] theorem State.updSeqr_mem (s : State) (x : Nat) (cm : Nat) (f : Seqr → Seqr) : (s.updSeqr x cm f).mem = s.mem := rfl
@[simp] theorem State.updSeqr_queues (s : State) (x : Nat) (cm : Nat) (f : Seqr → Seqr) : (s.updSeqr x cm f).queues = s.queues := rfl
@[simp] theorem State.updSeqr_lost (s : State) (x : Nat) (cm : Nat) (f : Seqr → Seqr) : (s.updSeqr x cm f).lost = s.lost := rfl
@[simp] theorem State.updSeqr_sync (s : State) (x : Nat) (cm : Nat) (f : Seqr → Seqr) : (s.updSeqr x cm f).sync = s.sync := rfl
@[simp] theorem State.updSeqr_mv (s : State) (x : Nat) (cm : Nat) (f : Seqr → Seqr) : (s.updSeqr x cm f).mv = s.mv := rfl
@[simp] theorem State.updSeqr_kv (s : State) (x : Nat) (cm : Nat) (f : Seqr → Seqr) : (s.updSeqr x cm f).kv = s.kv := rfl
@[simp] theorem State.updSeqr_tier (s : State) (x : Nat) (cm : Nat) (f : Seqr → Seqr) : (s.updSeqr x cm f).tier = s.tier := rfl
@[simp] theorem State.updSeqr_srt (s : State) (x : Nat) (cm : Nat) (f : Seqr → Seqr) : (s.updSeqr x cm f).srt = s.srt := rfl
@[simp] theorem State.updSeqr_cx (s : State) (x : Nat) (cm : Nat) (f : Seqr → Seqr) : (s.updSeqr x cm f).cx = s.cx := rfl
@[simp] theorem State.updSeqr_fw (s : State) (x : Nat) (cm : Nat) (f : Seqr → Seqr) : (s.updSeqr x cm f).fw = s.fw := rfl
@[simp] theorem State.updSeqr_ola (s : State) (x : Nat) (cm : Nat) (f : Seqr → Seqr) : (s.updSeqr x cm f).ola = s.ola := rfl
@[simp] theorem State.updSeqr_pw (s : State) (x : Nat) (cm : Nat) (f : Seqr → Seqr) : (s.updSeqr x cm f).pw = s.pw := rfl
@[simp] theorem State.updSeqr_fl (s : State) (x : Nat) (cm : Nat) (f : Seqr → Seqr) : (s.updSeqr x cm f).fl = s.fl := rfl
@[simp] theorem State.updSeqr_host (s : State) (x : Nat) (cm : Nat) (f : Seqr → Seqr) : (s.updSeqr x cm f).host = s.host := rfl
@[simp] theorem State.updSeqr_start (s : State) (x : Nat) (cm : Nat) (f : Seqr → Seqr) : (s.updSeqr x cm f).start = s.start := rfl
@[simp] theorem State.updSeqr_sec (s : State) (x : Nat) (cm : Nat) (f : Seqr → Seqr) : (s.updSeqr x cm f).sec = s.sec := rfl
@[simp] theorem State.updSeqr_test (s : State) (x : Nat) (cm : Nat) (f : Seqr → Seqr) : (s.updSeqr x cm f).test = s.test := rfl
@[simp] theorem State.updSeqr_flt (s : State) (x : Nat) (cm : Nat) (f : Seqr → Seqr) : (s.updSeqr x cm f).flt = s.flt := rfl
@[simp] theorem State.updSeqr_pmc (s : State) (x : Nat) (cm : Nat) (f : Seqr → Seqr) : (s.updSeqr x cm f).pmc = s.pmc := rfl
@[simp] theorem State.updSeqr_bwc (s : State) (x : Nat) (cm : Nat) (f : Seqr → Seqr) : (s.updSeqr x cm f).bwc = s.bwc := rfl
@[simp] theorem State.updSeqr_drawn (s : State) (x : Nat) (cm : Nat) (f : Seqr → Seqr) : (s.updSeqr x cm f).drawn = s.drawn := rfl
@[simp] theorem State.updSeqr_reg (s : State) (x : Nat) (cm : Nat) (f : Seqr → Seqr) (r' : RegName) (i' : Nat) : (s.updSeqr x cm f).reg r' i' = s.reg r' i' := rfl
@[simp] theorem State.updSeqr_fld (s : State) (x : Nat) (cm : Nat) (f : Seqr → Seqr) (r' : RegName) (g' : Fl) (i' : Nat) : (s.updSeqr x cm f).fld r' g' i' = s.fld r' g' i' := rfl

/-! `accSet` writes `cs` alone. -/

@[simp] theorem State.accSet_pending (s : State) (c : Nat) (a : Nat) (row : Nat) (col : Nat) (v : F32) : (s.accSet c a row col v).pending = s.pending := rfl
@[simp] theorem State.accSet_regs (s : State) (c : Nat) (a : Nat) (row : Nat) (col : Nat) (v : F32) : (s.accSet c a row col v).regs = s.regs := rfl
@[simp] theorem State.accSet_uregs (s : State) (c : Nat) (a : Nat) (row : Nat) (col : Nat) (v : F32) : (s.accSet c a row col v).uregs = s.uregs := rfl
@[simp] theorem State.accSet_out (s : State) (c : Nat) (a : Nat) (row : Nat) (col : Nat) (v : F32) : (s.accSet c a row col v).out = s.out := rfl
@[simp] theorem State.accSet_toSend (s : State) (c : Nat) (a : Nat) (row : Nat) (col : Nat) (v : F32) : (s.accSet c a row col v).toSend = s.toSend := rfl
@[simp] theorem State.accSet_mem (s : State) (c : Nat) (a : Nat) (row : Nat) (col : Nat) (v : F32) : (s.accSet c a row col v).mem = s.mem := rfl
@[simp] theorem State.accSet_queues (s : State) (c : Nat) (a : Nat) (row : Nat) (col : Nat) (v : F32) : (s.accSet c a row col v).queues = s.queues := rfl
@[simp] theorem State.accSet_lost (s : State) (c : Nat) (a : Nat) (row : Nat) (col : Nat) (v : F32) : (s.accSet c a row col v).lost = s.lost := rfl
@[simp] theorem State.accSet_sync (s : State) (c : Nat) (a : Nat) (row : Nat) (col : Nat) (v : F32) : (s.accSet c a row col v).sync = s.sync := rfl
@[simp] theorem State.accSet_mv (s : State) (c : Nat) (a : Nat) (row : Nat) (col : Nat) (v : F32) : (s.accSet c a row col v).mv = s.mv := rfl
@[simp] theorem State.accSet_kv (s : State) (c : Nat) (a : Nat) (row : Nat) (col : Nat) (v : F32) : (s.accSet c a row col v).kv = s.kv := rfl
@[simp] theorem State.accSet_tier (s : State) (c : Nat) (a : Nat) (row : Nat) (col : Nat) (v : F32) : (s.accSet c a row col v).tier = s.tier := rfl
@[simp] theorem State.accSet_srt (s : State) (c : Nat) (a : Nat) (row : Nat) (col : Nat) (v : F32) : (s.accSet c a row col v).srt = s.srt := rfl
@[simp] theorem State.accSet_cx (s : State) (c : Nat) (a : Nat) (row : Nat) (col : Nat) (v : F32) : (s.accSet c a row col v).cx = s.cx := rfl
@[simp] theorem State.accSet_fw (s : State) (c : Nat) (a : Nat) (row : Nat) (col : Nat) (v : F32) : (s.accSet c a row col v).fw = s.fw := rfl
@[simp] theorem State.accSet_ola (s : State) (c : Nat) (a : Nat) (row : Nat) (col : Nat) (v : F32) : (s.accSet c a row col v).ola = s.ola := rfl
@[simp] theorem State.accSet_pw (s : State) (c : Nat) (a : Nat) (row : Nat) (col : Nat) (v : F32) : (s.accSet c a row col v).pw = s.pw := rfl
@[simp] theorem State.accSet_fl (s : State) (c : Nat) (a : Nat) (row : Nat) (col : Nat) (v : F32) : (s.accSet c a row col v).fl = s.fl := rfl
@[simp] theorem State.accSet_host (s : State) (c : Nat) (a : Nat) (row : Nat) (col : Nat) (v : F32) : (s.accSet c a row col v).host = s.host := rfl
@[simp] theorem State.accSet_start (s : State) (c : Nat) (a : Nat) (row : Nat) (col : Nat) (v : F32) : (s.accSet c a row col v).start = s.start := rfl
@[simp] theorem State.accSet_sec (s : State) (c : Nat) (a : Nat) (row : Nat) (col : Nat) (v : F32) : (s.accSet c a row col v).sec = s.sec := rfl
@[simp] theorem State.accSet_test (s : State) (c : Nat) (a : Nat) (row : Nat) (col : Nat) (v : F32) : (s.accSet c a row col v).test = s.test := rfl
@[simp] theorem State.accSet_flt (s : State) (c : Nat) (a : Nat) (row : Nat) (col : Nat) (v : F32) : (s.accSet c a row col v).flt = s.flt := rfl
@[simp] theorem State.accSet_pmc (s : State) (c : Nat) (a : Nat) (row : Nat) (col : Nat) (v : F32) : (s.accSet c a row col v).pmc = s.pmc := rfl
@[simp] theorem State.accSet_bwc (s : State) (c : Nat) (a : Nat) (row : Nat) (col : Nat) (v : F32) : (s.accSet c a row col v).bwc = s.bwc := rfl
@[simp] theorem State.accSet_drawn (s : State) (c : Nat) (a : Nat) (row : Nat) (col : Nat) (v : F32) : (s.accSet c a row col v).drawn = s.drawn := rfl
@[simp] theorem State.accSet_reg (s : State) (c : Nat) (a : Nat) (row : Nat) (col : Nat) (v : F32) (r' : RegName) (i' : Nat) : (s.accSet c a row col v).reg r' i' = s.reg r' i' := rfl
@[simp] theorem State.accSet_fld (s : State) (c : Nat) (a : Nat) (row : Nat) (col : Nat) (v : F32) (r' : RegName) (g' : Fl) (i' : Nat) : (s.accSet c a row col v).fld r' g' i' = s.fld r' g' i' := rfl

/-! `setVreg` writes `mem` alone. -/

@[simp] theorem State.setVreg_pending (s : State) (c : Nat) (r : Nat) (off : Nat) (bs : List Byte) : (s.setVreg c r off bs).pending = s.pending := rfl
@[simp] theorem State.setVreg_regs (s : State) (c : Nat) (r : Nat) (off : Nat) (bs : List Byte) : (s.setVreg c r off bs).regs = s.regs := rfl
@[simp] theorem State.setVreg_uregs (s : State) (c : Nat) (r : Nat) (off : Nat) (bs : List Byte) : (s.setVreg c r off bs).uregs = s.uregs := rfl
@[simp] theorem State.setVreg_out (s : State) (c : Nat) (r : Nat) (off : Nat) (bs : List Byte) : (s.setVreg c r off bs).out = s.out := rfl
@[simp] theorem State.setVreg_toSend (s : State) (c : Nat) (r : Nat) (off : Nat) (bs : List Byte) : (s.setVreg c r off bs).toSend = s.toSend := rfl
@[simp] theorem State.setVreg_queues (s : State) (c : Nat) (r : Nat) (off : Nat) (bs : List Byte) : (s.setVreg c r off bs).queues = s.queues := rfl
@[simp] theorem State.setVreg_lost (s : State) (c : Nat) (r : Nat) (off : Nat) (bs : List Byte) : (s.setVreg c r off bs).lost = s.lost := rfl
@[simp] theorem State.setVreg_sync (s : State) (c : Nat) (r : Nat) (off : Nat) (bs : List Byte) : (s.setVreg c r off bs).sync = s.sync := rfl
@[simp] theorem State.setVreg_mv (s : State) (c : Nat) (r : Nat) (off : Nat) (bs : List Byte) : (s.setVreg c r off bs).mv = s.mv := rfl
@[simp] theorem State.setVreg_cs (s : State) (c : Nat) (r : Nat) (off : Nat) (bs : List Byte) : (s.setVreg c r off bs).cs = s.cs := rfl
@[simp] theorem State.setVreg_kv (s : State) (c : Nat) (r : Nat) (off : Nat) (bs : List Byte) : (s.setVreg c r off bs).kv = s.kv := rfl
@[simp] theorem State.setVreg_tier (s : State) (c : Nat) (r : Nat) (off : Nat) (bs : List Byte) : (s.setVreg c r off bs).tier = s.tier := rfl
@[simp] theorem State.setVreg_srt (s : State) (c : Nat) (r : Nat) (off : Nat) (bs : List Byte) : (s.setVreg c r off bs).srt = s.srt := rfl
@[simp] theorem State.setVreg_cx (s : State) (c : Nat) (r : Nat) (off : Nat) (bs : List Byte) : (s.setVreg c r off bs).cx = s.cx := rfl
@[simp] theorem State.setVreg_fw (s : State) (c : Nat) (r : Nat) (off : Nat) (bs : List Byte) : (s.setVreg c r off bs).fw = s.fw := rfl
@[simp] theorem State.setVreg_ola (s : State) (c : Nat) (r : Nat) (off : Nat) (bs : List Byte) : (s.setVreg c r off bs).ola = s.ola := rfl
@[simp] theorem State.setVreg_pw (s : State) (c : Nat) (r : Nat) (off : Nat) (bs : List Byte) : (s.setVreg c r off bs).pw = s.pw := rfl
@[simp] theorem State.setVreg_fl (s : State) (c : Nat) (r : Nat) (off : Nat) (bs : List Byte) : (s.setVreg c r off bs).fl = s.fl := rfl
@[simp] theorem State.setVreg_host (s : State) (c : Nat) (r : Nat) (off : Nat) (bs : List Byte) : (s.setVreg c r off bs).host = s.host := rfl
@[simp] theorem State.setVreg_start (s : State) (c : Nat) (r : Nat) (off : Nat) (bs : List Byte) : (s.setVreg c r off bs).start = s.start := rfl
@[simp] theorem State.setVreg_sec (s : State) (c : Nat) (r : Nat) (off : Nat) (bs : List Byte) : (s.setVreg c r off bs).sec = s.sec := rfl
@[simp] theorem State.setVreg_test (s : State) (c : Nat) (r : Nat) (off : Nat) (bs : List Byte) : (s.setVreg c r off bs).test = s.test := rfl
@[simp] theorem State.setVreg_flt (s : State) (c : Nat) (r : Nat) (off : Nat) (bs : List Byte) : (s.setVreg c r off bs).flt = s.flt := rfl
@[simp] theorem State.setVreg_pmc (s : State) (c : Nat) (r : Nat) (off : Nat) (bs : List Byte) : (s.setVreg c r off bs).pmc = s.pmc := rfl
@[simp] theorem State.setVreg_bwc (s : State) (c : Nat) (r : Nat) (off : Nat) (bs : List Byte) : (s.setVreg c r off bs).bwc = s.bwc := rfl
@[simp] theorem State.setVreg_drawn (s : State) (c : Nat) (r : Nat) (off : Nat) (bs : List Byte) : (s.setVreg c r off bs).drawn = s.drawn := rfl
@[simp] theorem State.setVreg_reg (s : State) (c : Nat) (r : Nat) (off : Nat) (bs : List Byte) (r' : RegName) (i' : Nat) : (s.setVreg c r off bs).reg r' i' = s.reg r' i' := rfl
@[simp] theorem State.setVreg_fld (s : State) (c : Nat) (r : Nat) (off : Nat) (bs : List Byte) (r' : RegName) (g' : Fl) (i' : Nat) : (s.setVreg c r off bs).fld r' g' i' = s.fld r' g' i' := rfl

/-! `updPort` writes `ola` alone. -/

@[simp] theorem State.updPort_pending (s : State) (p : Nat) (f : OlaPort → OlaPort) : (s.updPort p f).pending = s.pending := rfl
@[simp] theorem State.updPort_regs (s : State) (p : Nat) (f : OlaPort → OlaPort) : (s.updPort p f).regs = s.regs := rfl
@[simp] theorem State.updPort_uregs (s : State) (p : Nat) (f : OlaPort → OlaPort) : (s.updPort p f).uregs = s.uregs := rfl
@[simp] theorem State.updPort_out (s : State) (p : Nat) (f : OlaPort → OlaPort) : (s.updPort p f).out = s.out := rfl
@[simp] theorem State.updPort_toSend (s : State) (p : Nat) (f : OlaPort → OlaPort) : (s.updPort p f).toSend = s.toSend := rfl
@[simp] theorem State.updPort_mem (s : State) (p : Nat) (f : OlaPort → OlaPort) : (s.updPort p f).mem = s.mem := rfl
@[simp] theorem State.updPort_queues (s : State) (p : Nat) (f : OlaPort → OlaPort) : (s.updPort p f).queues = s.queues := rfl
@[simp] theorem State.updPort_lost (s : State) (p : Nat) (f : OlaPort → OlaPort) : (s.updPort p f).lost = s.lost := rfl
@[simp] theorem State.updPort_sync (s : State) (p : Nat) (f : OlaPort → OlaPort) : (s.updPort p f).sync = s.sync := rfl
@[simp] theorem State.updPort_mv (s : State) (p : Nat) (f : OlaPort → OlaPort) : (s.updPort p f).mv = s.mv := rfl
@[simp] theorem State.updPort_cs (s : State) (p : Nat) (f : OlaPort → OlaPort) : (s.updPort p f).cs = s.cs := rfl
@[simp] theorem State.updPort_kv (s : State) (p : Nat) (f : OlaPort → OlaPort) : (s.updPort p f).kv = s.kv := rfl
@[simp] theorem State.updPort_tier (s : State) (p : Nat) (f : OlaPort → OlaPort) : (s.updPort p f).tier = s.tier := rfl
@[simp] theorem State.updPort_srt (s : State) (p : Nat) (f : OlaPort → OlaPort) : (s.updPort p f).srt = s.srt := rfl
@[simp] theorem State.updPort_cx (s : State) (p : Nat) (f : OlaPort → OlaPort) : (s.updPort p f).cx = s.cx := rfl
@[simp] theorem State.updPort_fw (s : State) (p : Nat) (f : OlaPort → OlaPort) : (s.updPort p f).fw = s.fw := rfl
@[simp] theorem State.updPort_pw (s : State) (p : Nat) (f : OlaPort → OlaPort) : (s.updPort p f).pw = s.pw := rfl
@[simp] theorem State.updPort_fl (s : State) (p : Nat) (f : OlaPort → OlaPort) : (s.updPort p f).fl = s.fl := rfl
@[simp] theorem State.updPort_host (s : State) (p : Nat) (f : OlaPort → OlaPort) : (s.updPort p f).host = s.host := rfl
@[simp] theorem State.updPort_start (s : State) (p : Nat) (f : OlaPort → OlaPort) : (s.updPort p f).start = s.start := rfl
@[simp] theorem State.updPort_sec (s : State) (p : Nat) (f : OlaPort → OlaPort) : (s.updPort p f).sec = s.sec := rfl
@[simp] theorem State.updPort_test (s : State) (p : Nat) (f : OlaPort → OlaPort) : (s.updPort p f).test = s.test := rfl
@[simp] theorem State.updPort_flt (s : State) (p : Nat) (f : OlaPort → OlaPort) : (s.updPort p f).flt = s.flt := rfl
@[simp] theorem State.updPort_pmc (s : State) (p : Nat) (f : OlaPort → OlaPort) : (s.updPort p f).pmc = s.pmc := rfl
@[simp] theorem State.updPort_bwc (s : State) (p : Nat) (f : OlaPort → OlaPort) : (s.updPort p f).bwc = s.bwc := rfl
@[simp] theorem State.updPort_drawn (s : State) (p : Nat) (f : OlaPort → OlaPort) : (s.updPort p f).drawn = s.drawn := rfl
@[simp] theorem State.updPort_reg (s : State) (p : Nat) (f : OlaPort → OlaPort) (r' : RegName) (i' : Nat) : (s.updPort p f).reg r' i' = s.reg r' i' := rfl
@[simp] theorem State.updPort_fld (s : State) (p : Nat) (f : OlaPort → OlaPort) (r' : RegName) (g' : Fl) (i' : Nat) : (s.updPort p f).fld r' g' i' = s.fld r' g' i' := rfl

/-! `setObj` writes `sync` alone. -/

@[simp] theorem State.setObj_pending (s : State) (k : ObjKey) (o : SyncObj) : (s.setObj k o).pending = s.pending := rfl
@[simp] theorem State.setObj_regs (s : State) (k : ObjKey) (o : SyncObj) : (s.setObj k o).regs = s.regs := rfl
@[simp] theorem State.setObj_uregs (s : State) (k : ObjKey) (o : SyncObj) : (s.setObj k o).uregs = s.uregs := rfl
@[simp] theorem State.setObj_out (s : State) (k : ObjKey) (o : SyncObj) : (s.setObj k o).out = s.out := rfl
@[simp] theorem State.setObj_toSend (s : State) (k : ObjKey) (o : SyncObj) : (s.setObj k o).toSend = s.toSend := rfl
@[simp] theorem State.setObj_mem (s : State) (k : ObjKey) (o : SyncObj) : (s.setObj k o).mem = s.mem := rfl
@[simp] theorem State.setObj_queues (s : State) (k : ObjKey) (o : SyncObj) : (s.setObj k o).queues = s.queues := rfl
@[simp] theorem State.setObj_lost (s : State) (k : ObjKey) (o : SyncObj) : (s.setObj k o).lost = s.lost := rfl
@[simp] theorem State.setObj_mv (s : State) (k : ObjKey) (o : SyncObj) : (s.setObj k o).mv = s.mv := rfl
@[simp] theorem State.setObj_cs (s : State) (k : ObjKey) (o : SyncObj) : (s.setObj k o).cs = s.cs := rfl
@[simp] theorem State.setObj_kv (s : State) (k : ObjKey) (o : SyncObj) : (s.setObj k o).kv = s.kv := rfl
@[simp] theorem State.setObj_tier (s : State) (k : ObjKey) (o : SyncObj) : (s.setObj k o).tier = s.tier := rfl
@[simp] theorem State.setObj_srt (s : State) (k : ObjKey) (o : SyncObj) : (s.setObj k o).srt = s.srt := rfl
@[simp] theorem State.setObj_cx (s : State) (k : ObjKey) (o : SyncObj) : (s.setObj k o).cx = s.cx := rfl
@[simp] theorem State.setObj_fw (s : State) (k : ObjKey) (o : SyncObj) : (s.setObj k o).fw = s.fw := rfl
@[simp] theorem State.setObj_ola (s : State) (k : ObjKey) (o : SyncObj) : (s.setObj k o).ola = s.ola := rfl
@[simp] theorem State.setObj_pw (s : State) (k : ObjKey) (o : SyncObj) : (s.setObj k o).pw = s.pw := rfl
@[simp] theorem State.setObj_fl (s : State) (k : ObjKey) (o : SyncObj) : (s.setObj k o).fl = s.fl := rfl
@[simp] theorem State.setObj_host (s : State) (k : ObjKey) (o : SyncObj) : (s.setObj k o).host = s.host := rfl
@[simp] theorem State.setObj_start (s : State) (k : ObjKey) (o : SyncObj) : (s.setObj k o).start = s.start := rfl
@[simp] theorem State.setObj_sec (s : State) (k : ObjKey) (o : SyncObj) : (s.setObj k o).sec = s.sec := rfl
@[simp] theorem State.setObj_test (s : State) (k : ObjKey) (o : SyncObj) : (s.setObj k o).test = s.test := rfl
@[simp] theorem State.setObj_flt (s : State) (k : ObjKey) (o : SyncObj) : (s.setObj k o).flt = s.flt := rfl
@[simp] theorem State.setObj_pmc (s : State) (k : ObjKey) (o : SyncObj) : (s.setObj k o).pmc = s.pmc := rfl
@[simp] theorem State.setObj_bwc (s : State) (k : ObjKey) (o : SyncObj) : (s.setObj k o).bwc = s.bwc := rfl
@[simp] theorem State.setObj_drawn (s : State) (k : ObjKey) (o : SyncObj) : (s.setObj k o).drawn = s.drawn := rfl
@[simp] theorem State.setObj_reg (s : State) (k : ObjKey) (o : SyncObj) (r' : RegName) (i' : Nat) : (s.setObj k o).reg r' i' = s.reg r' i' := rfl
@[simp] theorem State.setObj_fld (s : State) (k : ObjKey) (o : SyncObj) (r' : RegName) (g' : Fl) (i' : Nat) : (s.setObj k o).fld r' g' i' = s.fld r' g' i' := rfl

/-! `takeOp` writes `sync` alone. -/

@[simp] theorem State.takeOp_pending (s : State) (i : Nat) : (s.takeOp i).pending = s.pending := rfl
@[simp] theorem State.takeOp_regs (s : State) (i : Nat) : (s.takeOp i).regs = s.regs := rfl
@[simp] theorem State.takeOp_uregs (s : State) (i : Nat) : (s.takeOp i).uregs = s.uregs := rfl
@[simp] theorem State.takeOp_out (s : State) (i : Nat) : (s.takeOp i).out = s.out := rfl
@[simp] theorem State.takeOp_toSend (s : State) (i : Nat) : (s.takeOp i).toSend = s.toSend := rfl
@[simp] theorem State.takeOp_mem (s : State) (i : Nat) : (s.takeOp i).mem = s.mem := rfl
@[simp] theorem State.takeOp_queues (s : State) (i : Nat) : (s.takeOp i).queues = s.queues := rfl
@[simp] theorem State.takeOp_lost (s : State) (i : Nat) : (s.takeOp i).lost = s.lost := rfl
@[simp] theorem State.takeOp_mv (s : State) (i : Nat) : (s.takeOp i).mv = s.mv := rfl
@[simp] theorem State.takeOp_cs (s : State) (i : Nat) : (s.takeOp i).cs = s.cs := rfl
@[simp] theorem State.takeOp_kv (s : State) (i : Nat) : (s.takeOp i).kv = s.kv := rfl
@[simp] theorem State.takeOp_tier (s : State) (i : Nat) : (s.takeOp i).tier = s.tier := rfl
@[simp] theorem State.takeOp_srt (s : State) (i : Nat) : (s.takeOp i).srt = s.srt := rfl
@[simp] theorem State.takeOp_cx (s : State) (i : Nat) : (s.takeOp i).cx = s.cx := rfl
@[simp] theorem State.takeOp_fw (s : State) (i : Nat) : (s.takeOp i).fw = s.fw := rfl
@[simp] theorem State.takeOp_ola (s : State) (i : Nat) : (s.takeOp i).ola = s.ola := rfl
@[simp] theorem State.takeOp_pw (s : State) (i : Nat) : (s.takeOp i).pw = s.pw := rfl
@[simp] theorem State.takeOp_fl (s : State) (i : Nat) : (s.takeOp i).fl = s.fl := rfl
@[simp] theorem State.takeOp_host (s : State) (i : Nat) : (s.takeOp i).host = s.host := rfl
@[simp] theorem State.takeOp_start (s : State) (i : Nat) : (s.takeOp i).start = s.start := rfl
@[simp] theorem State.takeOp_sec (s : State) (i : Nat) : (s.takeOp i).sec = s.sec := rfl
@[simp] theorem State.takeOp_test (s : State) (i : Nat) : (s.takeOp i).test = s.test := rfl
@[simp] theorem State.takeOp_flt (s : State) (i : Nat) : (s.takeOp i).flt = s.flt := rfl
@[simp] theorem State.takeOp_pmc (s : State) (i : Nat) : (s.takeOp i).pmc = s.pmc := rfl
@[simp] theorem State.takeOp_bwc (s : State) (i : Nat) : (s.takeOp i).bwc = s.bwc := rfl
@[simp] theorem State.takeOp_drawn (s : State) (i : Nat) : (s.takeOp i).drawn = s.drawn := rfl
@[simp] theorem State.takeOp_reg (s : State) (i : Nat) (r' : RegName) (i' : Nat) : (s.takeOp i).reg r' i' = s.reg r' i' := rfl
@[simp] theorem State.takeOp_fld (s : State) (i : Nat) (r' : RegName) (g' : Fl) (i' : Nat) : (s.takeOp i).fld r' g' i' = s.fld r' g' i' := rfl

/-! `setMap` writes `fl` alone. -/

@[simp] theorem State.setMap_pending (s : State) (r : Nat) (u : Nat) (e : BitVec 64) : (s.setMap r u e).pending = s.pending := rfl
@[simp] theorem State.setMap_regs (s : State) (r : Nat) (u : Nat) (e : BitVec 64) : (s.setMap r u e).regs = s.regs := rfl
@[simp] theorem State.setMap_uregs (s : State) (r : Nat) (u : Nat) (e : BitVec 64) : (s.setMap r u e).uregs = s.uregs := rfl
@[simp] theorem State.setMap_out (s : State) (r : Nat) (u : Nat) (e : BitVec 64) : (s.setMap r u e).out = s.out := rfl
@[simp] theorem State.setMap_toSend (s : State) (r : Nat) (u : Nat) (e : BitVec 64) : (s.setMap r u e).toSend = s.toSend := rfl
@[simp] theorem State.setMap_mem (s : State) (r : Nat) (u : Nat) (e : BitVec 64) : (s.setMap r u e).mem = s.mem := rfl
@[simp] theorem State.setMap_queues (s : State) (r : Nat) (u : Nat) (e : BitVec 64) : (s.setMap r u e).queues = s.queues := rfl
@[simp] theorem State.setMap_lost (s : State) (r : Nat) (u : Nat) (e : BitVec 64) : (s.setMap r u e).lost = s.lost := rfl
@[simp] theorem State.setMap_sync (s : State) (r : Nat) (u : Nat) (e : BitVec 64) : (s.setMap r u e).sync = s.sync := rfl
@[simp] theorem State.setMap_mv (s : State) (r : Nat) (u : Nat) (e : BitVec 64) : (s.setMap r u e).mv = s.mv := rfl
@[simp] theorem State.setMap_cs (s : State) (r : Nat) (u : Nat) (e : BitVec 64) : (s.setMap r u e).cs = s.cs := rfl
@[simp] theorem State.setMap_kv (s : State) (r : Nat) (u : Nat) (e : BitVec 64) : (s.setMap r u e).kv = s.kv := rfl
@[simp] theorem State.setMap_tier (s : State) (r : Nat) (u : Nat) (e : BitVec 64) : (s.setMap r u e).tier = s.tier := rfl
@[simp] theorem State.setMap_srt (s : State) (r : Nat) (u : Nat) (e : BitVec 64) : (s.setMap r u e).srt = s.srt := rfl
@[simp] theorem State.setMap_cx (s : State) (r : Nat) (u : Nat) (e : BitVec 64) : (s.setMap r u e).cx = s.cx := rfl
@[simp] theorem State.setMap_fw (s : State) (r : Nat) (u : Nat) (e : BitVec 64) : (s.setMap r u e).fw = s.fw := rfl
@[simp] theorem State.setMap_ola (s : State) (r : Nat) (u : Nat) (e : BitVec 64) : (s.setMap r u e).ola = s.ola := rfl
@[simp] theorem State.setMap_pw (s : State) (r : Nat) (u : Nat) (e : BitVec 64) : (s.setMap r u e).pw = s.pw := rfl
@[simp] theorem State.setMap_host (s : State) (r : Nat) (u : Nat) (e : BitVec 64) : (s.setMap r u e).host = s.host := rfl
@[simp] theorem State.setMap_start (s : State) (r : Nat) (u : Nat) (e : BitVec 64) : (s.setMap r u e).start = s.start := rfl
@[simp] theorem State.setMap_sec (s : State) (r : Nat) (u : Nat) (e : BitVec 64) : (s.setMap r u e).sec = s.sec := rfl
@[simp] theorem State.setMap_test (s : State) (r : Nat) (u : Nat) (e : BitVec 64) : (s.setMap r u e).test = s.test := rfl
@[simp] theorem State.setMap_flt (s : State) (r : Nat) (u : Nat) (e : BitVec 64) : (s.setMap r u e).flt = s.flt := rfl
@[simp] theorem State.setMap_pmc (s : State) (r : Nat) (u : Nat) (e : BitVec 64) : (s.setMap r u e).pmc = s.pmc := rfl
@[simp] theorem State.setMap_bwc (s : State) (r : Nat) (u : Nat) (e : BitVec 64) : (s.setMap r u e).bwc = s.bwc := rfl
@[simp] theorem State.setMap_drawn (s : State) (r : Nat) (u : Nat) (e : BitVec 64) : (s.setMap r u e).drawn = s.drawn := rfl
@[simp] theorem State.setMap_reg (s : State) (r : Nat) (u : Nat) (e : BitVec 64) (r' : RegName) (i' : Nat) : (s.setMap r u e).reg r' i' = s.reg r' i' := rfl
@[simp] theorem State.setMap_fld (s : State) (r : Nat) (u : Nat) (e : BitVec 64) (r' : RegName) (g' : Fl) (i' : Nat) : (s.setMap r u e).fld r' g' i' = s.fld r' g' i' := rfl

/-! `updCourier` writes `mv` alone. -/

@[simp] theorem State.updCourier_pending (s : State) (k : Nat) (f : Courier → Courier) : (s.updCourier k f).pending = s.pending := rfl
@[simp] theorem State.updCourier_regs (s : State) (k : Nat) (f : Courier → Courier) : (s.updCourier k f).regs = s.regs := rfl
@[simp] theorem State.updCourier_uregs (s : State) (k : Nat) (f : Courier → Courier) : (s.updCourier k f).uregs = s.uregs := rfl
@[simp] theorem State.updCourier_out (s : State) (k : Nat) (f : Courier → Courier) : (s.updCourier k f).out = s.out := rfl
@[simp] theorem State.updCourier_toSend (s : State) (k : Nat) (f : Courier → Courier) : (s.updCourier k f).toSend = s.toSend := rfl
@[simp] theorem State.updCourier_mem (s : State) (k : Nat) (f : Courier → Courier) : (s.updCourier k f).mem = s.mem := rfl
@[simp] theorem State.updCourier_queues (s : State) (k : Nat) (f : Courier → Courier) : (s.updCourier k f).queues = s.queues := rfl
@[simp] theorem State.updCourier_lost (s : State) (k : Nat) (f : Courier → Courier) : (s.updCourier k f).lost = s.lost := rfl
@[simp] theorem State.updCourier_sync (s : State) (k : Nat) (f : Courier → Courier) : (s.updCourier k f).sync = s.sync := rfl
@[simp] theorem State.updCourier_cs (s : State) (k : Nat) (f : Courier → Courier) : (s.updCourier k f).cs = s.cs := rfl
@[simp] theorem State.updCourier_kv (s : State) (k : Nat) (f : Courier → Courier) : (s.updCourier k f).kv = s.kv := rfl
@[simp] theorem State.updCourier_tier (s : State) (k : Nat) (f : Courier → Courier) : (s.updCourier k f).tier = s.tier := rfl
@[simp] theorem State.updCourier_srt (s : State) (k : Nat) (f : Courier → Courier) : (s.updCourier k f).srt = s.srt := rfl
@[simp] theorem State.updCourier_cx (s : State) (k : Nat) (f : Courier → Courier) : (s.updCourier k f).cx = s.cx := rfl
@[simp] theorem State.updCourier_fw (s : State) (k : Nat) (f : Courier → Courier) : (s.updCourier k f).fw = s.fw := rfl
@[simp] theorem State.updCourier_ola (s : State) (k : Nat) (f : Courier → Courier) : (s.updCourier k f).ola = s.ola := rfl
@[simp] theorem State.updCourier_pw (s : State) (k : Nat) (f : Courier → Courier) : (s.updCourier k f).pw = s.pw := rfl
@[simp] theorem State.updCourier_fl (s : State) (k : Nat) (f : Courier → Courier) : (s.updCourier k f).fl = s.fl := rfl
@[simp] theorem State.updCourier_host (s : State) (k : Nat) (f : Courier → Courier) : (s.updCourier k f).host = s.host := rfl
@[simp] theorem State.updCourier_start (s : State) (k : Nat) (f : Courier → Courier) : (s.updCourier k f).start = s.start := rfl
@[simp] theorem State.updCourier_sec (s : State) (k : Nat) (f : Courier → Courier) : (s.updCourier k f).sec = s.sec := rfl
@[simp] theorem State.updCourier_test (s : State) (k : Nat) (f : Courier → Courier) : (s.updCourier k f).test = s.test := rfl
@[simp] theorem State.updCourier_flt (s : State) (k : Nat) (f : Courier → Courier) : (s.updCourier k f).flt = s.flt := rfl
@[simp] theorem State.updCourier_pmc (s : State) (k : Nat) (f : Courier → Courier) : (s.updCourier k f).pmc = s.pmc := rfl
@[simp] theorem State.updCourier_bwc (s : State) (k : Nat) (f : Courier → Courier) : (s.updCourier k f).bwc = s.bwc := rfl
@[simp] theorem State.updCourier_drawn (s : State) (k : Nat) (f : Courier → Courier) : (s.updCourier k f).drawn = s.drawn := rfl
@[simp] theorem State.updCourier_reg (s : State) (k : Nat) (f : Courier → Courier) (r' : RegName) (i' : Nat) : (s.updCourier k f).reg r' i' = s.reg r' i' := rfl
@[simp] theorem State.updCourier_fld (s : State) (k : Nat) (f : Courier → Courier) (r' : RegName) (g' : Fl) (i' : Nat) : (s.updCourier k f).fld r' g' i' = s.fld r' g' i' := rfl

/-! `addReq` writes `mv` alone. -/

@[simp] theorem State.addReq_pending (s : State) (r : Req) : (s.addReq r).pending = s.pending := rfl
@[simp] theorem State.addReq_regs (s : State) (r : Req) : (s.addReq r).regs = s.regs := rfl
@[simp] theorem State.addReq_uregs (s : State) (r : Req) : (s.addReq r).uregs = s.uregs := rfl
@[simp] theorem State.addReq_out (s : State) (r : Req) : (s.addReq r).out = s.out := rfl
@[simp] theorem State.addReq_toSend (s : State) (r : Req) : (s.addReq r).toSend = s.toSend := rfl
@[simp] theorem State.addReq_mem (s : State) (r : Req) : (s.addReq r).mem = s.mem := rfl
@[simp] theorem State.addReq_queues (s : State) (r : Req) : (s.addReq r).queues = s.queues := rfl
@[simp] theorem State.addReq_lost (s : State) (r : Req) : (s.addReq r).lost = s.lost := rfl
@[simp] theorem State.addReq_sync (s : State) (r : Req) : (s.addReq r).sync = s.sync := rfl
@[simp] theorem State.addReq_cs (s : State) (r : Req) : (s.addReq r).cs = s.cs := rfl
@[simp] theorem State.addReq_kv (s : State) (r : Req) : (s.addReq r).kv = s.kv := rfl
@[simp] theorem State.addReq_tier (s : State) (r : Req) : (s.addReq r).tier = s.tier := rfl
@[simp] theorem State.addReq_srt (s : State) (r : Req) : (s.addReq r).srt = s.srt := rfl
@[simp] theorem State.addReq_cx (s : State) (r : Req) : (s.addReq r).cx = s.cx := rfl
@[simp] theorem State.addReq_fw (s : State) (r : Req) : (s.addReq r).fw = s.fw := rfl
@[simp] theorem State.addReq_ola (s : State) (r : Req) : (s.addReq r).ola = s.ola := rfl
@[simp] theorem State.addReq_pw (s : State) (r : Req) : (s.addReq r).pw = s.pw := rfl
@[simp] theorem State.addReq_fl (s : State) (r : Req) : (s.addReq r).fl = s.fl := rfl
@[simp] theorem State.addReq_host (s : State) (r : Req) : (s.addReq r).host = s.host := rfl
@[simp] theorem State.addReq_start (s : State) (r : Req) : (s.addReq r).start = s.start := rfl
@[simp] theorem State.addReq_sec (s : State) (r : Req) : (s.addReq r).sec = s.sec := rfl
@[simp] theorem State.addReq_test (s : State) (r : Req) : (s.addReq r).test = s.test := rfl
@[simp] theorem State.addReq_flt (s : State) (r : Req) : (s.addReq r).flt = s.flt := rfl
@[simp] theorem State.addReq_pmc (s : State) (r : Req) : (s.addReq r).pmc = s.pmc := rfl
@[simp] theorem State.addReq_bwc (s : State) (r : Req) : (s.addReq r).bwc = s.bwc := rfl
@[simp] theorem State.addReq_drawn (s : State) (r : Req) : (s.addReq r).drawn = s.drawn := rfl
@[simp] theorem State.addReq_reg (s : State) (r : Req) (r' : RegName) (i' : Nat) : (s.addReq r).reg r' i' = s.reg r' i' := rfl
@[simp] theorem State.addReq_fld (s : State) (r : Req) (r' : RegName) (g' : Fl) (i' : Nat) : (s.addReq r).fld r' g' i' = s.fld r' g' i' := rfl

/-! `dropReq` writes `mv` alone. -/

@[simp] theorem State.dropReq_pending (s : State) (tag : Nat) : (s.dropReq tag).pending = s.pending := rfl
@[simp] theorem State.dropReq_regs (s : State) (tag : Nat) : (s.dropReq tag).regs = s.regs := rfl
@[simp] theorem State.dropReq_uregs (s : State) (tag : Nat) : (s.dropReq tag).uregs = s.uregs := rfl
@[simp] theorem State.dropReq_out (s : State) (tag : Nat) : (s.dropReq tag).out = s.out := rfl
@[simp] theorem State.dropReq_toSend (s : State) (tag : Nat) : (s.dropReq tag).toSend = s.toSend := rfl
@[simp] theorem State.dropReq_mem (s : State) (tag : Nat) : (s.dropReq tag).mem = s.mem := rfl
@[simp] theorem State.dropReq_queues (s : State) (tag : Nat) : (s.dropReq tag).queues = s.queues := rfl
@[simp] theorem State.dropReq_lost (s : State) (tag : Nat) : (s.dropReq tag).lost = s.lost := rfl
@[simp] theorem State.dropReq_sync (s : State) (tag : Nat) : (s.dropReq tag).sync = s.sync := rfl
@[simp] theorem State.dropReq_cs (s : State) (tag : Nat) : (s.dropReq tag).cs = s.cs := rfl
@[simp] theorem State.dropReq_kv (s : State) (tag : Nat) : (s.dropReq tag).kv = s.kv := rfl
@[simp] theorem State.dropReq_tier (s : State) (tag : Nat) : (s.dropReq tag).tier = s.tier := rfl
@[simp] theorem State.dropReq_srt (s : State) (tag : Nat) : (s.dropReq tag).srt = s.srt := rfl
@[simp] theorem State.dropReq_cx (s : State) (tag : Nat) : (s.dropReq tag).cx = s.cx := rfl
@[simp] theorem State.dropReq_fw (s : State) (tag : Nat) : (s.dropReq tag).fw = s.fw := rfl
@[simp] theorem State.dropReq_ola (s : State) (tag : Nat) : (s.dropReq tag).ola = s.ola := rfl
@[simp] theorem State.dropReq_pw (s : State) (tag : Nat) : (s.dropReq tag).pw = s.pw := rfl
@[simp] theorem State.dropReq_fl (s : State) (tag : Nat) : (s.dropReq tag).fl = s.fl := rfl
@[simp] theorem State.dropReq_host (s : State) (tag : Nat) : (s.dropReq tag).host = s.host := rfl
@[simp] theorem State.dropReq_start (s : State) (tag : Nat) : (s.dropReq tag).start = s.start := rfl
@[simp] theorem State.dropReq_sec (s : State) (tag : Nat) : (s.dropReq tag).sec = s.sec := rfl
@[simp] theorem State.dropReq_test (s : State) (tag : Nat) : (s.dropReq tag).test = s.test := rfl
@[simp] theorem State.dropReq_flt (s : State) (tag : Nat) : (s.dropReq tag).flt = s.flt := rfl
@[simp] theorem State.dropReq_pmc (s : State) (tag : Nat) : (s.dropReq tag).pmc = s.pmc := rfl
@[simp] theorem State.dropReq_bwc (s : State) (tag : Nat) : (s.dropReq tag).bwc = s.bwc := rfl
@[simp] theorem State.dropReq_drawn (s : State) (tag : Nat) : (s.dropReq tag).drawn = s.drawn := rfl
@[simp] theorem State.dropReq_reg (s : State) (tag : Nat) (r' : RegName) (i' : Nat) : (s.dropReq tag).reg r' i' = s.reg r' i' := rfl
@[simp] theorem State.dropReq_fld (s : State) (tag : Nat) (r' : RegName) (g' : Fl) (i' : Nat) : (s.dropReq tag).fld r' g' i' = s.fld r' g' i' := rfl

/-! `updLace` writes `mv` alone. -/

@[simp] theorem State.updLace_pending (s : State) (cl : Nat) (f : Lace → Lace) : (s.updLace cl f).pending = s.pending := rfl
@[simp] theorem State.updLace_regs (s : State) (cl : Nat) (f : Lace → Lace) : (s.updLace cl f).regs = s.regs := rfl
@[simp] theorem State.updLace_uregs (s : State) (cl : Nat) (f : Lace → Lace) : (s.updLace cl f).uregs = s.uregs := rfl
@[simp] theorem State.updLace_out (s : State) (cl : Nat) (f : Lace → Lace) : (s.updLace cl f).out = s.out := rfl
@[simp] theorem State.updLace_toSend (s : State) (cl : Nat) (f : Lace → Lace) : (s.updLace cl f).toSend = s.toSend := rfl
@[simp] theorem State.updLace_mem (s : State) (cl : Nat) (f : Lace → Lace) : (s.updLace cl f).mem = s.mem := rfl
@[simp] theorem State.updLace_queues (s : State) (cl : Nat) (f : Lace → Lace) : (s.updLace cl f).queues = s.queues := rfl
@[simp] theorem State.updLace_lost (s : State) (cl : Nat) (f : Lace → Lace) : (s.updLace cl f).lost = s.lost := rfl
@[simp] theorem State.updLace_sync (s : State) (cl : Nat) (f : Lace → Lace) : (s.updLace cl f).sync = s.sync := rfl
@[simp] theorem State.updLace_cs (s : State) (cl : Nat) (f : Lace → Lace) : (s.updLace cl f).cs = s.cs := rfl
@[simp] theorem State.updLace_kv (s : State) (cl : Nat) (f : Lace → Lace) : (s.updLace cl f).kv = s.kv := rfl
@[simp] theorem State.updLace_tier (s : State) (cl : Nat) (f : Lace → Lace) : (s.updLace cl f).tier = s.tier := rfl
@[simp] theorem State.updLace_srt (s : State) (cl : Nat) (f : Lace → Lace) : (s.updLace cl f).srt = s.srt := rfl
@[simp] theorem State.updLace_cx (s : State) (cl : Nat) (f : Lace → Lace) : (s.updLace cl f).cx = s.cx := rfl
@[simp] theorem State.updLace_fw (s : State) (cl : Nat) (f : Lace → Lace) : (s.updLace cl f).fw = s.fw := rfl
@[simp] theorem State.updLace_ola (s : State) (cl : Nat) (f : Lace → Lace) : (s.updLace cl f).ola = s.ola := rfl
@[simp] theorem State.updLace_pw (s : State) (cl : Nat) (f : Lace → Lace) : (s.updLace cl f).pw = s.pw := rfl
@[simp] theorem State.updLace_fl (s : State) (cl : Nat) (f : Lace → Lace) : (s.updLace cl f).fl = s.fl := rfl
@[simp] theorem State.updLace_host (s : State) (cl : Nat) (f : Lace → Lace) : (s.updLace cl f).host = s.host := rfl
@[simp] theorem State.updLace_start (s : State) (cl : Nat) (f : Lace → Lace) : (s.updLace cl f).start = s.start := rfl
@[simp] theorem State.updLace_sec (s : State) (cl : Nat) (f : Lace → Lace) : (s.updLace cl f).sec = s.sec := rfl
@[simp] theorem State.updLace_test (s : State) (cl : Nat) (f : Lace → Lace) : (s.updLace cl f).test = s.test := rfl
@[simp] theorem State.updLace_flt (s : State) (cl : Nat) (f : Lace → Lace) : (s.updLace cl f).flt = s.flt := rfl
@[simp] theorem State.updLace_pmc (s : State) (cl : Nat) (f : Lace → Lace) : (s.updLace cl f).pmc = s.pmc := rfl
@[simp] theorem State.updLace_bwc (s : State) (cl : Nat) (f : Lace → Lace) : (s.updLace cl f).bwc = s.bwc := rfl
@[simp] theorem State.updLace_drawn (s : State) (cl : Nat) (f : Lace → Lace) : (s.updLace cl f).drawn = s.drawn := rfl
@[simp] theorem State.updLace_reg (s : State) (cl : Nat) (f : Lace → Lace) (r' : RegName) (i' : Nat) : (s.updLace cl f).reg r' i' = s.reg r' i' := rfl
@[simp] theorem State.updLace_fld (s : State) (cl : Nat) (f : Lace → Lace) (r' : RegName) (g' : Fl) (i' : Nat) : (s.updLace cl f).fld r' g' i' = s.fld r' g' i' := rfl

/-! `cacheInv` writes `srt` alone. -/

@[simp] theorem State.cacheInv_pending (s : State) (p : Nat → Bool) : (s.cacheInv p).pending = s.pending := rfl
@[simp] theorem State.cacheInv_regs (s : State) (p : Nat → Bool) : (s.cacheInv p).regs = s.regs := rfl
@[simp] theorem State.cacheInv_uregs (s : State) (p : Nat → Bool) : (s.cacheInv p).uregs = s.uregs := rfl
@[simp] theorem State.cacheInv_out (s : State) (p : Nat → Bool) : (s.cacheInv p).out = s.out := rfl
@[simp] theorem State.cacheInv_toSend (s : State) (p : Nat → Bool) : (s.cacheInv p).toSend = s.toSend := rfl
@[simp] theorem State.cacheInv_mem (s : State) (p : Nat → Bool) : (s.cacheInv p).mem = s.mem := rfl
@[simp] theorem State.cacheInv_queues (s : State) (p : Nat → Bool) : (s.cacheInv p).queues = s.queues := rfl
@[simp] theorem State.cacheInv_lost (s : State) (p : Nat → Bool) : (s.cacheInv p).lost = s.lost := rfl
@[simp] theorem State.cacheInv_sync (s : State) (p : Nat → Bool) : (s.cacheInv p).sync = s.sync := rfl
@[simp] theorem State.cacheInv_mv (s : State) (p : Nat → Bool) : (s.cacheInv p).mv = s.mv := rfl
@[simp] theorem State.cacheInv_cs (s : State) (p : Nat → Bool) : (s.cacheInv p).cs = s.cs := rfl
@[simp] theorem State.cacheInv_kv (s : State) (p : Nat → Bool) : (s.cacheInv p).kv = s.kv := rfl
@[simp] theorem State.cacheInv_tier (s : State) (p : Nat → Bool) : (s.cacheInv p).tier = s.tier := rfl
@[simp] theorem State.cacheInv_cx (s : State) (p : Nat → Bool) : (s.cacheInv p).cx = s.cx := rfl
@[simp] theorem State.cacheInv_fw (s : State) (p : Nat → Bool) : (s.cacheInv p).fw = s.fw := rfl
@[simp] theorem State.cacheInv_ola (s : State) (p : Nat → Bool) : (s.cacheInv p).ola = s.ola := rfl
@[simp] theorem State.cacheInv_pw (s : State) (p : Nat → Bool) : (s.cacheInv p).pw = s.pw := rfl
@[simp] theorem State.cacheInv_fl (s : State) (p : Nat → Bool) : (s.cacheInv p).fl = s.fl := rfl
@[simp] theorem State.cacheInv_host (s : State) (p : Nat → Bool) : (s.cacheInv p).host = s.host := rfl
@[simp] theorem State.cacheInv_start (s : State) (p : Nat → Bool) : (s.cacheInv p).start = s.start := rfl
@[simp] theorem State.cacheInv_sec (s : State) (p : Nat → Bool) : (s.cacheInv p).sec = s.sec := rfl
@[simp] theorem State.cacheInv_test (s : State) (p : Nat → Bool) : (s.cacheInv p).test = s.test := rfl
@[simp] theorem State.cacheInv_flt (s : State) (p : Nat → Bool) : (s.cacheInv p).flt = s.flt := rfl
@[simp] theorem State.cacheInv_pmc (s : State) (p : Nat → Bool) : (s.cacheInv p).pmc = s.pmc := rfl
@[simp] theorem State.cacheInv_bwc (s : State) (p : Nat → Bool) : (s.cacheInv p).bwc = s.bwc := rfl
@[simp] theorem State.cacheInv_drawn (s : State) (p : Nat → Bool) : (s.cacheInv p).drawn = s.drawn := rfl
@[simp] theorem State.cacheInv_reg (s : State) (p : Nat → Bool) (r' : RegName) (i' : Nat) : (s.cacheInv p).reg r' i' = s.reg r' i' := rfl
@[simp] theorem State.cacheInv_fld (s : State) (p : Nat → Bool) (r' : RegName) (g' : Fl) (i' : Nat) : (s.cacheInv p).fld r' g' i' = s.fld r' g' i' := rfl

/-! `updBag` writes `srt` alone. -/

@[simp] theorem State.updBag_pending (s : State) (k : Nat) (slot : Nat) (f : Bag → Bag) : (s.updBag k slot f).pending = s.pending := rfl
@[simp] theorem State.updBag_regs (s : State) (k : Nat) (slot : Nat) (f : Bag → Bag) : (s.updBag k slot f).regs = s.regs := rfl
@[simp] theorem State.updBag_uregs (s : State) (k : Nat) (slot : Nat) (f : Bag → Bag) : (s.updBag k slot f).uregs = s.uregs := rfl
@[simp] theorem State.updBag_out (s : State) (k : Nat) (slot : Nat) (f : Bag → Bag) : (s.updBag k slot f).out = s.out := rfl
@[simp] theorem State.updBag_toSend (s : State) (k : Nat) (slot : Nat) (f : Bag → Bag) : (s.updBag k slot f).toSend = s.toSend := rfl
@[simp] theorem State.updBag_mem (s : State) (k : Nat) (slot : Nat) (f : Bag → Bag) : (s.updBag k slot f).mem = s.mem := rfl
@[simp] theorem State.updBag_queues (s : State) (k : Nat) (slot : Nat) (f : Bag → Bag) : (s.updBag k slot f).queues = s.queues := rfl
@[simp] theorem State.updBag_lost (s : State) (k : Nat) (slot : Nat) (f : Bag → Bag) : (s.updBag k slot f).lost = s.lost := rfl
@[simp] theorem State.updBag_sync (s : State) (k : Nat) (slot : Nat) (f : Bag → Bag) : (s.updBag k slot f).sync = s.sync := rfl
@[simp] theorem State.updBag_mv (s : State) (k : Nat) (slot : Nat) (f : Bag → Bag) : (s.updBag k slot f).mv = s.mv := rfl
@[simp] theorem State.updBag_cs (s : State) (k : Nat) (slot : Nat) (f : Bag → Bag) : (s.updBag k slot f).cs = s.cs := rfl
@[simp] theorem State.updBag_kv (s : State) (k : Nat) (slot : Nat) (f : Bag → Bag) : (s.updBag k slot f).kv = s.kv := rfl
@[simp] theorem State.updBag_tier (s : State) (k : Nat) (slot : Nat) (f : Bag → Bag) : (s.updBag k slot f).tier = s.tier := rfl
@[simp] theorem State.updBag_cx (s : State) (k : Nat) (slot : Nat) (f : Bag → Bag) : (s.updBag k slot f).cx = s.cx := rfl
@[simp] theorem State.updBag_fw (s : State) (k : Nat) (slot : Nat) (f : Bag → Bag) : (s.updBag k slot f).fw = s.fw := rfl
@[simp] theorem State.updBag_ola (s : State) (k : Nat) (slot : Nat) (f : Bag → Bag) : (s.updBag k slot f).ola = s.ola := rfl
@[simp] theorem State.updBag_pw (s : State) (k : Nat) (slot : Nat) (f : Bag → Bag) : (s.updBag k slot f).pw = s.pw := rfl
@[simp] theorem State.updBag_fl (s : State) (k : Nat) (slot : Nat) (f : Bag → Bag) : (s.updBag k slot f).fl = s.fl := rfl
@[simp] theorem State.updBag_host (s : State) (k : Nat) (slot : Nat) (f : Bag → Bag) : (s.updBag k slot f).host = s.host := rfl
@[simp] theorem State.updBag_start (s : State) (k : Nat) (slot : Nat) (f : Bag → Bag) : (s.updBag k slot f).start = s.start := rfl
@[simp] theorem State.updBag_sec (s : State) (k : Nat) (slot : Nat) (f : Bag → Bag) : (s.updBag k slot f).sec = s.sec := rfl
@[simp] theorem State.updBag_test (s : State) (k : Nat) (slot : Nat) (f : Bag → Bag) : (s.updBag k slot f).test = s.test := rfl
@[simp] theorem State.updBag_flt (s : State) (k : Nat) (slot : Nat) (f : Bag → Bag) : (s.updBag k slot f).flt = s.flt := rfl
@[simp] theorem State.updBag_pmc (s : State) (k : Nat) (slot : Nat) (f : Bag → Bag) : (s.updBag k slot f).pmc = s.pmc := rfl
@[simp] theorem State.updBag_bwc (s : State) (k : Nat) (slot : Nat) (f : Bag → Bag) : (s.updBag k slot f).bwc = s.bwc := rfl
@[simp] theorem State.updBag_drawn (s : State) (k : Nat) (slot : Nat) (f : Bag → Bag) : (s.updBag k slot f).drawn = s.drawn := rfl
@[simp] theorem State.updBag_reg (s : State) (k : Nat) (slot : Nat) (f : Bag → Bag) (r' : RegName) (i' : Nat) : (s.updBag k slot f).reg r' i' = s.reg r' i' := rfl
@[simp] theorem State.updBag_fld (s : State) (k : Nat) (slot : Nat) (f : Bag → Bag) (r' : RegName) (g' : Fl) (i' : Nat) : (s.updBag k slot f).fld r' g' i' = s.fld r' g' i' := rfl

/-! `setErased` writes `fl` alone. -/

@[simp] theorem State.setErased_pending (s : State) (grp : Nat) (b : Bool) : (s.setErased grp b).pending = s.pending := rfl
@[simp] theorem State.setErased_regs (s : State) (grp : Nat) (b : Bool) : (s.setErased grp b).regs = s.regs := rfl
@[simp] theorem State.setErased_uregs (s : State) (grp : Nat) (b : Bool) : (s.setErased grp b).uregs = s.uregs := rfl
@[simp] theorem State.setErased_out (s : State) (grp : Nat) (b : Bool) : (s.setErased grp b).out = s.out := rfl
@[simp] theorem State.setErased_toSend (s : State) (grp : Nat) (b : Bool) : (s.setErased grp b).toSend = s.toSend := rfl
@[simp] theorem State.setErased_mem (s : State) (grp : Nat) (b : Bool) : (s.setErased grp b).mem = s.mem := rfl
@[simp] theorem State.setErased_queues (s : State) (grp : Nat) (b : Bool) : (s.setErased grp b).queues = s.queues := rfl
@[simp] theorem State.setErased_lost (s : State) (grp : Nat) (b : Bool) : (s.setErased grp b).lost = s.lost := rfl
@[simp] theorem State.setErased_sync (s : State) (grp : Nat) (b : Bool) : (s.setErased grp b).sync = s.sync := rfl
@[simp] theorem State.setErased_mv (s : State) (grp : Nat) (b : Bool) : (s.setErased grp b).mv = s.mv := rfl
@[simp] theorem State.setErased_cs (s : State) (grp : Nat) (b : Bool) : (s.setErased grp b).cs = s.cs := rfl
@[simp] theorem State.setErased_kv (s : State) (grp : Nat) (b : Bool) : (s.setErased grp b).kv = s.kv := rfl
@[simp] theorem State.setErased_tier (s : State) (grp : Nat) (b : Bool) : (s.setErased grp b).tier = s.tier := rfl
@[simp] theorem State.setErased_srt (s : State) (grp : Nat) (b : Bool) : (s.setErased grp b).srt = s.srt := rfl
@[simp] theorem State.setErased_cx (s : State) (grp : Nat) (b : Bool) : (s.setErased grp b).cx = s.cx := rfl
@[simp] theorem State.setErased_fw (s : State) (grp : Nat) (b : Bool) : (s.setErased grp b).fw = s.fw := rfl
@[simp] theorem State.setErased_ola (s : State) (grp : Nat) (b : Bool) : (s.setErased grp b).ola = s.ola := rfl
@[simp] theorem State.setErased_pw (s : State) (grp : Nat) (b : Bool) : (s.setErased grp b).pw = s.pw := rfl
@[simp] theorem State.setErased_host (s : State) (grp : Nat) (b : Bool) : (s.setErased grp b).host = s.host := rfl
@[simp] theorem State.setErased_start (s : State) (grp : Nat) (b : Bool) : (s.setErased grp b).start = s.start := rfl
@[simp] theorem State.setErased_sec (s : State) (grp : Nat) (b : Bool) : (s.setErased grp b).sec = s.sec := rfl
@[simp] theorem State.setErased_test (s : State) (grp : Nat) (b : Bool) : (s.setErased grp b).test = s.test := rfl
@[simp] theorem State.setErased_flt (s : State) (grp : Nat) (b : Bool) : (s.setErased grp b).flt = s.flt := rfl
@[simp] theorem State.setErased_pmc (s : State) (grp : Nat) (b : Bool) : (s.setErased grp b).pmc = s.pmc := rfl
@[simp] theorem State.setErased_bwc (s : State) (grp : Nat) (b : Bool) : (s.setErased grp b).bwc = s.bwc := rfl
@[simp] theorem State.setErased_drawn (s : State) (grp : Nat) (b : Bool) : (s.setErased grp b).drawn = s.drawn := rfl
@[simp] theorem State.setErased_reg (s : State) (grp : Nat) (b : Bool) (r' : RegName) (i' : Nat) : (s.setErased grp b).reg r' i' = s.reg r' i' := rfl
@[simp] theorem State.setErased_fld (s : State) (grp : Nat) (b : Bool) (r' : RegName) (g' : Fl) (i' : Nat) : (s.setErased grp b).fld r' g' i' = s.fld r' g' i' := rfl

/-! `setFlReq` writes `fl` alone. -/

@[simp] theorem State.setFlReq_pending (s : State) (slot : Nat) (r : Option FlReq) : (s.setFlReq slot r).pending = s.pending := rfl
@[simp] theorem State.setFlReq_regs (s : State) (slot : Nat) (r : Option FlReq) : (s.setFlReq slot r).regs = s.regs := rfl
@[simp] theorem State.setFlReq_uregs (s : State) (slot : Nat) (r : Option FlReq) : (s.setFlReq slot r).uregs = s.uregs := rfl
@[simp] theorem State.setFlReq_out (s : State) (slot : Nat) (r : Option FlReq) : (s.setFlReq slot r).out = s.out := rfl
@[simp] theorem State.setFlReq_toSend (s : State) (slot : Nat) (r : Option FlReq) : (s.setFlReq slot r).toSend = s.toSend := rfl
@[simp] theorem State.setFlReq_mem (s : State) (slot : Nat) (r : Option FlReq) : (s.setFlReq slot r).mem = s.mem := rfl
@[simp] theorem State.setFlReq_queues (s : State) (slot : Nat) (r : Option FlReq) : (s.setFlReq slot r).queues = s.queues := rfl
@[simp] theorem State.setFlReq_lost (s : State) (slot : Nat) (r : Option FlReq) : (s.setFlReq slot r).lost = s.lost := rfl
@[simp] theorem State.setFlReq_sync (s : State) (slot : Nat) (r : Option FlReq) : (s.setFlReq slot r).sync = s.sync := rfl
@[simp] theorem State.setFlReq_mv (s : State) (slot : Nat) (r : Option FlReq) : (s.setFlReq slot r).mv = s.mv := rfl
@[simp] theorem State.setFlReq_cs (s : State) (slot : Nat) (r : Option FlReq) : (s.setFlReq slot r).cs = s.cs := rfl
@[simp] theorem State.setFlReq_kv (s : State) (slot : Nat) (r : Option FlReq) : (s.setFlReq slot r).kv = s.kv := rfl
@[simp] theorem State.setFlReq_tier (s : State) (slot : Nat) (r : Option FlReq) : (s.setFlReq slot r).tier = s.tier := rfl
@[simp] theorem State.setFlReq_srt (s : State) (slot : Nat) (r : Option FlReq) : (s.setFlReq slot r).srt = s.srt := rfl
@[simp] theorem State.setFlReq_cx (s : State) (slot : Nat) (r : Option FlReq) : (s.setFlReq slot r).cx = s.cx := rfl
@[simp] theorem State.setFlReq_fw (s : State) (slot : Nat) (r : Option FlReq) : (s.setFlReq slot r).fw = s.fw := rfl
@[simp] theorem State.setFlReq_ola (s : State) (slot : Nat) (r : Option FlReq) : (s.setFlReq slot r).ola = s.ola := rfl
@[simp] theorem State.setFlReq_pw (s : State) (slot : Nat) (r : Option FlReq) : (s.setFlReq slot r).pw = s.pw := rfl
@[simp] theorem State.setFlReq_host (s : State) (slot : Nat) (r : Option FlReq) : (s.setFlReq slot r).host = s.host := rfl
@[simp] theorem State.setFlReq_start (s : State) (slot : Nat) (r : Option FlReq) : (s.setFlReq slot r).start = s.start := rfl
@[simp] theorem State.setFlReq_sec (s : State) (slot : Nat) (r : Option FlReq) : (s.setFlReq slot r).sec = s.sec := rfl
@[simp] theorem State.setFlReq_test (s : State) (slot : Nat) (r : Option FlReq) : (s.setFlReq slot r).test = s.test := rfl
@[simp] theorem State.setFlReq_flt (s : State) (slot : Nat) (r : Option FlReq) : (s.setFlReq slot r).flt = s.flt := rfl
@[simp] theorem State.setFlReq_pmc (s : State) (slot : Nat) (r : Option FlReq) : (s.setFlReq slot r).pmc = s.pmc := rfl
@[simp] theorem State.setFlReq_bwc (s : State) (slot : Nat) (r : Option FlReq) : (s.setFlReq slot r).bwc = s.bwc := rfl
@[simp] theorem State.setFlReq_drawn (s : State) (slot : Nat) (r : Option FlReq) : (s.setFlReq slot r).drawn = s.drawn := rfl
@[simp] theorem State.setFlReq_reg (s : State) (slot : Nat) (r : Option FlReq) (r' : RegName) (i' : Nat) : (s.setFlReq slot r).reg r' i' = s.reg r' i' := rfl
@[simp] theorem State.setFlReq_fld (s : State) (slot : Nat) (r : Option FlReq) (r' : RegName) (g' : Fl) (i' : Nat) : (s.setFlReq slot r).fld r' g' i' = s.fld r' g' i' := rfl

/-! `updSequence` writes `kv` alone. -/

@[simp] theorem State.updSequence_pending (s : State) (n : Nat) (f : Sequence → Sequence) : (s.updSequence n f).pending = s.pending := rfl
@[simp] theorem State.updSequence_regs (s : State) (n : Nat) (f : Sequence → Sequence) : (s.updSequence n f).regs = s.regs := rfl
@[simp] theorem State.updSequence_uregs (s : State) (n : Nat) (f : Sequence → Sequence) : (s.updSequence n f).uregs = s.uregs := rfl
@[simp] theorem State.updSequence_out (s : State) (n : Nat) (f : Sequence → Sequence) : (s.updSequence n f).out = s.out := rfl
@[simp] theorem State.updSequence_toSend (s : State) (n : Nat) (f : Sequence → Sequence) : (s.updSequence n f).toSend = s.toSend := rfl
@[simp] theorem State.updSequence_mem (s : State) (n : Nat) (f : Sequence → Sequence) : (s.updSequence n f).mem = s.mem := rfl
@[simp] theorem State.updSequence_queues (s : State) (n : Nat) (f : Sequence → Sequence) : (s.updSequence n f).queues = s.queues := rfl
@[simp] theorem State.updSequence_lost (s : State) (n : Nat) (f : Sequence → Sequence) : (s.updSequence n f).lost = s.lost := rfl
@[simp] theorem State.updSequence_sync (s : State) (n : Nat) (f : Sequence → Sequence) : (s.updSequence n f).sync = s.sync := rfl
@[simp] theorem State.updSequence_mv (s : State) (n : Nat) (f : Sequence → Sequence) : (s.updSequence n f).mv = s.mv := rfl
@[simp] theorem State.updSequence_cs (s : State) (n : Nat) (f : Sequence → Sequence) : (s.updSequence n f).cs = s.cs := rfl
@[simp] theorem State.updSequence_tier (s : State) (n : Nat) (f : Sequence → Sequence) : (s.updSequence n f).tier = s.tier := rfl
@[simp] theorem State.updSequence_srt (s : State) (n : Nat) (f : Sequence → Sequence) : (s.updSequence n f).srt = s.srt := rfl
@[simp] theorem State.updSequence_cx (s : State) (n : Nat) (f : Sequence → Sequence) : (s.updSequence n f).cx = s.cx := rfl
@[simp] theorem State.updSequence_fw (s : State) (n : Nat) (f : Sequence → Sequence) : (s.updSequence n f).fw = s.fw := rfl
@[simp] theorem State.updSequence_ola (s : State) (n : Nat) (f : Sequence → Sequence) : (s.updSequence n f).ola = s.ola := rfl
@[simp] theorem State.updSequence_pw (s : State) (n : Nat) (f : Sequence → Sequence) : (s.updSequence n f).pw = s.pw := rfl
@[simp] theorem State.updSequence_fl (s : State) (n : Nat) (f : Sequence → Sequence) : (s.updSequence n f).fl = s.fl := rfl
@[simp] theorem State.updSequence_host (s : State) (n : Nat) (f : Sequence → Sequence) : (s.updSequence n f).host = s.host := rfl
@[simp] theorem State.updSequence_start (s : State) (n : Nat) (f : Sequence → Sequence) : (s.updSequence n f).start = s.start := rfl
@[simp] theorem State.updSequence_sec (s : State) (n : Nat) (f : Sequence → Sequence) : (s.updSequence n f).sec = s.sec := rfl
@[simp] theorem State.updSequence_test (s : State) (n : Nat) (f : Sequence → Sequence) : (s.updSequence n f).test = s.test := rfl
@[simp] theorem State.updSequence_flt (s : State) (n : Nat) (f : Sequence → Sequence) : (s.updSequence n f).flt = s.flt := rfl
@[simp] theorem State.updSequence_pmc (s : State) (n : Nat) (f : Sequence → Sequence) : (s.updSequence n f).pmc = s.pmc := rfl
@[simp] theorem State.updSequence_bwc (s : State) (n : Nat) (f : Sequence → Sequence) : (s.updSequence n f).bwc = s.bwc := rfl
@[simp] theorem State.updSequence_drawn (s : State) (n : Nat) (f : Sequence → Sequence) : (s.updSequence n f).drawn = s.drawn := rfl
@[simp] theorem State.updSequence_reg (s : State) (n : Nat) (f : Sequence → Sequence) (r' : RegName) (i' : Nat) : (s.updSequence n f).reg r' i' = s.reg r' i' := rfl
@[simp] theorem State.updSequence_fld (s : State) (n : Nat) (f : Sequence → Sequence) (r' : RegName) (g' : Fl) (i' : Nat) : (s.updSequence n f).fld r' g' i' = s.fld r' g' i' := rfl

/-! `setKvSlot` writes `kv` alone. -/

@[simp] theorem State.setKvSlot_pending (s : State) (x : Nat) (f : Nat) (b : Bool) : (s.setKvSlot x f b).pending = s.pending := rfl
@[simp] theorem State.setKvSlot_regs (s : State) (x : Nat) (f : Nat) (b : Bool) : (s.setKvSlot x f b).regs = s.regs := rfl
@[simp] theorem State.setKvSlot_uregs (s : State) (x : Nat) (f : Nat) (b : Bool) : (s.setKvSlot x f b).uregs = s.uregs := rfl
@[simp] theorem State.setKvSlot_out (s : State) (x : Nat) (f : Nat) (b : Bool) : (s.setKvSlot x f b).out = s.out := rfl
@[simp] theorem State.setKvSlot_toSend (s : State) (x : Nat) (f : Nat) (b : Bool) : (s.setKvSlot x f b).toSend = s.toSend := rfl
@[simp] theorem State.setKvSlot_mem (s : State) (x : Nat) (f : Nat) (b : Bool) : (s.setKvSlot x f b).mem = s.mem := rfl
@[simp] theorem State.setKvSlot_queues (s : State) (x : Nat) (f : Nat) (b : Bool) : (s.setKvSlot x f b).queues = s.queues := rfl
@[simp] theorem State.setKvSlot_lost (s : State) (x : Nat) (f : Nat) (b : Bool) : (s.setKvSlot x f b).lost = s.lost := rfl
@[simp] theorem State.setKvSlot_sync (s : State) (x : Nat) (f : Nat) (b : Bool) : (s.setKvSlot x f b).sync = s.sync := rfl
@[simp] theorem State.setKvSlot_mv (s : State) (x : Nat) (f : Nat) (b : Bool) : (s.setKvSlot x f b).mv = s.mv := rfl
@[simp] theorem State.setKvSlot_cs (s : State) (x : Nat) (f : Nat) (b : Bool) : (s.setKvSlot x f b).cs = s.cs := rfl
@[simp] theorem State.setKvSlot_tier (s : State) (x : Nat) (f : Nat) (b : Bool) : (s.setKvSlot x f b).tier = s.tier := rfl
@[simp] theorem State.setKvSlot_srt (s : State) (x : Nat) (f : Nat) (b : Bool) : (s.setKvSlot x f b).srt = s.srt := rfl
@[simp] theorem State.setKvSlot_cx (s : State) (x : Nat) (f : Nat) (b : Bool) : (s.setKvSlot x f b).cx = s.cx := rfl
@[simp] theorem State.setKvSlot_fw (s : State) (x : Nat) (f : Nat) (b : Bool) : (s.setKvSlot x f b).fw = s.fw := rfl
@[simp] theorem State.setKvSlot_ola (s : State) (x : Nat) (f : Nat) (b : Bool) : (s.setKvSlot x f b).ola = s.ola := rfl
@[simp] theorem State.setKvSlot_pw (s : State) (x : Nat) (f : Nat) (b : Bool) : (s.setKvSlot x f b).pw = s.pw := rfl
@[simp] theorem State.setKvSlot_fl (s : State) (x : Nat) (f : Nat) (b : Bool) : (s.setKvSlot x f b).fl = s.fl := rfl
@[simp] theorem State.setKvSlot_host (s : State) (x : Nat) (f : Nat) (b : Bool) : (s.setKvSlot x f b).host = s.host := rfl
@[simp] theorem State.setKvSlot_start (s : State) (x : Nat) (f : Nat) (b : Bool) : (s.setKvSlot x f b).start = s.start := rfl
@[simp] theorem State.setKvSlot_sec (s : State) (x : Nat) (f : Nat) (b : Bool) : (s.setKvSlot x f b).sec = s.sec := rfl
@[simp] theorem State.setKvSlot_test (s : State) (x : Nat) (f : Nat) (b : Bool) : (s.setKvSlot x f b).test = s.test := rfl
@[simp] theorem State.setKvSlot_flt (s : State) (x : Nat) (f : Nat) (b : Bool) : (s.setKvSlot x f b).flt = s.flt := rfl
@[simp] theorem State.setKvSlot_pmc (s : State) (x : Nat) (f : Nat) (b : Bool) : (s.setKvSlot x f b).pmc = s.pmc := rfl
@[simp] theorem State.setKvSlot_bwc (s : State) (x : Nat) (f : Nat) (b : Bool) : (s.setKvSlot x f b).bwc = s.bwc := rfl
@[simp] theorem State.setKvSlot_drawn (s : State) (x : Nat) (f : Nat) (b : Bool) : (s.setKvSlot x f b).drawn = s.drawn := rfl
@[simp] theorem State.setKvSlot_reg (s : State) (x : Nat) (f : Nat) (b : Bool) (r' : RegName) (i' : Nat) : (s.setKvSlot x f b).reg r' i' = s.reg r' i' := rfl
@[simp] theorem State.setKvSlot_fld (s : State) (x : Nat) (f : Nat) (b : Bool) (r' : RegName) (g' : Fl) (i' : Nat) : (s.setKvSlot x f b).fld r' g' i' = s.fld r' g' i' := rfl

/-! `updExpert` writes `tier` alone. -/

@[simp] theorem State.updExpert_pending (s : State) (r : Nat) (u : Nat) (f : Expert → Expert) : (s.updExpert r u f).pending = s.pending := rfl
@[simp] theorem State.updExpert_regs (s : State) (r : Nat) (u : Nat) (f : Expert → Expert) : (s.updExpert r u f).regs = s.regs := rfl
@[simp] theorem State.updExpert_uregs (s : State) (r : Nat) (u : Nat) (f : Expert → Expert) : (s.updExpert r u f).uregs = s.uregs := rfl
@[simp] theorem State.updExpert_out (s : State) (r : Nat) (u : Nat) (f : Expert → Expert) : (s.updExpert r u f).out = s.out := rfl
@[simp] theorem State.updExpert_toSend (s : State) (r : Nat) (u : Nat) (f : Expert → Expert) : (s.updExpert r u f).toSend = s.toSend := rfl
@[simp] theorem State.updExpert_mem (s : State) (r : Nat) (u : Nat) (f : Expert → Expert) : (s.updExpert r u f).mem = s.mem := rfl
@[simp] theorem State.updExpert_queues (s : State) (r : Nat) (u : Nat) (f : Expert → Expert) : (s.updExpert r u f).queues = s.queues := rfl
@[simp] theorem State.updExpert_lost (s : State) (r : Nat) (u : Nat) (f : Expert → Expert) : (s.updExpert r u f).lost = s.lost := rfl
@[simp] theorem State.updExpert_sync (s : State) (r : Nat) (u : Nat) (f : Expert → Expert) : (s.updExpert r u f).sync = s.sync := rfl
@[simp] theorem State.updExpert_mv (s : State) (r : Nat) (u : Nat) (f : Expert → Expert) : (s.updExpert r u f).mv = s.mv := rfl
@[simp] theorem State.updExpert_cs (s : State) (r : Nat) (u : Nat) (f : Expert → Expert) : (s.updExpert r u f).cs = s.cs := rfl
@[simp] theorem State.updExpert_kv (s : State) (r : Nat) (u : Nat) (f : Expert → Expert) : (s.updExpert r u f).kv = s.kv := rfl
@[simp] theorem State.updExpert_srt (s : State) (r : Nat) (u : Nat) (f : Expert → Expert) : (s.updExpert r u f).srt = s.srt := rfl
@[simp] theorem State.updExpert_cx (s : State) (r : Nat) (u : Nat) (f : Expert → Expert) : (s.updExpert r u f).cx = s.cx := rfl
@[simp] theorem State.updExpert_fw (s : State) (r : Nat) (u : Nat) (f : Expert → Expert) : (s.updExpert r u f).fw = s.fw := rfl
@[simp] theorem State.updExpert_ola (s : State) (r : Nat) (u : Nat) (f : Expert → Expert) : (s.updExpert r u f).ola = s.ola := rfl
@[simp] theorem State.updExpert_pw (s : State) (r : Nat) (u : Nat) (f : Expert → Expert) : (s.updExpert r u f).pw = s.pw := rfl
@[simp] theorem State.updExpert_fl (s : State) (r : Nat) (u : Nat) (f : Expert → Expert) : (s.updExpert r u f).fl = s.fl := rfl
@[simp] theorem State.updExpert_host (s : State) (r : Nat) (u : Nat) (f : Expert → Expert) : (s.updExpert r u f).host = s.host := rfl
@[simp] theorem State.updExpert_start (s : State) (r : Nat) (u : Nat) (f : Expert → Expert) : (s.updExpert r u f).start = s.start := rfl
@[simp] theorem State.updExpert_sec (s : State) (r : Nat) (u : Nat) (f : Expert → Expert) : (s.updExpert r u f).sec = s.sec := rfl
@[simp] theorem State.updExpert_test (s : State) (r : Nat) (u : Nat) (f : Expert → Expert) : (s.updExpert r u f).test = s.test := rfl
@[simp] theorem State.updExpert_flt (s : State) (r : Nat) (u : Nat) (f : Expert → Expert) : (s.updExpert r u f).flt = s.flt := rfl
@[simp] theorem State.updExpert_pmc (s : State) (r : Nat) (u : Nat) (f : Expert → Expert) : (s.updExpert r u f).pmc = s.pmc := rfl
@[simp] theorem State.updExpert_bwc (s : State) (r : Nat) (u : Nat) (f : Expert → Expert) : (s.updExpert r u f).bwc = s.bwc := rfl
@[simp] theorem State.updExpert_drawn (s : State) (r : Nat) (u : Nat) (f : Expert → Expert) : (s.updExpert r u f).drawn = s.drawn := rfl
@[simp] theorem State.updExpert_reg (s : State) (r : Nat) (u : Nat) (f : Expert → Expert) (r' : RegName) (i' : Nat) : (s.updExpert r u f).reg r' i' = s.reg r' i' := rfl
@[simp] theorem State.updExpert_fld (s : State) (r : Nat) (u : Nat) (f : Expert → Expert) (r' : RegName) (g' : Fl) (i' : Nat) : (s.updExpert r u f).fld r' g' i' = s.fld r' g' i' := rfl

/-! `setImage` writes `cx` alone. -/

@[simp] theorem State.setImage_pending (s : State) (x : Nat) (cl : Nat) (i : Option ClImage) : (s.setImage x cl i).pending = s.pending := rfl
@[simp] theorem State.setImage_regs (s : State) (x : Nat) (cl : Nat) (i : Option ClImage) : (s.setImage x cl i).regs = s.regs := rfl
@[simp] theorem State.setImage_uregs (s : State) (x : Nat) (cl : Nat) (i : Option ClImage) : (s.setImage x cl i).uregs = s.uregs := rfl
@[simp] theorem State.setImage_out (s : State) (x : Nat) (cl : Nat) (i : Option ClImage) : (s.setImage x cl i).out = s.out := rfl
@[simp] theorem State.setImage_toSend (s : State) (x : Nat) (cl : Nat) (i : Option ClImage) : (s.setImage x cl i).toSend = s.toSend := rfl
@[simp] theorem State.setImage_mem (s : State) (x : Nat) (cl : Nat) (i : Option ClImage) : (s.setImage x cl i).mem = s.mem := rfl
@[simp] theorem State.setImage_queues (s : State) (x : Nat) (cl : Nat) (i : Option ClImage) : (s.setImage x cl i).queues = s.queues := rfl
@[simp] theorem State.setImage_lost (s : State) (x : Nat) (cl : Nat) (i : Option ClImage) : (s.setImage x cl i).lost = s.lost := rfl
@[simp] theorem State.setImage_sync (s : State) (x : Nat) (cl : Nat) (i : Option ClImage) : (s.setImage x cl i).sync = s.sync := rfl
@[simp] theorem State.setImage_mv (s : State) (x : Nat) (cl : Nat) (i : Option ClImage) : (s.setImage x cl i).mv = s.mv := rfl
@[simp] theorem State.setImage_cs (s : State) (x : Nat) (cl : Nat) (i : Option ClImage) : (s.setImage x cl i).cs = s.cs := rfl
@[simp] theorem State.setImage_kv (s : State) (x : Nat) (cl : Nat) (i : Option ClImage) : (s.setImage x cl i).kv = s.kv := rfl
@[simp] theorem State.setImage_tier (s : State) (x : Nat) (cl : Nat) (i : Option ClImage) : (s.setImage x cl i).tier = s.tier := rfl
@[simp] theorem State.setImage_srt (s : State) (x : Nat) (cl : Nat) (i : Option ClImage) : (s.setImage x cl i).srt = s.srt := rfl
@[simp] theorem State.setImage_fw (s : State) (x : Nat) (cl : Nat) (i : Option ClImage) : (s.setImage x cl i).fw = s.fw := rfl
@[simp] theorem State.setImage_ola (s : State) (x : Nat) (cl : Nat) (i : Option ClImage) : (s.setImage x cl i).ola = s.ola := rfl
@[simp] theorem State.setImage_pw (s : State) (x : Nat) (cl : Nat) (i : Option ClImage) : (s.setImage x cl i).pw = s.pw := rfl
@[simp] theorem State.setImage_fl (s : State) (x : Nat) (cl : Nat) (i : Option ClImage) : (s.setImage x cl i).fl = s.fl := rfl
@[simp] theorem State.setImage_host (s : State) (x : Nat) (cl : Nat) (i : Option ClImage) : (s.setImage x cl i).host = s.host := rfl
@[simp] theorem State.setImage_start (s : State) (x : Nat) (cl : Nat) (i : Option ClImage) : (s.setImage x cl i).start = s.start := rfl
@[simp] theorem State.setImage_sec (s : State) (x : Nat) (cl : Nat) (i : Option ClImage) : (s.setImage x cl i).sec = s.sec := rfl
@[simp] theorem State.setImage_test (s : State) (x : Nat) (cl : Nat) (i : Option ClImage) : (s.setImage x cl i).test = s.test := rfl
@[simp] theorem State.setImage_flt (s : State) (x : Nat) (cl : Nat) (i : Option ClImage) : (s.setImage x cl i).flt = s.flt := rfl
@[simp] theorem State.setImage_pmc (s : State) (x : Nat) (cl : Nat) (i : Option ClImage) : (s.setImage x cl i).pmc = s.pmc := rfl
@[simp] theorem State.setImage_bwc (s : State) (x : Nat) (cl : Nat) (i : Option ClImage) : (s.setImage x cl i).bwc = s.bwc := rfl
@[simp] theorem State.setImage_drawn (s : State) (x : Nat) (cl : Nat) (i : Option ClImage) : (s.setImage x cl i).drawn = s.drawn := rfl
@[simp] theorem State.setImage_reg (s : State) (x : Nat) (cl : Nat) (i : Option ClImage) (r' : RegName) (i' : Nat) : (s.setImage x cl i).reg r' i' = s.reg r' i' := rfl
@[simp] theorem State.setImage_fld (s : State) (x : Nat) (cl : Nat) (i : Option ClImage) (r' : RegName) (g' : Fl) (i' : Nat) : (s.setImage x cl i).fld r' g' i' = s.fld r' g' i' := rfl

/-! `setSwitch` writes `cx` alone. -/

@[simp] theorem State.setSwitch_pending (s : State) (cl : Nat) (w : Option Switch) : (s.setSwitch cl w).pending = s.pending := rfl
@[simp] theorem State.setSwitch_regs (s : State) (cl : Nat) (w : Option Switch) : (s.setSwitch cl w).regs = s.regs := rfl
@[simp] theorem State.setSwitch_uregs (s : State) (cl : Nat) (w : Option Switch) : (s.setSwitch cl w).uregs = s.uregs := rfl
@[simp] theorem State.setSwitch_out (s : State) (cl : Nat) (w : Option Switch) : (s.setSwitch cl w).out = s.out := rfl
@[simp] theorem State.setSwitch_toSend (s : State) (cl : Nat) (w : Option Switch) : (s.setSwitch cl w).toSend = s.toSend := rfl
@[simp] theorem State.setSwitch_mem (s : State) (cl : Nat) (w : Option Switch) : (s.setSwitch cl w).mem = s.mem := rfl
@[simp] theorem State.setSwitch_queues (s : State) (cl : Nat) (w : Option Switch) : (s.setSwitch cl w).queues = s.queues := rfl
@[simp] theorem State.setSwitch_lost (s : State) (cl : Nat) (w : Option Switch) : (s.setSwitch cl w).lost = s.lost := rfl
@[simp] theorem State.setSwitch_sync (s : State) (cl : Nat) (w : Option Switch) : (s.setSwitch cl w).sync = s.sync := rfl
@[simp] theorem State.setSwitch_mv (s : State) (cl : Nat) (w : Option Switch) : (s.setSwitch cl w).mv = s.mv := rfl
@[simp] theorem State.setSwitch_cs (s : State) (cl : Nat) (w : Option Switch) : (s.setSwitch cl w).cs = s.cs := rfl
@[simp] theorem State.setSwitch_kv (s : State) (cl : Nat) (w : Option Switch) : (s.setSwitch cl w).kv = s.kv := rfl
@[simp] theorem State.setSwitch_tier (s : State) (cl : Nat) (w : Option Switch) : (s.setSwitch cl w).tier = s.tier := rfl
@[simp] theorem State.setSwitch_srt (s : State) (cl : Nat) (w : Option Switch) : (s.setSwitch cl w).srt = s.srt := rfl
@[simp] theorem State.setSwitch_fw (s : State) (cl : Nat) (w : Option Switch) : (s.setSwitch cl w).fw = s.fw := rfl
@[simp] theorem State.setSwitch_ola (s : State) (cl : Nat) (w : Option Switch) : (s.setSwitch cl w).ola = s.ola := rfl
@[simp] theorem State.setSwitch_pw (s : State) (cl : Nat) (w : Option Switch) : (s.setSwitch cl w).pw = s.pw := rfl
@[simp] theorem State.setSwitch_fl (s : State) (cl : Nat) (w : Option Switch) : (s.setSwitch cl w).fl = s.fl := rfl
@[simp] theorem State.setSwitch_host (s : State) (cl : Nat) (w : Option Switch) : (s.setSwitch cl w).host = s.host := rfl
@[simp] theorem State.setSwitch_start (s : State) (cl : Nat) (w : Option Switch) : (s.setSwitch cl w).start = s.start := rfl
@[simp] theorem State.setSwitch_sec (s : State) (cl : Nat) (w : Option Switch) : (s.setSwitch cl w).sec = s.sec := rfl
@[simp] theorem State.setSwitch_test (s : State) (cl : Nat) (w : Option Switch) : (s.setSwitch cl w).test = s.test := rfl
@[simp] theorem State.setSwitch_flt (s : State) (cl : Nat) (w : Option Switch) : (s.setSwitch cl w).flt = s.flt := rfl
@[simp] theorem State.setSwitch_pmc (s : State) (cl : Nat) (w : Option Switch) : (s.setSwitch cl w).pmc = s.pmc := rfl
@[simp] theorem State.setSwitch_bwc (s : State) (cl : Nat) (w : Option Switch) : (s.setSwitch cl w).bwc = s.bwc := rfl
@[simp] theorem State.setSwitch_drawn (s : State) (cl : Nat) (w : Option Switch) : (s.setSwitch cl w).drawn = s.drawn := rfl
@[simp] theorem State.setSwitch_reg (s : State) (cl : Nat) (w : Option Switch) (r' : RegName) (i' : Nat) : (s.setSwitch cl w).reg r' i' = s.reg r' i' := rfl
@[simp] theorem State.setSwitch_fld (s : State) (cl : Nat) (w : Option Switch) (r' : RegName) (g' : Fl) (i' : Nat) : (s.setSwitch cl w).fld r' g' i' = s.fld r' g' i' := rfl

/-! `wasOn` writes `cx` alone. -/

@[simp] theorem State.wasOn_pending (s : State) (x : Nat) (cl : Nat) : (s.wasOn x cl).pending = s.pending := rfl
@[simp] theorem State.wasOn_regs (s : State) (x : Nat) (cl : Nat) : (s.wasOn x cl).regs = s.regs := rfl
@[simp] theorem State.wasOn_uregs (s : State) (x : Nat) (cl : Nat) : (s.wasOn x cl).uregs = s.uregs := rfl
@[simp] theorem State.wasOn_out (s : State) (x : Nat) (cl : Nat) : (s.wasOn x cl).out = s.out := rfl
@[simp] theorem State.wasOn_toSend (s : State) (x : Nat) (cl : Nat) : (s.wasOn x cl).toSend = s.toSend := rfl
@[simp] theorem State.wasOn_mem (s : State) (x : Nat) (cl : Nat) : (s.wasOn x cl).mem = s.mem := rfl
@[simp] theorem State.wasOn_queues (s : State) (x : Nat) (cl : Nat) : (s.wasOn x cl).queues = s.queues := rfl
@[simp] theorem State.wasOn_lost (s : State) (x : Nat) (cl : Nat) : (s.wasOn x cl).lost = s.lost := rfl
@[simp] theorem State.wasOn_sync (s : State) (x : Nat) (cl : Nat) : (s.wasOn x cl).sync = s.sync := rfl
@[simp] theorem State.wasOn_mv (s : State) (x : Nat) (cl : Nat) : (s.wasOn x cl).mv = s.mv := rfl
@[simp] theorem State.wasOn_cs (s : State) (x : Nat) (cl : Nat) : (s.wasOn x cl).cs = s.cs := rfl
@[simp] theorem State.wasOn_kv (s : State) (x : Nat) (cl : Nat) : (s.wasOn x cl).kv = s.kv := rfl
@[simp] theorem State.wasOn_tier (s : State) (x : Nat) (cl : Nat) : (s.wasOn x cl).tier = s.tier := rfl
@[simp] theorem State.wasOn_srt (s : State) (x : Nat) (cl : Nat) : (s.wasOn x cl).srt = s.srt := rfl
@[simp] theorem State.wasOn_fw (s : State) (x : Nat) (cl : Nat) : (s.wasOn x cl).fw = s.fw := rfl
@[simp] theorem State.wasOn_ola (s : State) (x : Nat) (cl : Nat) : (s.wasOn x cl).ola = s.ola := rfl
@[simp] theorem State.wasOn_pw (s : State) (x : Nat) (cl : Nat) : (s.wasOn x cl).pw = s.pw := rfl
@[simp] theorem State.wasOn_fl (s : State) (x : Nat) (cl : Nat) : (s.wasOn x cl).fl = s.fl := rfl
@[simp] theorem State.wasOn_host (s : State) (x : Nat) (cl : Nat) : (s.wasOn x cl).host = s.host := rfl
@[simp] theorem State.wasOn_start (s : State) (x : Nat) (cl : Nat) : (s.wasOn x cl).start = s.start := rfl
@[simp] theorem State.wasOn_sec (s : State) (x : Nat) (cl : Nat) : (s.wasOn x cl).sec = s.sec := rfl
@[simp] theorem State.wasOn_test (s : State) (x : Nat) (cl : Nat) : (s.wasOn x cl).test = s.test := rfl
@[simp] theorem State.wasOn_flt (s : State) (x : Nat) (cl : Nat) : (s.wasOn x cl).flt = s.flt := rfl
@[simp] theorem State.wasOn_pmc (s : State) (x : Nat) (cl : Nat) : (s.wasOn x cl).pmc = s.pmc := rfl
@[simp] theorem State.wasOn_bwc (s : State) (x : Nat) (cl : Nat) : (s.wasOn x cl).bwc = s.bwc := rfl
@[simp] theorem State.wasOn_drawn (s : State) (x : Nat) (cl : Nat) : (s.wasOn x cl).drawn = s.drawn := rfl
@[simp] theorem State.wasOn_reg (s : State) (x : Nat) (cl : Nat) (r' : RegName) (i' : Nat) : (s.wasOn x cl).reg r' i' = s.reg r' i' := rfl
@[simp] theorem State.wasOn_fld (s : State) (x : Nat) (cl : Nat) (r' : RegName) (g' : Fl) (i' : Nat) : (s.wasOn x cl).fld r' g' i' = s.fld r' g' i' := rfl

/-! `updFw` writes `fw` alone. -/

@[simp] theorem State.updFw_pending (s : State) (f : Nat) (g : FwCore → FwCore) : (s.updFw f g).pending = s.pending := rfl
@[simp] theorem State.updFw_regs (s : State) (f : Nat) (g : FwCore → FwCore) : (s.updFw f g).regs = s.regs := rfl
@[simp] theorem State.updFw_uregs (s : State) (f : Nat) (g : FwCore → FwCore) : (s.updFw f g).uregs = s.uregs := rfl
@[simp] theorem State.updFw_out (s : State) (f : Nat) (g : FwCore → FwCore) : (s.updFw f g).out = s.out := rfl
@[simp] theorem State.updFw_toSend (s : State) (f : Nat) (g : FwCore → FwCore) : (s.updFw f g).toSend = s.toSend := rfl
@[simp] theorem State.updFw_mem (s : State) (f : Nat) (g : FwCore → FwCore) : (s.updFw f g).mem = s.mem := rfl
@[simp] theorem State.updFw_queues (s : State) (f : Nat) (g : FwCore → FwCore) : (s.updFw f g).queues = s.queues := rfl
@[simp] theorem State.updFw_lost (s : State) (f : Nat) (g : FwCore → FwCore) : (s.updFw f g).lost = s.lost := rfl
@[simp] theorem State.updFw_sync (s : State) (f : Nat) (g : FwCore → FwCore) : (s.updFw f g).sync = s.sync := rfl
@[simp] theorem State.updFw_mv (s : State) (f : Nat) (g : FwCore → FwCore) : (s.updFw f g).mv = s.mv := rfl
@[simp] theorem State.updFw_cs (s : State) (f : Nat) (g : FwCore → FwCore) : (s.updFw f g).cs = s.cs := rfl
@[simp] theorem State.updFw_kv (s : State) (f : Nat) (g : FwCore → FwCore) : (s.updFw f g).kv = s.kv := rfl
@[simp] theorem State.updFw_tier (s : State) (f : Nat) (g : FwCore → FwCore) : (s.updFw f g).tier = s.tier := rfl
@[simp] theorem State.updFw_srt (s : State) (f : Nat) (g : FwCore → FwCore) : (s.updFw f g).srt = s.srt := rfl
@[simp] theorem State.updFw_cx (s : State) (f : Nat) (g : FwCore → FwCore) : (s.updFw f g).cx = s.cx := rfl
@[simp] theorem State.updFw_ola (s : State) (f : Nat) (g : FwCore → FwCore) : (s.updFw f g).ola = s.ola := rfl
@[simp] theorem State.updFw_pw (s : State) (f : Nat) (g : FwCore → FwCore) : (s.updFw f g).pw = s.pw := rfl
@[simp] theorem State.updFw_fl (s : State) (f : Nat) (g : FwCore → FwCore) : (s.updFw f g).fl = s.fl := rfl
@[simp] theorem State.updFw_host (s : State) (f : Nat) (g : FwCore → FwCore) : (s.updFw f g).host = s.host := rfl
@[simp] theorem State.updFw_start (s : State) (f : Nat) (g : FwCore → FwCore) : (s.updFw f g).start = s.start := rfl
@[simp] theorem State.updFw_sec (s : State) (f : Nat) (g : FwCore → FwCore) : (s.updFw f g).sec = s.sec := rfl
@[simp] theorem State.updFw_test (s : State) (f : Nat) (g : FwCore → FwCore) : (s.updFw f g).test = s.test := rfl
@[simp] theorem State.updFw_flt (s : State) (f : Nat) (g : FwCore → FwCore) : (s.updFw f g).flt = s.flt := rfl
@[simp] theorem State.updFw_pmc (s : State) (f : Nat) (g : FwCore → FwCore) : (s.updFw f g).pmc = s.pmc := rfl
@[simp] theorem State.updFw_bwc (s : State) (f : Nat) (g : FwCore → FwCore) : (s.updFw f g).bwc = s.bwc := rfl
@[simp] theorem State.updFw_drawn (s : State) (f : Nat) (g : FwCore → FwCore) : (s.updFw f g).drawn = s.drawn := rfl
@[simp] theorem State.updFw_reg (s : State) (f : Nat) (g : FwCore → FwCore) (r' : RegName) (i' : Nat) : (s.updFw f g).reg r' i' = s.reg r' i' := rfl
@[simp] theorem State.updFw_fld (s : State) (f : Nat) (g : FwCore → FwCore) (r' : RegName) (g' : Fl) (i' : Nat) : (s.updFw f g).fld r' g' i' = s.fld r' g' i' := rfl

/-! `updTxn` writes `host` alone. -/

@[simp] theorem State.updTxn_pending (s : State) (i : Nat) (f : Txn → Txn) : (s.updTxn i f).pending = s.pending := rfl
@[simp] theorem State.updTxn_regs (s : State) (i : Nat) (f : Txn → Txn) : (s.updTxn i f).regs = s.regs := rfl
@[simp] theorem State.updTxn_uregs (s : State) (i : Nat) (f : Txn → Txn) : (s.updTxn i f).uregs = s.uregs := rfl
@[simp] theorem State.updTxn_out (s : State) (i : Nat) (f : Txn → Txn) : (s.updTxn i f).out = s.out := rfl
@[simp] theorem State.updTxn_toSend (s : State) (i : Nat) (f : Txn → Txn) : (s.updTxn i f).toSend = s.toSend := rfl
@[simp] theorem State.updTxn_mem (s : State) (i : Nat) (f : Txn → Txn) : (s.updTxn i f).mem = s.mem := rfl
@[simp] theorem State.updTxn_queues (s : State) (i : Nat) (f : Txn → Txn) : (s.updTxn i f).queues = s.queues := rfl
@[simp] theorem State.updTxn_lost (s : State) (i : Nat) (f : Txn → Txn) : (s.updTxn i f).lost = s.lost := rfl
@[simp] theorem State.updTxn_sync (s : State) (i : Nat) (f : Txn → Txn) : (s.updTxn i f).sync = s.sync := rfl
@[simp] theorem State.updTxn_mv (s : State) (i : Nat) (f : Txn → Txn) : (s.updTxn i f).mv = s.mv := rfl
@[simp] theorem State.updTxn_cs (s : State) (i : Nat) (f : Txn → Txn) : (s.updTxn i f).cs = s.cs := rfl
@[simp] theorem State.updTxn_kv (s : State) (i : Nat) (f : Txn → Txn) : (s.updTxn i f).kv = s.kv := rfl
@[simp] theorem State.updTxn_tier (s : State) (i : Nat) (f : Txn → Txn) : (s.updTxn i f).tier = s.tier := rfl
@[simp] theorem State.updTxn_srt (s : State) (i : Nat) (f : Txn → Txn) : (s.updTxn i f).srt = s.srt := rfl
@[simp] theorem State.updTxn_cx (s : State) (i : Nat) (f : Txn → Txn) : (s.updTxn i f).cx = s.cx := rfl
@[simp] theorem State.updTxn_fw (s : State) (i : Nat) (f : Txn → Txn) : (s.updTxn i f).fw = s.fw := rfl
@[simp] theorem State.updTxn_ola (s : State) (i : Nat) (f : Txn → Txn) : (s.updTxn i f).ola = s.ola := rfl
@[simp] theorem State.updTxn_pw (s : State) (i : Nat) (f : Txn → Txn) : (s.updTxn i f).pw = s.pw := rfl
@[simp] theorem State.updTxn_fl (s : State) (i : Nat) (f : Txn → Txn) : (s.updTxn i f).fl = s.fl := rfl
@[simp] theorem State.updTxn_start (s : State) (i : Nat) (f : Txn → Txn) : (s.updTxn i f).start = s.start := rfl
@[simp] theorem State.updTxn_sec (s : State) (i : Nat) (f : Txn → Txn) : (s.updTxn i f).sec = s.sec := rfl
@[simp] theorem State.updTxn_test (s : State) (i : Nat) (f : Txn → Txn) : (s.updTxn i f).test = s.test := rfl
@[simp] theorem State.updTxn_flt (s : State) (i : Nat) (f : Txn → Txn) : (s.updTxn i f).flt = s.flt := rfl
@[simp] theorem State.updTxn_pmc (s : State) (i : Nat) (f : Txn → Txn) : (s.updTxn i f).pmc = s.pmc := rfl
@[simp] theorem State.updTxn_bwc (s : State) (i : Nat) (f : Txn → Txn) : (s.updTxn i f).bwc = s.bwc := rfl
@[simp] theorem State.updTxn_drawn (s : State) (i : Nat) (f : Txn → Txn) : (s.updTxn i f).drawn = s.drawn := rfl
@[simp] theorem State.updTxn_reg (s : State) (i : Nat) (f : Txn → Txn) (r' : RegName) (i' : Nat) : (s.updTxn i f).reg r' i' = s.reg r' i' := rfl
@[simp] theorem State.updTxn_fld (s : State) (i : Nat) (f : Txn → Txn) (r' : RegName) (g' : Fl) (i' : Nat) : (s.updTxn i f).fld r' g' i' = s.fld r' g' i' := rfl

/-! `setCache` writes `srt` alone. -/

@[simp] theorem State.setCache_pending (s : State) (set : Nat) (ws : List CacheWay) : (s.setCache set ws).pending = s.pending := rfl
@[simp] theorem State.setCache_regs (s : State) (set : Nat) (ws : List CacheWay) : (s.setCache set ws).regs = s.regs := rfl
@[simp] theorem State.setCache_uregs (s : State) (set : Nat) (ws : List CacheWay) : (s.setCache set ws).uregs = s.uregs := rfl
@[simp] theorem State.setCache_out (s : State) (set : Nat) (ws : List CacheWay) : (s.setCache set ws).out = s.out := rfl
@[simp] theorem State.setCache_toSend (s : State) (set : Nat) (ws : List CacheWay) : (s.setCache set ws).toSend = s.toSend := rfl
@[simp] theorem State.setCache_mem (s : State) (set : Nat) (ws : List CacheWay) : (s.setCache set ws).mem = s.mem := rfl
@[simp] theorem State.setCache_queues (s : State) (set : Nat) (ws : List CacheWay) : (s.setCache set ws).queues = s.queues := rfl
@[simp] theorem State.setCache_lost (s : State) (set : Nat) (ws : List CacheWay) : (s.setCache set ws).lost = s.lost := rfl
@[simp] theorem State.setCache_sync (s : State) (set : Nat) (ws : List CacheWay) : (s.setCache set ws).sync = s.sync := rfl
@[simp] theorem State.setCache_mv (s : State) (set : Nat) (ws : List CacheWay) : (s.setCache set ws).mv = s.mv := rfl
@[simp] theorem State.setCache_cs (s : State) (set : Nat) (ws : List CacheWay) : (s.setCache set ws).cs = s.cs := rfl
@[simp] theorem State.setCache_kv (s : State) (set : Nat) (ws : List CacheWay) : (s.setCache set ws).kv = s.kv := rfl
@[simp] theorem State.setCache_tier (s : State) (set : Nat) (ws : List CacheWay) : (s.setCache set ws).tier = s.tier := rfl
@[simp] theorem State.setCache_cx (s : State) (set : Nat) (ws : List CacheWay) : (s.setCache set ws).cx = s.cx := rfl
@[simp] theorem State.setCache_fw (s : State) (set : Nat) (ws : List CacheWay) : (s.setCache set ws).fw = s.fw := rfl
@[simp] theorem State.setCache_ola (s : State) (set : Nat) (ws : List CacheWay) : (s.setCache set ws).ola = s.ola := rfl
@[simp] theorem State.setCache_pw (s : State) (set : Nat) (ws : List CacheWay) : (s.setCache set ws).pw = s.pw := rfl
@[simp] theorem State.setCache_fl (s : State) (set : Nat) (ws : List CacheWay) : (s.setCache set ws).fl = s.fl := rfl
@[simp] theorem State.setCache_host (s : State) (set : Nat) (ws : List CacheWay) : (s.setCache set ws).host = s.host := rfl
@[simp] theorem State.setCache_start (s : State) (set : Nat) (ws : List CacheWay) : (s.setCache set ws).start = s.start := rfl
@[simp] theorem State.setCache_sec (s : State) (set : Nat) (ws : List CacheWay) : (s.setCache set ws).sec = s.sec := rfl
@[simp] theorem State.setCache_test (s : State) (set : Nat) (ws : List CacheWay) : (s.setCache set ws).test = s.test := rfl
@[simp] theorem State.setCache_flt (s : State) (set : Nat) (ws : List CacheWay) : (s.setCache set ws).flt = s.flt := rfl
@[simp] theorem State.setCache_pmc (s : State) (set : Nat) (ws : List CacheWay) : (s.setCache set ws).pmc = s.pmc := rfl
@[simp] theorem State.setCache_bwc (s : State) (set : Nat) (ws : List CacheWay) : (s.setCache set ws).bwc = s.bwc := rfl
@[simp] theorem State.setCache_drawn (s : State) (set : Nat) (ws : List CacheWay) : (s.setCache set ws).drawn = s.drawn := rfl
@[simp] theorem State.setCache_reg (s : State) (set : Nat) (ws : List CacheWay) (r' : RegName) (i' : Nat) : (s.setCache set ws).reg r' i' = s.reg r' i' := rfl
@[simp] theorem State.setCache_fld (s : State) (set : Nat) (ws : List CacheWay) (r' : RegName) (g' : Fl) (i' : Nat) : (s.setCache set ws).fld r' g' i' = s.fld r' g' i' := rfl

/-! `tap` writes `test` alone. -/

@[simp] theorem State.tap_pending (s : State) (n : Nat) : (s.tap n).pending = s.pending := rfl
@[simp] theorem State.tap_regs (s : State) (n : Nat) : (s.tap n).regs = s.regs := rfl
@[simp] theorem State.tap_uregs (s : State) (n : Nat) : (s.tap n).uregs = s.uregs := rfl
@[simp] theorem State.tap_out (s : State) (n : Nat) : (s.tap n).out = s.out := rfl
@[simp] theorem State.tap_toSend (s : State) (n : Nat) : (s.tap n).toSend = s.toSend := rfl
@[simp] theorem State.tap_mem (s : State) (n : Nat) : (s.tap n).mem = s.mem := rfl
@[simp] theorem State.tap_queues (s : State) (n : Nat) : (s.tap n).queues = s.queues := rfl
@[simp] theorem State.tap_lost (s : State) (n : Nat) : (s.tap n).lost = s.lost := rfl
@[simp] theorem State.tap_sync (s : State) (n : Nat) : (s.tap n).sync = s.sync := rfl
@[simp] theorem State.tap_mv (s : State) (n : Nat) : (s.tap n).mv = s.mv := rfl
@[simp] theorem State.tap_cs (s : State) (n : Nat) : (s.tap n).cs = s.cs := rfl
@[simp] theorem State.tap_kv (s : State) (n : Nat) : (s.tap n).kv = s.kv := rfl
@[simp] theorem State.tap_tier (s : State) (n : Nat) : (s.tap n).tier = s.tier := rfl
@[simp] theorem State.tap_srt (s : State) (n : Nat) : (s.tap n).srt = s.srt := rfl
@[simp] theorem State.tap_cx (s : State) (n : Nat) : (s.tap n).cx = s.cx := rfl
@[simp] theorem State.tap_fw (s : State) (n : Nat) : (s.tap n).fw = s.fw := rfl
@[simp] theorem State.tap_ola (s : State) (n : Nat) : (s.tap n).ola = s.ola := rfl
@[simp] theorem State.tap_pw (s : State) (n : Nat) : (s.tap n).pw = s.pw := rfl
@[simp] theorem State.tap_fl (s : State) (n : Nat) : (s.tap n).fl = s.fl := rfl
@[simp] theorem State.tap_host (s : State) (n : Nat) : (s.tap n).host = s.host := rfl
@[simp] theorem State.tap_start (s : State) (n : Nat) : (s.tap n).start = s.start := rfl
@[simp] theorem State.tap_sec (s : State) (n : Nat) : (s.tap n).sec = s.sec := rfl
@[simp] theorem State.tap_flt (s : State) (n : Nat) : (s.tap n).flt = s.flt := rfl
@[simp] theorem State.tap_pmc (s : State) (n : Nat) : (s.tap n).pmc = s.pmc := rfl
@[simp] theorem State.tap_bwc (s : State) (n : Nat) : (s.tap n).bwc = s.bwc := rfl
@[simp] theorem State.tap_drawn (s : State) (n : Nat) : (s.tap n).drawn = s.drawn := rfl
@[simp] theorem State.tap_reg (s : State) (n : Nat) (r' : RegName) (i' : Nat) : (s.tap n).reg r' i' = s.reg r' i' := rfl
@[simp] theorem State.tap_fld (s : State) (n : Nat) (r' : RegName) (g' : Fl) (i' : Nat) : (s.tap n).fld r' g' i' = s.fld r' g' i' := rfl

/-! `noFresh` writes `test` alone. -/

@[simp] theorem State.noFresh_pending (s : State) (store : Nat) (line : Nat) : (s.noFresh store line).pending = s.pending := rfl
@[simp] theorem State.noFresh_regs (s : State) (store : Nat) (line : Nat) : (s.noFresh store line).regs = s.regs := rfl
@[simp] theorem State.noFresh_uregs (s : State) (store : Nat) (line : Nat) : (s.noFresh store line).uregs = s.uregs := rfl
@[simp] theorem State.noFresh_out (s : State) (store : Nat) (line : Nat) : (s.noFresh store line).out = s.out := rfl
@[simp] theorem State.noFresh_toSend (s : State) (store : Nat) (line : Nat) : (s.noFresh store line).toSend = s.toSend := rfl
@[simp] theorem State.noFresh_mem (s : State) (store : Nat) (line : Nat) : (s.noFresh store line).mem = s.mem := rfl
@[simp] theorem State.noFresh_queues (s : State) (store : Nat) (line : Nat) : (s.noFresh store line).queues = s.queues := rfl
@[simp] theorem State.noFresh_lost (s : State) (store : Nat) (line : Nat) : (s.noFresh store line).lost = s.lost := rfl
@[simp] theorem State.noFresh_sync (s : State) (store : Nat) (line : Nat) : (s.noFresh store line).sync = s.sync := rfl
@[simp] theorem State.noFresh_mv (s : State) (store : Nat) (line : Nat) : (s.noFresh store line).mv = s.mv := rfl
@[simp] theorem State.noFresh_cs (s : State) (store : Nat) (line : Nat) : (s.noFresh store line).cs = s.cs := rfl
@[simp] theorem State.noFresh_kv (s : State) (store : Nat) (line : Nat) : (s.noFresh store line).kv = s.kv := rfl
@[simp] theorem State.noFresh_tier (s : State) (store : Nat) (line : Nat) : (s.noFresh store line).tier = s.tier := rfl
@[simp] theorem State.noFresh_srt (s : State) (store : Nat) (line : Nat) : (s.noFresh store line).srt = s.srt := rfl
@[simp] theorem State.noFresh_cx (s : State) (store : Nat) (line : Nat) : (s.noFresh store line).cx = s.cx := rfl
@[simp] theorem State.noFresh_fw (s : State) (store : Nat) (line : Nat) : (s.noFresh store line).fw = s.fw := rfl
@[simp] theorem State.noFresh_ola (s : State) (store : Nat) (line : Nat) : (s.noFresh store line).ola = s.ola := rfl
@[simp] theorem State.noFresh_pw (s : State) (store : Nat) (line : Nat) : (s.noFresh store line).pw = s.pw := rfl
@[simp] theorem State.noFresh_fl (s : State) (store : Nat) (line : Nat) : (s.noFresh store line).fl = s.fl := rfl
@[simp] theorem State.noFresh_host (s : State) (store : Nat) (line : Nat) : (s.noFresh store line).host = s.host := rfl
@[simp] theorem State.noFresh_start (s : State) (store : Nat) (line : Nat) : (s.noFresh store line).start = s.start := rfl
@[simp] theorem State.noFresh_sec (s : State) (store : Nat) (line : Nat) : (s.noFresh store line).sec = s.sec := rfl
@[simp] theorem State.noFresh_flt (s : State) (store : Nat) (line : Nat) : (s.noFresh store line).flt = s.flt := rfl
@[simp] theorem State.noFresh_pmc (s : State) (store : Nat) (line : Nat) : (s.noFresh store line).pmc = s.pmc := rfl
@[simp] theorem State.noFresh_bwc (s : State) (store : Nat) (line : Nat) : (s.noFresh store line).bwc = s.bwc := rfl
@[simp] theorem State.noFresh_drawn (s : State) (store : Nat) (line : Nat) : (s.noFresh store line).drawn = s.drawn := rfl
@[simp] theorem State.noFresh_reg (s : State) (store : Nat) (line : Nat) (r' : RegName) (i' : Nat) : (s.noFresh store line).reg r' i' = s.reg r' i' := rfl
@[simp] theorem State.noFresh_fld (s : State) (store : Nat) (line : Nat) (r' : RegName) (g' : Fl) (i' : Nat) : (s.noFresh store line).fld r' g' i' = s.fld r' g' i' := rfl

/-! `toHost` writes `out` or `toSend`. -/

@[simp] theorem State.toHost_pending (s : State) (o : Out) : (s.toHost o).pending = s.pending := by unfold State.toHost; split <;> rfl
@[simp] theorem State.toHost_regs (s : State) (o : Out) : (s.toHost o).regs = s.regs := by unfold State.toHost; split <;> rfl
@[simp] theorem State.toHost_uregs (s : State) (o : Out) : (s.toHost o).uregs = s.uregs := by unfold State.toHost; split <;> rfl
@[simp] theorem State.toHost_mem (s : State) (o : Out) : (s.toHost o).mem = s.mem := by unfold State.toHost; split <;> rfl
@[simp] theorem State.toHost_queues (s : State) (o : Out) : (s.toHost o).queues = s.queues := by unfold State.toHost; split <;> rfl
@[simp] theorem State.toHost_lost (s : State) (o : Out) : (s.toHost o).lost = s.lost := by unfold State.toHost; split <;> rfl
@[simp] theorem State.toHost_sync (s : State) (o : Out) : (s.toHost o).sync = s.sync := by unfold State.toHost; split <;> rfl
@[simp] theorem State.toHost_mv (s : State) (o : Out) : (s.toHost o).mv = s.mv := by unfold State.toHost; split <;> rfl
@[simp] theorem State.toHost_cs (s : State) (o : Out) : (s.toHost o).cs = s.cs := by unfold State.toHost; split <;> rfl
@[simp] theorem State.toHost_kv (s : State) (o : Out) : (s.toHost o).kv = s.kv := by unfold State.toHost; split <;> rfl
@[simp] theorem State.toHost_tier (s : State) (o : Out) : (s.toHost o).tier = s.tier := by unfold State.toHost; split <;> rfl
@[simp] theorem State.toHost_srt (s : State) (o : Out) : (s.toHost o).srt = s.srt := by unfold State.toHost; split <;> rfl
@[simp] theorem State.toHost_cx (s : State) (o : Out) : (s.toHost o).cx = s.cx := by unfold State.toHost; split <;> rfl
@[simp] theorem State.toHost_fw (s : State) (o : Out) : (s.toHost o).fw = s.fw := by unfold State.toHost; split <;> rfl
@[simp] theorem State.toHost_ola (s : State) (o : Out) : (s.toHost o).ola = s.ola := by unfold State.toHost; split <;> rfl
@[simp] theorem State.toHost_pw (s : State) (o : Out) : (s.toHost o).pw = s.pw := by unfold State.toHost; split <;> rfl
@[simp] theorem State.toHost_fl (s : State) (o : Out) : (s.toHost o).fl = s.fl := by unfold State.toHost; split <;> rfl
@[simp] theorem State.toHost_host (s : State) (o : Out) : (s.toHost o).host = s.host := by unfold State.toHost; split <;> rfl
@[simp] theorem State.toHost_start (s : State) (o : Out) : (s.toHost o).start = s.start := by unfold State.toHost; split <;> rfl
@[simp] theorem State.toHost_sec (s : State) (o : Out) : (s.toHost o).sec = s.sec := by unfold State.toHost; split <;> rfl
@[simp] theorem State.toHost_test (s : State) (o : Out) : (s.toHost o).test = s.test := by unfold State.toHost; split <;> rfl
@[simp] theorem State.toHost_flt (s : State) (o : Out) : (s.toHost o).flt = s.flt := by unfold State.toHost; split <;> rfl
@[simp] theorem State.toHost_pmc (s : State) (o : Out) : (s.toHost o).pmc = s.pmc := by unfold State.toHost; split <;> rfl
@[simp] theorem State.toHost_bwc (s : State) (o : Out) : (s.toHost o).bwc = s.bwc := by unfold State.toHost; split <;> rfl
@[simp] theorem State.toHost_drawn (s : State) (o : Out) : (s.toHost o).drawn = s.drawn := by unfold State.toHost; split <;> rfl
@[simp] theorem State.toHost_reg (s : State) (o : Out) (r' : RegName) (i' : Nat) : (s.toHost o).reg r' i' = s.reg r' i' := by unfold State.toHost; split <;> rfl
@[simp] theorem State.toHost_fld (s : State) (o : Out) (r' : RegName) (g' : Fl) (i' : Nat) : (s.toHost o).fld r' g' i' = s.fld r' g' i' := by unfold State.toHost; split <;> rfl
@[simp] theorem State.toHost_up (s : State) (o : Out) (h : s.hostUp = true) : s.toHost o = s.emit o := by unfold State.toHost; rw [if_pos h]

/-! A draw counts, and changes nothing else. -/

@[simp] theorem State.draw_pending (s : State) : s.draw.2.pending = s.pending := rfl
@[simp] theorem State.draw_regs (s : State) : s.draw.2.regs = s.regs := rfl
@[simp] theorem State.draw_uregs (s : State) : s.draw.2.uregs = s.uregs := rfl
@[simp] theorem State.draw_out (s : State) : s.draw.2.out = s.out := rfl
@[simp] theorem State.draw_toSend (s : State) : s.draw.2.toSend = s.toSend := rfl
@[simp] theorem State.draw_mem (s : State) : s.draw.2.mem = s.mem := rfl
@[simp] theorem State.draw_queues (s : State) : s.draw.2.queues = s.queues := rfl
@[simp] theorem State.draw_lost (s : State) : s.draw.2.lost = s.lost := rfl
@[simp] theorem State.draw_sync (s : State) : s.draw.2.sync = s.sync := rfl
@[simp] theorem State.draw_mv (s : State) : s.draw.2.mv = s.mv := rfl
@[simp] theorem State.draw_cs (s : State) : s.draw.2.cs = s.cs := rfl
@[simp] theorem State.draw_kv (s : State) : s.draw.2.kv = s.kv := rfl
@[simp] theorem State.draw_tier (s : State) : s.draw.2.tier = s.tier := rfl
@[simp] theorem State.draw_srt (s : State) : s.draw.2.srt = s.srt := rfl
@[simp] theorem State.draw_cx (s : State) : s.draw.2.cx = s.cx := rfl
@[simp] theorem State.draw_fw (s : State) : s.draw.2.fw = s.fw := rfl
@[simp] theorem State.draw_ola (s : State) : s.draw.2.ola = s.ola := rfl
@[simp] theorem State.draw_pw (s : State) : s.draw.2.pw = s.pw := rfl
@[simp] theorem State.draw_fl (s : State) : s.draw.2.fl = s.fl := rfl
@[simp] theorem State.draw_host (s : State) : s.draw.2.host = s.host := rfl
@[simp] theorem State.draw_start (s : State) : s.draw.2.start = s.start := rfl
@[simp] theorem State.draw_sec (s : State) : s.draw.2.sec = s.sec := rfl
@[simp] theorem State.draw_test (s : State) : s.draw.2.test = s.test := rfl
@[simp] theorem State.draw_flt (s : State) : s.draw.2.flt = s.flt := rfl
@[simp] theorem State.draw_pmc (s : State) : s.draw.2.pmc = s.pmc := rfl
@[simp] theorem State.draw_bwc (s : State) : s.draw.2.bwc = s.bwc := rfl
@[simp] theorem State.draw_drawn (s : State) : s.draw.2.drawn = s.drawn + 1 := rfl

/-! What the updates write. -/

@[simp] theorem State.emit_out (s : State) (o : Out) : (s.emit o).out = s.out ++ [o] := rfl
theorem State.setReg_regs (s : State) (r : RegName) (i w : Nat) (v : Word) :
    (s.setReg r i w v).regs = tabSet (regReset r i) s.regs (regKey r i w) v := rfl
theorem State.updQ_queues (s : State) (q : Nat) (f : Queue → Queue) : (s.updQ q f).queues = tabUpd {} s.queues q f := rfl
theorem State.sendSync_ops (s : State) (op : SyncOp) : (s.sendSync op).sync.ops = s.sync.ops ++ [op] := rfl

end Sys2Proof.Machine
end

