-- ==== Sys2Proof/Laws/Ops.lean ====
section
/-! SUPPORT. What each shared operation answers: a letter's start, a core command's dispatch, a frame's receipt, a queue's update, reads of bytes
and of fields; and that each of them leaves the state as it is where its clock or its run condition is missing. -/

namespace Sys2Proof.Machine

/-! ## Running -/

theorem State.clocked_of_run {s : State} (h : s.run = true) : s.clocked = true := by
  unfold State.run at h; unfold State.clocked; rw [beq_iff_eq] at h; rw [h]; rfl

/-! ## Tables and queues -/

theorem tabUpd_congr {α : Type} [DecidableEq α] (d : α) (t : Tab α) (k : Nat) (f g : α → α) (h : f (tabGet d t k) = g (tabGet d t k)) :
    tabUpd d t k f = tabUpd d t k g := by unfold tabUpd; rw [h]

theorem State.updQ_congr (s : State) (q : Nat) (f g : Queue → Queue) (h : f (s.queue q) = g (s.queue q)) : s.updQ q f = s.updQ q g := by
  unfold State.updQ; rw [tabUpd_congr _ _ _ f g h]

theorem State.queue_updQ (s : State) (q : Nat) (f : Queue → Queue) : (s.updQ q f).queue q = f (s.queue q) := by
  unfold State.queue State.updQ; exact tabGet_upd_same _ _ _ _

/-! ## Letters -/

/-- A letter that can start, and that the row's condition admits, is begun and its effect taken. -/
theorem State.startWith_go {s : State} {q op : Nat} {x : Letter} (h : s.startable q op = some x) (p : Letter → Bool) (hp : p x = true)
    (go : State → LetterId → Letter → State) : s.startWith q op p go = go (s.begun q x) ⟨q, x.pm⟩ x := by
  unfold State.startWith; rw [h]; dsimp only; rw [if_pos hp]; rfl

theorem State.startWith_halted {s : State} (h : s.run = false) (q op : Nat) (p : Letter → Bool) (go) : s.startWith q op p go = s := by
  unfold State.startWith State.startable State.nextLetter; simp [h]

/-! ## Core commands -/

/-- The place that `head` answers is of the core asked for. -/
theorem State.head_core (s : State) (c : Nat) (p : CorePlace) (t : Stream) (r : BitVec 128) (h : s.head c = some (p, t, r)) : p.c = c := by
  unfold State.head at h
  split at h
  · cases hp : s.place c with
    | none => simp [hp] at h
    | some p' =>
      rw [hp] at h; dsimp only at h
      have hc : p'.c = c := by
        unfold State.place at hp
        split at hp
        · split at hp
          · exact absurd hp (by simp)
          · injection hp with hp; rw [← hp]
        · exact absurd hp (by simp)
      split at h
      · exact absurd h (by simp)
      · split at h
        · exact absurd h (by simp)
        · simp only [Option.map_eq_some_iff, Prod.mk.injEq] at h
          obtain ⟨_, _, rfl, _⟩ := h
          exact hc
  · exact absurd h (by simp)

/-- A head command of the row's opcode that dispatches takes the row's effect. -/
theorem State.dispatch_go (s : State) (c : Nat) (p : CorePlace) (t : Stream) (r : BitVec 128) (is : BitVec 128 → Bool)
    (go : State → CorePlace → Stream → BitVec 128 → State) (h : s.Dispatches c p t r) (hi : is r = true) :
    s.dispatch c is go = go s p t r := by
  obtain ⟨h1, h2, h3⟩ := h
  unfold State.dispatch
  rw [h1]; simp only [hi, h2, h3]
  rfl

theorem State.dispatch_halted {s : State} (h : s.run = false) (c : Nat) (is) (go) : s.dispatch c is go = s := by
  unfold State.dispatch State.head; simp [h]

/-! ## Synchronisation operations and frames -/

theorem State.opReady_halted {s : State} (h : s.clocked = false) (i : Nat) : s.opReady i = none := by
  unfold State.opReady; rw [h]; split <;> simp

theorem State.receive_halted {s : State} (h : s.clocked = false) (p : Nat) (r : RxFrame) : s.receive p r = (s, none) := by
  unfold State.receive; simp [h]

/-- A received frame of the row's type is acted on once receipt hands it over. -/
theorem State.withFrame_go {s u : State} {p typ : Nat} {r : RxFrame} {f : Frame} (h : s.receive p r = (u, some f)) (ht : r.frame.typ.toNat = typ)
    (go : State → Frame → State) : s.withFrame p typ r go = go u f := by
  unfold State.withFrame; rw [if_neg (by simp [ht]), h]

/-- A frame that receipt keeps back changes what receipt changed, and nothing else. -/
theorem State.withFrame_kept {s u : State} {p typ : Nat} {r : RxFrame} (h : s.receive p r = (u, none)) (ht : r.frame.typ.toNat = typ)
    (go : State → Frame → State) : s.withFrame p typ r go = u := by
  unfold State.withFrame; rw [if_neg (by simp [ht]), h]

theorem State.withFrame_halted {s : State} (h : s.clocked = false) (p ty : Nat) (r : RxFrame) (go) : s.withFrame p ty r go = s := by
  unfold State.withFrame; rw [State.receive_halted h]; simp

/-! ## Bytes and fields -/

theorem getFl_ofNat (f : Fl) (n : Nat) (h : n < 2 ^ 64) : getFl f (BitVec.ofNat 64 n) = n / 2 ^ f.lo % 2 ^ (f.hi + 1 - f.lo) := by
  unfold getFl natBits; rw [BitVec.toNat_ofNat, Nat.mod_eq_of_lt h, Nat.shiftRight_eq_div_pow]

theorem leNat_lt (bs : List Byte) : leNat bs < 256 ^ bs.length := by
  induction bs with
  | nil => simp [leNat]
  | cons b bs ih => have := b.isLt; unfold leNat; rw [List.length_cons, pow_succ]; omega

theorem leField_lt (bs : List Byte) (off n : Nat) : leField bs off n < 256 ^ n :=
  lt_of_lt_of_le (leNat_lt _) (Nat.pow_le_pow_right (by omega) (by simp))

/-- A read of the bytes just written gives them back. -/
theorem memRead_memWrite (m : Tab Byte) (bs : List Byte) : ∀ a, memRead (memWrite m a bs) a bs.length = bs := by
  have key : ∀ (m : Tab Byte) (n a : Nat) (l : List Byte), l.length = n → (∀ i (h : i < l.length), memGet m (a + i) = l[i]) →
      tabGetList memDefault m a n = l := by
    intro m n; induction n with
    | zero => intro a l hl _; rw [List.length_eq_zero_iff.1 hl]; rfl
    | succ n ih =>
      intro a l hl h; cases l with
      | nil => simp at hl
      | cons x l =>
        unfold tabGetList; have h0 := h 0 (by simp); rw [show tabGet memDefault m a = x from h0]
        rw [ih (a + 1) l (by simpa using hl)]; intro i hi
        have := h (i + 1) (by simpa using hi); simpa [Nat.add_assoc, Nat.add_comm 1] using this
  intro a; exact key _ _ a bs rfl (fun i h => memGet_write_in m a i bs h)

end Sys2Proof.Machine
end

