-- ==== Sys2Proof/WellFormed.lean ====
section
/-! DEFINITION. Which commands are well formed: an operand that brings bytes brings as many as the manual's transfer carries, and
a number lies in the range of what it names. The type of an operand says the rest. A meaning is total, so it answers for an
ill-formed command too; statements about transfers ask for well-formed ones. -/

namespace Sys2Proof

/-- A byte list of a given length. -/
def bytesWf (n : Nat) (bs : List Byte) : Bool := decide (bs.length = n)

/-- What the host or another die answers to a read: whole lines, at most 4 KiB; nothing to a write. -/
def HostReply.wf : HostReply → Bool
  | .data bs => decide (bs.length % 64 = 0 ∧ bs.length ≤ 4096)
  | .error => true

/-- A register write of R3: 8 bytes aligned, or 4 bytes aligned, with a value of that width; other writes are malformed (R4) but a
value never exceeds its bytes. -/
def writeWf (len value : Nat) : Bool := decide (1 ≤ len ∧ len ≤ 64 ∧ value < 2 ^ (8 * len))

/-- A frame of Table 11-3: LINES is at most 32 and PAYLOAD_BYTES at most 2,080. -/
def Frame.wf (f : Frame) : Bool := decide (f.lines.toNat ≤ 32 ∧ f.payload.length ≤ 2080)

/-- A received frame: a symbol is disturbed once, and by something. -/
def RxFrame.wf (f : RxFrame) : Bool :=
  f.frame.wf && f.hits.all (fun h => h.delta != 0) &&
    decide ((f.hits.map (fun h => (h.word, h.sym))).eraseDups.length = f.hits.length)

/-- A keying message of Table 17-7 whose body has a given length. -/
def KeyMsg.wf (body : Nat) (m : KeyMsg) : Bool := bytesWf 1952 m.pub && bytesWf body m.body && bytesWf 3309 m.sig

/-- What a UCIe module's training finds: at most 64 lanes in a direction. -/
def LaneTest.wf (t : LaneTest) : Bool := decide (t.txBad ≤ 64 ∧ t.rxBad ≤ 64)

/-- What a start step reads: the NOR's two slots hold 65,536 bytes each (R19). -/
def StartData.wf : StartData → Bool
  | .plain => true
  | .nor a b => bytesWf 65536 a && bytesWf 65536 b
  | .boardFlash _ => true

/-- The meters report every cluster. -/
def PowerMeas.wf (m : PowerMeas) : Bool := decide (m.clusters.length = 16)

/-- A scrub stays inside HBM (288 GiB, R324). -/
def ScrubTarget.wf : ScrubTarget → Bool
  | .hbm line => decide (line < 288 * 2 ^ 24)
  | _ => true

/-- Monitors of a domain (R667): MCLK has six, OCLK twelve, NCLK sixteen, every other domain one. -/
def ClockDom.count : ClockDom → Nat
  | .mclk => 6
  | .oclk => 12
  | .nclk => 16
  | _ => 1

/-- Rows of an SRAM bank, of sixteen lines each (Table 16-8; notes/assumptions/9.md). -/
def SramRow.wf : SramRow → Bool
  | .bench _ _ row => decide (row < 64)
  | .store _ _ row => decide (row < 256)
  | .hub _ row => decide (row < 1024)

/-- The operands of a command that its type leaves wider than the manual. -/
def Instr.wf : Instr → Bool
  | .registerWrite _ _ len value => writeWf len value
  | .shadowWrite _ len value => writeWf len value
  | .rstFwWindowWrite off data => decide (off + data.length ≤ 2 ^ 20) && !data.isEmpty
  | .letterFetch _ host _ => host.wf
  | .courierResponse _ _ reply _ _ => reply.wf
  | .seqStep _ frames => frames.all (fun f => decide (f < 2 ^ 23))
  | .stepFramesGranted _ frames => frames.all (fun f => decide (f < 2 ^ 23))
  | .vectorAccumulate _ _ upsets _ => decide (upsets.length ≤ 130)
  | .frameWrite _ f => f.wf
  | .frameReadReq _ f => f.wf
  | .frameResponse _ f => f.wf
  | .frameSignal _ f => f.wf
  | .timeFrame _ f => f.wf
  | .collFrame _ f => f.wf
  | .keyingMessage1 _ m => m.wf 1184
  | .keyingMessage2 _ m => m.wf 1088
  | .controlCredit _ _ f => decide (f.n ≤ 16)
  | .ucieModuleTrain _ t => t.wf
  | .h2dSnoop addr => decide (addr % 64 = 0)
  | .memRd addr _ => decide (addr % 64 = 0)
  | .memRdData addr _ => decide (addr % 64 = 0)
  | .memWr addr data => decide (addr % 64 = 0) && bytesWf 64 data
  | .memWrPtl addr _ data => decide (addr % 64 = 0) && bytesWf 64 data
  | .memSpecRd addr => decide (addr % 64 = 0)
  | .startStepDone d => d.wf
  | .powerControlPeriod m => m.wf
  | .thermalConversion temps => decide (temps.length = 96)
  | .ageingMeasure need => decide (need.length = 16)
  | .scrubRead t _ => t.wf
  | .clockMonitorWindow d inst _ => decide (inst < d.count)
  | .sramRowSpareDone r => r.wf
  | _ => true

end Sys2Proof
end

