-- ==== Sys2Proof/Tests/Slice0.lean ====
section
/-! SUPPORT. Tests of single operations against the values the manual works out, the smoke test of WellFormed, and one witness for each
statement's hypotheses. No test runs more than one step.

No statement has a hypothesis on what Config's opaque cryptography answers, since no concrete state could be shown to meet one: where a
command goes by such an answer, the statement gives the next state for each. -/

namespace Sys2Proof.Tests
open Sys2Proof Sys2Proof.Machine Sys2Proof.Claims
set_option Elab.async false
/-! ## Small states -/

/-- `n` zero bytes with fields set: offset, bytes, value. -/
def bytesOf (n : Nat) (fs : List (Nat × Nat × Nat)) : List Byte :=
  fs.foldl (fun b f => b.take f.1 ++ leBytes f.2.1 f.2.2 ++ b.drop (f.1 + f.2.1)) (List.replicate n 0)

/-- The die in RUN, its 19 firmware cores running, context 0 ON with HBM page 1 as its window's page 0, firmware released. -/
def up : State :=
  ((((((State.reset.each (List.range 19) (fun s f => s.setFld .rstFwStatus fRstFwStatusState f 2)).setFld .pwrState fPwrStateState 0 1).setFld
    .ctxEntry fCtxEntryState 0 2).setFld .ctxExtent fCtxExtentValid 0 1).setFld .ctxExtent fCtxExtentPages 0 1).setFld .ctxExtent
      fCtxExtentHpage 0 1).setFld .rstFwLoad fRstFwLoadStatus 0 4

/-- A letter of an opcode with fields of its 64 bytes set. -/
def letterOf (op : Nat) (fs : List (Nat × Nat × Nat)) : Letter := { pm := 1, raw := bytesOf 64 ((4, 1, op) :: (7, 1, 2) :: fs) }

/-- The letter accepted in queue 0, which context 0 holds for a unit. -/
def lettered (s : State) (unit : BitVec 16) (x : Letter) : State :=
  s.updQ 0 (fun _ => { state := .active, unit := unit, log2 := 4, head := 1, tail := 1, accepted := 1, letters := [x] })

/-- Cluster 0 runs context 0, and its physical core 0 is member 0. -/
def placed : State := (up.setFld .ctxResident fCtxResidentState 0 1).setFld .fltCoreStatus fFltCoreStatusMember 0 0

/-- Core 0's place there. -/
def place0 : CorePlace := ⟨0, 0, 0⟩

/-- A stream whose next command is `r`. -/
def streamOf (r : BitVec 128) : Machine.Stream :=
  { letter := ⟨0, 1⟩, ctx := 0, offset := 0, commands := 1, path := 0, fetched := 1, queue := [r], begun := true }

/-- Member 0's stream stands at a command. -/
def commanded (s : State) (r : BitVec 128) : State := s.updSeqr 0 0 (fun q => { q with streams := [streamOf r] })

/-- A core command: opcode and fields, each the highest and lowest bit and the value. -/
def cmdOf (op : Nat) (fs : List (Nat × Nat × Nat)) : BitVec 128 :=
  BitVec.ofNat 128 ((op * 2 ^ 122) + (fs.map (fun f => f.2.2 * 2 ^ f.2.1)).foldl (· + ·) 0)

/-- A state whose die stands in a power state. -/
def powerState (s : State) (n : Nat) : State := s.setFld .pwrState fPwrStateState 0 n

/-! ## Witnesses: sync objects, queues and letters -/

/-- A hub object of context 0, an operation on it from a letter, and a state in which it may reach its home. -/
def key0 : ObjKey := { hub := true, cl := 0, ctx := 0, idx := 5 }
def opOf (act : SyncAct) (value : BitVec 32) : SyncOp :=
  { who := .letter ⟨0, 1⟩, act := act, key := key0, ref := 0x80005, cl := 0, mem := 0, value := value, q := 0 }
def syncing (act : SyncAct) (value : BitVec 32) (o : SyncObj) : State :=
  ({ up with sync := { up.sync with ops := [opOf act value], slabsOf := [(0, [0])] } } : State).setObj key0 o

theorem served_key0 (act : SyncAct) (value : BitVec 32) (o : SyncObj) : Served (syncing act value o) key0 :=
  .inr ⟨16, 0, rfl, rfl, rfl, rfl⟩

theorem witness_WaitsHoldOrRegisterOnArrival :
    ((syncing (.wait .ge true) 3 { orphaned := true }).opReady 0 = some (opOf (.wait .ge true) 3) ∧
      ((syncing (.wait .ge true) 3 { orphaned := true }).obj key0).orphaned = true) ∧
    ((syncing (.wait .ge true) 3 { count := 3 }).opReady 0 = some (opOf (.wait .ge true) 3) ∧
      ((syncing (.wait .ge true) 3 { count := 3 }).obj key0).orphaned = false ∧
      ({ who := .letter ⟨0, 1⟩, cond := .ge, consume := true, value := 3 } : Wait).holds 3 = true) ∧
    ((syncing (.wait .eq false) 3 { count := 4 }).opReady 0 = some (opOf (.wait .eq false) 3) ∧
      ({ who := .letter ⟨0, 1⟩, cond := .eq, consume := false, value := 3 } : Wait).holds 4 = false) := by decide +kernel

theorem witness_SignalsUpdateCount :
    ((syncing (.signal .add) 1 { count := 0xFFFFFFFE }).opReady 0 = some (opOf (.signal .add) 1) ∧
      up.proxyOf 0 5 = none ∧ (0xFFFFFFFE : BitVec 32).toNat + 1 < 2 ^ 32) ∧
    ((syncing (.signal .add) 1 { count := 0xFFFFFFFF }).opReady 0 = some (opOf (.signal .add) 1) ∧
      2 ^ 32 ≤ (0xFFFFFFFF : BitVec 32).toNat + 1) ∧
    ((syncing (.signal .sub) 1 { count := 1 }).opReady 0 = some (opOf (.signal .sub) 1)) ∧
    ((syncing (.signal .sub) 1 { count := 0 }).opReady 0 = some (opOf (.signal .sub) 1) ∧ (0 : BitVec 32).toNat < 1) ∧
    ((syncing (.signal .set) 7 { orphaned := true }).opReady 0 = some (opOf (.signal .set) 7)) := by decide +kernel

/-- A waiting party's wait for a value. -/
def waitFor (v : BitVec 32) (consume : Bool) : Wait := { who := .letter ⟨0, 1⟩, cond := .ge, consume := consume, value := v }

theorem witness_WaitsAreReevaluated :
    [waitFor 4 true].find? (fun w => w.holds 3) = none ∧ [waitFor 4 true, waitFor 3 true].find? (fun w => w.holds 3) = some (waitFor 3 true) ∧
    ∀ w ∈ [waitFor 2 false, waitFor 4 false], w.consume = false := by
  decide +kernel

/-- A letter that names an object outside its context's allotment, and one of a unit that is no cluster that names SPACE 1. -/
theorem witness_BadReferencesTouchNoObject :
    (lettered up 0x8000 (letterOf 2 [(0x10, 4, 0x80005)])).startable 0 2 = some (letterOf 2 [(0x10, 4, 0x80005)]) ∧
    ((lettered up 0x8000 (letterOf 2 [(0x10, 4, 0x80005)])).begun 0 (letterOf 2 [(0x10, 4, 0x80005)])).letterRef ⟨0, 1⟩ 0x80005 = none ∧
    (lettered up 0x8000 (letterOf 3 [(0x10, 4, 0x40005)])).startable 0 3 = some (letterOf 3 [(0x10, 4, 0x40005)]) ∧
    ((lettered up 0x8000 (letterOf 3 [(0x10, 4, 0x40005)])).begun 0 (letterOf 3 [(0x10, 4, 0x40005)])).letterRef ⟨0, 1⟩ 0x40005 = none := by
  decide +kernel

/-- Context 0 may use one slab of objects. -/
def allotted : State := up.setFld .ctxEntry fCtxEntrySyncSlabs 0 1

theorem witness_NopSignalAndWaitLetters :
    (lettered up 0 (letterOf 0 [])).startable 0 0 = some (letterOf 0 []) ∧
    (lettered allotted 0 (letterOf 2 [(0x10, 4, 0x801FF)])).startable 0 2 = some (letterOf 2 [(0x10, 4, 0x801FF)]) ∧
    ((lettered allotted 0 (letterOf 2 [(0x10, 4, 0x801FF)])).begun 0 (letterOf 2 [(0x10, 4, 0x801FF)])).letterRef ⟨0, 1⟩ 0x801FF =
      some { hub := true, cl := 0, ctx := 0, idx := 511 } ∧
    (lettered allotted 0 (letterOf 3 [(0x10, 4, 0x801FF)])).startable 0 3 = some (letterOf 3 [(0x10, 4, 0x801FF)]) ∧
    ((lettered allotted 0 (letterOf 3 [(0x10, 4, 0x801FF)])).begun 0 (letterOf 3 [(0x10, 4, 0x801FF)])).refOk ⟨0, 1⟩ 0x801FF true = true := by
  decide +kernel

theorem witness_OrphaningAnObject : key0.ctx < 1024 := by decide

/-- A cluster's slab being copied with an operation held; the port that names an object of context 0. -/
def slabbed : State := { up with sync := { up.sync with copies := [{ home := 3, slab := 7, held := [opOf (.signal .add) 1] }] } }
def ported : State := (allotted.setReg .synPortRef 0 0 0x80005)

theorem witness_SlabCopiesEndAndFlagsClear :
    slabbed.clocked = true ∧ slabbed.sync.copies.find? (fun c => c.home == 3 && c.slab == 7) =
      some { home := 3, slab := 7, held := [opOf (.signal .add) 1] } ∧
    ported.clocked = true ∧ ported.portObj .P 0 = some key0 := by decide +kernel

/-- A bound queue in a state, its ring in the die window's first page. -/
def queued (st : QState) (head tail : BitVec 32) : State :=
  up.updQ 7 (fun _ => { state := st, log2 := 4, ctx := 0, head := head, tail := tail, accepted := head, completed := head })

theorem witness_DoorbellSetsTail :
    (queued .active 0 0).clocked = true ∧ ((queued .active 0 0).queue 7).bound = true ∧ ((queued .active 0 0).queue 7).ctx.toNat = 0 ∧
    ((queued .active 0 0).queue 8).bound = false := by decide +kernel

theorem witness_FetchedLetterIsAccepted :
    (queued .active 0 1).run = true ∧ ((queued .active 0 1).queue 7).state = .active ∧ ((queued .active 0 1).queue 7).refusal = none ∧
    ((queued .active 0 1).queue 7).ahead ≠ 0 ∧
    (((queued .active 0 1).queue 7).letters.filter (fun y => !y.started)).length < 16 ∧ ((queued .active 0 1).queue 7).loc ≠ 1 ∧
    (queued .active 0 1).translate 0 0 = some (2 ^ 21) ∧ (queued .active 0 1).hbmSees (2 ^ 21) .clean = .clean := by decide +kernel

/-- The halted queue, its wind-back still to come. -/
def woundBack : State := (queued .halted 2 2).updQ 7 (fun x => { x with windback := true })

theorem witness_QueueCommandsMoveTheQueue :
    ((queued .active 0 0).queue 7).state = .active ∧ ((queued .paused 0 16).queue 7).state = .paused ∧
    ((queued .paused 0 16).queue 7).ahead ≤ 2 ^ 4 ∧ ((queued .halted 0 16).queue 7).state = .halted ∧
    ((queued .halted 0 16).queue 7).windback = false ∧ (woundBack.queue 7).windback = true ∧ (woundBack.queue 7).letters = [] ∧
    (woundBack.queue 7).heldRestart = false ∧ (woundBack.queue 7).bound = true ∧ woundBack.clocked = true := by decide +kernel

theorem witness_QueuesReset :
    (queued .active 0 0).clocked = true ∧ (((queued .active 0 0).keepQport .P 0 7).queue 7).seen .P 0 = true ∧
    (((queued .active 0 0).keepQport .P 0 7).queue 7).state ≠ .disabled ∧
    (((queued .disabled 0 0).keepQport .P 0 7).queue 7).seen .P 0 = true ∧
    (((queued .disabled 0 0).keepQport .P 0 7).queue 7).state = .disabled := by decide +kernel

/-- A letter whose work has ended with OK, and one that is completed and owes its record. -/
def doneLetter (completed : Bool) : Letter := { letterOf 0 [] with started := true, ended := some { code := codeOk }, completed := completed }
def ringed : State := (up.setFld .hifRingCfg fHifRingCfgLog2Entries 0 4)

theorem witness_LettersCompleteInOrder :
    ((lettered up 0 (doneLetter false)).letter ⟨0, 1⟩ = some (doneLetter false) ∧ (lettered up 0 (doneLetter false)).clocked = true ∧
      (lettered up 0 (doneLetter false)).letterQuiet ⟨0, 1⟩ = true) ∧
    ((lettered ringed 0 (doneLetter true)).clocked = true ∧ ((lettered ringed 0 (doneLetter true)).queue 0).refusal = none ∧
      ((lettered ringed 0 (doneLetter true)).queue 0).letters = [doneLetter true] ∧
      (lettered ringed 0 (doneLetter true)).fld .hifRingCfg fHifRingCfgLog2Entries 0 ≠ 0 ∧
      (lettered ringed 0 (doneLetter true)).ringHasSpace 0 = true ∧
      (lettered ringed 0 (doneLetter true)).fld .hifRingCfg fHifRingCfgLoc 0 ≠ 1 ∧
      (lettered ringed 0 (doneLetter true)).translate 0 0 = some (2 ^ 21) ∧
      (lettered ringed 0 (doneLetter true)).hbmLost (2 ^ 21) = false) := by decide +kernel
/-! ## Witnesses: core commands, streams and arrays -/

/-- The command at core 0's head may be dispatched. -/
def dispatchable (s : State) (r : BitVec 128) : Bool :=
  decide (s.head 0 = some (place0, streamOf r, r)) && decide (s.dispatchCheck place0 r = none) &&
    s.headRoom place0 r

theorem dispatches_of_dispatchable {s : State} {r : BitVec 128} (h : dispatchable s r = true) : s.Dispatches 0 place0 (streamOf r) r := by
  simp only [dispatchable, Bool.and_eq_true, decide_eq_true_eq] at h
  exact ⟨h.1.1, h.1.2, h.2⟩

/-- One command of each opcode. -/
def phaseCmd : BitVec 128 := cmdOf 0x02 [(121, 114, 255)]
def ldtCmd : BitVec 128 := cmdOf 0x04 [(121, 121, 1), (120, 117, 2), (116, 101, 1)]
def ldsCmd : BitVec 128 := cmdOf 0x05 [(121, 118, 1), (117, 114, 2)]
def macCmd : BitVec 128 := cmdOf 0x08 [(121, 120, 1), (119, 116, 2), (115, 112, 2), (99, 96, 1), (87, 79, 1), (28, 13, 1)]
def drainCmd (dest : Nat) : BitVec 128 := cmdOf 0x09 [(121, 118, 1), (117, 114, 12), (104, 103, dest), (94, 86, 1), (35, 35, 1)]
def vecCmd (op : Nat) : BitVec 128 := cmdOf 0x0C [(121, 116, op), (91, 88, 12), (95, 92, 2)]
def vmemCmd (store : Nat) : BitVec 128 := cmdOf 0x0D [(121, 121, store), (96, 89, 8)]
def xferCmd (dir : Nat) : BitVec 128 := cmdOf 0x14 [(121, 121, dir), (120, 120, 1), (68, 53, 1)]
def waitCmd : BitVec 128 := cmdOf 0x18 [(117, 98, 63), (95, 64, 1)]
def signalCmd : BitVec 128 := cmdOf 0x19 [(113, 94, 63), (63, 32, 1)]

theorem witness_NopEndAndPhase :
    (dispatchable (commanded placed 0) 0 = true ∧ opc 0 = 0x00) ∧
    (dispatchable (commanded placed (cmdOf 0x01 [])) (cmdOf 0x01 []) = true ∧ opc (cmdOf 0x01 []) = 0x01) ∧
    (dispatchable (commanded placed phaseCmd) phaseCmd = true ∧ opc phaseCmd = 0x02) := by decide +kernel

theorem witness_CommandsReachTheirEngines :
    (dispatchable (commanded placed ldtCmd) ldtCmd = true ∧ opc ldtCmd = 0x04) ∧
    (dispatchable (commanded placed ldsCmd) ldsCmd = true ∧ opc ldsCmd = 0x05) ∧
    (dispatchable (commanded placed macCmd) macCmd = true ∧ opc macCmd = 0x08) ∧
    (dispatchable (commanded placed (drainCmd 0)) (drainCmd 0) = true ∧ opc (drainCmd 0) = 0x09 ∧ drDest (drainCmd 0) ≠ 2) ∧
    (dispatchable (commanded placed (drainCmd 2)) (drainCmd 2) = true ∧ drDest (drainCmd 2) = 2 ∧ maskArrays (drMask (drainCmd 2)) ≠ [] ∧
      drN (drainCmd 2) ≠ 0 ∧ placed.courierRoom 0 = true ∧ ((commanded placed (drainCmd 2)).core 0).cmds = []) ∧
    (dispatchable (commanded placed (xferCmd 0)) (xferCmd 0) = true ∧ opc (xferCmd 0) = 0x14 ∧ cb (xferCmd 0) 121 121 = 0) ∧
    (dispatchable (commanded placed (xferCmd 1)) (xferCmd 1) = true ∧ opc (xferCmd 1) = 0x14 ∧ cb (xferCmd 1) 121 121 = 1) := by
  decide +kernel

/-- Core 0 holds commands. -/
def holding (f : Core → Core) : State := placed.updCore 0 f
def aCmd (r : BitVec 128) (e : Engine) : Cmd := { id := 1, raw := r, eng := e, letter := ⟨0, 1⟩ }

theorem witness_CommandsComplete :
    ((holding (fun k => { k with cmds := [{ aCmd (vecCmd 0) .vector with out := some ⟨[(0, [1])]⟩ }] })).core 0).cmds =
      [{ aCmd (vecCmd 0) .vector with out := some ⟨[(0, [1])]⟩ }] ∧ opc (vecCmd 0) = 0x0C ∧
    placed.place 0 = some place0 ∧ placed.clocked = true ∧
    ((holding (fun k => { k with cmds := [{ aCmd macCmd .array with done := true }] })).core 0).cmds =
      [{ aCmd macCmd .array with done := true }] := by decide +kernel

theorem witness_VecTakesItsSources :
    (∀ op ∈ List.range 17, dispatchable (commanded placed (vecCmd op)) (vecCmd op) = true ∧ opc (vecCmd op) = 0x0C ∧ vecVop (vecCmd op) = op) ∧
    ((commanded placed (vecCmd 0)).core 0).cmds = [] ∧ ((commanded placed (vecCmd 0)).core 0).attn = none ∧
    ((commanded placed (vecCmd 0)).core 0).smRows = [] := by decide +kernel

theorem witness_VecResultsByOperation :
    ∀ op ∈ List.range 17, vecRep (vecCmd op) = 0 ∧ vecBimm (vecCmd op) = false ∧ vecVop (vecCmd op) = op ∧ vecSfmt (vecCmd op) ≠ 12 ∧
      vecDfmt (vecCmd op) = 12 := by decide +kernel

theorem witness_VmemTakesItsSources :
    (dispatchable (commanded placed (vmemCmd 0)) (vmemCmd 0) = true ∧ opc (vmemCmd 0) = 0x0D ∧ vmStore (vmemCmd 0) = false ∧
      ∀ l ∈ vmLines (vmemCmd 0), (commanded placed (vmemCmd 0)).benchSees 0 l .clean = .clean) ∧
    (dispatchable (commanded placed (vmemCmd 1)) (vmemCmd 1) = true ∧ vmStore (vmemCmd 1) = true) := by decide +kernel

theorem witness_WaitAndSignalCommands :
    (dispatchable (commanded placed waitCmd) waitCmd = true ∧ opc waitCmd = 0x18 ∧
      (commanded placed waitCmd).cmdRef place0 (cb waitCmd 117 98) = some { hub := false, cl := 0, ctx := 0, idx := 63 }) ∧
    (dispatchable (commanded placed signalCmd) signalCmd = true ∧ opc signalCmd = 0x19 ∧
      (commanded placed signalCmd).cmdRef place0 (cb signalCmd 113 94) = some { hub := false, cl := 0, ctx := 0, idx := 63 } ∧
      ((commanded placed signalCmd).seqr 0 0).sigq.length < 8) ∧
    (((placed.updSeqr 0 0 (fun q => { q with sigq := [⟨opOf (.signal .add) 1, [1]⟩] })).seqr 0 0).sigq = [⟨opOf (.signal .add) 1, [1]⟩] ∧
      ((placed.core 0).cmds.any (fun x => [1].contains x.id)) = false) := by decide +kernel

/-- Streams: one that has yet to begin, one that still fetches, and one that has dispatched END. -/
def waitingStream : Machine.Stream := { letter := ⟨0, 1⟩, ctx := 0, offset := 0, commands := 512, path := 0 }
def streaming (t : Machine.Stream) : State := (lettered placed 0 (letterOf 1 [])).updSeqr 0 0 (fun q => { q with streams := [t] })

theorem witness_StreamsBeginFetchAndEnd :
    ((streaming waitingStream).place 0 = some place0 ∧ ((streaming waitingStream).seqr 0 0).disp = some waitingStream ∧
      (streaming waitingStream).run = true ∧ (streaming waitingStream).fld .fltCoreCtl fFltCoreCtlRetire 0 ≠ 1 ∧
      (streaming waitingStream).letter ⟨0, 1⟩ = some (letterOf 1 [])) ∧
    (((streaming waitingStream).seqr 0 0).fetching = some waitingStream ∧ waitingStream.fetched + 512 ≤ waitingStream.commands ∧
      (((streaming waitingStream).seqr 0 0).streams.map (fun t => t.queue.length)).foldl (· + ·) 0 + 512 ≤ 512 ∧
      (streaming waitingStream).translate 0 0 = some (2 ^ 21) ∧ (streaming waitingStream).mapped 0 0 (16 * 512) = true ∧
      (streaming waitingStream).hbmSees (2 ^ 21) .clean = .clean ∧ (streaming waitingStream).winPoisoned 0 0 (16 * 512) = false) ∧
    ((streaming { waitingStream with begun := true, ended := true }).seat 0 = some place0 ∧
      ((streaming { waitingStream with begun := true, ended := true }).seqr 0 0).cur =
        some { waitingStream with begun := true, ended := true } ∧
      ((streaming { waitingStream with begun := true, ended := true }).core 0).cmds.any (fun x => x.letter == ⟨0, 1⟩) = false) := by
  decide +kernel
/-- A die whose window begins with a program image for core 0, and a RUN of it. -/
def imaged : State :=
  let s := placed.setReg .cfgLastCore 0 1 1
  let image := (s.unitLast 0).take 0x28 ++ (bytesOf 0xA0 [(0x40, 2, 2), (0x44, 4, 1), (0x48, 8, 0xA0), (0x80, 8, 0x90), (0x88, 4, 1)]).drop 0x28
  (lettered s 0 (letterOf 1 [(0x18, 8, 0xA0)])).hbmWrite (2 ^ 21) (image.take 64) |>.1.hbmWrite (2 ^ 21 + 64) ((image.drop 64).take 64) |>.1.hbmWrite
    (2 ^ 21 + 128) (image.drop 128) |>.1

theorem witness_RunAdmitsItsImage :
    imaged.startable 0 1 = some (letterOf 1 [(0x18, 8, 0xA0)]) ∧
    0 + 0xA0 ≤ 2 ^ 38 ∧ (imaged.begun 0 (letterOf 1 [(0x18, 8, 0xA0)])).mapped 0 0 0xA0 = true ∧
    (imaged.begun 0 (letterOf 1 [(0x18, 8, 0xA0)])).hbmSees (2 ^ 21) .clean = .clean ∧
    (imaged.begun 0 (letterOf 1 [(0x18, 8, 0xA0)])).winPoisoned 0 0 0x90 = false ∧
    ((imaged.begun 0 (letterOf 1 [(0x18, 8, 0xA0)])).hbmAccess (some 0) (2 ^ 21) false srcHub 3).checkImage 0 0 0xA0 0 = none := by decide +kernel

/-- A zero tile, the MAC's vector in its feeder, and core 0 about to issue it. -/
def zeroTile : Tile := { fmt := 2, bytes := List.replicate 4096 0, scales := [] }
def fedVec : FeedVec := { cmd := 1, t := 0, v := 0, bytes := List.replicate 64 0, scales := [] }
def issuing : State := holding (fun k => { k with
  cmds := [{ aCmd macCmd .array with tile := 1 }], arrs := [{ active := some zeroTile, feed0 := { queue := [fedVec] } }, {}, {}, {}] })
/-- The same under a throttle of 64. -/
def throttled : State := { issuing with pw := { issuing.pw with levels := [(0, 64)] } }
def swapping : State := holding (fun k => { k with shadow := some zeroTile, cmds := [aCmd macCmd .array] })

theorem atWork_holding {f : Core → Core} (h : (holding f).clocked = true) (g : ((holding f).place 0).isSome = true) :
    AtWork (holding f) 0 := ⟨h, g⟩

theorem witness_ArraysIssueAndSwap :
    (issuing.clocked = true ∧ (issuing.place 0).isSome = true ∧ ((issuing.core 0).arr 0).pipe.length < 5 ∧
      ((issuing.core 0).arr 0).again = [] ∧ issuing.refusesSlot 0 0 = false ∧ throttled.refusesSlot 0 0 = true ∧ throttled.clocked = true ∧
      (throttled.place 0).isSome = true ∧ ((throttled.core 0).arr 0).pipe.length < 5 ∧ ((throttled.core 0).arr 0).again = [] ∧ (match issuing.macIssue 0 0 with
        | .ok e => decide (e = ({ aCmd macCmd .array with tile := 1 }, [fedVec]))
        | .error _ => false) = true) ∧
    ((swapping.place 0).isSome = true ∧ (swapping.core 0).shadow = some zeroTile ∧ (swapping.core 0).asksTile = some (aCmd macCmd .array) ∧
      (swapping.core 0).arrs.all Arr.tileIdle = true ∧ zeroTile.fmt = macWfmt macCmd) := by decide +kernel

/-- Slots in the pipeline: a vector whose sums agree with its checksum, and the slots behind it. -/
def slotOf (suspect : Bool) : Slot :=
  { vecs := [({ bytes := [], scales := [], afmt := 2, mode := 1, stat := false, row := 0, upd := 0, int := false, f := 0, src := .mac 1 0 0 },
      { X := 0, lo := [1], hi := [2], chk := 3, nanVec := false, nanCols := [], slo := [], shi := [], mx := false })], suspect := suspect }
def piped (suspect : Bool) : State := holding (fun k => { k with arrs := [{ pipe := [slotOf suspect, {}, {}, {}, {}] }, {}, {}, {}] })

theorem witness_AccumulateCommitsReplaysOrHalts :
    ((piped false).core 0).arr 0 = { pipe := [slotOf false, {}, {}, {}, {}] } ∧ ((piped true).core 0).arr 0 = { pipe := [slotOf true, {}, {}, {}, {}] } ∧
    (piped true).clocked = true ∧ ((piped true).place 0).isSome = true ∧ (slotOf true).squashed = false ∧
    (∀ b ∈ [false, true],
      ((slotOf b).vecs.zipIdx).all (fun e => checkPasses e.1.2 e.2 ((piped b).upsetsOf 0 0 (slotOf b) [])) = true ∧
      ((slotOf b).vecs.zipIdx).all (fun e => checkPasses e.1.2 e.2 ((piped b).upsetsOf 0 0 (slotOf b) [⟨0, 0, 1⟩])) = false) := by decide +kernel

/-- Core 0 in an LDS: its first cycle, and its last. -/
def loadingStat (n : Nat) : State := holding (fun k => { k with
  cmds := [aCmd ldsCmd .array], arrs := [{ statLoad := some (1, List.replicate n 0) }, {}, {}, {}] })

theorem witness_StationaryLoadsFillTheBuffer :
    (loadingStat 0).clocked = true ∧ ((loadingStat 0).place 0).isSome = true ∧ (((loadingStat 0).core 0).arr 0).pipe.length < 5 ∧
    (((loadingStat 0).core 0).arr 0).again = [] ∧
    ((loadingStat 0).core 0).arrayCmd = some (aCmd ldsCmd .array) ∧ (match (loadingStat 0).macIssue 0 0 with
      | .ok _ => false
      | .error c => c == 7) = true ∧
    ((loadingStat 0).core 0).readFree 1 0 = true ∧ ((loadingStat 0).core 0).readFree 1 63 = true ∧
    (∀ l ∈ [0, 1], (loadingStat 0).benchSees 0 l .clean = .clean) ∧ (∀ l ∈ [62, 63], (loadingStat 3968).benchSees 0 l .clean = .clean) ∧
    isMx (ldsFmt ldsCmd) = false ∧ 0 + 128 < tileBytes (ldsFmt ldsCmd) ∧ tileBytes (ldsFmt ldsCmd) ≤ 3968 + 128 := by decide +kernel

/-- Core 0 in an LDT from the bench. -/
def loadingTile : State := holding (fun k => { k with cmds := [aCmd ldtCmd .weight] })

theorem witness_WPortTakesChunks :
    (loadingTile.core 0).loading = some (aCmd ldtCmd .weight) ∧ ldtLace ldtCmd = false ∧ loadingTile.clocked = true ∧
    (loadingTile.place 0).isSome = true ∧ isMx (ldtFmt ldtCmd) = false ∧
    (rangeFrom 0 4).all (fun i => (loadingTile.core 0).readFree 1 i) = true ∧
    ∀ i ∈ rangeFrom 0 4, loadingTile.benchSees 0 i .clean = .clean := by decide +kernel

/-- A MAC with CMP = 1, whose index entry names a ZERO block of 1 byte, or an unknown kind. -/
def macCmpCmd : BitVec 128 := cmdOf 0x08 [(121, 120, 1), (119, 116, 2), (115, 112, 2), (105, 105, 1), (99, 96, 1), (87, 79, 1), (28, 13, 1)]
def idxLine : List Byte := bytesOf 64 [(0, 8, 64 + 2 ^ 32)]
def entry0 : IdxEntry := { scale1 := 0, scale0 := 0, size := 1, offset := 64, resv := false }
/-- Core 0 feeds an array, which holds the index line or nothing; the command has been reported as oversize or not. -/
def feeding (r : BitVec 128) (f : FetchUnit) (seen : List Nat) : State :=
  holding (fun k => { k with cmds := [aCmd r .array], oversize := seen, arrs := [{ fetch := f }, {}, {}, {}] })
def indexed : FetchUnit := { cmd := 1, index := some (0, idxLine), blocks := [(1, List.replicate 64 0)] }
/-- Microscaling vectors: a MAC whose vector takes its line and, from a second line, its scales. -/
def macMxCmd : BitVec 128 := cmdOf 0x08 [(121, 120, 1), (119, 116, 4), (115, 112, 4), (99, 96, 1), (87, 79, 1), (28, 13, 1)]

theorem witness_FeedersFetchAndExpand :
    (((feeding macCmd {} []).core 0).needLines 0 0 = some (aCmd macCmd .array, 0, [0]) ∧ (feeding macCmd {} []).clocked = true ∧
      ((feeding macCmd {} []).place 0).isSome = true ∧ ((((feeding macCmd {} []).core 0).arr 0).feeder 0).queue.length < 4 ∧
      ((feeding macCmd {} []).core 0).readFree 1 0 = true ∧ (feeding macCmd {} []).benchSees 0 0 .clean = .clean ∧
      macCmp macCmd = false ∧ macAddr macCmd 0 0 0 = 0) ∧
    (((feeding macMxCmd {} []).core 0).needLines 0 0 = some (aCmd macMxCmd .array, 0, [0, 1]) ∧ macCmp macMxCmd = false) ∧
    (((feeding macCmpCmd {} []).core 0).needLines 0 0 = some (aCmd macCmpCmd .array, 0, [0]) ∧ macCmp macCmpCmd = true ∧
      ((feeding macCmpCmd {} []).core 0).readFree 1 0 = true) ∧
    (∀ seen ∈ [[], [1]], let s := feeding macCmpCmd indexed seen
      (s.core 0).needLines 0 0 = some (aCmd macCmpCmd .array, 0, []) ∧ (((s.core 0).arr 0).feeder 0).queue.length < 4 ∧
      entryOf (((s.core 0).arr 0).indexFor 1) 0 = some entry0 ∧ (s.core 0).oversize.contains 1 = seen.contains 1) := by decide +kernel

/-- What that entry's one byte expands to, and what an unknown header does: the outcomes of the claim. -/
theorem witness_FeedersFetchAndExpand_outcomes :
    (match expandBlock entry0 [0] [] with
      | .ok e => e.2 == 1
      | .error _ => false) = true ∧
    (match expandBlock entry0 [3] [] with
      | .ok _ => false
      | .error e => e.1 == 2) = true := by decide +kernel

/-- A block of each kind at the boundary of its size. -/
theorem witness_BlocksExpandByKind :
    { entry0 with resv := true }.bad = true ∧ entry0.bad = false ∧ { entry0 with size := 72 }.bad = false ∧
    (let n (v : Nat) : Nat := (List.range 64).countP (fun i => (leField (bytesOf 9 [(0, 1, 1), (1, 8, v)] ++ []) 1 8).testBit i)
     n (2 ^ 63 - 1) = 63 ∧ n (2 ^ 64 - 1) = 64 ∧ 9 + n (2 ^ 63 - 1) ≤ 72) ∧
    entry0.size < 9 ∧ 65 ≤ { entry0 with size := 65 }.size ∧ { entry0 with size := 64 }.size < 65 ∧
    (([0] : List Byte).headD 0).toNat = 0 ∧ (([1] : List Byte).headD 0).toNat = 1 ∧ (([2] : List Byte).headD 0).toNat = 2 ∧
    3 ≤ (([3] : List Byte).headD 0).toNat := by decide +kernel

/-- Core 0 in a DRAIN: a row yet to be read, and a row for the O port; the courier has the descriptor of one to the external port. -/
def draining (dest : Nat) (row : Bool) : State :=
  let s := holding (fun k => { k with
    cmds := [aCmd (drainCmd dest) .drain]
    arrs := [{ orows := if row then [{ cmd := 1, pos := 0, r := 0, bytes := List.replicate 256 1, scales := [] }] else [] }, {}, {}, {}] })
  s.updCourier 0 (fun c => { c with descs := [{ id := 9, origin := .drain 0 1, desc := drainDesc 0 (drainCmd 2), ctx := 0, queue := 0, phase := 0
                                                hint := 0, stamp := none, active := true, nextRead := 0, buf := [], acked := 0, fail := none
                                                failLine := 0 }] })

theorem witness_DrainsConvertAndDeliver :
    (((draining 1 false).core 0).cmds.find? (fun x => x.eng == .drain && !x.done &&
        (maskArrays (drMask x.raw)).any (fun i => decide (cnt x.issued i < drN x.raw))) = some (aCmd (drainCmd 1) .drain) ∧
      (draining 1 false).clocked = true ∧ ((draining 1 false).place 0).isSome = true ∧ (drMask (drainCmd 1)).testBit 0 = true ∧
      0 < drN (drainCmd 1) ∧ (((draining 1 false).core 0).arr 0).orows.length < 2 ∧ (((draining 1 false).core 0).arr 0).refused = false ∧
      ((draining 1 false).core 0).rowDone (aCmd (drainCmd 1) .drain) 0 0 = true) ∧
    (∀ d ∈ [0, 1, 2], (draining d true).place 0 = some place0 ∧ (((draining d true).core 0).arr 0).orows.length = 1 ∧
      ((draining d true).core 0).cmd 1 = some (aCmd (drainCmd d) .drain) ∧ drDest (drainCmd d) = d ∧
      ∀ a ∈ [1, 2, 3], (((draining d true).core 0).arr a).orows = []) ∧
    (rangeFrom (drLine (drainCmd 0)) (drRowLines (drainCmd 0))).all (fun l => ((draining 0 true).core 0).writeFree 1 l) = true ∧
    (((draining 2 true).courier 0).descs.find? (fun d => d.origin == .drain 0 1)).any (fun d => d.active) = true := by decide +kernel

/-- Filler work at a level, and a rising cap. -/
def filling (f : Filler) : State := holding (fun k => { k with arrs := [{ filler := f }, {}, {}, {}], writeback := [16383] })

theorem witness_FillerTimersAndWriteback :
    (filling {}).clocked = true ∧ (((filling { on := true, hold := true }).core 0).arr 0).filler.on = true ∧
    ((((filling { on := true, k := 1 }).core 0).arr 0).filler.hold = false ∧ getFl fSynFillerCfgFloor 0 < 1) ∧
    (((filling { k := 0 }).core 0).arr 0).filler.k ≤ getFl fSynFillerCfgFloor 0 ∧
    (((filling { cap := some 63 }).core 0).arr 0).filler.cap = some 63 ∧ 63 + getFl fSynFillerCfgRise 0 < 64 ∧
    64 ≤ 63 + getFl fSynFillerCfgRise (putFl fSynFillerCfgRise 0 1) ∧
    ((filling {}).core 0).writeback.contains 16383 = true := by decide +kernel

/-- A halted core, and a cluster with a spare core and one without. -/
def haltedCore : State := (holding (fun k => { k with halt := some ([codeArrayCheckFail], 0) })).setFld .fltCoreStatus fFltCoreStatusHalted 0 1
def noSpare : State := haltedCore.each (List.range 17) (fun s c => s.setFld .fltCoreStatus fFltCoreStatusMember c (c % 16))

theorem witness_SelfTestActsByItsFinding :
    haltedCore.clocked = true ∧ haltedCore.fwOn 3 = true ∧ haltedCore.memberOf 0 = some 0 ∧ haltedCore.halted 0 = true ∧
    (haltedCore.core 0).halt = some ([codeArrayCheckFail], 0) ∧ haltedCore.steerFree 0 [⟨3, some 63, some 64⟩] = true ∧
    haltedCore.spareCore 0 = some 1 ∧ noSpare.spareCore 0 = none ∧ noSpare.halted 0 = true := by decide +kernel

/-- A lace whose entry queue holds a tile, member 0 (core 0) and member 15 (core 15) of cluster 0; the descriptor that feeds it. -/
def feedDesc : CDesc :=
  { id := 1, origin := .move ⟨0, 1⟩ 0, desc := { src := 0, dst := sideWord 3 0 0, rowLines := 64, rows := 1, srcStride := 0, dstStride := 0 }
    ctx := 0, queue := 0, phase := 0, hint := 0, stamp := none, active := true, nextRead := 0, buf := [], acked := 0, fail := none, failLine := 0 }
def laced (f : Core → Core) (sent returned : Nat) (ds : List CDesc) (feeds : Option Nat) : State :=
  let s := (holding f).setFld .fltCoreStatus fFltCoreStatusMember 15 15
  ((s.updCourier 0 (fun c => { c with descs := ds })).updCore 15 (fun k => { k with fwd := some (2, [1], []) })).updLace 0 (fun l => { l with
    tiles := [⟨1, 2, List.replicate 512 0, []⟩], sent := sent, inRing := [(1, 2)], returnedChunks := returned, desc := feeds })
def laceLoad (k : Core) : Core := { k with cmds := [aCmd (cmdOf 0x04 [(120, 117, 2), (116, 101, 1)]) .weight] }
/-- Member 14 forwards to member 15. -/
def forwarding (f : Core → Core) : State :=
  let s := (laced id 0 0 [] none).setFld .fltCoreStatus fFltCoreStatusMember 14 14
  (s.updCore 14 (fun k => { k with fwd := some (2, [1], []) })).updCore 15 (fun k => f { k with fwd := none })

theorem witness_LaceMovesChunks :
    (∀ n ∈ [0, 1], let s := laced id n 0 [] none
      let ch := chunkOf (List.replicate 512 0) [] n
      s.laceMoves 0 = true ∧ (s.lace 0).tiles = [⟨1, 2, List.replicate 512 0, []⟩] ∧ (s.lace 0).sent = n ∧ s.liveMember 0 0 = some 0 ∧
        s.takeChunk 0 2 ch.1 ch.2 = none ∧ ((laced laceLoad n 0 [] none).takeChunk 0 2 ch.1 ch.2).isSome = true) ∧
    (0 + 1) * 256 < 512 ∧ 512 ≤ (1 + 1) * 256 ∧
    ((forwarding id).laceMoves 0 = true ∧ (forwarding id).liveMember 0 14 = some 14 ∧ (forwarding id).liveMember 0 15 = some 15 ∧
      ((forwarding id).core 14).fwd = some (2, [1], []) ∧ (forwarding id).takeChunk 15 2 [1] [] = none ∧
      ((forwarding laceLoad).takeChunk 15 2 [1] []).isSome = true) ∧
    (∀ n ∈ [14, 15], let s := laced id 0 n [] none
      s.laceMoves 0 = true ∧ s.liveMember 0 15 = some 15 ∧ (s.core 15).fwd = some (2, [1], []) ∧ (s.lace 0).inRing = [(1, 2)] ∧
        (s.lace 0).returnedChunks = n) ∧ (14 + 1) * 256 < tileBytes 2 ∧ tileBytes 2 ≤ (15 + 1) * 256 := by decide +kernel

/-- The end of a feed: its last tile out, its last tile back, and a tile of another feed. -/
theorem witness_LaceMovesChunks_feeds :
    (∀ ds ∈ [[], [feedDesc]],
      let ch := chunkOf (List.replicate 512 0) [] 1
      ((laced laceLoad 1 0 ds none).takeChunk 0 2 ch.1 ch.2).map (fun u =>
        (List.range 20).find? (fun k => ((u.updLace 0 (fun e => { e with tiles := [], sent := 0 })).desc k 1).isSome)) =
          some (if ds = [] then none else some 0)) ∧
    (∀ f ∈ [none, some 1], let s := laced id 0 15 [feedDesc] f
      let u := ((s.updCore 15 (fun k => { k with fwd := none })).updLace 0 (fun e => { e with
        returnedChunks := 0, inRing := [], returnedTiles := if e.desc = some 1 then e.returnedTiles + 1 else e.returnedTiles })).bump
          .laceStatus fLaceStatusTilesReturned 0
      (List.range 20).find? (fun k => (u.desc k 1).isSome) = some 0 ∧ u.desc 0 1 = some feedDesc ∧ (u.lace 0).desc = f ∧
        (f = some 1 → (u.lace 0).returnedTiles = feedDesc.desc.rows.toNat)) ∧
    (let s := laced id 0 15 [] none
     (List.range 20).find? (fun k => ((s.updCore 15 (fun k => { k with fwd := none })).desc k 1).isSome) = none) := by decide +kernel
/-! ## Witnesses: attention, couriers and ports -/

/-- A context whose heads have D 128 in E4M3, and sequence 0 of it in a STEP of one position. -/
def stepping : State :=
  let s := (placed.setFld .kvpGeom fKvpGeomHeadDim 0 1).setFld .kvpGeom fKvpGeomKvfmt 0 2
  { s with kv := { s.kv with seqs := [(0, { state := .stepping, ctx := 0, pending := 1, epoch := 1 })] } }
def attnCmd (impl : Nat) : BitVec 128 := cmdOf 0x10 [(121, 121, impl), (120, 117, 2), (116, 113, 2), (74, 66, 1)]

theorem witness_AttnStarts :
    ∀ i ∈ [0, 1], dispatchable (commanded stepping (attnCmd i)) (attnCmd i) = true ∧ opc (attnCmd i) = 0x10 ∧ atImpl (attnCmd i) = i ∧
      (commanded stepping (attnCmd i)).attnCheck place0 (attnCmd i) = none ∧ ((commanded stepping (attnCmd i)).core 0).cmds = [] ∧
      ((commanded stepping (attnCmd i)).core 0).attn = none := by decide +kernel

/-- An ATTN under way on core 0, one page to visit. -/
def attn0 : Attn :=
  { cmd := 1, ctx := 0, seq := 0, layer := 0, head := 0, impl := 0, qfmt := 2, kvfmt := 2, D := 128, T := 1, G := 1, W := 1, L0 := 0
    qbase := 0, qn := 2, qline := 0, oline := 0, kscale := 0, pool := 0, pageBytes := 16384, pages := [⟨0, some 0⟩], pinned := [] }
def attending (a : Attn) (rows : List SmRow) : State :=
  holding (fun k => { k with cmds := [aCmd (attnCmd 0) .attention], attn := some a, smRows := rows })
def scoredAttn : Attn := { attn0 with arr := [{ half := 1, committed := 2 }, { half := 1, committed := 2 }, {}, {}] }

theorem witness_SoftmaxTakesAndDeliversRows :
    ((attending scoredAttn []).clocked = true ∧ ((attending scoredAttn []).place 0).isSome = true ∧
      ((attending scoredAttn []).core 0).attn = some scoredAttn ∧ scoredAttn.entered / scoredAttn.qn < scoredAttn.blocks ∧
      scoredAttn.scored 0 0 = true ∧
      0 < minList 0 ((scoredAttn.arrays.filter (fun i => !scoredAttn.scores i)).map (fun i => (scoredAttn.at_ i).blk)) + 2 ∧
      ((attending scoredAttn []).core 0).smRows.length < 2) ∧
    (((attending scoredAttn [⟨0, 0, List.replicate 128 0⟩]).core 0).smRows = [⟨0, 0, List.replicate 128 0⟩]) := by decide +kernel

/-- An ATTN whose appends are acknowledged, and one whose walk is over. -/
def appendedAttn : Attn := { attn0 with appendNext := attn0.appends, appendAcked := attn0.appends }
def walkedAttn : Attn := { attn0 with arr := [{ blk := 1 }, { blk := 1 }, { blk := 1 }, { blk := 1 }] }
/-- A request of cluster 0's walker for it. -/
def walkReq0 (cls : ReqClass) : Req :=
  { tag := 5, agent := .walker 0, item := 512, line := 0, lines := 1, cls := cls, port := none, units := 1, stamp := 0, addr := 0
    data := List.replicate 64 7 }
def walking (cls : ReqClass) : State := { attending attn0 [] with mv := { (attending attn0 []).mv with reqs := [walkReq0 cls] } }

/-- An ATTN that has staged pieces of its block. -/
def stagingAttn : Attn := { appendedAttn with piece := 1 }

/-- The tables of sequence 0 stand: page 0 of layer 0 is in frame 0. -/
def withTables (s : State) : State :=
  let s := { s with kv := { s.kv with seqs := [(0, { state := .stepping, l1 := some 0 })] } }
  (s.setTableEntry 0 (level1Word 64)).setPage 0 0 (s.ringSlot 0 0) (pageWord 0 0 0 0)

theorem witness_WalkerAppendsStagesAndRowsLeave :
    (let s := withTables (attending attn0 [])
     let u : State := { s with mv := { s.mv with walkLast := tabSet 0 s.mv.walkLast 0 0 } }
     s.run = true ∧ s.clusterIn 0 = true ∧ s.walkNext 0 = some 0 ∧ (s.core 0).attn = some attn0 ∧ s.tagsOf (.walker 0) < 128 ∧
       attn0.appendNext < attn0.appends ∧ u.appendLocked attn0 = false ∧ (match u.appendAddr attn0 0 with
         | .ok _ => true
         | .error _ => false) = true ∧ u.appendHeld attn0 0 = false ∧ (u.core 0).readFree 1 ((attn0.append 0).1 / 64) = true ∧
       u.benchSees 0 ((attn0.append 0).1 / 64) .clean = .clean) ∧
    (let s := attending stagingAttn []
     s.walkNext 0 = some 0 ∧ stagingAttn.appends ≤ stagingAttn.appendNext ∧ stagingAttn.piece ≠ 0 ∧
       ((stagingAttn.pieces stagingAttn.staged)[1]?).any (fun e => s.heldAt 0 (stagingAttn.frameOff e.2.1 e.2.2) == false &&
         (s.translate 0 (stagingAttn.frameOff e.2.1 e.2.2)).isSome) = true) ∧
    (∀ out ∈ [[], [hbmStack 0]], let s : State := { walking .write with flt := { (walking .write).flt with hbmOut := out } }
     s.clocked = true ∧ s.answerable (.walker 0) 5 = some (walkReq0 .write) ∧ s.flt.hbmOut.contains (hbmStack 0) = !out.isEmpty ∧
      ((s.dropReq 5).hbmWriteLines 0 (List.replicate 64 7) 1).walkFor (walkReq0 .write) = some (0, attn0)) ∧
    ((walking .read).answerable (.walker 0) 5 = some (walkReq0 .read) ∧
      ∀ rd ∈ [ReadRes.clean, .uncorrectable], let t := ((walking .read).dropReq 5).hbmReads (lineAddrs 0 1) rd
        t.1.walkFor (walkReq0 .read) = some (0, attn0) ∧ t.2 = (rd == .uncorrectable) ∧
          ((attn0.pieces attn0.staged)[0]?).isSome = true) ∧
    ((attending walkedAttn []).place 0 = some place0 ∧ ((attending walkedAttn []).core 0).attn = some walkedAttn ∧
      walkedAttn.blocks ≤ walkedAttn.minBlk ∧ walkedAttn.outRow + 1 < walkedAttn.qn ∧
      { walkedAttn with outRow := 1 }.qn ≤ { walkedAttn with outRow := 1 }.outRow + 1 ∧
      (rangeFrom 0 8).all (fun l => ((attending walkedAttn []).core 0).writeFree 1 l) = true) := by decide +kernel

/-- A MOVE letter from HBM to HBM, and one whose DONE names no object. -/
def moveLetter (done : Nat) : Letter :=
  letterOf 4 [(0x10, 8, 0), (0x18, 8, 4096), (0x20, 4, 1), (0x24, 4, 1), (0x30, 8, 0), (0x38, 4, done)]
/-- A MOVE whose chain goes on. -/
def chained : Letter := { letterOf 4 [(0x30, 8, 64)] with started := true, work := .move 1 true none }

theorem witness_MovesQueueDescriptors :
    ((lettered up 0 (moveLetter 0)).startable 0 4 = some (moveLetter 0) ∧ (lettered up 0 (moveLetter 0)).courierRoom 16 = true ∧
      (((lettered up 0 (moveLetter 0)).begun 0 (moveLetter 0)).queue 0).unit = 0) ∧
    unitLevel 0 = 0 ∧
    (∀ d ∈ [0, 2 ^ 20 + 0x80005], (lettered up 0x4000 (moveLetter d)).startable 0 4 = some (moveLetter d) ∧
      (lettered up 0x4000 (moveLetter d)).courierRoom 16 = true ∧
      (((lettered up 0x4000 (moveLetter d)).begun 0 (moveLetter d)).queue 0).unit = 0x4000) ∧
    unitLevel 0x4000 = 2 ∧ letterCourier 0x4000 0 = 16 ∧
    ((lettered up 0x4000 (moveLetter 0)).begun 0 (moveLetter 0)).doneOk ⟨0, 1⟩ 0 = true ∧
    ((lettered up 0x4000 (moveLetter (2 ^ 20 + 0x80005))).begun 0 (moveLetter (2 ^ 20 + 0x80005))).doneOk ⟨0, 1⟩ (2 ^ 20 + 0x80005) = false ∧
    ((lettered up 0x4000 chained).letter ⟨0, 1⟩ = some chained ∧ (lettered up 0x4000 chained).run = true ∧
      (lettered up 0x4000 chained).courierRoom 16 = true ∧ (lettered up 0x4000 chained).mapped 0 64 32 = true ∧
      (lettered up 0x4000 chained).hbmSees (((lettered up 0x4000 chained).translate 0 64).getD 0) .clean = .clean) := by decide +kernel

/-- A descriptor between spaces, and the die courier 16 with it. -/
def descOf (src dst : Nat) (off : Nat) : Desc :=
  { src := sideWord src 0 0, dst := sideWord dst 0 off, rowLines := 4, rows := 1, srcStride := 0, dstStride := 0 }
def cdescOf (d : Desc) (active : Bool) : CDesc :=
  { id := 9, origin := .move ⟨0, 1⟩ 0, desc := d, ctx := 0, queue := 0, phase := 0, hint := 0, stamp := none, active := active, nextRead := 0
    buf := [], acked := 0, fail := none, failLine := 0 }
def couriering (d : CDesc) : State := placed.updCourier 16 (fun c => { c with descs := [d] })
/-- The courier without a free tag. -/
def tagless (d : CDesc) : State :=
  { couriering d with mv := { (couriering d).mv with
      reqs := (List.range 1024).map (fun i => { walkReq0 .read with tag := i, agent := .courier 16, item := 77 }) } }
def buffered : CDesc := { cdescOf (descOf 0 0 4096) true with buf := [⟨0, List.replicate 64 1⟩] }

theorem witness_CouriersStartIssueAndEnd_start :
    (∀ d ∈ [cdescOf (descOf 0 0 0) false, cdescOf (descOf 0 0 4096) false], let s := couriering d
      s.run = true ∧ s.liveLetters = [] ∧ (s.courier 16).descs.find? (fun d => !d.active && !s.awaitsResidence d) = some d ∧
        ((s.courier 16).descs.filter (fun d => d.active && !d.origin.isSwitch)).length < 16) ∧
    (couriering (cdescOf (descOf 0 0 0) false)).checkDesc (.move ⟨0, 1⟩ 0) 0 (descOf 0 0 0) = some codeAddressInvalid ∧
    (let s := couriering (cdescOf (descOf 0 0 4096) false)
     s.checkDesc (.move ⟨0, 1⟩ 0) 0 (descOf 0 0 4096) = none ∧ (descOf 0 0 4096).residence.any (fun c => !s.clusterIn c) = false ∧
       s.descMayStart (cdescOf (descOf 0 0 4096) false) = true ∧ (descOf 0 0 4096).feedCluster = none) := by decide +kernel

/-- The state in which the courier's next request is issued. -/
def issuingDesc (d : CDesc) : State :=
  ((couriering d).setFld .crrStatus fCrrStatusPoolWait 16 0).updCourier 16 (fun c => { c with lastId := d.id })

theorem witness_CouriersStartIssueAndEnd :
    ((tagless (cdescOf (descOf 0 0 4096) true)).run = true ∧
      (tagless (cdescOf (descOf 0 0 4096) true)).nextIssuer 16 = some (cdescOf (descOf 0 0 4096) true) ∧
      (tagless (cdescOf (descOf 0 0 4096) true)).canTag 16 = false) ∧
    ((couriering buffered).nextIssuer 16 = some buffered ∧ (couriering buffered).canTag 16 = true ∧ sideSpace (descOf 0 0 4096).dst = 0 ∧
      buffered.firstBuf = some 0 ∧ (descOf 0 0 4096).fan = [] ∧
      (issuingDesc buffered).translate 0 ((descOf 0 0 4096).dstLine 0) = some (2 ^ 21 + 4096)) ∧
    ((couriering (cdescOf (descOf 0 0 4096) true)).nextIssuer 16 = some (cdescOf (descOf 0 0 4096) true) ∧
      sideSpace (descOf 0 0 4096).src = 0 ∧ (cdescOf (descOf 0 0 4096) true).firstBuf = none ∧
      (issuingDesc (cdescOf (descOf 0 0 4096) true)).translate 0 ((descOf 0 0 4096).srcLine 0) = some (2 ^ 21)) ∧
    ((couriering (cdescOf (descOf 1 0 4096) true)).nextIssuer 16 = some (cdescOf (descOf 1 0 4096) true) ∧
      (couriering (cdescOf (descOf 1 0 4096) true)).canTag 16 = true ∧ sideSpace (descOf 1 0 4096).src = 1) ∧
    ((couriering { cdescOf (descOf 0 0 4096) true with acked := 4 }).desc 16 9 = some { cdescOf (descOf 0 0 4096) true with acked := 4 } ∧
      (couriering { cdescOf (descOf 0 0 4096) true with acked := 4 }).clocked = true ∧
      4 = (descOf 0 0 4096).total * ((descOf 0 0 4096).fan.length + 1)) := by decide +kernel

/-- A request of the courier's descriptor, which reads HBM or a bench. -/
def descReq0 (cls : ReqClass) : Req := { walkReq0 cls with agent := .courier 16, item := 9 }
def responding (cls : ReqClass) (src : Nat) : State :=
  let s := couriering (cdescOf (descOf src 0 4096) true)
  { s with mv := { s.mv with reqs := [descReq0 cls] } }

theorem witness_CourierResponsesAct :
    (∀ cls ∈ [ReqClass.write, .read], ∀ src ∈ [0, 2], let s := responding cls src
      s.clocked = true ∧ s.answerable (.courier 16) 5 = some (descReq0 cls) ∧
        ((s.dropReq 5).crrNote 16).desc 16 9 = some (cdescOf (descOf src 0 4096) true)) ∧
    sideSpace (descOf 2 0 4096).src = 2 ∧ sideSpace (descOf 0 0 4096).src ≠ 2 ∧ sideSpace (descOf 0 0 4096).dst = 0 ∧
    (((responding .write 0).dropReq 5).crrNote 16).flt.hbmOut.contains (hbmStack 0) = false ∧
    (descOf 0 0 4096).feedCluster = none ∧ (cdescOf (descOf 0 0 4096) true).origin.switchOf = none ∧
    (match ((((responding .read 0).dropReq 5).crrNote 16).readBack (cdescOf (descOf 0 0 4096) true) (descReq0 .read) .error .clean).2 with
      | .ok b => b == List.replicate 64 0
      | .error _ => false) = true ∧
    (match ((((responding .read 0).dropReq 5).crrNote 16).readBack (cdescOf (descOf 0 0 4096) true) (descReq0 .read) .error .uncorrectable).2 with
      | .ok _ => false
      | .error e => e.1 == codeHbmUncorrectable) = true := by decide +kernel

/-- A port with a request, one with a flash program, one with nothing, and one that adopts a split. -/
def porting (p : Nat) : State := { up with mv := { up.mv with reqs := [{ descReq0 .read with port := some p }], adopt := [21] } }

theorem witness_PortsGrantAndWindowsEnd :
    (porting 0).portChoice 0 = some (.inl { descReq0 .read with port := some 0 }) ∧ (porting 0).portChoice 1 = none ∧
    (porting 0).mv.adopt.contains 0 = false ∧ (porting 0).mv.adopt.contains 21 = true ∧ (porting 0).clocked = true := by decide +kernel
/-! ## Witnesses: sequences, pages and tiers -/

/-- A region's 64-byte descriptor, written to its registers. -/
def withRegion (s : State) (r : Nat) (fs : List (Nat × Nat × Nat)) : State :=
  s.each (List.range 8) (fun s w => s.setReg .ctxRegion r w (BitVec.ofNat 64 (leField (bytesOf 64 ((2, 1, 1) :: fs)) (8 * w) 8)))

/-- Context 0 has pages for its sequences: so many frames free of 8, tables of 2 MiB, a flash region of 8 slots, a policy. -/
def paged (free : Nat) : State :=
  let s := (((allotted.setFld .kvpPool fKvpPoolPoolPages 0 8).setFld .kvpPool fKvpPoolFreePages 0 free).setFld .ctxHbmInfo
    fCtxHbmInfoTablePages 0 1).setFld .kvpGeom fKvpGeomKvfmt 0 2
  withRegion ((s.setFld .kvpPool fKvpPoolFlashRegion 0 3).setFld .kvpPool fKvpPoolPolicy 0 1) 3 [(0, 1, 5), (1, 1, 1), (8, 8, 8 * 65536)]
/-- A SEQ letter on sequence 0, which stands in a state. -/
def seqLetter (op : Nat) : Letter := letterOf 6 [(0x10, 1, op), (0x14, 2, if op = 1 then 1 else 0)]
def sequencing (free op : Nat) (z : Sequence) : State :=
  { lettered (paged free) 0x4000 (seqLetter op) with kv := { (paged free).kv with seqs := [(0, z)] } }
def idle (n : Nat) : Sequence := { state := .idle, length := n, epoch := 1 }

/-- The conditions of `SeqLetter` as a check. -/
def seqStarts (s : State) (op : Nat) : Bool :=
  let x := seqLetter op
  decide (s.startable 0 6 = some x) && decide (x.field 0x10 1 = op) && !s.seqAwaited 0 && !(s.sequence 0).abort &&
    (s.begun 0 x).doneOk ⟨0, x.pm⟩ (x.field 0x18 4)

theorem witness_SequenceLettersAct_conditions :
    (seqStarts (sequencing 8 0 (idle 0)) 0 = true ∧ (((sequencing 8 0 (idle 0)).begun 0 (seqLetter 0)).sequence 0).state ≠ .free) ∧
    (seqStarts (sequencing 8 1 { state := .stepping }) 1 = true) ∧ (seqStarts (sequencing 8 1 (idle (2 ^ 24))) 1 = true ∧
      ((sequencing 8 1 (idle (2 ^ 24))).begun 0 (seqLetter 1)).seqMine ⟨0, 1⟩ 0 = true ∧ 2 ^ 24 < 2 ^ 24 + (seqLetter 1).field 0x14 2) ∧
    (seqStarts (sequencing 8 2 (idle 0)) 2 = true ∧ seqStarts (sequencing 8 2 { state := .stepping, opener := 5 }) 2 = true ∧
      seqStarts (sequencing 8 2 { state := .stepping }) 2 = true) ∧
    (seqStarts (sequencing 8 3 { state := .stepping }) 3 = true ∧ seqStarts (sequencing 8 3 (idle 0)) 3 = true) := by decide +kernel

/-- An OPEN where no pool stands, and one that fits; a STEP that takes its frame, and one that has to wait for it. -/
theorem witness_SequenceLettersAct :
    (let s := lettered allotted 0x4000 (seqLetter 0)
     seqStarts s 0 = true ∧ ((s.begun 0 (seqLetter 0)).sequence 0).state = .free ∧
       (s.begun 0 (seqLetter 0)).fld .kvpPool fKvpPoolPoolPages ((s.begun 0 (seqLetter 0)).letterCtx ⟨0, 1⟩) = 0) ∧
    (let u := (sequencing 8 0 {}).begun 0 (seqLetter 0)
     seqStarts (sequencing 8 0 {}) 0 = true ∧ (u.sequence 0).state = .free ∧ u.fld .kvpPool fKvpPoolPoolPages 0 ≠ 0 ∧
       u.kv.tableUsed + u.tablesOf 0 ≤ u.tableBytes ∧ u.tablePlace (u.tablesOf 0) = some 0) ∧
    (let u := (sequencing 8 1 (idle 0)).begun 0 (seqLetter 1)
     let v := (u.addSeqOp ⟨0, 1⟩ 0 1 1).settleParking 0
     seqStarts (sequencing 8 1 (idle 0)) 1 = true ∧ u.seqMine ⟨0, 1⟩ 0 = true ∧ (u.sequence 0).state = .idle ∧ 0 + 1 ≤ 2 ^ 24 ∧
       (match v.kv.ops.find? (fun o => o.letter == ⟨0, 1⟩) with
         | some o => (v.sequence o.seq).state != .parking && !v.mustWait 0 o && v.framesOk 0 (v.stepNeed o.seq o.count) [7] &&
           !v.readbackLocked o [7]
         | none => false) = true ∧
       (v.tryStep ⟨0, 1⟩ [7]).isSome = true ∧ v.tryStep ⟨0, 1⟩ [] = none) := by decide +kernel

/-- An operation of sequence 0 whose letter has started. -/
def seqOp0 (op : Nat) : SeqOp := { letter := ⟨0, 1⟩, seq := 0, op := op, count := 1, frames := [7], need := 1, readback := [], granted := true }
def operating (op : Nat) : State :=
  let s := lettered (paged 7) 0x4000 { seqLetter op with started := true, work := .seq }
  { s with kv := { s.kv with seqs := [(0, { state := .stepping })], ops := [seqOp0 op] } }

theorem witness_SequenceOperationsTakeEffect :
    ∀ op ∈ [0, 1, 2, 3], (operating op).kv.ops.find? (fun o => o.seq == 0) = some (seqOp0 op) ∧ (operating op).clocked = true ∧
      (operating op).seqReady (seqOp0 op) = true ∧
      (operating op).letter ⟨0, 1⟩ = some { seqLetter op with started := true, work := .seq } := by decide +kernel

/-- A STEP of sequence 0 that waits for a frame, and sequence 1 with page 0, its entry as given: of HBM and idle, of HBM and parking in
transit, or of flash. Every board block has one group programmed. -/
def hungryOp : SeqOp := { seqOp0 1 with frames := [], granted := false }
def hungry (free : Nat) (z : Sequence) (ops : List SeqOp) (e : BitVec 64) (map : List (Nat × BitVec 64)) : State :=
  let s := lettered (paged free) 0x4000 { seqLetter 1 with started := true, work := .seq }
  let s : State := { s with
    kv := { s.kv with seqs := [(0, idle 0), (1, { z with l1 := some 0 })], ops := ops }
    fl := { s.fl with map := map, notErased := (List.range 12).map (fun ch => (s.grpKey ch ⟨0, 0, 0, 1⟩, true)) } }
  (s.setTableEntry 0 (level1Word 64)).setPage 1 0 (s.ringSlot 0 0) e
def wanting (free : Nat) : State := hungry free (idle 64) [hungryOp] (pageWord 0 0 0 5) []
def moving (ops : List SeqOp) (mapped : Bool) : State :=
  hungry 0 { state := .parking, transit := some (0, 0, 2) } ops (pageWord 2 0 0 5) (if mapped then [(3 * 2 ^ 33 + 2, mapWord 0)] else [])
def returnOp : SeqOp := { seqOp0 1 with seq := 1, readback := [(0, 0)] }
def returning : State := hungry 0 { state := .parked } [returnOp] (pageWord 1 0 0 2) []

theorem witness_PagesMoveBetweenPoolAndFlash_granted :
    (wanting 1).clocked = true ∧ (wanting 1).kv.ops.find? (fun o => o.seq == 0 && o.op == 1 && !o.granted) = some hungryOp ∧
    (let v := (wanting 1).settleParking 0
     v.kv.ops.find? (fun o => o.letter == ⟨0, 1⟩) = some hungryOp ∧ (v.sequence 0).state ≠ .parking ∧ v.mustWait 0 hungryOp = false ∧
       v.framesOk 0 (v.stepNeed 0 1) [7] = true ∧ v.readbackLocked hungryOp [7] = false) ∧
    ((wanting 0).settleParking 0).tryStep ⟨0, 1⟩ [] = none := by decide +kernel

theorem witness_PagesMoveBetweenPoolAndFlash_victim :
    (wanting 0).run = true ∧ (wanting 0).fwOn 2 = true ∧ (wanting 0).fwOn 0 = true ∧ (wanting 0).fl.warn = false ∧
    (wanting 0).kv.seqs.find? (fun e => e.2.state == .parking && e.2.ctx == 0) = none ∧
    ((wanting 0).waitingSteps 0).all (fun o => !(wanting 0).mustWait 0 o) = false ∧
    (wanting 0).fld .kvpPool fKvpPoolPolicy 0 ≠ 0 ∧ (wanting 0).victims 0 = [(0, 1)] ∧
    (let t := (wanting 0).updSequence 1 (fun q => { q with state := .parking })
     (t.pagesAt 1 0).head? = some (0, 0) ∧ 2 < t.kvSlots 0 ∧ t.kvSlotUsed 0 2 = false ∧
       (t.demoteNext 1 2 ⟨0, 0, 0, 0⟩).isSome = true) := by decide +kernel

theorem witness_PagesMoveBetweenPoolAndFlash_group :
    (let t := (wanting 0).updSequence 1 (fun q => { q with state := .parking })
     let u := (((t.setLoc 1 0 0 2 (t.frameOf 1 0 0)).bumpEpoch 1).setKvSlot 0 2 true).updSequence 1 (fun q => { q with transit := some (0, 0, 2) })
     let ch := unitChannel (u.region (u.kvRegion 0)).home (2 * u.kvUnits 0 + 0)
     u.erased (u.grpKey ch ⟨0, 0, 0, 0⟩) = true ∧ u.groupFresh (u.grpKey ch ⟨0, 0, 0, 0⟩) = true ∧
       u.winPoisoned (u.sequence 1).ctx (u.frameWin (u.sequence 1).ctx (u.frameOf 1 0 0) + 0 * 65536)
         (u.unitBytes (u.sequence 1).ctx 0) = false) := by decide +kernel

theorem witness_PagesMoveBetweenPoolAndFlash_moved :
    ((moving [] false).clocked = true ∧ ((moving [] false).sequence 1).transit = some (0, 0, 2) ∧
      (moving [] false).fl.progs.any (fun j => j.who == ProgFor.demote 1 0 2) = false ∧ (moving [] true).kvUnits 0 = 1 ∧
      ((moving [] false).unitGroup 3 2).isSome = false ∧ ((moving [] true).unitGroup 3 2).isSome = true) ∧
    (let v (ops : List SeqOp) : State := (((((moving ops true).setLoc 1 0 0 1 2).freeFrame 0 ((moving ops true).frameOf 1 0 0)).bumpEpoch 1)).updSequence 1
        (fun q => { q with transit := none })
     (v [{ hungryOp with seq := 1 }]).seqAwaited 1 = true ∧ (v []).seqAwaited 1 = false ∧
       ((v []).demoteNext 1 3 ⟨0, 0, 0, 0⟩).isSome = true) := by decide +kernel

theorem witness_PagesMoveBetweenPoolAndFlash_back :
    returning.clocked = true ∧ returning.kv.ops.find? (fun o => o.seq == 1 && o.op == 1 && o.granted) = some returnOp ∧
    (returning.sequence 1).ctx = 0 ∧ returning.kvRegion 0 = 3 ∧ returning.frameOf 1 0 0 = 2 ∧ returning.flashBar 3 = none ∧
    (rangeFrom 2 1).any (fun u => returning.fl.chOut.contains (unitChannel (returning.region 3).home u)) = false := by decide +kernel

/-- The zeroing engine's page. -/
def zeroed (n m : Nat) : State := { up with tier := { up.tier with zero := [{ page := 1, issued := n, acked := m, ctx := 0 }] } }

/-- A request of the zeroing engine at its port. -/
def zeroGrant : State :=
  { zeroed 1 0 with mv := { up.mv with reqs := [{ tag := 5, agent := .zero, item := 1, line := 0, lines := 4, cls := .write, port := some 0
                                                  units := 4, stamp := 0, addr := 2 ^ 21, data := [] }] } }

theorem witness_PagesAreZeroed_grant : zeroGrant.clocked = true ∧ (match zeroGrant.portChoice 0 with
    | some (.inl r) => decide (r.agent = .zero)
    | _ => false) = true := by decide +kernel

theorem witness_PagesAreZeroed :
    (zeroed 8191 0).zeroing = true ∧ (zeroed 8192 8192).clocked = true ∧
    (zeroed 8191 0).tier.zero.find? (fun z => decide (z.issued < 8192)) = some { page := 1, issued := 8191, acked := 0, ctx := 0 } ∧
    (zeroed 8192 8192).tier.zero.find? (fun z => z.acked == 8192) = some { page := 1, issued := 8192, acked := 8192, ctx := 0 } := by
  decide +kernel

/-- A LAYERS region of two slots, and PLACE letters of it. -/
def layered : State := withRegion allotted 0 [(0, 1, 1), (8, 8, 8192), (0x18, 4, 2), (0x1C, 4, 4096), (0x24, 4, 2), (0x30, 4, 4096), (0x34, 4, 0x80000)]
def placeLetter (count : Nat) : Letter := letterOf 7 [(0x18, 4, count)]
def copiedLayer (i : Nat) : PlaceLayer := { i := i, granted := true, started := true, copied := true }
def placing (count n : Nat) : Letter := { placeLetter count with started := true, work := .place n [copiedLayer 0] 0 }

/-- The same with layer 0 told to this die. -/
def told (count n : Nat) : Letter :=
  { placeLetter count with started := true, work := .place n [{ copiedLayer 0 with told := [0] }] 0 }

theorem witness_PlaceStreamsLayers :
    ((lettered layered 0x4000 (placeLetter 3)).startable 0 7 = some (placeLetter 3) ∧
      ((lettered layered 0x4000 (placeLetter 3)).begun 0 (placeLetter 3)).placeCheck ⟨0, 1⟩ (placeLetter 3) = none ∧
      ((lettered allotted 0x4000 (placeLetter 3)).begun 0 (placeLetter 3)).placeCheck ⟨0, 1⟩ (placeLetter 3) = some codeLetterInvalid) ∧
    ((lettered layered 0x4000 (placing 1 1)).letter ⟨0, 1⟩ = some (placing 1 1) ∧ (lettered layered 0x4000 (placing 1 1)).clocked = true ∧
      (placing 1 1).ended = none ∧ (copiedLayer 0).copied = true ∧ (copiedLayer 0).fail = none ∧ (copiedLayer 0).told = [] ∧
      (lettered layered 0x4000 (placing 1 1)).placeDies ⟨0, 1⟩ (placing 1 1) = []) ∧
    (∀ e ∈ [(1, 1), (3, 2), (2, 2)], let s := lettered layered 0x4000 (told e.1 e.2)
      s.letter ⟨0, 1⟩ = some (told e.1 e.2) ∧
        (s.die :: s.placeDies ⟨0, 1⟩ (told e.1 e.2)).all (fun d => [0].contains d) = true ∧ (told e.1 e.2).field 0x18 4 = e.1) ∧
    0 + 1 = 1 ∧ (0 + 1 ≠ 3 ∧ 2 < 3) ∧ (0 + 1 ≠ 2 ∧ 2 ≤ 2) := by decide +kernel

/-- Two LAYERS regions of HBM, and SWAP letters between them. -/
def swappable : State :=
  withRegion (withRegion allotted 0 [(0, 1, 1), (8, 8, 8192), (0x18, 4, 2), (0x1C, 4, 4096)]) 1
    [(0, 1, 1), (8, 8, 8192), (0x10, 8, 8192), (0x18, 4, 2), (0x1C, 4, 4096)]
def swapLetter : Letter := letterOf 8 [(0x11, 1, 1), (0x12, 1, 1), (0x16, 2, 2), (0x18, 4, 0x80005), (0x1C, 4, 1)]
def swapAt (w : SwapWork) : State := lettered swappable 0x4000 { swapLetter with started := true, work := .swap w }

theorem witness_SwapReplacesInPlace :
    ((lettered swappable 0x4000 swapLetter).startable 0 8 = some swapLetter ∧ (lettered swappable 0x4000 swapLetter).swapAlone swapLetter = true ∧
      ((lettered swappable 0x4000 swapLetter).begun 0 swapLetter).swapCheck ⟨0, 1⟩ swapLetter = none ∧
      ((lettered allotted 0x4000 swapLetter).begun 0 swapLetter).swapCheck ⟨0, 1⟩ swapLetter = some codeLetterInvalid) ∧
    ((swapAt { gate := true }).letter ⟨0, 1⟩ = some { swapLetter with started := true, work := .swap { gate := true } } ∧
      (swapAt { gate := true }).clocked = true ∧
      (swapShares (swapLayers swapLetter 0 * ((swapAt { gate := true }).region 1).unitBytes / 64)).all
        (fun p => (swapAt { gate := true }).courierRoom p.1) = true) ∧
    ((swapAt { group := 1, copying := true }).letter ⟨0, 1⟩ =
        some { swapLetter with started := true, work := .swap { group := 1, copying := true } } ∧
      1 + 1 = swapGroups swapLetter ∧ 0 + 1 ≠ swapGroups swapLetter) ∧
    (((swapAt {}).updQ 1 (fun _ => { state := .active, unit := 0x4000, letters := [swapLetter] })).startable 1 8 = some swapLetter ∧
      ((swapAt {}).updQ 1 (fun _ => { state := .active, unit := 0x4000, letters := [swapLetter] })).swapAlone swapLetter = false) := by
  decide +kernel

/-- An EXPERTS region of four experts and two slots, and PROMOTE letters of expert 3. -/
def expertly : State := withRegion allotted 0
  [(0, 1, 2), (8, 8, 4 * 4096), (0x18, 4, 1), (0x1C, 4, 4096), (0x20, 4, 4), (0x24, 4, 2), (0x30, 4, 4096), (0x34, 4, 0x80000)]
def promoteLetter (op e : Nat) : Letter :=
  letterOf 9 ([(0x11, 1, op), (0x14, 2, e)] ++ (if op = 0 then [(0x20, 4, 1), (0x24, 4, 0x80002), (0x28, 4, 0x80003)] else []))
def promoting (op e : Nat) (f : State → State) : State := lettered (f expertly) 0x4000 (promoteLetter op e)
def residentAt (pinned : Bool) (s : State) : State :=
  (s.updExpert 0 3 (fun _ => { state := .resident 1 })).updExpert 0 2 (fun _ => { state := .resident 0, pinned := pinned })
/-- The letter starts and passes its checks. -/
def promotes (op e : Nat) (f : State → State) : Bool :=
  let s := promoting op e f
  let x := promoteLetter op e
  decide (s.startable 0 9 = some x) && decide ((s.begun 0 x).promoteCheck ⟨0, 1⟩ x = none)

theorem witness_PromoteLettersAct :
    ((promoting 0 0 id).startable 0 9 = some (promoteLetter 0 0) ∧ (promoting 0 0 id).routing 0 = none ∧
      ((promoting 0 0 id).begun 0 (promoteLetter 0 0)).routeCheck ⟨0, 1⟩ (promoteLetter 0 0) = none ∧
      ((promoting 0 4 id).begun 0 (promoteLetter 0 4)).routeCheck ⟨0, 1⟩ (promoteLetter 0 4) = some codeLetterInvalid) ∧
    (promotes 1 3 (residentAt false) = true ∧ (((promoting 1 3 (residentAt false)).begun 0 (promoteLetter 1 3)).expert 0 3).state = .resident 1) ∧
    (promotes 1 3 id = true ∧ (((promoting 1 3 id).begun 0 (promoteLetter 1 3)).expert 0 3).state = .absent) ∧
    (promotes 2 3 (residentAt true) = true ∧ ((promoting 2 3 (residentAt true)).begun 0 (promoteLetter 2 3)).pinFull 0 3 = true) ∧
    (promotes 2 3 id = true ∧ (((promoting 2 3 id).begun 0 (promoteLetter 2 3)).expert 0 3).state = .absent ∧
      ((promoting 2 3 id).begun 0 (promoteLetter 2 3)).pinFull 0 3 = false) ∧
    (promotes 2 3 (residentAt false) = true ∧ ((promoting 2 3 (residentAt false)).begun 0 (promoteLetter 2 3)).pinFull 0 3 = false) ∧
    promotes 3 3 id = true ∧
    (∀ op ∈ [1, 2, 3], (promoting op 4 id).startable 0 9 = some (promoteLetter op 4) ∧
      ((promoting op 4 id).begun 0 (promoteLetter op 4)).promoteCheck ⟨0, 1⟩ (promoteLetter op 4) = some codeLetterInvalid) := by
  decide +kernel

/-- A record being released, a promotion that waits for a slot, and one whose copy is done. -/
def record0 : RouteRec :=
  { id := 4, r := 0, u := 3, tag := 9, expert := 3, letter := ⟨0, 1⟩, serial := 7, ctx := 0, ring := 0, log2 := 4, ready := 0x80002, creditRef := 0x80003
    slot := 1, credit := true }
def promo0 (slot : Option Nat) (copied : Bool) : Promotion := { r := 0, u := 3, letter := ⟨0, 1⟩, slot := slot, copied := copied, fail := none }

theorem witness_ExpertsArePromotedAndReleased :
    (let s : State := { expertly with tier := { expertly.tier with ready := [record0] } }
     (s.tier.ready.filter (fun x => x.r == 0))[0]? = some record0 ∧
       (s.tier.ready.find? (fun y => y.serial == 7 || (y.r == 0 && y.u == 3))).map (·.id) = some record0.id) ∧
    (let s : State := { expertly with tier := { expertly.tier with promos := [promo0 none false] } }
     s.run = true ∧ (s.tier.promos.filter (fun p => p.slot.isSome)).length < 16 ∧
       s.tier.promos.find? (fun p => p.slot.isNone && (s.takeSlot p.r).isSome) = some (promo0 none false) ∧ s.takeSlot 0 = some (0, none) ∧
       s.courierRoom (16 + 0 % 4) = true) ∧
    (let s : State := { expertly with tier := { expertly.tier with promos := [promo0 (some 1) true] } }
     s.tier.promos.find? (fun p => p.r == 0 && p.u == 3) = some (promo0 (some 1) true)) := by decide +kernel

/-! ## Witnesses: the sorters and their cache -/

/-- HOT region 0 and COLD region 1, a cache, and GATHER letters of one bag: FP32 rows and outputs of one line. -/
def tabled : State :=
  withRegion (withRegion (allotted.setFld .srtCacheCfg fSrtCacheCfgSize 0 1) 0 [(0, 1, 4), (8, 8, 64)]) 1 [(0, 1, 4), (1, 1, 1), (8, 8, 65536)]
def gatherLetter (mode cold : Nat) : Letter :=
  letterOf 5 [(0x11, 1, cold), (0x12, 1, mode), (0x13, 1, 12 + 16 * 12), (0x14, 2, 1), (0x16, 1, 1), (0x18, 4, 1), (0x20, 8, 1), (0x28, 4, 8),
              (0x2C, 4, 16), (0x34, 4, 24), (0x38, 4, 1)]
def gathering (s : State) (x : Letter) : State := lettered s 0x4000 x
/-- A started GATHER with a job for sorter 0, its bag in slot 0, or a lookup of it. -/
def bag0 (rows : List BagRow) : Bag := { k := 0, slot := 0, letter := ⟨0, 1⟩, bag := 0, rows := rows, acc := List.replicate 16 0 }
def sorting (x : Letter) (bs : List Bag) (ls : List Lookup) : State :=
  let s := gathering tabled { x with started := true, work := .gather 0 none }
  { s with srt := { s.srt with jobs := [(0, [{ letter := ⟨0, 1⟩, next := 0, step := 1 }])], bags := bs, lookups := ls } }
/-- A GATHER whose output is in a cluster store: of a cluster in service where its context is resident or not, or of one that is out. -/
def csGather (s : State) : State :=
  let x := { gatherLetter 16 255 with started := true, work := .gather 0 none }
  let s := gathering s x
  { s with srt := { s.srt with jobs := [(0, [{ letter := ⟨0, 1⟩, next := 0, step := 1 }])] } }
def csSpec : GatherSpec := gatherSpec { gatherLetter 16 255 with started := true, work := .gather 0 none }
def row0 (i issued : Nat) (got : List (Nat × List Byte)) : BagRow := { idx := i, wgt := f32One, issued := issued, got := got }

theorem witness_GathersDealTheirBags :
    ((gathering tabled (gatherLetter 0 255)).startable 0 5 = some (gatherLetter 0 255) ∧
      ((gathering tabled (gatherLetter 0 255)).begun 0 (gatherLetter 0 255)).gatherCheck ⟨0, 1⟩ (gatherLetter 0 255) .clean = none ∧
      ((gathering allotted (gatherLetter 0 255)).begun 0 (gatherLetter 0 255)).gatherCheck ⟨0, 1⟩ (gatherLetter 0 255) .clean =
        some codeLetterInvalid) ∧
    (let s := sorting (gatherLetter 0 255) [] []
     s.run = true ∧ (tabGet [] s.srt.jobs 0).head? = some { letter := ⟨0, 1⟩, next := 0, step := 1 } ∧ s.freeSlotOf 0 = some 0 ∧
       s.letter ⟨0, 1⟩ = some { gatherLetter 0 255 with started := true, work := .gather 0 none } ∧
       (gatherSpec { gatherLetter 0 255 with started := true, work := .gather 0 none }).outCs = false ∧
       (match s.bagRows 0 (gatherSpec (gatherLetter 0 255)) 0 with
         | .ok rows => rows == []
         | .error _ => false) = true ∧
       (match (s.hbmWrite (2 ^ 21 + 1024) [5]).1.bagRows 0 (gatherSpec (gatherLetter 0 255)) 0 with
         | .ok _ => false
         | .error c => c == codeOperandInvalid) = true) := by decide +kernel

/-- The clusters of such outputs: resident, or out of service; the index range empty or running backwards. -/
theorem witness_GathersDealTheirBags_store :
    csSpec.outCs = true ∧
    (let s := csGather (tabled.setFld .ctxResident fCtxResidentState csSpec.outSel 1)
     s.run = true ∧ s.residentOn csSpec.outSel (s.letterCtx ⟨0, 1⟩) = true ∧ s.clusterIn csSpec.outSel = true ∧ s.freeSlotOf 0 = some 0 ∧
       (match s.bagRows 0 csSpec 0 with
         | .ok rows => rows == []
         | .error _ => false) = true) ∧
    (csGather (tabled.setFld .laceStatus fLaceStatusOffPos csSpec.outSel 0x1F)).clusterIn csSpec.outSel = false := by decide +kernel

theorem witness_BagsReadPoolAndEnd :
    (let s := sorting (gatherLetter 0 1) [bag0 [row0 0 0 []]] []
     let g := gatherSpec (gatherLetter 0 1)
     s.run = true ∧ s.bagAt 0 0 = some (bag0 [row0 0 0 []]) ∧ s.bagSpec (bag0 [row0 0 0 []]) = some g ∧ s.openMiss 0 0 = none ∧
       (bag0 [row0 0 0 []]).full = false ∧ [row0 0 0 []].findIdx? (fun r => decide (r.issued < g.rowLines)) = some 0 ∧
       0 < g.hotRows ∧ s.sorterFree 0 = true ∧
       s.translate (s.region g.hot).owner ((s.region g.hot).base + g.rowAt 0 0) = some (2 ^ 21)) ∧
    (let s := sorting (gatherLetter 0 1) [bag0 [row0 1 0 []]] []
     let g := gatherSpec (gatherLetter 0 1)
     g.hotRows ≤ 1 ∧ s.flashBar g.cold = none ∧ s.cacheSets ≠ 0 ∧ s.bagAt 0 0 = some (bag0 [row0 1 0 []])) ∧
    (let b := bag0 [row0 1 1 [(0, List.replicate 64 7)]]
     let s := sorting (gatherLetter 0 1) [b] []
     s.clocked = true ∧ s.bagAt 0 0 = some b ∧ (List.range b.rows.length).find? (fun i => s.rowReady b (gatherSpec (gatherLetter 0 1)) i) = some 0) ∧
    (∀ m ∈ [0, 16], let b := { bag0 [] with outIssued := 1 }
     let s := sorting (gatherLetter m 255) [b] []
     let g := gatherSpec (gatherLetter m 255)
     s.bagAt 0 0 = some b ∧ s.bagSpec b = some g ∧ b.full = true ∧ g.outLines ≤ b.outIssued ∧ g.outCs = (m == 16) ∧
       ((s.sorterMem b.k).filter (fun r => r.item == b.slot && r.cls == .write)).any (fun q => q.port.isSome) = false) := by decide +kernel

/-- A sector that a line waits for; a cold row without a cache; outputs to HBM and to a store. -/
theorem witness_BagsReadPoolAndEnd_issue :
    (let b := bag0 [row0 1 1 []]
     let s := sorting (gatherLetter 0 1) [b] []
     let t : State := { s with srt := { s.srt with misses := [{ k := 0, slot := 0, row := 0, line := 0 }] } }
     t.run = true ∧ t.bagAt 0 0 = some b ∧ (t.bagSpec b).isSome = true ∧ (t.openMiss 0 0).isSome = true) ∧
    (let b := bag0 [row0 1 0 []]
     let s := (sorting (gatherLetter 0 1) [b] []).setFld .srtCacheCfg fSrtCacheCfgSize 0 0
     s.cacheSets = 0 ∧ s.bagAt 0 0 = some b ∧ s.flashBar (gatherSpec (gatherLetter 0 1)).cold = none) ∧
    (∀ m ∈ [0, 16], let b := bag0 []
     let s := sorting (gatherLetter m 255) [b] []
     let g := gatherSpec (gatherLetter m 255)
     s.bagAt 0 0 = some b ∧ s.bagSpec b = some g ∧ s.openMiss 0 0 = none ∧ b.full = true ∧ b.outIssued < g.outLines ∧ s.sorterFree 0 = true ∧
       g.outCs = (m == 16) ∧ s.heldAt 0 (g.outAt 0 0) = false ∧ (s.translate 0 (g.outAt 0 0)).isSome = true) := by decide +kernel

/-- A hot row whose one line has been granted, its read clean or not. -/
theorem witness_BagsReadPoolAndEnd_hot :
    let b := bag0 [row0 0 1 []]
    let s := sorting (gatherLetter 0 1) [b] []
    let q : Req := { descReq0 .read with agent := .sorter 0, item := 0, line := 0, addr := 2 ^ 21 }
    let t : State := { s with mv := { s.mv with reqs := [q] } }
    t.bagAt 0 0 = some b ∧ (List.range b.rows.length).find? (fun i => t.rowReady b (gatherSpec (gatherLetter 0 1)) i) = some 0 ∧
      0 < (gatherSpec (gatherLetter 0 1)).hotRows ∧ t.rowReqs b 0 = [q] ∧
      ((t.each [q] (fun s q => s.dropReq q.tag)).readAll [q] .clean).2 = none ∧
      ((t.each [q] (fun s q => s.dropReq q.tag)).readAll [q] .uncorrectable).2 = some (2 ^ 21) := by decide +kernel

theorem witness_PoolingFollowsItsMode : 0 < (bag0 [row0 0 0 []]).rows.length ∧ (gatherSpec (gatherLetter 1 255)).pool = 1 ∧
    (gatherSpec (gatherLetter 3 255)).pool ≠ 1 := by decide +kernel

/-- A lookup of the cold row's line, in a cache without it and in one with it; and a sector on its way that no bag waits for. -/
def lookup0 : Lookup := { k := 0, slot := 0, row := 0, line := 0 }
def looking (ways : List CacheWay) : State :=
  let s := sorting (gatherLetter 0 1) [bag0 [row0 1 1 []]] [lookup0]
  { s with srt := { s.srt with cache := if ways.isEmpty then [] else [(cacheSet s.cacheSets 1 1, ways)] } }
def way0 : CacheWay := { region := 1, line := 1, way := 2 }
def sectorReq : Req := { descReq0 .read with agent := .sorter 0, item := 16 + 1, addr := 4096, lines := 64 }
def sectoring : State :=
  let s := sorting (gatherLetter 0 1) [] []
  { s with mv := { s.mv with reqs := [sectorReq] } }

theorem witness_CacheLooksUpFillsAndInvalidates :
    (∀ ws ∈ [[], [way0]], (looking ws).clocked = true ∧ (looking ws).srt.lookups.find? (fun x => x.k == 0 && x.slot == 0) = some lookup0 ∧
      (let t := ({ looking ws with srt := { (looking ws).srt with lookups := [] } } : State).srtNote 0
       let set := cacheSet t.cacheSets 1 1
       (match t.lookupAt lookup0 with
         | some p => p.2 == 64 && p.1.cold == 1
         | none => false) = true ∧
         (t.cacheWays set).find? (fun w => w.region == 1 && w.line == 64 / 64) = ws.head? ∧
         (t.storeReads (set % 16) [t.setLine set] .clean).2 = false ∧
         (∀ ue ∈ [false, true], ((t.storeReads (set % 16) [t.setLine set] .clean).1.storeReads (set % 16)
           [(t.storeReads (set % 16) [t.setLine set] .clean).1.setLine set + 1 + 2] (if ue then .uncorrectable else .clean)).2 = ue) ∧
         (let u : State := { t with mem := { t.mem with storeBad := [set % 16 * 65536 + t.setLine set] } }
          (u.storeReads (set % 16) [u.setLine set] .clean).2 = true))) ∧
    (sectoring.clocked = true ∧ sectoring.answerable (.sorter 0) 5 = some sectorReq ∧ 16 ≤ sectorReq.item ∧ sectoring.sectorBags 0 1 1 = [] ∧
      sectoring.lateBar 1 = none ∧ sectoring.fl.chOut.contains (unitChannel (sectoring.region 1).home 0) = false) ∧
    ({ sectoring with srt := { sectoring.srt with inv := [1] } } : State).srt.inv ≠ [] ∧ (254 : BitVec 8) ≠ 255 := by decide +kernel
/-! ## Witnesses: Olila -/

/-- Port 0 in a state of OLA_PORT_STATUS, its link state set by `g`. -/
def linkOf (st : Nat) (g : OlaPort → OlaPort) : State := (up.setPortState 0 st).updPort 0 g
def enciphered (s : State) : State := s.setFld .olaPortCfg fOlaPortCfgEnc 0 1
def peerAt (die : BitVec 8) (enc : Bool) (bad badTx : List (Fin 8)) : PeerInfo :=
  { die := die, port := 3, enc := enc, epoch := 5, badLanes := bad, badTx := badTx }

theorem witness_PortsTrain :
    (∀ k ∈ [1, 2, 3], (linkOf 1 (fun x => { x with step := k })).clocked = true ∧ (linkOf 1 (fun x => { x with step := k })).portState 0 = 1 ∧
      ((linkOf 1 (fun x => { x with step := k })).port 0).step = k) ∧
    2 ≤ (peerAt 1 false [0, 7] []).badLanes.eraseDups.length ∧ 2 ≤ (peerAt 1 false [] [0, 7]).badTx.eraseDups.length ∧
    (∀ e ∈ [false, true], let s := if e then enciphered (linkOf 1 (fun x => { x with step := 3 })) else linkOf 1 (fun x => { x with step := 3 })
     let u := ((s.setFld .olaPortStatus fOlaPortStatusPeerDie 0 1).setFld .olaPortStatus fOlaPortStatusPeerPort 0 3).updPort 0
       (fun x => { x with peerEpoch := 5 })
     s.clocked = true ∧ s.portState 0 = 1 ∧ (s.port 0).step = 3 ∧ u.portEnc 0 = e ∧ (peerAt 1 e [] []).enc = u.portEnc 0 ∧
       (peerAt 1 e [] []).die.toNat ≠ u.die ∧ (peerAt 1 (!e) [] []).enc ≠ u.portEnc 0 ∧ (peerAt 0 e [] []).die.toNat = u.die) ∧
    (∀ st ∈ [1, 2, 4, 5], (linkOf st id).clocked = true ∧ (linkOf st id).portState 0 = st) ∧
    ((linkOf 5 id).setFld .olaPortCfg fOlaPortCfgAutoRetrain 0 1).fld .olaPortCfg fOlaPortCfgAutoRetrain 0 = 1 ∧
    ((linkOf 5 id).setFld .olaPortCfg fOlaPortCfgAutoRetrain 0 1).portState 0 = 5 := by decide +kernel

def repairing (agreed : Bool) : State := linkOf 4 (fun x => { x with repairLane := some 7, agreed := agreed })

theorem witness_LanesAreRepaired :
    ((linkOf 3 id).clocked = true ∧ (linkOf 3 id).portState 0 = 3 ∧ (linkOf 3 id).fld .olaPortStatus fOlaPortStatusSpareRx 0 ≠ 1 ∧
      ((linkOf 3 id).port 0).repairLane = none ∧
      (linkOf 3 id).fld .olaPortStatus fOlaPortStatusSpareTx 0 ≠ 1) ∧
    (((linkOf 3 id).setFld .olaPortStatus fOlaPortStatusSpareRx 0 1).portState 0 = 3 ∧
      ((linkOf 3 id).setFld .olaPortStatus fOlaPortStatusSpareRx 0 1).fld .olaPortStatus fOlaPortStatusSpareRx 0 = 1) ∧
    ((repairing false).clocked = true ∧ (repairing false).portState 0 = 4 ∧ ((repairing false).port 0).repairLane = some 7 ∧
      ((repairing false).port 0).agreed = false ∧ (7 : Nat) ≠ (0 : Fin 8).val) ∧
    ((repairing true).clocked = true ∧ (repairing true).portState 0 = 4 ∧ ((repairing true).port 0).agreed = true) := by decide +kernel

/-- A keying message, and a die whose peer's number is `d`. A message whose digest is not in SEC_PEER fails; whether one is accepted is a
question to Config's signatures, of which nothing is known. -/
def keyMsg0 : KeyMsg := { pub := [], body := [], rand := 1, sig := [] }
def keyState (st : Nat) (peer : Nat) (k : KeyStep) : State :=
  (enciphered (linkOf st (fun x => { x with keying := k }))).setFld .olaPortStatus fOlaPortStatusPeerDie 0 peer

theorem witness_PortsAgreeOnKeys :
    (let s := enciphered (linkOf 3 (fun x => { x with counter := 2 ^ 40 }))
     s.clocked = true ∧ s.portEnc 0 = true ∧ s.portState 0 = 3 ∧ 2 ^ 40 ≤ (s.port 0).counter) ∧
    ((keyState 2 0 .idle).keyingOn = true ∧ (keyState 2 0 .idle).portEnc 0 = true ∧ (keyState 2 0 .idle).portState 0 = 2 ∧
      (keyState 2 0 .idle).initiator 0 = false ∧ ((keyState 2 0 .idle).port 0).keying = .idle) ∧
    (∀ st ∈ [2, 3], (keyState st 1 .wait2).clocked = true ∧ (keyState st 1 .wait2).fwOn 0 = true ∧ ((keyState st 1 .wait2).port 0).keying = .wait2 ∧
      (keyState st 1 .wait2).portState 0 = st) ∧
    (∀ st ∈ [2, 3], (keyState st 0 .wait4).clocked = true ∧ ((keyState st 0 .wait4).port 0).keying = .wait4 ∧
      (keyState st 0 .wait4).portState 0 = st) := by
  decide +kernel

/-- A peer whose SEC_PEER registers hold nothing is not accepted. -/
theorem witness_PortsAgreeOnKeys_refused (signed : List Byte) : (keyState 2 0 .idle).peerOk 0 keyMsg0 signed = false ∧
    (keyState 2 1 .wait2).peerOk 0 keyMsg0 signed = false := by
  have h : (keyState 2 0 .idle).reg .secPeerLo ((keyState 2 0 .idle).fld .olaPortStatus fOlaPortStatusPeerDie 0) = 0 ∧
    (keyState 2 0 .idle).reg .secPeerHi ((keyState 2 0 .idle).fld .olaPortStatus fOlaPortStatusPeerDie 0) = 0 ∧
    (keyState 2 1 .wait2).reg .secPeerLo ((keyState 2 1 .wait2).fld .olaPortStatus fOlaPortStatusPeerDie 0) = 0 ∧
    (keyState 2 1 .wait2).reg .secPeerHi ((keyState 2 1 .wait2).fld .olaPortStatus fOlaPortStatusPeerDie 0) = 0 := by decide +kernel
  simp [State.peerOk, h.1, h.2.1, h.2.2.1, h.2.2.2]

/-- A frame of this die's, as port 0 sends or receives it. -/
def frameOf (typ : BitVec 8) (lines : BitVec 8) (addr tag arg : BitVec 64) (payload : List Byte) : Frame :=
  let f : Frame := { typ := typ, flags := 0, lines := lines, hops := 15, seq := 0, ack := 0, src := 1, dst := 0, ctx := 0, counter := 0
                     addr := addr, tag := tag, arg := arg, payload := payload }
  { f with crc := frameCrc f }
/-- A new frame waits at the port, with credits for it. -/
def sending (x : OlaPort) : OlaPort := { x with tx := [⟨0, frameOf 2 0 0 0 1 [], false⟩], credits := [16, 16, 16, 16] }

theorem witness_PortsSendAndResend :
    (let s := linkOf 3 (fun x => { x with again := [frameOf 2 0 0 0 1 []] })
     s.clocked = true ∧ s.portState 0 = 3 ∧ (s.port 0).again = [frameOf 2 0 0 0 1 []]) ∧
    (∀ e ∈ [false, true], let s := if e then enciphered (linkOf 3 sending) else linkOf 3 sending
     s.portState 0 = 3 ∧ (s.port 0).again = [] ∧ (s.port 0).replay.length < 128 ∧ s.portEnc 0 = e ∧
       ((s.port 0).pick (s.portEnc 0)).isSome = true) ∧
    (∀ n ∈ [0, 7], let s := linkOf 3 (fun x => { x with replay := [frameOf 2 0 0 0 1 []], naks := n })
     s.portUsable 0 = true ∧ (s.port 0).replay.any (fun f => frameSn f == (0 : BitVec 12).toNat) = true ∧
       (if (s.port 0).nakSeq = (0 : BitVec 12).toNat ∧ (s.port 0).naks ≠ 0 then (s.port 0).naks + 1 else 1) = n + 1) := by decide +kernel

/-- The frame received in good order, and what reception leaves. -/
def receiving (s : State) (f : Frame) : State × Option Frame := s.receive 0 { frame := f }
def received (s : State) (f : Frame) : State := (receiving s f).1

/-- Context 0's courier 16 has a request at die 1. -/
def away : State :=
  let s := linkOf 3 id
  let q : Req := { tag := 5, agent := .courier 16, item := 512, line := 0, lines := 1, cls := .write, port := none, units := 1, stamp := 0
                   addr := 0, data := [] }
  { s with mv := { s.mv with reqs := [q] }, ola := { s.ola with remote := [⟨5, .courier 16, 1, 0⟩] } }
def lockedWindow : State := (linkOf 3 id).setFld .ctxExtent fCtxExtentPages 0 0
/-- A SIGNAL frame for hub object 0 of context 0, which has such objects. -/
def objected : State := (linkOf 3 id).setFld .ctxEntry fCtxEntrySyncSlabs 0 1

theorem witness_FramesAreTakenUp_write :
    (receiving (linkOf 3 id) (frameOf 1 1 0 9 0 (List.replicate 64 7))).2 = some (frameOf 1 1 0 9 0 (List.replicate 64 7)) ∧
    (receiving (linkOf 3 id) (frameOf 1 0 0 9 0 [])).2 = some (frameOf 1 0 0 9 0 []) ∧
    (let f := frameOf 1 1 0 9 0 (List.replicate 64 7)
     ((received (linkOf 3 id) f).unpack 0 0 f (fun i => 64 * i)).1.windowBars 0 0 64 true = none ∧
     ((received lockedWindow f).unpack 0 0 f (fun i => 64 * i)).1.windowBars 0 0 64 true = some codeAddressInvalid) ∧
    (let f := frameOf 1 0 0 9 0 []
     ((received (linkOf 3 id) f).unpack 0 0 f (fun i => 64 * i)).1.windowBars 0 0 0 true = none) := by decide +kernel

theorem witness_FramesAreTakenUp_read :
    ((receiving (linkOf 3 id) (frameOf 2 0 0 9 0 [])).2 = some (frameOf 2 0 0 9 0 []) ∧
      (receiving (linkOf 3 id) (frameOf 2 0 0 9 32 [])).2 = some (frameOf 2 0 0 9 32 []) ∧
      (receiving (linkOf 3 id) (frameOf 2 0 0 9 33 [])).2 = some (frameOf 2 0 0 9 33 [])) ∧
    ((received lockedWindow (frameOf 2 0 0 9 32 [])).windowBars 0 0 (64 * 32) false = some codeAddressInvalid ∧
      (received (linkOf 3 id) (frameOf 2 0 0 9 32 [])).windowBars 0 0 (64 * 32) false = none) := by decide +kernel

theorem witness_FramesAreTakenUp_response :
    (let f := frameOf 3 0 0 5 (BitVec.ofNat 64 codeLinkDown.toNat) []
     (receiving away f).2 = some f ∧ f.tag.toNat ≠ lostTag ∧
       ((received away f).ola.remote.find? (fun r => r.tag == f.tag.toNat && r.die == f.src.toNat)).isSome = true ∧
       ((received away f).mv.reqs.find? (fun q => q.tag == f.tag.toNat)).isSome = true ∧ frameCode f ≠ codeOk) ∧
    (let f := frameOf 3 0 0 (BitVec.ofNat 64 lostTag) 0 []
     (receiving away f).2 = some f ∧ f.tag.toNat = lostTag) := by decide +kernel

/-- Courier 16 with a descriptor whose request is at die 1. -/
def awaiting (cls : ReqClass) : State :=
  let s := away.updCourier 16 (fun c => { c with descs := [cdescOf (descOf 0 0 4096) true] })
  { s with mv := { s.mv with reqs := s.mv.reqs.map (fun q => { q with item := 9, cls := cls }) } }

theorem witness_FramesAreTakenUp_done : ∀ cls ∈ [ReqClass.write, .read],
    let f := frameOf 3 1 0 5 (BitVec.ofNat 64 codeOk.toNat) (List.replicate 64 7)
    let u := received (awaiting cls) f
    (receiving (awaiting cls) f).2 = some f ∧ f.tag.toNat ≠ lostTag ∧ frameCode f = codeOk ∧
      u.ola.remote.find? (fun r => r.tag == f.tag.toNat && r.die == f.src.toNat) = some ⟨5, .courier 16, 1, 0⟩ ∧
      (u.mv.reqs.find? (fun q => q.tag == f.tag.toNat)).map (fun q => (q.item, q.cls)) = some (9, cls) ∧
      u.desc 16 9 = some (cdescOf (descOf 0 0 4096) true) ∧ (descOf 0 0 4096).feedCluster = none := by decide +kernel

theorem witness_FramesAreTakenUp_signal : ∀ n ∈ [0, 1, 2],
    (let f := frameOf 4 0 (BitVec.ofNat 64 (2 * 2 ^ 18 + n * 2 ^ 20)) 9 1 []
     (receiving objected f).2 = some f ∧ f.addr.toNat / 2 ^ 20 % 4 = n ∧ (BitVec.ofNat 20 f.addr.toNat).toNat / 2 ^ 18 = 2 ∧
       ((received objected f).resolveRef f.ctx.toNat 0 0 (BitVec.ofNat 20 f.addr.toNat)).isSome = true) := by decide +kernel

/-- A TIME letter that awaits its answer, and a COLLECTIVE of identity 7 that awaits its neighbours. -/
def timing : Letter := { letterOf 0x0A [(0x10, 1, 1), (0x11, 1, 1)] with started := true, work := .time { tag := 9 } }
def collecting7 : Letter := { letterOf 0x0B [(0x14, 4, 7), (0x28, 8, 128)] with started := true, work := .coll {} }

theorem witness_FramesAreTakenUp_time :
    (receiving (linkOf 3 id) (frameOf 5 0 7 9 0 [])).2 = some (frameOf 5 0 7 9 0 []) ∧ (9 : Nat) < timeReply ∧
    (let s := lettered (linkOf 3 id) 0 timing
     let f := frameOf 5 0 7 (BitVec.ofNat 64 (9 + timeReply)) 0 []
     (receiving s f).2 = some f ∧ timeReply ≤ f.tag.toNat ∧ (received s f).liveLetters.find? (fun e => match e.2.work with
       | .time w => w.tag + timeReply == f.tag.toNat
       | _ => false) = some (⟨0, 1⟩, timing)) := by decide +kernel

theorem witness_FramesAreTakenUp_coll :
    (receiving (linkOf 3 id) (frameOf 6 0 7 9 0 [])).2 = some (frameOf 6 0 7 9 0 []) ∧
      (received (linkOf 3 id) (frameOf 6 0 7 9 0 [])).liveColl 0 7 = none ∧
    (let s := lettered (linkOf 3 id) 0 collecting7
     let f := frameOf 6 1 7 0 0 (List.replicate 64 7)
     (receiving s f).2 = some f ∧ (received s f).liveColl 0 7 = some ⟨0, 1⟩ ∧ (received s f).letter ⟨0, 1⟩ = some collecting7) := by
  decide +kernel

/-- A frame whose CRC is not its own is not taken up. -/
theorem witness_FramesAreTakenUp_bad : ∀ t ∈ [1, 2, 3, 4, 5, 6],
    ((linkOf 3 id).receive 0 { frame := { frameOf (BitVec.ofNat 8 t) 0 0 0 0 [] with crc := 1 } }).2 = none := by decide +kernel

/-- Work from outside, one of its requests granted and, with `more`, another one waiting. -/
def outReq (tag addr : Nat) : Req :=
  { tag := tag, agent := .outside (srcOlila 0), item := 512, line := 0, lines := 1, cls := .remote, port := none, units := 1, stamp := 0
    addr := addr, data := [] }
def outsider (s : State) (op : OutsideOp) (more : Bool) (addr : Nat) : State :=
  { s with mv := { s.mv with outside := [⟨512, op⟩], reqs := if more then [outReq 5 addr, outReq 6 addr] else [outReq 5 addr] } }

theorem witness_FramesAreTakenUp_served :
    (∀ more ∈ [false, true], let f := frameOf 1 1 0 9 0 (List.replicate 64 7)
     let s := (outsider (linkOf 3 id) (.frameWrite f f.payload) more (2 ^ 21)).dropReq 5
     s.outsideWork 512 = some ⟨512, .frameWrite f f.payload⟩ ∧
       (s.each (List.range 1) (fun s i => (s.hbmWrite (2 ^ 21 + 64 * i) ((f.payload.drop (64 * (0 + i))).take 64)).1)).outsideOver 512 =
         !more) ∧
    (∀ more ∈ [false, true], ∀ bad ∈ [false, true], let f := frameOf 2 0 0 9 1 []
     let s := (outsider (linkOf 3 id) (.frameRead f [] bad) more (2 ^ 21)).dropReq 5
     let h := s.hbmReads (lineAddrs (2 ^ 21) 1) .clean
     s.outsideWork 512 = some ⟨512, .frameRead f [] bad⟩ ∧ h.2 = false ∧
       (h.1.setOutside 512 (.frameRead f [(0, memRead s.mem.hbm (2 ^ 21) 64)] bad)).outsideOver 512 = !more) := by decide +kernel
/-! ## Witnesses: collectives, TIME and contexts -/

/-- A COLLECTIVE of queue 0's unit 0, a pair of dies 0 and 1 reached by port 0. -/
def collLetter (op root bytes : Nat) : Letter :=
  letterOf 0x0B [(0x10, 1, op), (0x11, 1, 12), (0x12, 1, root), (0x18, 8, 0), (0x20, 8, 0x40000), (0x28, 8, bytes)]
def pairUnit (lv : Nat) : State :=
  (((((linkOf 3 id).setFld .olaUnit fOlaUnitValid 0 1).setFld .olaUnit fOlaUnitLevel 0 lv).setFld .olaUnit fOlaUnitDies 0 2).setFld
    .olaRoute fOlaRouteValid 1 1).setFld .ctxExtent fCtxExtentPages 0 1
def collState (x : Letter) : State := lettered (pairUnit 3) (BitVec.ofNat 16 (3 * 2 ^ 13)) x
def collU (op root bytes : Nat) : State := (collState (collLetter op root bytes)).begun 0 (collLetter op root bytes)

theorem witness_CollectivesAndTimeStart_coll :
    (∀ op ∈ [0, 1, 2], (collState (collLetter op 0 128)).startable 0 0x0B = some (collLetter op 0 128) ∧
      (collLetter op 0 128).field 0x10 1 = op ∧
      (collU op 0 128).collCheck ⟨0, 1⟩ (collLetter op 0 128) = none ∧ (collSpec (collLetter op 0 128)).bytes ≠ 0 ∧
      (collSpec (collLetter op 0 128)).op = op ∧ ((collU op 0 128).collDies ⟨0, 1⟩).length ≠ 1) := by decide +kernel

theorem witness_CollectivesAndTimeStart_none :
    (collU 0 0 0).collCheck ⟨0, 1⟩ (collLetter 0 0 0) = none ∧ (collSpec (collLetter 0 0 0)).bytes = 0 ∧
    (collU 1 0 64).collCheck ⟨0, 1⟩ (collLetter 1 0 64) = some codeLetterInvalid ∧
    (collU 2 2 64).collCheck ⟨0, 1⟩ (collLetter 2 2 64) = some codeLetterInvalid ∧
    (collU 2 0 128).collPos ⟨0, 1⟩ = 0 ∧ (collU 2 1 128).collPos ⟨0, 1⟩ ≠ (collSpec (collLetter 2 1 128)).root ∧
    (collU 0 0 128).letterCtx ⟨0, 1⟩ = 0 ∧
    (∀ op ∈ [0, 1, 2], ∀ root ∈ [0, 1], ∀ n ∈ [0, 128], let u := collU op root n
     let g := collSpec (collLetter op root n)
     ((u.winLost 0 g.src (g.sourceBytes (u.collPos ⟨0, 1⟩))).or (u.winOut 0 (g.ownPut 2 (u.collPos ⟨0, 1⟩)).1
       (g.ownPut 2 (u.collPos ⟨0, 1⟩)).2)).isNone = true) := by decide +kernel

theorem witness_CollectivesAndTimeStart_gather :
    (let u := collU 0 0 128
     let v : State := ({ u with ola := { u.ola with
      shakes := u.ola.shakes.filter (fun (k : Shake) => !(k.ctx == 0 && k.id == 0)) } } : State).setWork ⟨0, 1⟩ (.coll
        { shakes := ((u.ola.shakes.filter (fun k => k.ctx == 0 && k.id == 0)).filter (fun k => k.step == 0)).map (·.die) })
     v.winRead 0 0 128 == u.winRead 0 0 128) = true := by decide +kernel

def timeLetter (peer : Nat) : Letter := letterOf 0x0A [(0x10, 1, peer), (0x11, 1, 1), (0x18, 8, 0)]
def timeState (x : Letter) (lv : Nat) : State := lettered (pairUnit 3) (BitVec.ofNat 16 (lv * 2 ^ 13)) x

theorem witness_CollectivesAndTimeStart_time :
    (timeState (timeLetter 1) 2).startable 0 0x0A = some (timeLetter 1) ∧
    ((timeState (timeLetter 1) 2).begun 0 (timeLetter 1)).timeCheck ⟨0, 1⟩ (timeLetter 1) = none ∧
    ((timeState (timeLetter 9) 2).begun 0 (timeLetter 9)).timeCheck ⟨0, 1⟩ (timeLetter 9) = some codeRouteInvalid ∧
    (timeLetter 1).field 0x10 1 ≠ ((timeState (timeLetter 1) 2).begun 0 (timeLetter 1)).die := by decide +kernel

/-- Context 0 has a RUN at the head of queue 0, for its cluster 0 (unit 2^13) or for the die's clusters. -/
def asking (u : BitVec 16) : State := lettered up u (letterOf 1 [])
def buildFor (s : State) : State :=
  { s with cx := { s.cx with build := some { want := .letter ⟨0, 1⟩, ctx := 0, clusters := List.range 16 }, wants := [.letter ⟨0, 1⟩] } }
def resident0 (s : State) : State := s.setFld .ctxResident fCtxResidentState 0 1
def switching (ph : SwitchPhase) : State :=
  { up with cx := { up.cx with switch := tabSet none up.cx.switch 0 (some { out := none, inn := 0, phase := ph }) } }
/-- The image that cluster 0 would leave. -/
def savedUp : State := up.setImage 0 0 (some (up.clusterImage 0))

theorem witness_ContextsTakeTurns :
    ((asking (2 ^ 13)).schedOn 0 = true ∧ (asking (2 ^ 13)).schedule.resident 0 = none ∧
      (asking (2 ^ 13)).schedule.bestOf 0 ((asking (2 ^ 13)).schedule.readyOn 0) = some 0) ∧
    (let s := resident0 (buildFor (asking (2 ^ 14)))
     s.schedOn 0 = true ∧ s.schedule.resident 0 = some 0 ∧ s.schedule.heldFor 0 = some 0 ∧ s.schedule.waitPoint 0 0 = true) ∧
    (let s := ((resident0 up).setFld .ctxEntry fCtxEntrySlice 0 5).setFld .ctxSchedCfg fCtxSchedCfgWaitYield 0 5
     s.resident 0 = some 0 ∧ s.clocked = true ∧ s.heldFor 0 ≠ some 0 ∧ s.fld .ctxEntry fCtxEntrySlice 0 ≠ 0 ∧ s.waitPoint 0 0 = true ∧
       s.fld .ctxSchedCfg fCtxSchedCfgWaitYield ≠ 0) := by decide +kernel

theorem witness_ContextsTakeTurns_switch : (∀ ph ∈ [SwitchPhase.ordered, .saved, .loaded, .moved],
    tabGet none (switching ph).cx.switch 0 = some { out := none, inn := 0, phase := ph } ∧ (switching ph).clocked = true) ∧
    (up.setFld .ctxEntry fCtxEntrySave 0 1).fld .ctxEntry fCtxEntrySave 0 = 1 ∧ up.fld .ctxEntry fCtxEntrySave 0 ≠ 1 ∧
    tabGet none (up.zeroCluster 0).cx.images (16 * 0 + 0) = none ∧
    (tabGet none (savedUp.zeroCluster 0).cx.images (16 * 0 + 0)).isSome = true := by decide +kernel

/-- Context 0 in a state of CTX_ENTRY, a reset of it under way or not, a change recorded or not. -/
def contextIn (st : Nat) (rs : List Nat) (pend : Nat) : State :=
  let s := (up.setFld .ctxEntry fCtxEntryState 0 st).setFld .ctxEntry fCtxEntryPending 0 pend
  { s with cx := { s.cx with resetting := rs } }

theorem witness_ContextsResetStartAndDrain :
    (let u := (contextIn 2 [] 0).setFld .ctxCmd fCtxCmdContext 0 0
     (contextIn 2 [] 0).clocked = true ∧ ((contextIn 2 [] 0).fld .ctxCmd fCtxCmdBusy == 1 || u.ctxState 0 != 2) = false) ∧
    (let u := (contextIn 0 [] 0).setFld .ctxCmd fCtxCmdContext 0 0
     ((contextIn 0 [] 0).fld .ctxCmd fCtxCmdBusy == 1 || u.ctxState 0 != 2) = true) ∧
    (contextIn 2 [0] 0).cx.resetting.find? (fun x => (contextIn 2 [0] 0).ctxState x == 2 && (contextIn 2 [0] 0).resetQuiet x) = some 0 ∧
    (∀ p ∈ [0, 1], (contextIn 1 [] p).ctxState 0 = 1 ∧ (contextIn 1 [] p).fld .ctxEntry fCtxEntryPending 0 = p) ∧
    (∀ p ∈ [0, 1], (contextIn 3 [0] p).ctxState 0 = 3 ∧ (contextIn 3 [0] p).cx.resetting.contains (0 : Fin 1024).val = true ∧
      (contextIn 3 [0] p).resetQuiet 0 = true) := by decide +kernel

theorem witness_ContextsResetStartAndDrain_pending : ∀ p ∈ [0, 1],
    (((contextIn 3 [0] p).leaveClusters 0).releaseContext 0).fld .ctxEntry fCtxEntryPending 0 = p := by decide +kernel
/-! ## Witnesses: firmware, host memory, transactions, leases and modules -/

/-- Firmware whose loading stands at a status, with an image under verification. -/
def loading (st : Nat) (v : Option (Nat × List Byte)) : State :=
  let s := up.setFld .rstFwLoad fRstFwLoadStatus 0 st
  { s with fw := { s.fw with verifying := v } }

theorem witness_FirmwareIsLoadedAndVerified :
    (loading 1 none).released = false ∧ (loading 1 none).fld .rstFwLoad fRstFwLoadStatus = 1 ∧ (loading 4 none).released = true ∧
    (loading 1 none).clocked = true ∧ 0 + ([7] : List Byte).length ≤ 2 ^ 20 ∧ 2 ^ 20 < 2 ^ 20 + ([7] : List Byte).length ∧
    (loading 2 (some (0, [7]))).fw.verifying = some (0, [7]) ∧ fwReason [7] 0 ([7] : List Byte).length = 0 + 1 := by decide +kernel

/-- Firmware core 18 in a phase of its restart, and RESTART_MAX. -/
def restarting (phase rmax : Nat) : State := (up.updFw 18 (fun c => { c with phase := phase, cause := 1 })).setFld .rstFwCfg fRstFwCfgRestartMax 0 rmax

theorem witness_FirmwareRestarts : (restarting 0 0).clocked = true ∧ (restarting 0 0).fld .rstFwStatus fRstFwStatusState 18 = 2 ∧
    (∀ p ∈ [1, 2, 3, 4], ((restarting p 0).fwCore 18).phase = p) ∧ (restarting 3 0).fwDigestOk 18 = false := by decide +kernel

/-- A core that never restarted has no recent restart: at RESTART_MAX 0 it is given up, at 1 it restarts. -/
theorem witness_FirmwareRestarts_recent :
    (let s := restarting 0 0
     (s.draw.2.setFld .rstFwStatus fRstFwStatusLastCause 18 1).fld .rstFwCfg fRstFwCfgRestartMax ≤ s.draw.1.toNat % ((s.fwCore 18).restarts + 1)) ∧
    (let s := restarting 0 1
     s.draw.1.toNat % ((s.fwCore 18).restarts + 1) < (s.draw.2.setFld .rstFwStatus fRstFwStatusLastCause 18 1).fld .rstFwCfg fRstFwCfgRestartMax) := by
  have h : ∀ m ∈ [0, 1], ((restarting 0 m).fwCore 18).restarts = 0 ∧
    ((restarting 0 m).draw.2.setFld .rstFwStatus fRstFwStatusLastCause 18 1).fld .rstFwCfg fRstFwCfgRestartMax = m := by decide +kernel
  simp only [(h 0 (by simp)).1, (h 0 (by simp)).2, (h 1 (by simp)).1, (h 1 (by simp)).2]
  omega

/-- The hub's copy of image 3 beside its digest. -/
def copied : State := { up with fw := { up.fw with copies := [(3, some ([7], Config.shake256 [7]))] } }

theorem witness_FirmwareRestarts_digest : copied.fwDigestOk 18 = true := by
  have h : copied.flt.fwPoison.contains (fwImage 18) = false ∧ fwImage 18 = 3 := by decide +kernel
  have c : tabGet none copied.fw.copies 3 = some ([7], Config.shake256 [7]) := rfl
  rw [State.fwDigestOk, h.1, h.2, c]
  simp

/-- HBM page 1, behind one page of tables, under a region of context 0 with or without LOCK (FLAGS 5 or 1). -/
def hosted (flags : Nat) : State := (withRegion up 0 [(2, 1, flags), (8, 8, 4096)]).setFld .ctxHbmInfo fCtxHbmInfoTablePages 0 1

theorem witness_HostAccessesMemory_pages :
    (hosted 1).clocked = true ∧ 2 ^ 21 ≤ hdmLimit ∧ (hosted 1).tablePage (2 ^ 21 / 64 * 64 / 2 ^ 21) = false ∧
    (hosted 1).tablePage (0 / 64 * 64 / 2 ^ 21) = true := by decide +kernel

/-- The host's request for a line at its turn. -/
def hostTurn (s : State) (op : OutsideOp) (a : Nat) : State := ((outsider s op false a).dropReq 5).dropOutside 512

theorem witness_HostAccessesMemory_work : ∀ op ∈ [OutsideOp.hostRead .clean, .hostRead .uncorrectable, .hostWrite 1 (List.replicate 64 7)],
    ((outsider (hosted 1) op false (2 ^ 21)).dropReq 5).outsideWork (outReq 5 (2 ^ 21)).item = some ⟨512, op⟩ := by decide +kernel

theorem witness_HostAccessesMemory_lock :
    (hostTurn (hosted 1) (.hostWrite 1 []) (2 ^ 21)).lockOf (2 ^ 21) = none ∧
    (hostTurn (hosted 5) (.hostWrite 1 []) (2 ^ 21)).lockOf (2 ^ 21) = some 0 ∧
    (hostTurn (hosted 1) (.hostWrite 1 []) (2 ^ 21)).flt.hbmOut.contains (hbmStack (2 ^ 21)) = false ∧
    (hostTurn { hosted 1 with flt := { (hosted 1).flt with hbmOut := [hbmStack (2 ^ 21)] } } (.hostWrite 1 []) (2 ^ 21)).flt.hbmOut.contains
      (hbmStack (2 ^ 21)) = true ∧
    (hostTurn (hosted 1) (.hostWrite 1 []) (2 ^ 21)).hbmPoisoned (2 ^ 21 / 64) = false ∧ (1 : BitVec 64) ≠ BitVec.allOnes 64 := by
  decide +kernel

theorem witness_HostAccessesMemory_reads :
    (hostTurn (hosted 1) (.hostRead .clean) (2 ^ 21)).hbmSees (2 ^ 21) .clean = .clean ∧
    (hostTurn (hosted 1) (.hostRead .uncorrectable) (2 ^ 21)).hbmSees (2 ^ 21) .uncorrectable = .uncorrectable ∧
    (hostTurn { up with mem := { up.mem with hbmBad := [2 ^ 21 / 64] } } (.hostWrite 1 []) (2 ^ 21)).hbmPoisoned (2 ^ 21 / 64) = true := by
  decide +kernel

/-- Ring 5 with records up to PROD, its interrupt enabled or not. -/
def ringAt (prod en : Nat) : State := (up.setFld .hifRingCons fHifRingConsProd 5 prod).setFld .hifRingCfg fHifRingCfgIrqEn 5 en

theorem witness_HostAccessesMemory_rings : ringSeen .U 5 5 = true ∧ ringSeen .P 0 5 = true ∧
    (∀ prod ∈ [0, 2], ∀ en ∈ [0, 1], let s := ringAt prod en
     let w := (s.setFld .hifRingCons fHifRingConsCons 5 0).setFld .hifRingCfg fHifRingCfgArmed 5 1
     s.clocked = true ∧ w.fld .hifRingCfg fHifRingCfgIrqEn 5 = en ∧ w.fld .hifRingCons fHifRingConsCons 5 = 0 ∧
       s.fld .hifRingCons fHifRingConsProd 5 = prod) := by decide +kernel

/-- Slot 0 in a state, holding a mask of domains for owner 0, whose lease is live; `n` writes recorded. -/
def transacting (st dom : Nat) (n : Nat) (g : Txn → Txn) : State :=
  ((((up.setFld .hifLease fHifLeaseId 0 9).setTxnState 0 st).setFld .txnStatus fTxnStatusWrites 0 n).setFld .txnCfg fTxnCfgTimeout 0 5).updTxn 0
    (fun t => g { t with domains := dom, owner := 0 })

theorem witness_TransactionsLive_slots :
    ((transacting 0 0 0 id).clocked = true ∧ (transacting 0 0 0 id).txnState 0 = 0 ∧
      ((transacting 0 0 0 id).keepCtl 0 0 1).domainsHeld 1 = false ∧ ((transacting 0 0 0 id).keepCtl 0 0 1).leaseLive 0 = true ∧
      ((transacting 0 0 0 id).keepCtl 0 1 1).leaseLive 1 = false) ∧
    ((transacting 1 1 0 id).txnState 0 ≠ 0 ∧ (transacting 1 1 0 id).txnState 1 = 0 ∧
      ((transacting 1 1 0 id).keepCtl 1 0 1).domainsHeld 1 = true) ∧
    (((transacting 1 1 0 id).keepCtl 0 0 1).txnState 0 = 1 ∧ ((transacting 0 1 0 id).keepCtl 0 0 1).txnState 0 ≠ 1) ∧
    ((transacting 1 1 0 id).fld .txnCfg fTxnCfgTimeout ≠ 0) := by decide +kernel

/-- CTX_ENTRY of context 0 in the P view is a register of domain 4. -/
theorem witness_TransactionsLive_writes : inAperture .P 0x210000 8 = false ∧ badAccess .P 0x210000 8 = false ∧
    locate .P 0x210000 = some (.ctxEntry, 0, 0) ∧ domainOf .ctxEntry 0 = some 4 ∧ (transacting 1 16 255 id).openFor 4 = some 0 ∧
    (transacting 1 1 0 id).openFor 4 = none ∧ (transacting 1 16 255 id).fld .txnStatus fTxnStatusWrites 0 < 256 ∧
    256 ≤ (transacting 1 16 256 id).fld .txnStatus fTxnStatusWrites 0 := by decide +kernel

/-- A write of port 0's split whose WINDOW is 1, which R259 refuses; and one of 0x401. -/
def badSplit (t : Txn) : Txn := { t with shadow := [⟨0x120200, 8, 1⟩] }
def newSplit (t : Txn) : Txn := { t with shadow := [⟨0x120200, 8, 0x0000002040A00401⟩], todo := [2] }

theorem witness_TransactionsLive_checks :
    ((transacting 2 4 0 id).txnState 0 = 2 ∧ (transacting 2 4 0 id).txnPasses ((transacting 2 4 0 id).txn 0) [] = true) ∧
    ((transacting 2 4 0 badSplit).txnState 0 = 2 ∧ (transacting 2 4 0 badSplit).txnPasses ((transacting 2 4 0 badSplit).txn 0) [] = false) ∧
    (∀ d ∈ [1, 2, 4, 6], ((transacting 3 127 0 (fun t => { t with todo := [d] })).txn 0).todo = d :: []) ∧
    (transacting 3 4 0 (fun t => { t with todo := [2] })).txnState 0 = 3 ∧
    (let u := (transacting 3 4 0 (fun t => { t with todo := [2] })).beginDomain 0 2
     ((u.txn 0).begun && u.adopted (u.txn 0) 2) = true) ∧
    ((transacting 3 4 0 newSplit).txnState 0 = 3 ∧ ((transacting 3 4 0 newSplit).txn 0).todo = 2 :: [] ∧
     let u := (transacting 3 4 0 newSplit).beginDomain 0 2
     ((u.txn 0).begun && u.adopted (u.txn 0) 2) = false) := by decide +kernel

theorem witness_LeasesAreHeldAndLost :
    ((transacting 0 0 0 id).clocked = true ∧ (transacting 0 0 0 id).fld .hifLease fHifLeaseId 0 = (9 : BitVec 16).toNat ∧
      (transacting 0 0 0 id).fld .hifLease fHifLeaseId 0 ≠ 0 ∧ (transacting 0 0 0 id).fld .hifLease fHifLeaseId 0 ≠ (8 : BitVec 16).toNat) ∧
    (transacting 0 0 0 id).fld .hifLease fHifLeaseId 1 = 0 := by decide +kernel

/-- Module 0 of a width, retraining or not. -/
def module0 (w : Nat) (rs : List Nat) : State :=
  let s := up.setFld .hifLinkStatus fHifLinkStatusWidth 0 w
  { s with host := { s.host with retraining := rs } }

theorem witness_HostModulesTrain : (module0 0 []).ucieWidth 0 = 0 ∧ (module0 2 [0]).host.retraining.contains (0 : Fin 4).val = true ∧
    ((module0 2 []).ucieWidth 0 ≠ 0 ∧ (module0 2 []).host.retraining.contains (0 : Fin 4).val = false) ∧
    (4 : Nat) < ({ txBad := 5, rxBad := 0, halfUsable := true } : LaneTest).txBad ∧
    ({ txBad := 4, rxBad := 4, halfUsable := false } : LaneTest).txBad ≤ 4 ∧
    ({ txBad := 5, rxBad := 0, halfUsable := false } : LaneTest).halfUsable = false := by decide +kernel
/-! ## Witnesses: flash, passwords, the parcel -/

/-- Region 0 in board flash, 8 units; channels 0 and 12 trained. -/
def flashy : State :=
  let up : State := { up with fl := { up.fl with geom := [(0, ⟨64, 64⟩), (12, ⟨64, 64⟩)] } }
  ((withRegion up 0 [(1, 1, 1), (8, 8, 8 * 65536)]).setFld .flsChStatus fFlsChStatusTrained 0 1).setFld .flsChStatus fFlsChStatusTrained 12 1
def group0 : FlashGroup := { target := 0, lun := 0, block := 1, page := 0 }
/-- Slot 0 of the request port, its source a region (255: HBM), an offset there. -/
def asked (region off : Nat) : State :=
  ((flashy.setFld .flsReqSrc fFlsReqSrcRegion 0 region).setFld .flsReqSrc fFlsReqSrcOffset 0 off).setFld .flsReqDst fFlsReqDstRegion 0 0
def askedBar (region off op units : Nat) : Option Code :=
  ((((asked region off).setFld .flsReqCtl fFlsReqCtlOp 0 op).setFld .flsReqCtl fFlsReqCtlUnits 0 units).setReg .flsReqStatus 0 0
    (putFl fFlsReqStatusState 0 1)).flReqBar ((asked region off).newFlReq op 0 units)

theorem witness_FlashRequestsStart :
    (flashy.clocked = true ∧ (asked 0 0).fld .flsReqStatus fFlsReqStatusState 0 ≠ 1 ∧
      ((asked 0 0).setFld .flsReqStatus fFlsReqStatusState 0 1).fld .flsReqStatus fFlsReqStatusState 0 = 1) ∧
    (askedBar 1 0 1 1 = some codeAddressInvalid ∧ askedBar 0 0 2 9 = some codeAddressInvalid ∧ askedBar 0 0 4 0 = some codeParcelAbsent) ∧
    (askedBar 0 0 1 1 = none ∧ askedBar 0 0 2 8 = none) := by decide +kernel

theorem witness_FlashRequestsStart_config : askedBar 255 (2 ^ 30) 3 1 = none ∧
    (let s := (asked 0 0).setPcl 2
     (((s.setFld .flsReqCtl fFlsReqCtlOp 0 4).setFld .flsReqCtl fFlsReqCtlUnits 0 0).setReg .flsReqStatus 0 0
       (putFl fFlsReqStatusState 0 1)).flReqBar (s.newFlReq 4 0 0) = none) := by decide +kernel

theorem witness_FlashRequestsStart_first :
    (let s := asked 0 0
     let v := ((s.setFld .flsReqCtl fFlsReqCtlOp 0 1).setFld .flsReqCtl fFlsReqCtlUnits 0 1).setReg .flsReqStatus 0 0 (putFl fFlsReqStatusState 0 1)
     ((v.setFlReq 0 (some (s.newFlReq 1 0 1))).flNext 0 (s.newFlReq 1 0 1) group0).isSome = true) := by decide +kernel

/-- A program at work on channel 0 for slot 0's request, tried `tries` times of FLS_CFG.RETRY. -/
def prog0 (tries : Nat) : ProgJob :=
  { ch := 0, grp := flashy.grpKey 0 group0, region := 0, unit := 0, data := [], who := .request 0, tries := tries, issued := true }
def programming (tries : Nat) (out : List Nat) : State :=
  let s := flashy.setFld .flsCfg fFlsCfgRetry 0 2
  { s with fl := { s.fl with progs := [prog0 tries], chOut := out } }
def group1 : FlashGroup := { target := 0, lun := 0, block := 2, page := 0 }

theorem witness_FlashProgramsErasesAndRetires_program :
    (∀ n ∈ [0, 2], (programming n []).fl.progs.find? (fun j => j.ch == (0 : Fin 16).val && j.issued && (programming n []).fwOn 0) = some (prog0 n) ∧
      (programming n []).fl.chOut.contains (0 : Fin 16).val = false) ∧
    (programming 0 [0]).fl.chOut.contains (0 : Fin 16).val = true ∧
    (((programming 0 []).programmed (prog0 0)).programNext (prog0 0) group1).isSome = true ∧
    (programming 2 []).fld .flsCfg fFlsCfgRetry ≤ (prog0 2).tries ∧ (prog0 0).tries < (programming 0 []).fld .flsCfg fFlsCfgRetry ∧
    (let u := (programming 0 []).markBlock (blockKey (prog0 0).grp)
     u.erased ((programming 0 []).grpKey 0 group1) = true ∧ u.groupOpen ((programming 0 []).grpKey 0 group1) = true) := by decide +kernel

/-- Block 1 of channel 0: being erased; or marked, or read too often, with no unit on it. -/
def block0 : Nat := blockKey (flashy.grpKey 0 group0)
def erase0 : EraseJob := { ch := 0, blk := block0, waits := [], issued := true }
def blocky (es : List EraseJob) (marked : List Nat) (reads : Nat) : State :=
  { flashy with fl := { flashy.fl with erases := es, marked := marked, reads := tabSet 0 [] block0 reads } }

theorem witness_FlashProgramsErasesAndRetires_blocks :
    ((blocky [erase0] [] 0).fl.erases.find? (fun e => e.ch == (0 : Fin 16).val && e.issued) = some erase0 ∧ (blocky [erase0] [] 0).fl.warn = false ∧
      (blocky [erase0] [] 0).run = true ∧ (blocky [erase0] [] 0).fwOn 0 = true) ∧
    ((blocky [] [block0] 0).flashOn = true ∧ (blocky [] [block0] 0).channelUp 0 = true ∧
      (blocky [] [block0] 0).fl.progs.any (fun j => blockKey j.grp == block0) = false ∧ (blocky [] [block0] 0).fl.marked.contains block0 = true ∧
      ((blocky [] [block0] 0).relocate 0 block0 []).isSome = true) ∧
    ((flashy.setFld .flsCfg fFlsCfgDisturbReads 0 5).fld .flsCfg fFlsCfgDisturbReads < tabGet 0 (blocky [] [] 6).fl.reads block0 ∧
      ({ blocky [] [] 0 with fl := { (blocky [] [] 0).fl with eraseCnt := [(block0 + 1, 2 ^ 40)] } } : State).wearLags 0 block0 = true ∧
      (blocky [] [] 6).fl.erases.any (fun e => e.blk == block0) = false ∧ (blocky [] [] 6).fl.retired.contains block0 = false ∧
      ((blocky [] [] 6).relocate 0 block0 []).isSome = true) := by decide +kernel

theorem witness_FlashProgramsErasesAndRetires_relocated :
    (blocky [] [block0] 0).liveGroups block0 = [] ∧
      min 4 ((blocky [] [block0] 0).preErased 0) ≤ (blocky [] [block0] 0).preErased 0 := by decide +kernel

/-- A channel with a program that is not yet issued: its port grants it. -/
theorem witness_PortsGrantAndWindowsEnd_flash :
    (let s : State := { programming 0 [] with fl := { (programming 0 []).fl with progs := [{ prog0 0 with issued := false }] } }
     s.clocked = true ∧ (match s.portChoice 6 with
       | some (.inr _) => true
       | _ => false) = true) ∧ (up.portChoice 6).isNone = true := by decide +kernel

/-- A password command in progress. -/
def pwJob (cmd : Nat) : State := { up with fl := { up.fl with pwJob := some { cmd := cmd, slot := 0, len := 1, bytes := [7] } } }

theorem witness_PasswordsLockAndUnlock :
    (up.setFld .flsPwCtl fFlsPwCtlBusy 0 1).fld .flsPwCtl fFlsPwCtlBusy = 1 ∧ up.clocked = true ∧ up.fld .flsPwCtl fFlsPwCtlBusy ≠ 1 ∧
    (∀ c ∈ [1, 2, 3], (pwJob c).fl.pwJob = some { cmd := c, slot := 0, len := 1, bytes := [7] } ∧ (pwJob c).fwOn 0 = true) ∧
    (pwJob 3).fld .secStatus fSecStatusEntFail ≠ 1 := by decide +kernel

/-- A power warning, flushes under way, a NOR image on its way. -/
def warned (w : Bool) (fl : List Nat) (nor : Option NorJob) (reqs : Tab (Option FlReq)) : State :=
  let s : State := { up with start := { up.start with step := 11 } }
  { s with fl := { s.fl with warn := w, flushing := fl, nor := nor, reqs := reqs } }

theorem witness_PowerWarningAndNor :
    ((warned false [] none []).fl.warn = false ∧ 6 ≤ (warned false [] none []).start.step ∧
      (warned false [] none []).fld .pwrState fPwrStateState ≠ 3) ∧
    (warned true [] none []).fl.warn = true ∧
    ((warned true [5] none []).fl.flushing.contains (5 : Fin 16).val = true ∧
      (warned true [5] none []).fl.progs.any (fun j => j.ch == (5 : Fin 16).val && j.issued) = false) ∧
    (let r := (asked 255 0).newFlReq 3 0 1
     let s := warned false [] (some ⟨1, [7], some 0⟩) [(0, some r)]
     s.fl.nor = some ⟨1, [7], some 0⟩ ∧ s.fwOn 0 = true ∧
      (({ s with fl := { s.fl with nor := none } } : State).emit (.nor 1 [7])).flReq 0 = some r) ∧
    (warned false [] (some ⟨1, [7], none⟩) []).fl.nor = some ⟨1, [7], none⟩ := by decide +kernel

/-- The parcel at a step of its start or of its removal, in a state of PCL_STATUS. -/
def parcelAt (step drain st : Nat) (g : State → State) : State :=
  let s := g (up.setPcl st)
  { s with fl := { s.fl with parcelStep := step, drainStep := drain } }

theorem witness_ParcelsStart :
    ((parcelAt 0 0 0 id).released = true ∧ (parcelAt 0 0 0 id).clocked = true ∧ (parcelAt 0 0 0 id).fld .pclStatus fPclStatusPresent ≠ 1) ∧
    (∀ k ∈ [3, 4, 5], (parcelAt k 0 1 id).fl.parcelStep = k) ∧
    (∀ p ∈ [0, 1], let s := parcelAt 5 0 1 (fun s => s.setFld .pclStatus fPclStatusPending 0 p)
      let u := ((s.setReg .pclId 0 0 0).setFld .pclStatus fPclStatusCapacity 0 0).setFld .pclStatus fPclStatusBlank 0 1
      s.fl.parcelStep = 5 ∧ ((({ u with fl := { u.fl with parcelStep := 0, parcelOpen := true } } : State).setPcl 2).pclChange).fld .pclStatus
        fPclStatusPending = p) := by decide +kernel

theorem witness_ParcelsLeave :
    (∀ d ∈ [0, 1], let s := parcelAt 0 0 2 (fun s => s.setFld .pclCfg fPclCfgDefer 0 d)
      s.clocked = true ∧ s.pclState = 2 ∧ (s.setPcl 3).fld .pclCfg fPclCfgDefer = d) ∧
    (∀ k ∈ [1, 2, 3], (parcelAt 0 k 3 id).clocked = true ∧ (parcelAt 0 k 3 id).fl.drainStep = k ∧ (parcelAt 0 k 3 id).pclState = 3) ∧
    (parcelAt 0 3 3 id).latchPulse = true ∧
    ((parcelAt 0 0 0 id).released = true ∧ (parcelAt 0 0 0 id).pclState = 0 ∧ (parcelAt 0 0 2 id).released = true ∧
      (parcelAt 0 0 2 id).pclState ≠ 0) := by decide +kernel
/-! ## Witnesses: start, power, the stop and the resume -/

/-- The die at a step of Table 15-1, STAGE as there. -/
def atStep (k : Nat) (g : State → State) : State :=
  g ((({ State.reset with start := { State.reset.start with step := k } } : State).setStage k).setFld .pwrState fPwrStateState 0 0)

theorem witness_StartGoesByItsSteps :
    State.reset.start.step = 0 ∧
    (∀ k ∈ [1, 2, 3, 4, 5, 6, 7, 8, 9, 10], (atStep k id).starting = true ∧ (atStep k id).start.step = k) ∧
    (List.range 4).all (fun m => (atStep 3 (fun s => s.setFld .hifLinkStatus fHifLinkStatusWidth 0 2)).ucieWidth m == 0) = false ∧
    (atStep 8 id).start.coolant = true ∧
    (atStep 10 (fun s => s.setFld .rstFwLoad fRstFwLoadStatus 0 4)).starting = true ∧
    (atStep 10 (fun s => s.setFld .rstFwLoad fRstFwLoadStatus 0 4)).released = true := by decide +kernel

/-- Step 5 with an image that has no form, and without candidates; and the failed start that RECOVER mends. -/
def candidates (l : List (Nat × List Byte)) : State := atStep 5 (fun s => { s with start := { s.start with cands := l } })
def failedStart : State := (atStep 5 id).startFails codeSignatureInvalid.toNat

theorem witness_StartGoesByItsSteps_images :
    ((candidates [(1, [7])]).starting = true ∧ (candidates [(1, [7])]).start.cands = (1, [7]) :: [] ∧ (candidates [(1, [7])]).cfgReason [7] ≠ 0) ∧
    ((candidates []).start.cands = [] ∧ (candidates []).starting = true) ∧
    (failedStart.stage = 15 ∧ failedStart.fld .cfgStatus fCfgStatusFailStep = 5 ∧ failedStart.fl.nor = none) := by decide +kernel

theorem witness_PowerIsShared : up.clocked = true ∧ up.fwOn 1 = true := by decide +kernel

theorem witness_ThrottlesFollowTheLimiter :
    up.clocked = true ∧ up.limit < 4095 ∧ 100 * (0 : BitVec 12).toNat < 95 * up.limit ∧
    (BitVec.ofNat 12 up.limit).toNat ≤ up.limit ∧ 95 * up.limit ≤ 100 * (BitVec.ofNat 12 up.limit).toNat ∧
    (let s : State := { up with pw := { up.pw with floor := 8, levels := [(1, 8), (2, 30)] } }
     s.level 0 < max (max (tabGet 0 s.pw.targets 0) s.pw.floor) 0 ∧ max (max (tabGet 0 s.pw.targets 1) s.pw.floor) 0 ≤ s.level 1 ∧
       max (max (tabGet 0 s.pw.targets 2) s.pw.floor) 0 ≤ s.level 2) := by decide +kernel

/-- Sensors, those hot once, the step, the pins. -/
def sensing (temps : List (BitVec 16)) (once : List Nat) (step : Nat) (coolant d3 : Bool) : State :=
  { up with start := { up.start with sensors := temps, hotOnce := once, step := step, coolant := coolant, d3hot := d3 } }
def temps0 : List (BitVec 16) := (2000 : BitVec 16) :: List.replicate 95 0

theorem witness_TargetAnswersFromStep2 : 2 ≤ (sensing temps0 [] 2 true false).start.step ∧ (sensing temps0 [] 2 true false).start.sensors ≠ [] := by
  decide +kernel

theorem witness_MonitorsMeasure :
    (up.clocked = true ∧ up.fwOn 1 = true) ∧
    temps0.length = 96 ∧
    (∀ once ∈ [[], [0]], let s := sensing [] once 11 true false
     2 ≤ s.start.step ∧ s.start.tripped = false ∧
       ((List.range 96).filter (fun i => decide (s.fld .pwrThermCfg fPwrThermCfgThermTrip < (temps0.getD i 0).toNat))).any
         (fun i => s.start.hotOnce.contains i) = !once.isEmpty) := by decide +kernel

/-- Stopped for a cause, the pins as given; a stage of the stop. -/
def stoppedFor (cause : Nat) (temps : List (BitVec 16)) (coolant d3 : Bool) : State :=
  ((sensing temps [] 11 coolant d3).setFld .pwrState fPwrStateState 0 3).setFld .pwrState fPwrStateCause 0 cause
def stageOf (k : Nat) : State := { powerState up 2 with pw := { up.pw with stopStage := k } }

theorem witness_DieStopsAndResumesByStages :
    ((sensing [] [] 11 true false).start.coolant = true ∧ 8 ≤ (sensing [] [] 11 true false).start.step ∧
      (sensing [] [] 11 false false).start.coolant = false ∧ (sensing [] [] 7 true false).start.step < 8) ∧
    (sensing [] [] 11 true true).run = true ∧
    (let u := stoppedFor 3 [] true false
     u.fld .pwrState fPwrStateState = 3 ∧ u.fld .pwrState fPwrStateCause = 3 ∧ u.start.coolant = true ∧ u.cool = true ∧
       u.fld .fltDieStatus fFltDieStatusFatal = 0) ∧
    (let u := stoppedFor 3 [2000] true false
     u.fld .pwrState fPwrStateState = 3 ∧ u.fld .pwrState fPwrStateCause = 3 ∧ u.cool = false) ∧
    (stoppedFor 1 [] true false).fld .pwrState fPwrStateCause ≠ 3 ∧
    ((stoppedFor 1 [] true false).setFld .cfgStatus fCfgStatusFlags 0 8).fld .cfgStatus fCfgStatusFlags / 8 = 1 ∧
    (∀ k ∈ [1, 2, 3, 4, 5], (stageOf k).pw.stopStage = k) ∧ (stageOf 3).mv.reqs = [] ∧
    (let s : State := { stageOf 3 with mv := { (stageOf 3).mv with reqs := [walkReq0 .read] } }
     s.mv.reqs.any (fun r => !s.hostReq r) = true ∧ s.fld .fltDieStatus fFltDieStatusFatal = 0) ∧
    ((stageOf 3).setFld .fltDieStatus fFltDieStatusFatal 0 1).fld .fltDieStatus fFltDieStatusFatal ≠ 0 ∧
    (up.fld .pwrState fPwrStateState ≠ 3) ∧
    ((powerState up 4).fld .pwrState fPwrStateState = 4 ∧
      (rangeFrom 2 17).all (fun f => (powerState up 4).fld .rstFwStatus fRstFwStatusState f != 1) = true) := by decide +kernel
/-! ## Witnesses: reliability, security, test, and the machine as a whole -/

theorem witness_ScrubsCorrectAndPoison_benches :
    up.clocked = true ∧
    (∀ rd ∈ [ReadRes.clean, .corrected, .uncorrectable], ((up.newPeriod 0 (5 * 16) 16).benchSees 5 0 rd == rd) = true ∧
      ((up.newPeriod 0 (5000 + 3 * 16) 16).storeSees 3 0 rd == rd) = true) ∧
    ((up.newPeriod 0 (5 * 16) 16).mem.benchBad.contains (benchKey 5 0) && !(up.newPeriod 0 (5 * 16) 16).test.fresh.contains (0, benchKey 5 0)) =
      false ∧
    ((up.newPeriod 7 6000 24).mem.hubBad.contains 7 = false ∧ (up.newPeriod 7 6000 24).flipSees 2 7 .uncorrectable = .uncorrectable) := by
  decide +kernel

theorem witness_ScrubsCorrectAndPoison_objects :
    (let k : ObjKey := { hub := false, cl := 0, ctx := 0, idx := 0 }
     ((resident0 up).newSyncPeriod 0 0).resident 0 = some 0 ∧ (resident0 up).slabOf k = some (0, 0) ∧ (resident0 up).copying 0 0 = false ∧
       (resident0 up).sync.failed.contains (slabKey 0 0) = false) ∧
    (∀ rd ∈ [ReadRes.clean, .corrected, .uncorrectable], ((resident0 up).flipSees 3 (syncLine 0 0 0) rd == rd) = true) := by decide +kernel

/-- Failing windows of ACLK's monitor so far; a request without a response; a row and a bank that are being copied. -/
def failing (n : Nat) : State :=
  let s := up.setFld .clkStatus fClkStatusAclkLock 0 1
  { s with flt := { s.flt with windows := [(clkBit .aclk * 16, n)], rowCopies := [.hub 5 1], bankCopies := [5] }
           mv := { s.mv with reqs := [walkReq0 .read] } }

theorem witness_HardwareFaultsAreActedOn :
    (∀ n ∈ [0, 2], (failing n).watched .aclk 0 = true ∧ tabGet 0 (failing n).flt.windows (clkBit .aclk * 16 + 0) = n) ∧
    ((failing 0).mv.reqs.find? (fun r => r.tag == 5) = some (walkReq0 .read) ∧ (failing 0).clocked = true ∧
      (failing 0).localReq (walkReq0 .read) = true) ∧
    (failing 0).flt.rowCopies.contains (.hub 5 1) = true ∧ (failing 0).flt.bankCopies.contains (5 : Fin 24).val = true := by decide +kernel

/-- The security core's report under way; the awl in a state, its test enabled or not, a request recorded or not. -/
def reporting : State :=
  let s := up.setFld .secAttCtl fSecAttCtlBusy 0 1
  { s with sec := { s.sec with building := some [7] } }
def awlAt (st pend en : Nat) : State :=
  ((up.setAwl st).setFld .awlCtl fAwlCtlPending 0 pend).setFld .cfgStatus fCfgStatusFlags 0 (2 * en)

theorem witness_EntropyAttestationAndWindows :
    ((up.setFld .secStatus fSecStatusEntFail 0 0).keyingOn = true ∧
      ((powerState up 3).setFld .secStatus fSecStatusEntFail 0 0).keyingOn = false) ∧
    (up.clocked = true ∧ up.fld .secAttCtl fSecAttCtlBusy ≠ 1 ∧ reporting.fld .secAttCtl fSecAttCtlBusy = 1) ∧
    (reporting.sec.building = some [7] ∧ reporting.fwOn 0 = true ∧ reporting.fld .secStatus fSecStatusEntFail ≠ 1) := by decide +kernel

theorem witness_AwlStartsDrainsAndInjects :
    (∀ e ∈ [0, 1], (awlAt 2 0 e).clocked = true ∧ (awlAt 2 0 e).testEnable = (e == 1)) ∧
    (∀ st ∈ [0, 1, 2, 3], ∀ p ∈ [0, 1], (awlAt st p 1).awlState = st ∧ (awlAt st p 1).fld .awlCtl fAwlCtlPending = p) ∧
    (let u := (awlAt 2 0 1).awlWrite (fun s => (s.setFld .awlInjCtl fAwlInjCtlStore 0 (4 : BitVec 4).toNat).setFld .awlInjCtl fAwlInjCtlBits 0
        (1 : BitVec 2).toNat)
     u.awlState = 2 ∧ (4 : BitVec 4).toNat < 5 ∧ injPlace 4 0 (u.fld .awlInjAddr fAwlInjAddrWord) 511 = some (u.fld .awlInjAddr fAwlInjAddrWord, 0)) ∧
    injPlace 4 1 0 0 = none ∧ injPlace 3 16 196607 71 = some (syncLine 16 383 196607, 0) ∧ injPlace 3 16 196608 71 = none := by decide +kernel

theorem witness_TestPortActs : State.reset.start.step = 0 ∧ State.reset.sec.ownerDigest = none ∧ up.start.step = 0 ∧
    ({ up with start := { up.start with step := 1 } } : State).start.step ≠ 0 := by decide +kernel

theorem witness_StepRunsTheFront : ({ up with pending := [.memSpecRd 0] } : State).pending = .memSpecRd 0 :: [] ∧ up.pending = [] :=
  ⟨rfl, rfl⟩

/-- A step that answers a next state, from a state that is canonical and has its digest programmed. -/
theorem witness_StepsKeepMemoriesCanonical : State.reset.wf = true ∧ step State.reset = .next State.reset.fclkTick := by
  refine ⟨by decide +kernel, rfl⟩

theorem witness_FusedDigestStays :
    ({ up with sec := { up.sec with ownerDigest := some 5 } } : State).sec.ownerDigest = some 5 := rfl

theorem witness_StoppedDieStandsStill : (powerState up 3).fld .pwrState fPwrStateState = 3 ∧ worksStopped (.memSpecRd 0) = false ∧
    (powerState up 3).released = true ∧ ((powerState up 3).setPcl 2).pclState ≠ 0 ∧
    ((powerState up 3).setPcl 2).fld .pwrState fPwrStateState = 3 := by decide +kernel

theorem witness_FieldsReadBackWhatIsSet : fPclStatusState.ok = true ∧ fPclStatusPending.ok = true ∧ fPclStatusState.apart fPclStatusPending = true ∧
    fOlaFclkNowCount.ok = true ∧ regKey .pclId 0 0 ≠ regKey .pclStatus 0 0 := by decide +kernel

theorem witness_HbmReadsBackWhatIsWritten : up.flt.hbmOut.contains (hbmStack 0) = false ∧
    ({ up with flt := { up.flt with hbmOut := [hbmStack 0] } } : State).flt.hbmOut.contains (hbmStack 0) = true ∧ up.hbmPoisoned (0 / 64) = false ∧ 64 % 64 = 0 ∧ (List.replicate 64 (7 : Byte)).length = 64 ∧
    ({ up with mem := { up.mem with hbmBad := [1] } } : State).hbmPoisoned (64 / 64) = true ∧ ¬ (65 % 64 = 0 ∧ ([7] : List Byte).length = 64) := by
  decide +kernel

theorem witness_CountersWrap : 2 ^ 48 - 1 < 2 ^ 48 ∧ 2 ^ 48 ≤ (tabGet 0 ((up.count 0 0 0 (2 ^ 48 - 1)).count 0 0 0 1).pmc (pmcAgent 0 0 0)).toNat := by decide +kernel

theorem witness_SignalsShowTheState :
    State.reset.start.step < 2 ∧ (let s : State := { powerState up 3 with start := { up.start with step := 11 } }
     s.start.step = 11 ∧ s.fld .pwrState fPwrStateState = 3) ∧
    (12 ≤ 12 ∧ State.reset.pclPwrEn = false) ∧
    (let s : State := { up with fl := { up.fl with warn := true } }
     s.fl.warn = true ∧ s.fl.flushing.contains 0 = false ∧ s.fl.progs.any (fun j => j.ch == 0 && j.issued) = false) ∧
    flashy.flashWpN 0 = true ∧ ({ up with start := { up.start with tripped := true } } : State).outPin .thermtripN = .low ∧
    up.outPin .thermtripN ≠ .low := by decide +kernel

theorem witness_RegistersTakeWrites :
    (∀ e ∈ [(0x200020, RegName.ctxSchedCfg), (0x70000, .pclCfg), (0xC0000, .hifRingCfg), (0x170010, .awlInjAddr)],
      inAperture .P e.1 8 = false ∧ badAccess .P e.1 8 = false ∧ locate .P e.1 = some (e.2, 0, 0) ∧
      ownCommand e.2 (coverMask e.1 8) (BitVec.ofNat 64 (1 % 2 ^ (8 * 8) * 2 ^ (8 * (e.1 % 8)))) = false) ∧
    isAwl .ctxSchedCfg = false ∧ isAwl .hifRingCfg = false ∧ RegName.hifRingCfg ≠ .pmcData ∧ RegName.hifRingCfg ≠ .pmcBwCfg ∧
    RegName.hifRingCfg ≠ .flsPw ∧ RegName.hifRingCfg ≠ .rstFwLoad ∧ isAwl .awlInjAddr = true ∧ RegName.awlInjAddr ≠ .awlStatus ∧ up.testEnable = false := by decide +kernel

/-- A write of 1 to a register of the privileged window goes by its command or not. -/
def owned (off : Nat) (r : RegName) (v : View) : Bool :=
  (locate v off == some (r, 0, 0)) && !inAperture v off 8 && !badAccess v off 8 &&
    ownCommand r (coverMask off 8) (BitVec.ofNat 64 (1 % 2 ^ (8 * 8) * 2 ^ (8 * (off % 8))))

theorem witness_RegistersTakeWrites_own :
    (∀ e ∈ [(0x160008, RegName.pmcData), (0x160100, .pmcBwCfg), (0x60020, .flsPw)],
      locate .P e.1 = some (e.2, 0, 0) ∧ owned e.1 e.2 .P = false) ∧
    (locate .P 0x20008 = some (.rstFwLoad, 0, 0)) ∧ owned 0x30020 .pwrState .P = false ∧ owned 0x20008 .rstFwLoad .P = false ∧ owned 0xB0000 .hifDoorbell .P = true ∧
    (locate .U 0x20 = some (.pmcRef, 0, 0) ∧ owned 0x20 .pmcRef .U = false ∧ ownRef .pmcRef = some 2 ∧ (regRow .pmcRef).u = true) ∧
    up.ctrUser = false ∧ (up.setFld .cfgStatus fCfgStatusFlags 0 4).ctrUser = true ∧
    (up.pmcSel .P 0).isSome = true ∧ up.pmcSel .U 0 = none ∧ (BitVec.ofNat 64 (2 ^ 63) : Word).toNat.testBit 63 = true ∧
    (awlAt 2 0 1).testEnable = true ∧ (loading 1 none).released = false ∧ (loading 4 none).released = true ∧
    (∀ n ∈ [9, 10, 20, 21], getFl fPmcBwCfgLog2Window (writeBits (regFields .pmcBwCfg) .P (coverMask 0 8) 0
      (putFl fPmcBwCfgLog2Window 0 n)) = n) := by decide +kernel

/-- Malformed accesses: an unaligned one, and one that lies partly inside the aperture, which is not one of those wholly inside. -/
theorem witness_RegistersTakeWrites_malformed : badAccess .P 0x210001 8 = true ∧ inAperture .P 0x210001 8 = false ∧
    badAccess .P 0x0FFFFFC 8 = true ∧ badAccess .P 0x1000000 8 = false ∧ inAperture .P 0x1000000 8 = true ∧ badAccess .U 0x10 16 = true := by
  decide +kernel

theorem witness_AttestationDataReads : up.clocked = true ∧ up.fld .secAttIdx fSecAttIdxIdx ≤ 469 ∧ up.fld .secAttCtl fSecAttCtlBusy = 0 ∧
    469 < (up.setFld .secAttIdx fSecAttIdxIdx 0 470).fld .secAttIdx fSecAttIdxIdx := by decide +kernel
/-! ## Values that the manual works out -/

/-- Chapter 3: the E4M3 byte 0x5C holds 24, which is 0x41C00000 in FP32. -/
theorem test_e4m3_5c_is_24 : fmtFp32.encode false (elemNum 2 0x5C) = 0x41C00000 := by decide +kernel

/-- Chapter 3, the worked example: E5M2 bytes 7B 02 3C A2 against a column 3, 7, −2, 5 of an INT4 tile. -/
def workedTile : Tile := { fmt := 0, bytes := bytesOf 2048 [(0, 1, 0x3), (32, 1, 0x7), (64, 1, 0xE), (96, 1, 0x5)], scales := [] }
def workedVec : VecIn :=
  { bytes := bytesOf 64 [(0, 1, 0x7B), (1, 1, 0x02), (2, 1, 0x3C), (3, 1, 0xA2)], scales := [], afmt := 3, mode := 0, stat := false, row := 0
    upd := 0, int := false, f := f32One, src := .mac 0 0 0 }
theorem test_worked_vector_aligns : vecExp workedTile workedVec = -7 ∧ (alignVec workedTile workedVec).take 4 = [7340032, 0, 128, -1] := by
  decide +kernel
theorem test_worked_column_rounds : updEntry workedVec (issueVec workedTile workedVec) 0 0 = 0x4827FF7E := by decide +kernel
theorem test_worked_entry_drains_to_bf16 : convOut 10 false 0 (f32Num 0x4827FF7E) = 0x4828 := by decide +kernel

/-- Chapter 3, the worked MXFP8 E4M3 block: 1000.0, 1.3 and −0.001 with 29 zeros give scale 0x80 and elements 7E 32 80. -/
theorem test_worked_mx_block :
    let b := mxBlock 7 ([f32Num 0x447A0000, f32Num 0x3FA66666, f32Num 0xBA83126F] ++ List.replicate 29 (f32Num 0))
    b.1 = 0x80 ∧ b.2.take 4 = [0x7E, 0x32, 0x80, 0x00] := by decide +kernel

/-- Table 4-24a and 4-24b: the fields of the worked MAC, and its address of tile 1, vector 2 on array 3. -/
theorem test_worked_mac_fields :
    let r : BitVec 128 := 0x2042100F00040800021C0001000E0000
    opc r = 0x08 ∧ macMode r = 0 ∧ macWfmt r = 4 ∧ macAfmt r = 2 ∧ macUpd0 r = 0 ∧ macUpd r = 1 ∧ macMask r = 0xF ∧ macBase r = 0 ∧ macN r = 8 ∧
      macTiles r = 112 ∧ macAddr r 3 1 2 = 0x400 + 3 * 896 + 8 + 2 := by decide +kernel

/-- R136, R137: a sum rounds once, a tie to even; min orders −0 below +0 and returns NaN beside a NaN. -/
theorem test_vector_add_ties_to_even : f32Add 0x4B800000 0x3F800000 = 0x4B800000 ∧ f32Add 0x4B800001 0x3F800000 = 0x4B800002 := by decide +kernel
theorem test_vector_min : f32Min 0 0x80000000 = 0x80000000 ∧ f32Min 0x7FC00000 0 = 0x7FC00000 := by decide +kernel

/-- R324: bits [47:8] of an address modulo 6 choose the stack. -/
theorem test_hbm_stack : hbmStack 0 = 0 ∧ hbmStack 0x500 = 5 ∧ hbmStack 0x600 = 0 := by decide +kernel

/-- The rows give no words (the table has none), so no word spells a command. -/
theorem test_no_words : decodeTableWord 32 0 = none ∧ State.reset.withFetchWord 32 0 = State.reset := ⟨rfl, rfl⟩

/-! ## Single steps -/

/-- A host write of a line of HBM waits at the line's port, and the queue loses that command alone. -/
theorem test_mem_wr_steps :
    (match step { up with pending := [.memWr 0x200000 (List.replicate 64 7), .memSpecRd 0] } with
      | .next t => t.mv.reqs.map (fun r => (r.cls, r.port, r.addr)) == [(.remote, some 2, 0x200000)] && t.pending == [.memSpecRd 0]
      | _ => false) = true := by decide +kernel

/-- As its turn comes it is seen by a read of its bytes. -/
theorem test_mem_wr_takes_place :
    let t := (outsider up (.hostWrite (BitVec.allOnes 64) (List.replicate 64 7)) false 0x200000).serveOutside (outReq 5 0x200000)
    memGet t.mem.hbm 0x20003F = 7 ∧ memGet t.mem.hbm 0x200040 = 0 := by decide +kernel

/-- R532: a claim with another ID of a slot that is held is discarded. -/
theorem test_lease_of_another_is_kept :
    (match exec (.hifLeaseClaim 5 0x66 1) (up.setFld .hifLease fHifLeaseId 5 0x55) with
      | .next t => t.fld .hifLease fHifLeaseId 5 == 0x55
      | _ => false) = true := by decide +kernel

/-- R189 to R191: SUB below 0 leaves COUNT 0 and sets SAT_LO; it does not set SAT_HI. -/
theorem test_sub_saturates :
    (match exec (.syncSignalSub 0 .clean) (syncing (.signal .sub) 1 { count := 0 }) with
      | .next t => (t.obj key0).count == 0 && (t.obj key0).satLo && !(t.obj key0).satHi
      | _ => false) = true := by decide +kernel

/-! ## Ill-formed commands -/

theorem test_wf_refuses_register_writes : (Instr.registerWrite .P 0 4 (2 ^ 32)).wf = false ∧ (Instr.registerWrite .P 0 0 0).wf = false ∧
    (Instr.shadowWrite 0 65 0).wf = false ∧ (Instr.rstFwWindowWrite (2 ^ 20) [7]).wf = false ∧ (Instr.rstFwWindowWrite 0 []).wf = false := by
  decide +kernel
theorem test_wf_refuses_transfers : (Instr.letterFetch 0 (.data [7]) .clean).wf = false ∧
    (Instr.courierResponse 0 0 (.data [7]) .clean .none).wf = false ∧ (Instr.memWr 0 [7]).wf = false ∧
    (Instr.memWr 1 (List.replicate 64 7)).wf = false ∧ (Instr.memWrPtl 1 0 (List.replicate 64 7)).wf = false ∧
    (Instr.memWrPtl 0 0 [7]).wf = false ∧ (Instr.memRd 1 .clean).wf = false ∧ (Instr.memRdData 1 .clean).wf = false ∧
    (Instr.memSpecRd 1).wf = false ∧ (Instr.h2dSnoop 1).wf = false := by decide +kernel
theorem test_wf_refuses_frames :
    (∀ i ∈ [Instr.frameWrite 0, .frameReadReq 0, .frameResponse 0, .frameSignal 0, .timeFrame 0, .collFrame 0],
      (i { frame := frameOf 1 33 0 0 0 [] }).wf = false) ∧
    (Instr.frameWrite 0 { frame := frameOf 1 32 0 0 0 (List.replicate 2081 0) }).wf = false ∧
    (Instr.keyingMessage1 0 keyMsg0).wf = false ∧ (Instr.keyingMessage2 0 keyMsg0).wf = false ∧ (Instr.controlCredit 0 0 ⟨17, 0⟩).wf = false := by
  decide +kernel
theorem test_wf_refuses_ranges : (Instr.seqStep 0 [2 ^ 23]).wf = false ∧ (Instr.stepFramesGranted 0 [2 ^ 23]).wf = false ∧
    (Instr.ucieModuleTrain 0 { txBad := 65, rxBad := 0, halfUsable := true }).wf = false ∧ (Instr.startStepDone (.nor [] [])).wf = false ∧
    (Instr.powerControlPeriod { base := 0, memory := 0, links := 0, clusters := [], total := 0 }).wf = false ∧
    (Instr.thermalConversion []).wf = false ∧ (Instr.ageingMeasure []).wf = false ∧ (Instr.scrubRead (.hbm (288 * 2 ^ 24)) .clean).wf = false ∧
    (Instr.clockMonitorWindow .mclk 6 .good).wf = false ∧ (Instr.sramRowSpareDone (.bench 0 0 64)).wf = false ∧
    (Instr.sramRowSpareDone (.store 0 0 256)).wf = false ∧ (Instr.sramRowSpareDone (.hub 0 1024)).wf = false := by decide +kernel
theorem test_wf_refuses_upsets : (Instr.vectorAccumulate 0 0 (List.replicate 131 { vec := 0, col := 0, delta := 0 }) .none).wf = false := by
  decide +kernel
theorem test_wf_takes_good_ones : (Instr.registerWrite .P 0 8 7).wf = true ∧ (Instr.memWr 64 (List.replicate 64 7)).wf = true ∧
    (Instr.clockMonitorWindow .mclk 5 .good).wf = true := by decide +kernel

end Sys2Proof.Tests
end

section
/-! The references that a SIGNAL or a WAIT letter may name, and what becomes of a letter that names none. -/

namespace Sys2Proof.Machine

/-! ## Letters and the sync stores -/

@[simp] theorem State.updLetter_sync (s : State) (l : LetterId) (f : Letter → Letter) : (s.updLetter l f).sync = s.sync :=
  State.updQ_sync ..

@[simp] theorem State.begun_sync (s : State) (q : Nat) (x : Letter) : (s.begun q x).sync = s.sync := State.updLetter_sync ..

@[simp] theorem State.endLetter_sync (s : State) (l : LetterId) (e : LetterEnd) : (s.endLetter l e).sync = s.sync := State.updLetter_sync ..

/-! ## References -/

/-- R147 for the SPACEs of the cluster's shared objects and of the hub. -/
theorem State.resolveRef_space1 (s : State) (x cl m : Nat) {ref : BitVec 20} (h : ref.toNat / 2 ^ 18 = 1) :
    s.resolveRef x cl m ref =
      if ref.toNat % 2 ^ 18 < 4096 then some { hub := false, cl := cl, ctx := x, idx := ref.toNat % 2 ^ 18 } else none := by
  simp [State.resolveRef, h, -Nat.reducePow]

theorem State.resolveRef_space2 (s : State) (x cl m : Nat) {ref : BitVec 20} (h : ref.toNat / 2 ^ 18 = 2) :
    s.resolveRef x cl m ref =
      if ref.toNat % 2 ^ 18 < s.hubObjects x then some { hub := true, cl := 0, ctx := x, idx := ref.toNat % 2 ^ 18 } else none := by
  simp [State.resolveRef, h, -Nat.reducePow]

/-- Table 4-5: SPACE 1 counts for a letter to a cluster or to its cores, SPACE 2 for any letter, and no other SPACE for any. -/
theorem State.letterRef_eq_none_iff (s : State) (l : LetterId) (ref : BitVec 20) :
    s.letterRef l ref = none ↔ ¬ ((ref.toNat / 2 ^ 18 = 1 ∧ unitLevel (s.queue l.q).unit ≤ 1 ∧ ref.toNat % 2 ^ 18 < 4096) ∨
      (ref.toNat / 2 ^ 18 = 2 ∧ ref.toNat % 2 ^ 18 < s.hubObjects (s.letterCtx l))) := by
  unfold State.letterRef
  by_cases h1 : ref.toNat / 2 ^ 18 = 1
  · by_cases hu : unitLevel (s.queue l.q).unit ≤ 1
    · simp [State.resolveRef_space1 _ _ _ _ h1, h1, hu, -Nat.reducePow]
    · simp [h1, hu, -Nat.reducePow]
  · by_cases h2 : ref.toNat / 2 ^ 18 = 2
    · simp [State.resolveRef_space2 _ _ _ _ h2, h2, -Nat.reducePow]
    · simp [h1, h2, -Nat.reducePow]

/-! ## Letters whose reference names no object -/

theorem State.startSignal_of_letterRef_none {s : State} {l : LetterId} {x : Letter}
    (h : s.letterRef l (BitVec.ofNat 20 (x.field 0x10 4)) = none) : s.startSignal l x = s.endLetter l { code := codeSyncInvalid } := by
  simp [State.startSignal, h]

theorem State.startWait_of_letterRef_none {s : State} {l : LetterId} {x : Letter}
    (h : s.letterRef l (BitVec.ofNat 20 (x.field 0x10 4)) = none) : s.startWait l x = s.endLetter l { code := codeSyncInvalid } := by
  simp [State.startWait, h]

theorem exec_signalLetter {s : State} {q : Fin 4096} {x : Letter} (h : s.startable q 2 = some x) :
    exec (.signalLetter q) s = .next ((s.begun q x).startSignal ⟨q, x.pm⟩ x) :=
  congrArg Host.Outcome.next (State.startWith_go h _ rfl _)

theorem exec_waitLetter {s : State} {q : Fin 4096} {x : Letter} (h : s.startable q 3 = some x) :
    exec (.waitLetter q) s = .next ((s.begun q x).startWait ⟨q, x.pm⟩ x) :=
  congrArg Host.Outcome.next (State.startWith_go h _ rfl _)

end Sys2Proof.Machine

namespace Sys2Proof
open Sys2Proof.Machine

/-- Settles O18: the arm of each command, started on a reference that names no object, only marks and ends its letter, and both of these
write queues alone; the references that name one are read off R147 and Table 4-5. -/
theorem badReferencesTouchNoObject : Obligations.BadReferencesTouchNoObject := by
  unfold Obligations.BadReferencesTouchNoObject
  refine ⟨?_, fun s l ref => ?_⟩
  · rintro s q op i x (⟨rfl, rfl⟩ | ⟨rfl, rfl⟩) hx href
    · exact ⟨_, by rw [exec_signalLetter hx, State.startSignal_of_letterRef_none href], rfl, by simp⟩
    · exact ⟨_, by rw [exec_waitLetter hx, State.startWait_of_letterRef_none href], rfl, by simp⟩
  · rw [State.letterRef_eq_none_iff, State.hubObjects, Nat.mul_comm]

end Sys2Proof
end

section
/-! Sync objects at their home: what reaches a home that works, the image of an object, orphaning, signals and registered waits (R190 to
R205). -/

namespace Sys2Proof.Machine
open Sys2Proof.Claims

/-! ## Objects -/

@[simp] theorem State.obj_setObj (s : State) (k : ObjKey) (o : SyncObj) : (s.setObj k o).obj k = o := tabGet_set_same ..

@[simp] theorem State.obj_takeOp (s : State) (i : Nat) (k : ObjKey) : (s.takeOp i).obj k = s.obj k := rfl

/-- R204, without the zeroing of R219. -/
theorem State.orphanObj_false (s : State) (k : ObjKey) :
    s.orphanObj k false = (s.setObj k { s.obj k with orphaned := true, owner := none, waits := [] }).each (s.obj k).waits
      (fun u w => u.tellWaiter w.who codeOrphan (s.obj k).count) := rfl

/-- Table 5-1 as a number: no part of the image runs into the next one. -/
theorem objImage_toNat {k : ObjKey} (hk : k.ctx < 1024) (o : SyncObj) : (objImage k o).toNat =
    o.owner.elim 0xFFF BitVec.toNat * 2 ^ 52 + k.ctx * 2 ^ 42 + o.owner.isSome.toNat * 2 ^ 36 + (!o.waits.isEmpty).toNat * 2 ^ 35 +
      o.orphaned.toNat * 2 ^ 34 + o.satLo.toNat * 2 ^ 33 + o.satHi.toNat * 2 ^ 32 + o.count.toNat := by
  have bit (b : Bool) (n : Nat) : (if b then 2 ^ n else 0) = b.toNat * 2 ^ n := by cases b <;> simp
  have hcount := o.count.isLt
  have hw := Bool.toNat_le (!o.waits.isEmpty)
  have ho := Bool.toNat_le o.orphaned
  have hl := Bool.toNat_le o.satLo
  have hh := Bool.toNat_le o.satHi
  unfold objImage
  cases howner : o.owner with
  | none => simp only [bit, BitVec.toNat_ofNat, Option.elim_none, Option.isSome_none, Bool.toNat_false]; omega
  | some q =>
    have hq := q.isLt
    simp only [bit, BitVec.toNat_ofNat, Option.elim_some, Option.isSome_some, Bool.toNat_true]; omega

/-- The fields of Table 5-1 that show COUNT, ORPHANED, OWNED and OWNER. -/
theorem getFl_objImage {k : ObjKey} (hk : k.ctx < 1024) (o : SyncObj) :
    getFl fSynPortDataCount (objImage k o) = o.count.toNat ∧ getFl fSynPortDataOrphaned (objImage k o) = o.orphaned.toNat ∧
    getFl fSynPortDataOwned (objImage k o) = o.owner.isSome.toNat ∧
    getFl fSynPortDataOwner (objImage k o) = o.owner.elim 0xFFF BitVec.toNat := by
  have himage := objImage_toNat hk o
  have hcount := o.count.isLt
  have hw := Bool.toNat_le (!o.waits.isEmpty)
  have ho := Bool.toNat_le o.orphaned
  have hl := Bool.toNat_le o.satLo
  have hh := Bool.toNat_le o.satHi
  have hs := Bool.toNat_le o.owner.isSome
  have howner : o.owner.elim 0xFFF BitVec.toNat < 2 ^ 12 := by
    cases o.owner with
    | none => decide
    | some q => exact q.isLt
  simp only [getFl, natBits, Nat.shiftRight_eq_div_pow, himage, fSynPortDataCount, fSynPortDataOrphaned, fSynPortDataOwned,
    fSynPortDataOwner]
  omega

/-! ## Operations that reach a home that works -/

/-- An operation whose home works and is not being copied applies to the object. -/
theorem State.serveOp_of_served {s : State} {op : SyncOp} (h : Served s op.key) : s.serveOp op .clean = s.applyOp op := by
  unfold State.serveOp
  obtain ⟨hnone, hhub⟩ | ⟨home, slab, hslab, hcopy, hfail, hsees⟩ := h
  · simp [hnone, hhub]
  · simp only [hslab, hcopy, hfail, hsees]; rfl

/-- An operation taken off its way leaves every home as it is. -/
theorem served_takeOp {s : State} {k : ObjKey} (i : Nat) (h : Served s k) : Served (s.takeOp i) k := h

theorem State.doSignal_of_served {s : State} {i : Nat} {op : SyncOp} {sop : Sop} (hop : s.opReady i = some op) (hact : op.act = .signal sop)
    (hproxy : op.key.hub = true → s.proxyOf op.key.ctx op.key.idx = none) (hserved : Served s op.key) :
    s.doSignal sop i .clean = (s.takeOp i).applySignal op sop := by
  have hlocal : (if op.key.hub then s.proxyOf op.key.ctx op.key.idx else none) = none := by simpa using hproxy
  simp only [State.doSignal, hop, hact, hlocal, if_true, State.serveOp_of_served (served_takeOp i hserved), State.applyOp]

theorem exec_syncWaitArrive {s : State} {i : Nat} {op : SyncOp} {cond : Cond} {consume : Bool} (hop : s.opReady i = some op)
    (hact : op.act = .wait cond consume) (hserved : Served s op.key) :
    exec (.syncWaitArrive i .clean) s = .next ((s.takeOp i).applyWait op cond consume) := by
  change execSyncWaitArrive i .clean s = _
  simp only [execSyncWaitArrive, hop, hact, State.serveOp_of_served (served_takeOp i hserved), State.applyOp]

/-! ## Signals -/

/-- A signal has been applied: a SIGNAL letter is done. -/
def State.signalDone (s : State) (who : Party) : State :=
  match who with
  | .letter l => s.endLetter l { code := codeOk }
  | _ => s

/-- SYNC_SATURATED with the limit that COUNT stopped at, 1 the upper and 2 the lower (R191). -/
def State.postSaturated (s : State) (op : SyncOp) (sop : Sop) (side : Byte) : State :=
  s.postCtx op.key.ctx
    { code := codeSyncSaturated, detail := refDetail op.cl op.mem op.ref.toNat ++ leBytes 4 op.value.toNat ++ leBytes 4 0 ++
        [BitVec.ofNat 8 sop.code, side] }

theorem State.applySignal_add_of_lt {s : State} {op : SyncOp} (h : (s.obj op.key).count.toNat + op.value.toNat < 2 ^ 32) :
    s.applySignal op .add =
      (s.settle op.key { s.obj op.key with count := (s.obj op.key).count + op.value }).signalDone op.who := by
  simp [State.applySignal, sopApply, Nat.not_le.2 h, -Nat.reducePow]; rfl

theorem State.applySignal_add_of_le {s : State} {op : SyncOp} (h : 2 ^ 32 ≤ (s.obj op.key).count.toNat + op.value.toNat) :
    s.applySignal op .add =
      let u := s.settle op.key { s.obj op.key with count := 0xFFFFFFFF, satHi := true }
      (if (s.obj op.key).satHi then u else u.postSaturated op .add 1).signalDone op.who := by
  cases hsat : (s.obj op.key).satHi <;> simp [State.applySignal, sopApply, h, hsat, -Nat.reducePow] <;> rfl

theorem State.applySignal_sub_of_le {s : State} {op : SyncOp} (h : op.value.toNat ≤ (s.obj op.key).count.toNat) :
    s.applySignal op .sub =
      (s.settle op.key { s.obj op.key with count := (s.obj op.key).count - op.value }).signalDone op.who := by
  simp [State.applySignal, sopApply, Nat.not_lt.2 h]; rfl

theorem State.applySignal_sub_of_lt {s : State} {op : SyncOp} (h : (s.obj op.key).count.toNat < op.value.toNat) :
    s.applySignal op .sub =
      let u := s.settle op.key { s.obj op.key with count := 0, satLo := true }
      (if (s.obj op.key).satLo then u else u.postSaturated op .sub 2).signalDone op.who := by
  cases hsat : (s.obj op.key).satLo <;> simp [State.applySignal, sopApply, h, hsat] <;> rfl

theorem State.applySignal_set (s : State) (op : SyncOp) :
    s.applySignal op .set = (s.settle op.key
      { s.obj op.key with count := op.value, owner := some (BitVec.ofNat 12 op.q), orphaned := false }).signalDone op.who := by
  simp [State.applySignal, sopApply]; rfl

/-! ## Registered waits -/

/-- The list holds the element found and what is left without it. -/
theorem perm_cons_removeFirst {α : Type} {p : α → Bool} {a : α} {l : List α} (h : l.find? p = some a) : l.Perm (a :: removeFirst p l) := by
  induction l with
  | nil => simp at h
  | cons x xs ih =>
    cases hx : p x with
    | true => simp_all [removeFirst]
    | false =>
      have hfound : xs.find? p = some a := by simpa [hx] using h
      simpa [removeFirst, hx] using ((ih hfound).cons x).trans (.swap ..)

theorem evalWaits_of_none (n : Nat) {ws : List Wait} {c : BitVec 32} (h : ws.find? (fun w => w.holds c) = none) :
    evalWaits n ws c = (ws, c, []) := by
  cases n with
  | zero => rfl
  | succ n => simp only [evalWaits, h]

theorem evalWaits_of_some (n : Nat) {w : Wait} {ws : List Wait} {c : BitVec 32} (h : ws.find? (fun w => w.holds c) = some w) :
    evalWaits (n + 1) ws c =
      let r := evalWaits n (removeFirst (fun w => w.holds c) ws) (if w.consume then c - w.value else c)
      (r.1, r.2.1, (w.who, c) :: r.2.2) := by
  simp only [evalWaits, h]

/-- No wait is registered by an evaluation. -/
theorem mem_of_mem_evalWaits {n : Nat} {ws : List Wait} {c : BitVec 32} {w : Wait} (hw : w ∈ (evalWaits n ws c).1) : w ∈ ws := by
  induction n generalizing ws c with
  | zero => exact hw
  | succ n ih =>
    cases hfind : ws.find? (fun w => w.holds c) with
    | none => rwa [evalWaits_of_none _ hfind] at hw
    | some v =>
      rw [evalWaits_of_some _ hfind] at hw
      exact (perm_cons_removeFirst hfind).mem_iff.2 (.tail _ (ih hw))

/-- As many evaluations as there are waits are enough. -/
theorem find?_evalWaits {n : Nat} {ws : List Wait} (c : BitVec 32) (hn : ws.length ≤ n) :
    (evalWaits n ws c).1.find? (fun w => w.holds (evalWaits n ws c).2.1) = none := by
  induction n generalizing ws c with
  | zero => simp [List.length_eq_zero_iff.1 (Nat.le_zero.1 hn), evalWaits]
  | succ n ih =>
    cases hfind : ws.find? (fun w => w.holds c) with
    | none => rwa [evalWaits_of_none _ hfind]
    | some v =>
      have hlen := (perm_cons_removeFirst hfind).length_eq
      rw [evalWaits_of_some _ hfind]
      exact ih _ (by simp only [List.length_cons] at hlen; omega)

/-- Waits that do not consume leave COUNT, and each that holds completes with it. -/
theorem evalWaits_of_not_consume {n : Nat} {ws : List Wait} (c : BitVec 32) (hn : ws.length ≤ n) (hws : ∀ w ∈ ws, w.consume = false) :
    (evalWaits n ws c).2.1 = c ∧ ∀ w ∈ ws, w.holds c = true → (w.who, c) ∈ (evalWaits n ws c).2.2 := by
  induction n generalizing ws with
  | zero => simp [List.length_eq_zero_iff.1 (Nat.le_zero.1 hn), evalWaits]
  | succ n ih =>
    cases hfind : ws.find? (fun w => w.holds c) with
    | none =>
      rw [evalWaits_of_none _ hfind]
      exact ⟨rfl, fun w hw hholds => absurd hholds (List.find?_eq_none.1 hfind w hw)⟩
    | some v =>
      have hperm := perm_cons_removeFirst hfind
      have hlen := hperm.length_eq
      have hv : v.consume = false := hws v (List.mem_of_find?_eq_some hfind)
      obtain ⟨hcount, htold⟩ := ih (ws := removeFirst (fun w => w.holds c) ws) (by simp only [List.length_cons] at hlen; omega)
        (fun w hw => hws w (hperm.mem_iff.2 (.tail _ hw)))
      simp only [evalWaits_of_some _ hfind, hv, Bool.false_eq_true, if_false]
      refine ⟨hcount, fun w hw hholds => ?_⟩
      obtain rfl | hrest := List.mem_cons.1 (hperm.mem_iff.1 hw)
      · exact .head _
      · exact .tail _ (htold w hrest hholds)

theorem State.settle_of_none (s : State) (k : ObjKey) {o : SyncObj} (h : o.waits.find? (fun w => w.holds o.count) = none) :
    s.settle k o = s.setObj k o := by
  unfold State.settle
  rw [evalWaits_of_none _ h]
  rfl

/-! ## Arriving waits -/

/-- The wait that an operation asks for. -/
def SyncOp.toWait (op : SyncOp) (cond : Cond) (consume : Bool) : Wait := { who := op.who, cond := cond, consume := consume, value := op.value }

section
variable {s : State} {op : SyncOp} {cond : Cond} {consume : Bool}

theorem State.applyWait_of_orphaned (ho : (s.obj op.key).orphaned = true) :
    s.applyWait op cond consume = s.tellWaiter op.who codeOrphan (s.obj op.key).count := by
  simp [State.applyWait, ho]

theorem State.applyWait_of_holds (ho : (s.obj op.key).orphaned = false)
    (hw : (op.toWait cond consume).holds (s.obj op.key).count = true) :
    s.applyWait op cond consume =
      let t := s.tellWaiter op.who codeOk (s.obj op.key).count
      if consume then t.settle op.key { s.obj op.key with count := (s.obj op.key).count - op.value } else t := by
  unfold SyncOp.toWait at hw
  simp [State.applyWait, ho, hw]

theorem State.applyWait_of_not_holds (ho : (s.obj op.key).orphaned = false)
    (hw : (op.toWait cond consume).holds (s.obj op.key).count = false) :
    s.applyWait op cond consume =
      s.setObj op.key { s.obj op.key with waits := (s.obj op.key).waits ++ [op.toWait cond consume] } := by
  unfold SyncOp.toWait at hw ⊢
  simp [State.applyWait, ho, hw]

end

end Sys2Proof.Machine

namespace Sys2Proof
open Sys2Proof.Machine Sys2Proof.Claims

/-- Settles O19: the object orphaned is the one that `orphanObj` writes, and its image is read by Table 5-1. -/
theorem orphaningAnObject : Obligations.OrphaningAnObject := by
  unfold Obligations.OrphaningAnObject
  intro s k hk
  obtain ⟨hcount, horphaned, howned, howner⟩ := getFl_objImage hk { s.obj k with orphaned := true, owner := none, waits := [] }
  exact ⟨_, s.orphanObj_false k, rfl, rfl, rfl, rfl, s.obj_setObj k _, horphaned, howned, howner, hcount⟩

/-- Settles O20: a signal whose object no proxy binds is applied at its home, by the row of Table 5-3 that it falls under. -/
theorem signalsUpdateCount : Obligations.SignalsUpdateCount := by
  unfold Obligations.SignalsUpdateCount
  intro s i op hop hproxy hserved
  have happly {sop : Sop} {t : State} (hact : op.act = .signal sop) (h : (s.takeOp i).applySignal op sop = t) :
      Host.Outcome.next (s.doSignal sop i .clean) = (.next t : Res) :=
    congrArg _ ((State.doSignal_of_served hop hact hproxy hserved).trans h)
  refine ⟨fun hact h => ?_, fun hact h => ?_, fun hact h => ?_, fun hact h => ?_, fun hact => ?_⟩
  · exact happly hact (State.applySignal_add_of_lt h)
  · exact happly hact (State.applySignal_add_of_le h)
  · exact happly hact (State.applySignal_sub_of_le h)
  · exact happly hact (State.applySignal_sub_of_lt h)
  · exact happly hact (State.applySignal_set _ op)

/-- R194, R195 and R205, by what the object and the condition are at the wait's arrival. -/
theorem waitsHoldOrRegisterOnArrival : WaitsHoldOrRegisterOnArrival := by
  intro s i op cond consume hop hact hserved
  have harrive {t : State} (h : (s.takeOp i).applyWait op cond consume = t) : exec (.syncWaitArrive i .clean) s = .next t :=
    (exec_syncWaitArrive hop hact hserved).trans (congrArg _ h)
  refine ⟨fun ho => ?_, fun ho hw hc => ?_, fun ho hw hc hnone => ?_, fun ho hw => ?_⟩
  · exact harrive (State.applyWait_of_orphaned ho)
  · subst hc
    exact harrive (State.applyWait_of_holds ho hw)
  · subst hc
    exact harrive ((State.applyWait_of_holds (s := s.takeOp i) ho hw).trans (State.settle_of_none _ _ (by simp [hnone])))
  · exact harrive (State.applyWait_of_not_holds ho hw)

/-- R194 to R196: one evaluation after the other, for as many as there are waits. -/
theorem waitsAreReevaluated : WaitsAreReevaluated := by
  refine ⟨fun s k o => s.settle_of_none k, fun n _ _ => evalWaits_of_none n, ?_, fun _ _ _ _ => mem_of_mem_evalWaits,
    fun _ c => find?_evalWaits c le_rfl, fun _ c => evalWaits_of_not_consume c le_rfl⟩
  intro n w ws c d hfind htakes hkeeps
  have hd : d = if w.consume then c - w.value else c := by
    cases hc : w.consume with
    | true => exact htakes hc
    | false => exact hkeeps hc
  rw [hd]
  exact evalWaits_of_some n hfind

/-- Settles O21, from the wait's arrival and the evaluation of the waits registered. -/
theorem waitsHoldOrRegister : Obligations.WaitsHoldOrRegister := ⟨waitsHoldOrRegisterOnArrival, waitsAreReevaluated⟩

end Sys2Proof
end

section
/-! The memory tiers' letters that write layers: PLACE streams the layers of a region into its slots (R342 to R346), SWAP replaces layers in
place, group by group (R350 to R354). -/

namespace Sys2Proof.Machine

/-! ## PLACE -/

section
variable {s : State} {l : LetterId} {x : Letter} {n full : Nat} {y : PlaceLayer} {ys ls : List PlaceLayer}

theorem exec_place {q : Fin 4096} (h : s.startable q 7 = some x) :
    exec (.place q) s = .next ((s.begun q x).startPlace ⟨q, x.pm⟩ x) :=
  congrArg Host.Outcome.next (State.startWith_go h _ rfl _)

theorem State.startPlace_of_check_some {c : Code} (h : s.placeCheck l x = some c) : s.startPlace l x = s.endLetter l { code := c } := by
  simp only [State.startPlace, h]

theorem State.startPlace_of_check_none (h : s.placeCheck l x = none) :
    s.startPlace l x =
      (s.setWork l (.place (min 2 (x.field 0x18 4)) ((List.range (min 2 (x.field 0x18 4))).map (fun i => { i := i })) 0)).each
        (List.range (min 2 (x.field 0x18 4))) (fun s i => s.placeWait l x i) := by
  simp only [State.startPlace, h]

theorem exec_placeLayerCopied (h : s.clocked = true) (q : Fin 4096) (pm : BitVec 32) :
    exec (.placeLayerCopied q pm) s = .next (s.placeCopied ⟨q, pm⟩) :=
  congrArg Host.Outcome.next (if_pos h)

theorem State.placeCopied_of_place (hx : s.letter l = some x) (hwork : x.work = .place n ls full) (hlive : x.ended = none) :
    s.placeCopied l =
      ((s.tellLayers l x (s.die :: s.placeDies l x) ls).1.setWork l
        (.place n (s.tellLayers l x (s.die :: s.placeDies l x) ls).2 full)).placeNext l := by
  simp [State.placeCopied, hx, hwork, hlive]

/-- R346: the end of a layer's copy is the acknowledgement of every die. -/
theorem State.placeDone_of_copied (hcopied : y.copied = true) (hfail : y.fail = none) : s.placeDone l x y = s.die :: s.placeDies l x := by
  simp [State.placeDone, hcopied, hfail]

/-- R343: where no other die is written, FULL of a layer just copied is signalled once, here. -/
theorem State.tellLayers_copied (hcopied : y.copied = true) (hfail : y.fail = none) (htold : y.told = []) (hdies : s.placeDies l x = []) :
    s.tellLayers l x (s.die :: s.placeDies l x) [y] =
      (s.signalFull l s.die ((s.region (x.field 0x10 1)).full (placeSlot x (s.region (x.field 0x10 1)) y.i)), [{ y with told := [s.die] }]) := by
  simp [State.tellLayers, State.placeDone_of_copied hcopied hfail, hdies, htold, State.each]

/-- R343 to R345: what follows once the oldest layer has been signalled on every die. -/
theorem State.placeNext_of_told (hx : s.letter l = some x) (hwork : x.work = .place n (y :: ys) full) (hlive : x.ended = none)
    (hcopied : y.copied = true) (htold : (s.die :: s.placeDies l x).all (fun d => y.told.contains d) = true) :
    s.placeNext l =
      if full + 1 = x.field 0x18 4 then
        ((s.setWork l (.place n ys (full + 1))).letterDone l (x.field 0x1C 4) engPlace).endLetter l { code := codeOk }
      else if n < x.field 0x18 4 ∧ ys.all (fun y => y.fail.isNone) = true then
        (s.setWork l (.place (n + 1) (ys ++ [{ i := n }]) (full + 1))).placeWait l x n
      else (s.setWork l (.place n ys (full + 1))).placeEnds l := by
  have hgo : ¬ (x.ended.isSome = true ∨ (!y.copied) = true ∨ (!(s.die :: s.placeDies l x).all (fun d => y.told.contains d)) = true) := by
    rw [hlive, hcopied, htold]; decide
  simp only [State.placeNext, hx, hwork, if_neg hgo]

end

/-! ## SWAP -/

section
variable {s : State} {l : LetterId} {x : Letter} {w : SwapWork}

theorem exec_swap_of_alone {q : Fin 4096} (h : s.startable q 8 = some x) (halone : s.swapAlone x = true) :
    exec (.swap q) s = .next ((s.begun q x).startSwap ⟨q, x.pm⟩ x) :=
  congrArg Host.Outcome.next (State.startWith_go h _ halone _)

/-- R354: a SWAP waits for the earlier ones on its target. -/
theorem exec_swap_of_not_alone {q : Fin 4096} (h : s.startable q 8 = some x) (halone : s.swapAlone x = false) : exec (.swap q) s = .next s := by
  have hstays (go) : s.startWith q 8 (fun x => s.swapAlone x) go = s := by simp [State.startWith, h, halone]
  exact congrArg Host.Outcome.next (hstays _)

theorem State.startSwap_of_check_some {c : Code} (h : s.swapCheck l x = some c) : s.startSwap l x = s.endLetter l { code := c } := by
  simp only [State.startSwap, h]

theorem State.startSwap_of_check_none (h : s.swapCheck l x = none) :
    s.startSwap l x = ((s.setWork l (.swap {})).swapStageNext l).swapAsk l := by
  simp only [State.startSwap, h]

theorem exec_swapGroupStaged (h : s.clocked = true) (q : Fin 4096) (pm : BitVec 32) :
    exec (.swapGroupStaged q pm) s = .next (((s.swapAsk ⟨q, pm⟩).swapStageNext ⟨q, pm⟩).swapFails ⟨q, pm⟩) :=
  congrArg Host.Outcome.next (if_pos h)

theorem exec_swapGateTaken (h : s.clocked = true) (q : Fin 4096) (pm : BitVec 32) :
    exec (.swapGateTaken q pm) s = .next (s.swapCopyStart ⟨q, pm⟩) :=
  congrArg Host.Outcome.next (if_pos h)

theorem exec_swapGroupCopied (h : s.clocked = true) (q : Fin 4096) (pm : BitVec 32) :
    exec (.swapGroupCopied q pm) s = .next (s.swapCopied ⟨q, pm⟩) :=
  congrArg Host.Outcome.next (if_pos h)

/-- The lines of a SWAP's group at hand, dealt to the couriers (R353). -/
def State.swapGroupShares (s : State) (x : Letter) (w : SwapWork) : List (Nat × Nat × Nat) :=
  swapShares (swapLayers x w.group * (s.region (x.field 0x10 1)).unitBytes / 64)

/-- The copy of one share of a SWAP's group: from its staging place, or from the source region where that lies in HBM, to its layers of the
target (R353). -/
def State.swapShareDesc (s : State) (x : Letter) (w : SwapWork) (p : Nat × Nat × Nat) : Desc :=
  let t := s.region (x.field 0x10 1)
  let c := s.region (x.field 0x11 1)
  let first := x.field 0x14 2 + w.group * swapGroup x
  { src := sideWord 0 0 ((if c.home = 0 then c.base + first * c.unitBytes else s.swapStageAt x w.group) + 64 * p.2.1)
    dst := sideWord 0 0 (t.base + first * t.unitBytes + 64 * p.2.1)
    rowLines := BitVec.ofNat 32 p.2.2, rows := 1, srcStride := 0, dstStride := 0
    srcCtx := if c.home = 0 then some c.owner else none }

/-- Step 3 of R351, with room on every courier that has a share. -/
theorem State.swapCopyStart_of_gate (hx : s.letter l = some x) (hwork : x.work = .swap w) (hlive : x.ended = none) (hgate : w.gate = true)
    (hcopying : w.copying = false) (hroom : (s.swapGroupShares x w).all (fun p => s.courierRoom p.1) = true) :
    s.swapCopyStart l =
      (s.setWork l (.swap { w with copying := true, shares := (s.swapGroupShares x w).length })).each (s.swapGroupShares x w)
        (fun u p => u.queueDesc p.1 (.swapCopy l w.group) (s.swapShareDesc x w p) (u.letterCtx l) l.q x.phase x.hint none) := by
  unfold State.swapGroupShares at hroom
  simp [State.swapCopyStart, hx, hwork, hlive, hgate, hcopying, hroom, State.swapGroupShares, State.swapShareDesc]

/-- Step 4 of R351: the gate is returned, and the SWAP completes (R354) or turns to its next group. -/
theorem State.swapCopied_of_shares_zero (hx : s.letter l = some x) (hwork : x.work = .swap w) (hlive : x.ended = none)
    (hcopying : w.copying = true) (hshares : w.shares = 0) :
    s.swapCopied l =
      let v := s.doneSignal l (BitVec.ofNat 20 (x.field 0x18 4)) (BitVec.ofNat 32 (x.field 0x1C 4)) engHub
      if w.group + 1 = swapGroups x then
        (v.letterDone l (x.field 0x30 4) engHub).endLetter l { code := codeOk, result := BitVec.ofNat 32 (x.field 0x14 2 + x.field 0x16 2) }
      else
        (((v.setWork l (.swap { w with group := w.group + 1, asked := false, gate := false, copying := false })).swapAsk l).swapStageNext
          l).swapFails l := by
  have hgo : ¬ (x.ended.isSome = true ∨ (!w.copying) = true ∨ w.shares ≠ 0) := by
    rw [hlive, hcopying, hshares]; decide
  simp only [State.swapCopied, hx, hwork, if_neg hgo]

end

end Sys2Proof.Machine

namespace Sys2Proof
open Sys2Proof.Machine Sys2Proof.Claims

/-- R342 to R346: the letter's start, the end of a layer's copy, its FULL, and what follows it. -/
theorem placeStreamsLayers : PlaceStreamsLayers := by
  refine ⟨?start, ?copied, fun s l x y => State.tellLayers_copied, ?next⟩
  case start =>
    intro s q x hx
    exact ⟨fun c hc => (exec_place hx).trans (congrArg _ (State.startPlace_of_check_some hc)),
      fun hok => (exec_place hx).trans (congrArg _ (State.startPlace_of_check_none hok))⟩
  case copied =>
    intro s q pm x n full ls hclk hx hwork hlive
    exact (exec_placeLayerCopied hclk q pm).trans (congrArg _ (State.placeCopied_of_place hx hwork hlive))
  case next =>
    intro s l x n full y ys hx hwork hlive hcopied htold
    have hnext := State.placeNext_of_told hx hwork hlive hcopied htold
    refine ⟨fun hlast => ?_, fun hmore hn hfine => ?_, fun hmore hn => ?_⟩
    · rw [hnext, if_pos hlast]
    · rw [hnext, if_neg hmore, if_pos ⟨hn, hfine⟩]
    · rw [hnext, if_neg hmore, if_neg (fun h => absurd h.1 (Nat.not_lt.2 hn))]

/-- R350 to R354: the letter's start, alone on its target or not, a staged group, the gate's, and a copied one. -/
theorem swapReplacesInPlace : SwapReplacesInPlace := by
  refine ⟨?start, ?group, fun s q x => exec_swap_of_not_alone⟩
  case start =>
    intro s q x hx halone
    exact ⟨fun c hc => (exec_swap_of_alone hx halone).trans (congrArg _ (State.startSwap_of_check_some hc)),
      fun hok => (exec_swap_of_alone hx halone).trans (congrArg _ (State.startSwap_of_check_none hok))⟩
  case group =>
    intro s q pm x w hclk hx hwork hlive
    refine ⟨exec_swapGroupStaged hclk q pm, fun hgate hcopying hroom => ?_, fun hcopying hshares => ?_⟩
    · exact (exec_swapGateTaken hclk q pm).trans (congrArg _ (State.swapCopyStart_of_gate hx hwork hlive hgate hcopying hroom))
    · have hcopied := (exec_swapGroupCopied hclk q pm).trans
        (congrArg _ (State.swapCopied_of_shares_zero hx hwork hlive hcopying hshares))
      exact ⟨fun hlast => hcopied.trans (congrArg _ (if_pos hlast)), fun hmore => hcopied.trans (congrArg _ (if_neg hmore))⟩

/-- Settles O39, from what each letter does. -/
theorem layersStreamAndSwap : Obligations.LayersStreamAndSwap := ⟨placeStreamsLayers, swapReplacesInPlace⟩

end Sys2Proof
end

section
/-! The firmware: writes to its window, verification, and the phases of a core's start and restart (R494 to R503, R755). -/

namespace Sys2Proof.Machine

/-! ## Loading -/

section
variable {s : State} {off : Nat} {data : List Byte}

theorem exec_rstFwWindowWrite_of_loading (hin : off + data.length ≤ 2 ^ 20) (hload : s.released = false) :
    exec (.rstFwWindowWrite off data) s = .next { s with fw := { s.fw with window := memWrite s.fw.window off data } } :=
  congrArg Host.Outcome.next ((if_neg (Nat.not_lt.2 hin)).trans (if_neg (Bool.eq_false_iff.1 hload)))

/-- R496: the window takes no write once loading has been released. -/
theorem exec_rstFwWindowWrite_of_released (hin : off + data.length ≤ 2 ^ 20) (hrel : s.released = true) :
    exec (.rstFwWindowWrite off data) s = .next s :=
  congrArg Host.Outcome.next ((if_neg (Nat.not_lt.2 hin)).trans (if_pos hrel))

/-- R755: a write that lies partly inside the aperture is logged as R4 states. -/
theorem exec_rstFwWindowWrite_of_outside (hout : 2 ^ 20 < off + data.length) (hclk : s.clocked = true) :
    exec (.rstFwWindowWrite off data) s = .next (s.postMalformed .P (0x1000000 + off) data.length true) :=
  congrArg Host.Outcome.next ((if_pos hout).trans (if_pos hclk))

end

/-- RST_FW_LOAD.STATUS cannot be both WAITING and RELEASED. -/
theorem State.not_released_of_waiting {s : State} (h : s.fld .rstFwLoad fRstFwLoadStatus = 1) : s.released = false := by
  simp [State.released, h]

/-- R495: a GO in WAITING takes the window's bytes for verification. -/
theorem exec_rstFwLoadGo_of_waiting {s : State} (h : s.fld .rstFwLoad fRstFwLoadStatus = 1) (image : Fin 4) (bytes : BitVec 21) :
    exec (.rstFwLoadGo image bytes) s = .next (
      let t := (s.setFld .rstFwLoad fRstFwLoadImage 0 image).setFld .rstFwLoad fRstFwLoadBytes 0 bytes.toNat
      { t.setFld .rstFwLoad fRstFwLoadStatus 0 2 with
        fw := { t.fw with verifying := some (image.val, memRead t.fw.window 0 (min bytes.toNat (2 ^ 20))) } }) :=
  congrArg Host.Outcome.next
    ((if_neg (Bool.eq_false_iff.1 (State.not_released_of_waiting h))).trans (if_pos (Or.inl h)))

/-- An image passes where it has no reason for its rejection (R495, R695). -/
theorem State.fwVerified_eq (s : State) (kind : Nat) (b : List Byte) :
    s.fwVerified kind b =
      if fwReason b kind b.length = 0 then
        (((s.endVerify.keepImage kind b).markVerified kind).setFld .rstFwLoad fRstFwLoadStatus 0 1).releaseFw
      else (s.endVerify.setFld .rstFwLoad fRstFwLoadStatus 0 3).postSignature (2 + kind) (fwReason b kind b.length) := by
  unfold State.fwVerified
  cases fwReason b kind b.length with
  | zero => rfl
  | succ r => rfl

theorem exec_fwVerifyDone {s : State} {kind : Nat} {b : List Byte} (h : s.fw.verifying = some (kind, b)) :
    exec .fwVerifyDone s = .next (s.fwVerified kind b) := by
  change execFwVerifyDone s = _
  simp only [execFwVerifyDone, h]

/-! ## Causes of a restart -/

/-- The row by which each cause of R497 arrives, with the cause's number. -/
theorem exec_fwCause {f : Fin 19} {i : Instr} {cause : Nat}
    (h : i = .fwWatchdogExpiry f ∧ cause = 1 ∨ i = .fwComparisonFail f ∧ cause = 2 ∨ i = .fwException f ∧ cause = 3 ∨
      i = .fwLocalMemoryUe f ∧ cause = 4) (s : State) :
    exec i s = .next (s.fwRestart f cause) := by
  obtain ⟨rfl, rfl⟩ | ⟨rfl, rfl⟩ | ⟨rfl, rfl⟩ | ⟨rfl, rfl⟩ := h <;> rfl

section
variable {s : State} {f : Nat}

/-- R500: a cause meets a running core. -/
theorem State.fwRestart_of_on (hclk : s.clocked = true) (hon : s.fld .rstFwStatus fRstFwStatusState f = 2) (cause : Nat) :
    s.fwRestart f cause =
      let u := s.draw.2.setFld .rstFwStatus fRstFwStatusLastCause f cause
      if u.fld .rstFwCfg fRstFwCfgRestartMax ≤ s.draw.1.toNat % ((s.fwCore f).restarts + 1) then
        (((u.setFwState f 0).setFld .rstFwStatus fRstFwStatusGivenUp f 1).updFw f (fun c => { c with phase := 0, cause := cause })).fwEvent
          f cause 2 0
      else
        ((u.setFwState f 1).bumpSat .rstFwStatus fRstFwStatusRestarts f).updFw f
          (fun c => { c with phase := 1, cause := cause, restarts := c.restarts + 1 }) := by
  have hgo : ¬ ((!s.clocked) = true ∨ (s.fld .rstFwStatus fRstFwStatusState f ≠ 2 ∧ s.fld .rstFwStatus fRstFwStatusState f ≠ 1)) := by
    rw [hclk, hon]; decide
  exact if_neg hgo

/-! ## Phases of a restart -/

theorem State.fwPhase_of_early (h : (s.fwCore f).phase = 1 ∨ (s.fwCore f).phase = 2) :
    s.fwPhase f = s.updFw f (fun c => { c with phase := c.phase + 1 }) := if_pos h

/-- R499: what the digest of phase 3 decides. -/
theorem State.fwPhase_of_three (h : (s.fwCore f).phase = 3) :
    s.fwPhase f =
      if s.fwDigestOk f = true then s.updFw f (fun c => { c with phase := 4 })
      else (((s.setFwState f 0).setFld .rstFwStatus fRstFwStatusDigestFail f 1).updFw f (fun c => { c with phase := 0 })).fwEvent
        f (s.fwCore f).cause 1 0 := by
  have hlate : ¬ ((s.fwCore f).phase = 1 ∨ (s.fwCore f).phase = 2) := by omega
  exact (if_neg hlate).trans (if_pos h)

end

theorem exec_fwRestartPhaseDone {s : State} (h : s.clocked = true) (f : Fin 19) :
    exec (.fwRestartPhaseDone f) s = .next (s.fwPhase f) :=
  congrArg Host.Outcome.next (if_pos h)

theorem exec_fwReady_of_phase_four {s : State} {f : Fin 19} (hclk : s.clocked = true) (hphase : (s.fwCore f).phase = 4) (cclk : BitVec 32) :
    exec (.fwReady f cclk) s = .next (s.fwUp f cclk) :=
  congrArg Host.Outcome.next (if_pos ⟨hclk, hphase⟩)

end Sys2Proof.Machine

namespace Sys2Proof
open Sys2Proof.Machine Sys2Proof.Claims

/-- R494 to R496 and R755: writes to the window by where they lie, a GO in WAITING, and the end of a verification. -/
theorem firmwareIsLoadedAndVerified : FirmwareIsLoadedAndVerified := fun s =>
  ⟨fun _ _ => exec_rstFwWindowWrite_of_loading, fun _ _ => exec_rstFwWindowWrite_of_released,
    fun _ _ => exec_rstFwWindowWrite_of_outside, fun image bytes _ hwait => exec_rstFwLoadGo_of_waiting hwait image bytes,
    fun kind b hver => (exec_fwVerifyDone hver).trans (congrArg _ (s.fwVerified_eq kind b))⟩

/-- R497 to R503: a cause meets a running core, each phase ends, and the core reports ready. -/
theorem firmwareRestarts : FirmwareRestarts := by
  intro s f hclk
  have hphase := exec_fwRestartPhaseDone hclk f
  refine ⟨?cause, fun hearly => ?early, fun hthree hok => ?agrees, fun hthree hbad => ?disagrees,
    fun cclk hfour => exec_fwReady_of_phase_four hclk hfour cclk⟩
  case cause =>
    intro i cause hi hon
    have hrestart := (exec_fwCause hi s).trans (congrArg _ (State.fwRestart_of_on hclk hon cause))
    exact ⟨fun hmax => hrestart.trans (congrArg _ (if_pos hmax)),
      fun hfew => hrestart.trans (congrArg _ (if_neg (Nat.not_le.2 hfew)))⟩
  case early => rw [hphase, State.fwPhase_of_early hearly]
  case agrees => rw [hphase, State.fwPhase_of_three hthree, if_pos hok]
  case disagrees => rw [hphase, State.fwPhase_of_three hthree, if_neg (Bool.eq_false_iff.1 hbad)]

/-- Settles O47, from what each firmware row does. -/
theorem firmwareLives : Obligations.FirmwareLives := ⟨firmwareIsLoadedAndVerified, firmwareRestarts⟩

end Sys2Proof
end

section
/-! Transaction slots and the shadow writes that a full transaction refuses (R554, R557); driver leases, held and lost (R519, R532, R533);
the modules of the host link (R516, R517). -/

namespace Sys2Proof.Machine

/-! ## Transaction slots -/

theorem State.txn_updTxn (s : State) (i : Nat) (f : Txn → Txn) : (s.updTxn i f).txn i = f (s.txn i) := tabGet_upd_same ..

/-- R557: a rollback empties its slot last, whatever it posts before. -/
theorem State.rollback_eq (s : State) (i : Nat) (c : Code) :
    ∃ u : State, s.rollback i c = ((u.updTxn i (fun _ => {})).setTxnState i 0).setTxnCode i c := ⟨_, rfl⟩

theorem State.txn_rollback (s : State) (i : Nat) (c : Code) : (s.rollback i c).txn i = {} := by
  obtain ⟨u, hu⟩ := s.rollback_eq i c
  rw [hu]
  exact u.txn_updTxn i _

theorem State.txnState_rollback (s : State) (i : Nat) (c : Code) : (s.rollback i c).txnState i = 0 := by
  obtain ⟨u, hu⟩ := s.rollback_eq i c
  rw [hu, State.txnState, State.setTxnCode, State.fld_setFld_other _ _ _ _ _ _ (by decide) (by decide) (by decide), State.setTxnState,
    State.fld_setFld _ _ _ _ _ (by decide)]
  rfl

/-- TXN_STATUS.CODE is as wide as a code. -/
theorem State.txnCode_rollback (s : State) (i : Nat) (c : Code) : (s.rollback i c).fld .txnStatus fTxnStatusCode i = c.toNat := by
  obtain ⟨u, hu⟩ := s.rollback_eq i c
  rw [hu, State.setTxnCode, State.fld_setFld _ _ _ _ _ (by decide)]
  exact Nat.mod_eq_of_lt c.isLt

/-- The registers TXN_CTL and TXN_STATUS of the 8 slots lie apart. -/
theorem regKey_txnStatus_ne_txnCtl {i j : Nat} (hj : j < 8) (hi : i < 8) : regKey .txnStatus j 0 ≠ regKey .txnCtl i 0 := by
  simp only [regKey, regRow]
  omega

/-- OWNER and DOMAINS are kept in TXN_CTL, so that no slot's STATE changes. -/
theorem State.txnState_keepCtl (s : State) {i j : Nat} (hj : j < 8) (hi : i < 8) (owner domains : Nat) :
    (s.keepCtl i owner domains).txnState j = s.txnState j :=
  (State.fld_setFld_ne _ _ _ _ _ _ _ _ (regKey_txnStatus_ne_txnCtl hj hi)).trans
    (State.fld_setFld_ne _ _ _ _ _ _ _ _ (regKey_txnStatus_ne_txnCtl hj hi))

theorem exec_txnAbort_of_open {s : State} {i : Fin 8} (hclk : s.clocked = true) (hopen : s.txnState i = 1) (owner : Fin 16) (dom : BitVec 7) :
    exec (.txnAbort i owner dom) s = .next ((s.keepCtl i owner dom.toNat).rollback i codeTxnAborted) := by
  change Host.Outcome.next (if (!s.clocked) = true then s else _) = _
  have hkept := (s.txnState_keepCtl i.isLt i.isLt owner dom.toNat).trans hopen
  rw [if_neg (by simp [hclk]), if_pos hkept]

/-! ## Shadow writes -/

/-- R554: the 257th shadow write of a transaction. -/
theorem State.shadowWrite_of_full {s : State} {off len value n w d j : Nat} {r : RegName} (hclk : s.clocked = true)
    (hin : inAperture .P off len = false) (hbad : badAccess .P off len = false) (hloc : locate .P off = some (r, n, w))
    (hdom : domainOf r w = some d) (hopen : s.openFor d = some j) (hfull : 256 ≤ s.fld .txnStatus fTxnStatusWrites j) :
    s.shadowWrite off len value = s.rollback j codeTxnFull := by
  have hslot : (domainOf r w).bind s.openFor = some j := by rw [hdom, Option.bind_some, hopen]
  simp [State.shadowWrite, hin, hbad, hloc, hslot, hclk, hfull]

/-! ## Leases -/

section
variable {s : State} {slot : Fin 16} {id : BitVec 16}

/-- R532, R533: a claim of a free slot, and a renewal of its own. -/
theorem exec_hifLeaseClaim_of_held {period : BitVec 16} (hclk : s.clocked = true) (hperiod : period ≠ 0) (hid : id ≠ 0)
    (hheld : s.fld .hifLease fHifLeaseId slot = 0 ∨ s.fld .hifLease fHifLeaseId slot = id.toNat) :
    exec (.hifLeaseClaim slot id period) s = .next
      ((s.setFld .hifLease fHifLeaseId slot id.toNat).setFld .hifLease fHifLeasePeriod slot period.toNat) := by
  refine congrArg Host.Outcome.next (if_neg ?_)
  rintro (hstop | rfl | rfl | ⟨hfree, hother⟩)
  · simp [hclk] at hstop
  · exact hperiod rfl
  · exact hid rfl
  · exact hheld.elim hfree hother

theorem exec_hifLeaseClaim_of_discarded {period : BitVec 16}
    (h : period = 0 ∨ (s.fld .hifLease fHifLeaseId slot ≠ 0 ∧ s.fld .hifLease fHifLeaseId slot ≠ id.toNat)) :
    exec (.hifLeaseClaim slot id period) s = .next s :=
  congrArg Host.Outcome.next (if_pos (.inr (h.imp_right .inr)))

theorem exec_leaseExpiry_of_held (hclk : s.clocked = true) (hheld : s.fld .hifLease fHifLeaseId slot ≠ 0) :
    exec (.leaseExpiry slot) s = .next (s.loseLease slot) :=
  congrArg Host.Outcome.next (if_pos ⟨hclk, bne_iff_ne.2 hheld⟩)

theorem exec_hifLeaseRelease_of_own (hclk : s.clocked = true) (hheld : s.fld .hifLease fHifLeaseId slot ≠ 0)
    (hown : s.fld .hifLease fHifLeaseId slot = id.toNat) :
    exec (.hifLeaseRelease slot id) s = .next (s.loseLease slot) := by
  refine congrArg Host.Outcome.next (if_neg ?_)
  rintro (hstop | hfree | hother)
  · simp [hclk] at hstop
  · exact hheld hfree
  · exact hother hown

theorem exec_hifLeaseRelease_of_other (hother : s.fld .hifLease fHifLeaseId slot ≠ id.toNat) :
    exec (.hifLeaseRelease slot id) s = .next s :=
  congrArg Host.Outcome.next (if_pos (.inr (.inr hother)))

end

/-! ## The modules of the host link -/

section
variable {s : State} {m : Fin 4}

/-- R516: the width that a module trains to, by what the test of its lanes finds. -/
theorem exec_ucieModuleTrain_of_down (h : s.ucieWidth m = 0 ∨ s.host.retraining.contains m.val = true) (t : LaneTest) :
    exec (.ucieModuleTrain m t) s = .next (
      if t.txBad ≤ 4 ∧ t.rxBad ≤ 4 then s.ucieSet m 2 t.txBad t.rxBad
      else if t.halfUsable = true then s.ucieSet m 1 0 0
      else s.ucieSet m 0 0 0) := by
  refine congrArg Host.Outcome.next (if_neg ?_)
  rintro ⟨hup, hnot⟩
  obtain hdown | hre := h
  · exact hup hdown
  · rw [hre] at hnot
    exact Bool.false_ne_true hnot

theorem exec_ucieRetrain_of_up (hup : s.ucieWidth m ≠ 0) (hnot : s.host.retraining.contains m.val = false) :
    exec (.ucieRetrain m) s = .next (
      let u := s.bumpSat .hifLinkStatus fHifLinkStatusRetrains m
      { u with host := { u.host with retraining := setInsert m.val u.host.retraining } }) :=
  congrArg Host.Outcome.next (if_neg (not_or.2 ⟨hup, Bool.eq_false_iff.1 hnot⟩))

theorem exec_ucieRetrainTimeout_of_retraining (h : s.host.retraining.contains m.val = true) :
    exec (.ucieRetrainTimeout m) s = .next (s.ucieSet m 0 0 0) :=
  congrArg Host.Outcome.next (if_pos h)

end

end Sys2Proof.Machine

namespace Sys2Proof
open Sys2Proof.Machine Sys2Proof.Claims

/-- Settles O16: a rollback empties its slot and leaves IDLE and the code in TXN_STATUS; the two rows that roll back reach it. -/
theorem rolledBackTransactions : Obligations.RolledBackTransactions := by
  unfold Obligations.RolledBackTransactions
  refine ⟨fun s i c => ?rolledBack, fun s i owner dom hclk hopen => exec_txnAbort_of_open hclk hopen owner dom, ?full⟩
  case rolledBack =>
    have hslot := s.txn_rollback i c
    exact ⟨congrArg Txn.shadow hslot, congrArg Txn.domains hslot, s.txnState_rollback i c, s.txnCode_rollback i c⟩
  case full =>
    intro s off len value r n w d j hclk hin hbad hloc hdom hopen hfull
    exact congrArg Host.Outcome.next (State.shadowWrite_of_full hclk hin hbad hloc hdom hopen hfull)

/-- R519, R532, R533 and R558: each row that writes a lease or ends it. -/
theorem leasesAreHeldAndLost : LeasesAreHeldAndLost := fun _ _ _ _ =>
  ⟨exec_hifLeaseClaim_of_held, exec_hifLeaseClaim_of_discarded,
    fun hclk hheld => ⟨exec_leaseExpiry_of_held hclk hheld, exec_hifLeaseRelease_of_own hclk hheld, exec_hifLeaseRelease_of_other⟩, rfl⟩

/-- R516 and R517, by the lanes that fail the test. -/
theorem hostModulesTrain : HostModulesTrain := by
  intro s m t
  refine ⟨fun hdown => ?train, exec_ucieRetrain_of_up, exec_ucieRetrainTimeout_of_retraining⟩
  case train =>
    have htrain := exec_ucieModuleTrain_of_down hdown t
    have hworn (h : 4 < t.txBad ∨ 4 < t.rxBad) : ¬ (t.txBad ≤ 4 ∧ t.rxBad ≤ 4) := by omega
    refine ⟨fun htx hrx => ?full, fun hbad hhalf => ?half, fun hbad hhalf => ?down⟩
    case full => rw [htrain, if_pos ⟨htx, hrx⟩]
    case half => rw [htrain, if_neg (hworn hbad), if_pos hhalf]
    case down => rw [htrain, if_neg (hworn hbad), if_neg (Bool.eq_false_iff.1 hhalf)]

/-- Settles O50, from the leases' rows and the link modules' rows. -/
theorem leasesAndModules : Obligations.LeasesAndModules := ⟨leasesAreHeldAndLost, hostModulesTrain⟩

end Sys2Proof
end

section
/-! Submission queues: doorbells, and letters fetched from a ring in the die window (R146, R151, R535, R539). -/

namespace Sys2Proof.Machine

/-! ## Doorbells -/

theorem Queue.seen_eq_true_iff {x : Queue} {v : View} {win : Nat} :
    x.seen v win = true ↔ x.bound = true ∧ (v = .P ∨ x.ctx.toNat = win) := by simp [Queue.seen]

theorem exec_hifDoorbell_of_seen {s : State} {v : View} {win : Fin 1024} {q : Fin 4096} (hclk : s.clocked = true)
    (hseen : (s.queue q).seen v win = true) (tail : BitVec 32) :
    exec (.hifDoorbell v win q tail) s = .next ((s.updQ q (fun x => { x with tail := tail })).checkOverrun q) :=
  congrArg Host.Outcome.next (if_pos (by rw [hclk, hseen, Bool.and_self]))

theorem exec_hifDoorbell_of_not_seen {s : State} {v : View} {win : Fin 1024} {q : Fin 4096}
    (hseen : ¬ (s.queue q).seen v win = true) (tail : BitVec 32) : exec (.hifDoorbell v win q tail) s = .next s :=
  congrArg Host.Outcome.next (if_neg (fun h => hseen (Bool.and_eq_true_iff.1 h).2))

/-- R151, for the TAIL just written: the event carries what the queue held before. -/
theorem State.checkOverrun_tail (s : State) (q : Nat) (tail : BitVec 32) :
    (s.updQ q (fun x => { x with tail := tail })).checkOverrun q =
      let t := s.updQ q (fun x => { x with tail := tail })
      if (s.queue q).state = .active ∧ 2 ^ (s.queue q).log2.toNat < (tail - (s.queue q).head).toNat then
        (t.haltQueue q).postCtx (s.queue q).ctx.toNat
          { code := codeQueueOverrun, pm := (s.queue q).completed, queue := some q, unit := (s.queue q).unit.toNat }
      else t := by
  simp only [State.checkOverrun, State.queueEvent, State.haltQueue, Queue.ahead, State.queue_updQ]

/-! ## Fetched letters -/

theorem Queue.mayFetch_of_active {x : Queue} (hactive : x.state = .active) (hrefusal : x.refusal = none) (hahead : x.ahead ≠ 0)
    (hroom : (x.letters.filter (fun y => !y.started)).length < 16) : x.mayFetch = true := by
  simp [Queue.mayFetch, hactive, hrefusal, hahead, hroom]

/-- A read that finds nothing leaves no trace in the fault logs. -/
theorem State.hbmNote_of_clean {s : State} {a : Nat} {rd : ReadRes} (h : s.hbmSees a rd = .clean) : s.hbmNote a rd = s := by
  simp only [State.hbmNote, h]

/-- R252: the read is charged at its port and handed to acceptance. -/
theorem State.doLetterFetch_of_clean {s : State} {q a : Nat} {rd : ReadRes} (host : HostReply) (hrun : s.run = true)
    (hmay : (s.queue q).mayFetch = true) (hloc : (s.queue q).loc ≠ 1)
    (haddr : s.translate (s.queue q).ctx.toNat
      ((s.queue q).ringBase.toNat + (s.queue q).head.toNat % 2 ^ (s.queue q).log2.toNat * 64) = some a)
    (hclean : s.hbmSees a rd = .clean) :
    s.doLetterFetch q host rd =
      let t := s.hbmAccess (some (s.queue q).ctx.toNat) a false srcHub 1
      t.acceptLetter q (t.winRead (s.queue q).ctx.toNat
        ((s.queue q).ringBase.toNat + (s.queue q).head.toNat % 2 ^ (s.queue q).log2.toNat * 64) 64) := by
  simp only [State.doLetterFetch, hrun, hmay, if_neg hloc, haddr, hclean, State.hbmNote_of_clean hclean, Bool.not_true, Bool.or_self,
    Bool.false_eq_true, if_false, reduceCtorEq]

@[simp] theorem State.charge_queues (s : State) (p : Nat) (c : ReqClass) (write : Bool) (src units : Nat) :
    (s.charge p c write src units).queues = s.queues := by
  by_cases hp : p < 6
  · simp only [State.charge, if_pos hp, State.count_queues, State.countBw_queues]
  · simp only [State.charge, if_neg hp, State.countBw_queues]

@[simp] theorem State.hbmAccess_queues (s : State) (ctx : Option Nat) (a : Nat) (write : Bool) (src units : Nat) :
    (s.hbmAccess ctx a write src units).queues = s.queues := by
  cases ctx <;> simp only [State.hbmAccess, State.countCtx_queues, State.charge_queues]

@[simp] theorem State.queue_hbmAccess (s : State) (ctx : Option Nat) (a : Nat) (write : Bool) (src units q : Nat) :
    (s.hbmAccess ctx a write src units).queue q = s.queue q := by
  simp only [State.queue, State.hbmAccess_queues]

/-- The letter that a queue `x` makes of 64 bytes, ended where R146 rejects them. -/
def Queue.letterOf (x : Queue) (raw : List Byte) : Letter :=
  { pm := BitVec.ofNat 32 (leField raw 0 4), raw := raw
    ended := if letterForm raw && leField raw 8 2 == x.ctx.toNat && leField raw 10 2 == x.unit.toNat then none
      else some { code := codeLetterInvalid } }

/-- R146 and R539: a letter with the postmark that is due joins its queue, another one halts it. -/
theorem State.acceptLetter_eq (s : State) (q : Nat) (raw : List Byte) :
    s.acceptLetter q raw =
      if ((s.queue q).letterOf raw).pm = (s.queue q).accepted + 1 then
        s.updQ q (fun x => { x with
          head := x.head + 1, accepted := x.accepted + 1, letters := x.letters ++ [(s.queue q).letterOf raw] })
      else
        (s.haltQueue q).updQ q (fun x => { x with refusal := some (((s.queue q).letterOf raw).pm, x.accepted + 1) }) := by
  unfold State.acceptLetter
  by_cases hpm : ((s.queue q).letterOf raw).pm = (s.queue q).accepted + 1
  · rw [if_pos hpm]
    exact (if_neg (not_not.2 hpm)).trans (State.updQ_congr _ _ _ _ rfl)
  · rw [if_neg hpm]
    refine (if_pos hpm).trans (State.updQ_congr _ _ _ _ ?_)
    simp only [State.haltQueue, State.queue_updQ, Queue.letterOf]

end Sys2Proof.Machine

namespace Sys2Proof
open Sys2Proof.Machine Sys2Proof.Claims

/-- R151 and R535, by whether the view shows the queue. -/
theorem doorbellSetsTail : DoorbellSetsTail := by
  refine ⟨fun s v win q tail hclk hbound hview => ?shown, fun s v win q tail h => ?hidden⟩
  case shown =>
    rw [exec_hifDoorbell_of_seen hclk (Queue.seen_eq_true_iff.2 ⟨hbound, hview⟩), State.checkOverrun_tail]
    rfl
  case hidden =>
    refine exec_hifDoorbell_of_not_seen (fun hseen => ?_) tail
    obtain ⟨hbound, hview⟩ := Queue.seen_eq_true_iff.1 hseen
    obtain hfree | ⟨hU, hctx⟩ := h
    · exact Bool.eq_false_iff.1 hfree hbound
    · exact hview.elim hU hctx

/-- R146, R252 and R539: a clean read of the letter at HEAD is charged, and the letter accepted by its postmark. -/
theorem fetchedLetterIsAccepted : FetchedLetterIsAccepted := by
  intro s q host rd a hrun hactive hrefusal hahead hroom hloc haddr hclean
  have hfetch := State.doLetterFetch_of_clean host hrun (Queue.mayFetch_of_active hactive hrefusal hahead hroom) hloc haddr hclean
  rw [State.acceptLetter_eq, State.queue_hbmAccess] at hfetch
  exact congrArg Host.Outcome.next hfetch

/-- Settles O23, from the doorbell's and the fetch's rows. -/
theorem queuesTakeLetters : Obligations.QueuesTakeLetters := ⟨doorbellSetsTail, fetchedLetterIsAccepted⟩

end Sys2Proof
end

section
/-! What a read of a 64-bit data register answers, and the attestation report behind SEC_ATT_DATA. -/

namespace Sys2Proof.Machine

/-- R3: 8 aligned bytes of a register whose fields cover all 64 bits for the view are the bits that it shows. -/
theorem State.readReg_eq_shown {s : State} {v : View} {off i w : Nat} {r : RegName} (hloc : locate v off = some (r, i, w))
    (halign : off % 8 = 0) (hans : s.answers v r = true) (hview : v = .P ∨ (regRow r).u = true)
    (hmask : fieldMask (regFields r) (fun f => f.seen v && f.acc != .wo) = BitVec.allOnes 64) :
    s.readReg v off 8 = (s.shown v (winOf off) r i w).toNat := by
  have hword (x : Word) : natBits x.toNat 63 0 = x.toNat := Nat.mod_eq_of_lt x.isLt
  simp only [State.readReg, hloc, hans, hview, hmask, halign, BitVec.and_allOnes, and_self, if_true]
  exact hword _

/-- While the die's clocks run, the privileged view reads every register outside the awl (R643, R721). -/
theorem State.answers_P_of_clocked {s : State} {r : RegName} (hclk : s.clocked = true) (hawl : isAwl r = false) :
    s.answers .P r = true := by
  simp only [State.answers, hclk, hawl, Bool.true_or, Bool.not_false, Bool.and_self]

/-- Table 19-2: where SEC_ATT_DATA lies in the P-view. -/
theorem locate_secAttData : locate .P 0x50058 = some (.secAttData, 0, 0) := by decide +kernel

/-- R700, as the bits that SEC_ATT_DATA shows. -/
theorem State.shown_secAttData (s : State) (v : View) (win i w : Nat) :
    s.shown v win .secAttData i w =
      if s.fld .secAttIdx fSecAttIdxIdx ≤ 469 ∧ s.fld .secAttCtl fSecAttCtlBusy = 0
      then BitVec.ofNat 64 (leField s.sec.report (8 * s.fld .secAttIdx fSecAttIdxIdx) 8) else 0 := rfl

/-- R710: DATA fills the register, so a read of it is what it shows. -/
theorem State.readReg_secAttData {s : State} (hclk : s.clocked = true) :
    s.readReg .P 0x50058 8 = (s.shown .P (winOf 0x50058) .secAttData 0 0).toNat :=
  State.readReg_eq_shown locate_secAttData rfl (State.answers_P_of_clocked hclk rfl) (.inl rfl) (by decide)

end Sys2Proof.Machine

namespace Sys2Proof
open Sys2Proof.Machine

/-- Settles O15, by whether R700 lets the report through; 8 of its bytes fit the register's 64 bits. -/
theorem attestationDataReads : Obligations.AttestationDataReads := by
  intro s hclk
  refine ⟨0x50058, locate_secAttData, fun hidx hidle => ?report, fun hblocked => ?zero⟩ <;>
    rw [State.readReg_secAttData hclk, State.shown_secAttData]
  case report =>
    rw [if_pos ⟨hidx, hidle⟩, BitVec.toNat_ofNat]
    exact Nat.mod_eq_of_lt (leField_lt ..)
  case zero =>
    rw [if_neg fun ⟨hidx, hidle⟩ => hblocked.elim (· hidle) (Nat.not_lt_of_le hidx)]
    rfl

end Sys2Proof
end

section
/-! The parcel's removal signals while the die is STOPPED (R603, R749), and what the outputs of Tables 20-2 and 20-3 show (R741 to R743,
R751). -/

namespace Sys2Proof.Machine

variable {s : State}

/-! ## Removal signals -/

theorem State.clocked_of_stopped (h : s.fld .pwrState fPwrStateState = 3) : s.clocked = false := by
  simp [State.clocked, h]

theorem State.pclRequest_of_not_clocked (h : s.clocked = false) : s.pclRequest = s :=
  if_pos (by rw [h]; rfl)

theorem exec_pclCmdRequest_of_not_clocked (h : s.clocked = false) : exec .pclCmdRequest s = .next s :=
  congrArg Host.Outcome.next (State.pclRequest_of_not_clocked h)

/-- R748, R749: whether or not the button is monitored. -/
theorem exec_parcelButton_of_not_clocked (h : s.clocked = false) : exec .parcelButton s = .next s := by
  change execParcelButton s = _
  rw [execParcelButton, State.pclRequest_of_not_clocked h, ite_self]

/-- R603 asks for no clock. -/
theorem exec_parcelRemoved_of_not_off (hrel : s.released = true) (hpcl : s.pclState ≠ 0) :
    exec .parcelRemoved s = .next (s.loseParcel.setFld .pclStatus fPclStatusPresent 0 0) := by
  change execParcelRemoved s = _
  simp only [execParcelRemoved, hrel, hpcl, Bool.not_true, Bool.false_eq_true, if_false]

/-! ## Signals by start step and power state -/

/-- R741: the Reset state, until the start step that takes the signal over. -/
theorem State.signal_of_lt {k : Nat} (h : s.start.step < k) (atReset inUse atStop : Drive) : s.signal k atReset inUse atStop = atReset :=
  if_pos h

/-- R741: the Stop state, of a signal that was taken over. -/
theorem State.signal_of_stopped {k : Nat} (hstep : k ≤ s.start.step) (hstop : s.fld .pwrState fPwrStateState = 3)
    (atReset inUse atStop : Drive) : s.signal k atReset inUse atStop = atStop :=
  (if_neg (Nat.not_lt.2 hstep)).trans (if_pos hstop)

/-- R751. -/
theorem State.thermtripN_eq_low_iff : s.outPin .thermtripN = .low ↔ s.start.tripped = true := by
  cases h : s.start.tripped <;> simp [State.outPin, h]

/-! ## Flash channels -/

section
variable {ch : Nat}

/-- R743. -/
theorem State.flashPins_of_unpowered (hch : 12 ≤ ch) (hpwr : s.pclPwrEn = false) : s.flashPins ch = .highZ :=
  if_pos ⟨hch, hpwr⟩

theorem State.flashOn_of_warn (h : s.fl.warn = true) : s.flashOn = false := by
  simp [State.flashOn, h]

theorem State.fwOn_of_flashOn (h : s.flashOn = true) : s.fwOn 0 = true := by
  simp only [State.flashOn, Bool.and_eq_true] at h
  obtain ⟨⟨hfw, -⟩, -⟩ := h
  exact hfw

/-- R742: a trained channel that may take new work, or that has work of its own under way. -/
theorem State.flashWpN_eq_true_iff : s.flashWpN ch = true ↔ s.channelUp ch = true ∧ (s.flashOn = true ∨
    s.fwOn 0 = true ∧ (s.fl.flushing.contains ch = true ∨ s.fl.progs.any (fun j => j.ch == ch && j.issued) = true)) := by
  simp only [State.flashWpN, Bool.and_eq_true, Bool.or_eq_true]

theorem State.flashWpN_of_warn_of_idle (hwarn : s.fl.warn = true) (hflush : s.fl.flushing.contains ch = false)
    (hprog : s.fl.progs.any (fun j => j.ch == ch && j.issued) = false) : s.flashWpN ch = false := by
  rw [← Bool.not_eq_true, State.flashWpN_eq_true_iff, State.flashOn_of_warn hwarn, hflush, hprog]
  simp

end

end Sys2Proof.Machine

namespace Sys2Proof
open Sys2Proof.Machine

/-- Settles O17: a request needs the clocks that a STOPPED die lacks, and a withdrawal does not. -/
theorem stoppedDieIgnoresRemovalRequests : Obligations.StoppedDieIgnoresRemovalRequests := by
  intro s hstop
  have hclk := State.clocked_of_stopped hstop
  exact ⟨exec_parcelButton_of_not_clocked hclk, exec_pclCmdRequest_of_not_clocked hclk, exec_parcelRemoved_of_not_off⟩

/-- Settles O60, from what R741 gives each signal by the start's step and the power state, and R742 and R743 each flash channel. -/
theorem signalsShowTheState : Obligations.SignalsShowTheState := by
  intro s
  refine ⟨fun h2 => State.signal_of_lt h2 .., fun h3 => State.signal_of_lt h3 .., fun h4 => ?nor, fun h8 => ?hbm,
    fun h9 => State.signal_of_lt h9 .., fun hstep hstop => ?stopped, State.thermtripN_eq_low_iff, fun ch => ?flash⟩
  case nor =>
    have hreset := State.signal_of_lt h4
    exact ⟨hreset .., hreset .., hreset .., hreset ..⟩
  case hbm => exact ⟨State.signal_of_lt h8 .., State.signal_of_lt h8 ..⟩
  case stopped =>
    have hsignal (k : Nat) (hk : k ≤ 11) := State.signal_of_stopped (hk.trans_eq hstep.symm) hstop
    have hnor := hsignal 4 (by decide)
    have hhbm := hsignal 8 (by decide)
    exact ⟨hsignal 2 (by decide) .., hsignal 3 (by decide) .., hnor .., hnor .., hnor .., hnor .., hhbm .., hhbm ..,
      hsignal 9 (by decide) .., hsignal 10 (by decide) ..⟩
  case flash =>
    refine ⟨State.flashPins_of_unpowered, State.flashWpN_of_warn_of_idle, fun hwp => ?_⟩
    obtain ⟨hup, hwork⟩ := State.flashWpN_eq_true_iff.1 hwp
    exact ⟨hup, hwork.elim State.fwOn_of_flashOn And.left⟩

end Sys2Proof
end

section
/-! Every command, whatever its operands, keeps what `Keeps` says, and so does a step, but for the command that it takes off the queue. -/

namespace Sys2Proof.Machine

/-! ## Steps -/

theorem step_cons {s : State} {c : Instr} {rest : List Instr} (h : s.pending = c :: rest) : step s = exec c { s with pending := rest } := by
  simp only [step, h]

theorem step_nil {s : State} (h : s.pending = []) : step s = .next s.fclkTick := by
  simp only [step, h]

/-- Every command answers a next state. -/
theorem exec_eq_next (c : Instr) (s : State) : ∃ t, exec c s = .next t := by
  cases c <;> exact ⟨_, rfl⟩

/-! ## What commands and steps keep -/

/-- One arm per command, in the order of `exec`. -/
theorem exec_keeps {s0 s : State} (h : Keeps s0 s) : (c : Instr) → ResKeeps s0 (exec c s)
  | .registerWrite .. => execRegisterWrite_keeps _ _ _ _ h
  | .rstFwWindowWrite .. => execRstFwWindowWrite_keeps _ _ h
  | .shadowWrite .. => execShadowWrite_keeps _ _ _ h
  | .hifDoorbell .. => execHifDoorbell_keeps _ _ _ _ h
  | .letterFetch .. => execLetterFetch_keeps _ _ _ h
  | .nopLetter .. => execNopLetter_keeps _ h
  | .run .. => execRun_keeps _ _ h
  | .signalLetter .. => execSignalLetter_keeps _ h
  | .waitLetter .. => execWaitLetter_keeps _ h
  | .move .. => execMove_keeps _ h
  | .gather .. => execGather_keeps _ _ h
  | .seqOpen .. => execSeqOpen_keeps _ h
  | .seqStep .. => execSeqStep_keeps _ _ h
  | .seqEnd .. => execSeqEnd_keeps _ h
  | .seqClose .. => execSeqClose_keeps _ h
  | .seqTableWritesDone .. => execSeqTableWritesDone_keeps _ h
  | .place .. => execPlace_keeps _ h
  | .swap .. => execSwap_keeps _ h
  | .promoteRoute .. => execPromoteRoute_keeps _ _ h
  | .promoteFetch .. => execPromoteFetch_keeps _ h
  | .promotePin .. => execPromotePin_keeps _ h
  | .promoteUnpin .. => execPromoteUnpin_keeps _ h
  | .time .. => execTime_keeps _ h
  | .collectiveAllGather .. => execCollectiveAllGather_keeps _ h
  | .collectiveAllReduce .. => execCollectiveAllReduce_keeps _ h
  | .collectiveBroadcast .. => execCollectiveBroadcast_keeps _ h
  | .letterComplete .. => execLetterComplete_keeps _ _ _ h
  | .completionRecordWrite .. => execCompletionRecordWrite_keeps _ _ h
  | .streamBegin .. => execStreamBegin_keeps _ h
  | .streamFetch .. => execStreamFetch_keeps _ _ _ h
  | .nop .. => execNop_keeps _ h
  | .endCmd .. => execEndCmd_keeps _ h
  | .phase .. => execPhase_keeps _ h
  | .ldt .. => execLdt_keeps _ h
  | .lds .. => execLds_keeps _ h
  | .mac .. => execMac_keeps _ h
  | .drain .. => execDrain_keeps _ h
  | .vecAdd .. => execVecAdd_keeps _ h
  | .vecSub .. => execVecSub_keeps _ h
  | .vecMul .. => execVecMul_keeps _ h
  | .vecFma .. => execVecFma_keeps _ h
  | .vecMin .. => execVecMin_keeps _ h
  | .vecMax .. => execVecMax_keeps _ h
  | .vecCmplt .. => execVecCmplt_keeps _ h
  | .vecCmpeq .. => execVecCmpeq_keeps _ h
  | .vecSel .. => execVecSel_keeps _ h
  | .vecCvt .. => execVecCvt_keeps _ h
  | .vecSum .. => execVecSum_keeps _ h
  | .vecHmax .. => execVecHmax_keeps _ h
  | .vecExp2 .. => execVecExp2_keeps _ h
  | .vecRcp .. => execVecRcp_keeps _ h
  | .vecRsq .. => execVecRsq_keeps _ h
  | .vecStateL .. => execVecStateL_keeps _ h
  | .vecStateM .. => execVecStateM_keeps _ h
  | .vmemLoad .. => execVmemLoad_keeps _ _ h
  | .vmemStore .. => execVmemStore_keeps _ h
  | .attnPipelined .. => execAttnPipelined_keeps _ h
  | .attnSequenced .. => execAttnSequenced_keeps _ h
  | .attnNormalise .. => execAttnNormalise_keeps _ h
  | .xferBenchToRemote .. => execXferBenchToRemote_keeps _ h
  | .xferRemoteToBench .. => execXferRemoteToBench_keeps _ h
  | .wait .. => execWait_keeps _ h
  | .signal .. => execSignal_keeps _ h
  | .commandComplete .. => execCommandComplete_keeps _ _ _ h
  | .signalQueueRelease .. => execSignalQueueRelease_keeps _ h
  | .streamEnd .. => execStreamEnd_keeps _ h
  | .vectorIssue .. => execVectorIssue_keeps _ _ _ h
  | .stationaryLoadCycle .. => execStationaryLoadCycle_keeps _ _ _ _ h
  | .vectorAccumulate .. => execVectorAccumulate_keeps _ _ _ _ h
  | .tileSwap .. => execTileSwap_keeps _ h
  | .wPortChunk .. => execWPortChunk_keeps _ _ _ h
  | .drainRowRead .. => execDrainRowRead_keeps _ _ _ h
  | .oPortTake .. => execOPortTake_keeps _ _ h
  | .feederLineArrive .. => execFeederLineArrive_keeps _ _ _ _ _ h
  | .blockExpand .. => execBlockExpand_keeps _ _ _ _ h
  | .benchCorrectedWriteback .. => execBenchCorrectedWriteback_keeps _ _ h
  | .softmaxRowEnter .. => execSoftmaxRowEnter_keeps _ h
  | .softmaxRowDeliver .. => execSoftmaxRowDeliver_keeps _ _ h
  | .coreSelfTest .. => execCoreSelfTest_keeps _ _ h
  | .syncSignalAdd .. => execSyncSignalAdd_keeps _ _ h
  | .syncSignalSub .. => execSyncSignalSub_keeps _ _ h
  | .syncSignalSet .. => execSyncSignalSet_keeps _ _ h
  | .syncWaitArrive .. => execSyncWaitArrive_keeps _ _ h
  | .syncSlabCopyDone .. => execSyncSlabCopyDone_keeps _ _ h
  | .synPortDataWrite .. => execSynPortDataWrite_keeps _ _ _ h
  | .fillerHoldExpiry .. => execFillerHoldExpiry_keeps _ _ h
  | .fillerStepExpiry .. => execFillerStepExpiry_keeps _ _ h
  | .fillerRiseFrame .. => execFillerRiseFrame_keeps _ _ h
  | .descriptorStart .. => execDescriptorStart_keeps _ h
  | .chainDescriptorRead .. => execChainDescriptorRead_keeps _ _ _ h
  | .courierRequestIssue .. => execCourierRequestIssue_keeps _ _ h
  | .courierResponse .. => execCourierResponse_keeps _ _ _ _ _ h
  | .descriptorComplete .. => execDescriptorComplete_keeps _ _ h
  | .laceChunkSend .. => execLaceChunkSend_keeps _ _ h
  | .laceChunkForward .. => execLaceChunkForward_keeps _ _ _ h
  | .laceChunkReturn .. => execLaceChunkReturn_keeps _ h
  | .regulatorGrant .. => execRegulatorGrant_keeps _ _ h
  | .regulatorWindowEnd .. => execRegulatorWindowEnd_keeps _ h
  | .walkerReadReturn .. => execWalkerReadReturn_keeps _ _ _ h
  | .stepFramesGranted .. => execStepFramesGranted_keeps _ _ h
  | .victimDemotion .. => execVictimDemotion_keeps _ _ _ h
  | .pageDemoted .. => execPageDemoted_keeps _ _ _ _ h
  | .pageReadback .. => execPageReadback_keeps _ _ h
  | .placeLayerCopied .. => execPlaceLayerCopied_keeps _ _ h
  | .swapGroupStaged .. => execSwapGroupStaged_keeps _ _ h
  | .swapGateTaken .. => execSwapGateTaken_keeps _ _ h
  | .swapGroupCopied .. => execSwapGroupCopied_keeps _ _ h
  | .routeRecordRelease .. => execRouteRecordRelease_keeps _ _ h
  | .promotionStart => execPromotionStart_keeps h
  | .promotionDone .. => execPromotionDone_keeps _ _ h
  | .zeroRequestIssue => execZeroRequestIssue_keeps h
  | .zeroPageComplete => execZeroPageComplete_keeps h
  | .bagStart .. => execBagStart_keeps _ _ h
  | .bagRowArrive .. => execBagRowArrive_keeps _ _ _ h
  | .bagOutputAck .. => execBagOutputAck_keeps _ _ h
  | .cacheLookup .. => execCacheLookup_keeps _ _ _ h
  | .sectorReadReturn .. => execSectorReadReturn_keeps _ _ _ h
  | .srtCacheInvAll => execSrtCacheInvAll_keeps h
  | .srtCacheInv .. => execSrtCacheInv_keeps _ h
  | .cacheInvalidateDone => execCacheInvalidateDone_keeps h
  | .olaTrainStepDone .. => execOlaTrainStepDone_keeps _ _ h
  | .olaTrainTimeout .. => execOlaTrainTimeout_keeps _ h
  | .laneErrorLimit .. => execLaneErrorLimit_keeps _ _ h
  | .laneLockLoss .. => execLaneLockLoss_keeps _ _ h
  | .repairDone .. => execRepairDone_keeps _ h
  | .autoRetrain .. => execAutoRetrain_keeps _ h
  | .frameTransmit .. => execFrameTransmit_keeps _ h
  | .controlNak .. => execControlNak_keeps _ _ h
  | .controlCredit .. => execControlCredit_keeps _ _ _ h
  | .controlRepair .. => execControlRepair_keeps _ _ h
  | .frameWrite .. => execFrameWrite_keeps _ _ h
  | .frameReadReq .. => execFrameReadReq_keeps _ _ h
  | .frameResponse .. => execFrameResponse_keeps _ _ h
  | .frameSignal .. => execFrameSignal_keeps _ _ h
  | .timeFrame .. => execTimeFrame_keeps _ _ h
  | .collFrame .. => execCollFrame_keeps _ _ h
  | .counterRekey .. => execCounterRekey_keeps _ h
  | .keyingMessage1 .. => execKeyingMessage1_keeps _ _ h
  | .keyingMessage2 .. => execKeyingMessage2_keeps _ _ h
  | .keyingMessage4 .. => execKeyingMessage4_keeps _ _ h
  | .preemptionPoint .. => execPreemptionPoint_keeps _ h
  | .sliceExpiry .. => execSliceExpiry_keeps _ h
  | .waitYieldExpiry .. => execWaitYieldExpiry_keeps _ h
  | .contextSwitch .. => execContextSwitch_keeps _ h
  | .contextSwitchDone .. => execContextSwitchDone_keeps _ h
  | .ctxCmdReset .. => execCtxCmdReset_keeps _ h
  | .contextResetDone => execContextResetDone_keeps h
  | .contextDrainDone .. => execContextDrainDone_keeps _ h
  | .rstFwLoadGo .. => execRstFwLoadGo_keeps _ _ h
  | .fwVerifyDone => execFwVerifyDone_keeps h
  | .fwWatchdogExpiry .. => execFwWatchdogExpiry_keeps _ h
  | .fwComparisonFail .. => execFwComparisonFail_keeps _ h
  | .fwException .. => execFwException_keeps _ h
  | .fwLocalMemoryUe .. => execFwLocalMemoryUe_keeps _ h
  | .fwRestartPhaseDone .. => execFwRestartPhaseDone_keeps _ h
  | .fwReady .. => execFwReady_keeps _ _ h
  | .ucieModuleTrain .. => execUcieModuleTrain_keeps _ _ h
  | .ucieRetrain .. => execUcieRetrain_keeps _ h
  | .ucieRetrainTimeout .. => execUcieRetrainTimeout_keeps _ h
  | .hostHotReset => execHostHotReset_keeps h
  | .h2dSnoop .. => execH2dSnoop_keeps _ h
  | .memRd .. => execMemRd_keeps _ _ h
  | .memRdData .. => execMemRdData_keeps _ _ h
  | .memWr .. => execMemWr_keeps _ _ h
  | .memWrPtl .. => execMemWrPtl_keeps _ _ _ h
  | .memSpecRd addr => execMemSpecRd_keeps addr h
  | .hifLeaseClaim .. => execHifLeaseClaim_keeps _ _ _ h
  | .hifLeaseRelease .. => execHifLeaseRelease_keeps _ _ h
  | .leaseExpiry .. => execLeaseExpiry_keeps _ h
  | .queueRestart .. => execQueueRestart_keeps _ _ _ h
  | .queuePause .. => execQueuePause_keeps _ _ _ h
  | .queueResume .. => execQueueResume_keeps _ _ _ h
  | .queueReset .. => execQueueReset_keeps _ _ _ h
  | .queueWindback .. => execQueueWindback_keeps _ h
  | .hifRingConsWrite .. => execHifRingConsWrite_keeps _ _ _ _ h
  | .txnOpen .. => execTxnOpen_keeps _ _ _ h
  | .txnCommit .. => execTxnCommit_keeps _ _ _ h
  | .txnAbort .. => execTxnAbort_keeps _ _ _ h
  | .txnCheckDone .. => execTxnCheckDone_keeps _ _ h
  | .txnDomainAdopt .. => execTxnDomainAdopt_keeps _ h
  | .txnTimeout .. => execTxnTimeout_keeps _ h
  | .flsReqWrite .. => execFlsReqWrite_keeps _ _ _ h
  | .flsReqTrim .. => execFlsReqTrim_keeps _ _ h
  | .flsReqConfig .. => execFlsReqConfig_keeps _ _ h
  | .flsReqFormat .. => execFlsReqFormat_keeps _ _ h
  | .flProgramDone .. => execFlProgramDone_keeps _ _ _ h
  | .flEraseDone .. => execFlEraseDone_keeps _ _ h
  | .blockRetire .. => execBlockRetire_keeps _ _ _ h
  | .readDisturbRelocate .. => execReadDisturbRelocate_keeps _ _ _ _ h
  | .flsPwUnlock .. => execFlsPwUnlock_keeps _ _ h
  | .flsPwRelock .. => execFlsPwRelock_keeps _ _ h
  | .flsPwSet .. => execFlsPwSet_keeps _ _ h
  | .pwrwarnAssert => execPwrwarnAssert_keeps h
  | .pwrwarnDeassert => execPwrwarnDeassert_keeps h
  | .journalFlushDone .. => execJournalFlushDone_keeps _ h
  | .parcelPresent => execParcelPresent_keeps h
  | .parcelPgood => execParcelPgood_keeps h
  | .parcelTrained => execParcelTrained_keeps h
  | .parcelIdentified .. => execParcelIdentified_keeps _ h
  | .parcelStepTimeout => execParcelStepTimeout_keeps h
  | .parcelButton => execParcelButton_keeps h
  | .pclCmdRequest => execPclCmdRequest_keeps h
  | .pclCmdRelease => execPclCmdRelease_keeps h
  | .parcelReadDrainExpiry => execParcelReadDrainExpiry_keeps h
  | .parcelLatchPulseEnd => execParcelLatchPulseEnd_keeps h
  | .parcelRemoved => execParcelRemoved_keeps h
  | .pclPgoodLoss => execPclPgoodLoss_keeps h
  | .resetNAssert => execResetNAssert_keeps h
  | .resetNDeassert => execResetNDeassert_keeps h
  | .startStepDone .. => execStartStepDone_keeps _ h
  | .startStepTimeout .. => execStartStepTimeout_keeps _ h
  | .cfgCtlRecover => execCfgCtlRecover_keeps h
  | .i3cEntdaa .. => execI3cEntdaa_keeps _ h
  | .i3cReadStatus => execI3cReadStatus_keeps h
  | .i3cReadTemp => execI3cReadTemp_keeps h
  | .i3cWriteBudget .. => execI3cWriteBudget_keeps _ h
  | .i3cReadCap => execI3cReadCap_keeps h
  | .powerControlPeriod .. => execPowerControlPeriod_keeps _ h
  | .limiterCompare .. => execLimiterCompare_keeps _ _ h
  | .droopTrip .. => execDroopTrip_keeps _ h
  | .droopHoldExpiry .. => execDroopHoldExpiry_keeps _ h
  | .thermalConversion .. => execThermalConversion_keeps _ h
  | .ageingMeasure .. => execAgeingMeasure_keeps _ h
  | .coolantOkDeassert => execCoolantOkDeassert_keeps h
  | .coolantOkAssert => execCoolantOkAssert_keeps h
  | .coldStopStageDone => execColdStopStageDone_keeps h
  | .pwrStateResume => execPwrStateResume_keeps h
  | .resumeDone => execResumeDone_keeps h
  | .d3hotEntry => execD3hotEntry_keeps h
  | .d0Return => execD0Return_keeps h
  | .scrubRead .. => execScrubRead_keeps _ _ h
  | .clockMonitorWindow .. => execClockMonitorWindow_keeps _ _ _ h
  | .responseTimeout .. => execResponseTimeout_keeps _ h
  | .sramRowSpareDone .. => execSramRowSpareDone_keeps _ h
  | .hubBankCopyDone .. => execHubBankCopyDone_keeps _ h
  | .entropyHealthFail => execEntropyHealthFail_keeps h
  | .secAttGo => execSecAttGo_keeps h
  | .attestationDone => execAttestationDone_keeps h
  | .pmcBwWindowEnd .. => execPmcBwWindowEnd_keeps _ h
  | .awlEnable => execAwlEnable_keeps h
  | .awlDisable => execAwlDisable_keeps h
  | .awlStartDone => execAwlStartDone_keeps h
  | .awlDrainDone => execAwlDrainDone_keeps h
  | .awlInjGo .. => execAwlInjGo_keeps _ _ h
  | .tapBypass => execTapBypass_keeps h
  | .tapSamplePreload .. => execTapSamplePreload_keeps _ h
  | .tapExtest .. => execTapExtest_keeps _ h
  | .tapOwnerFuse .. => execTapOwnerFuse_keeps _ _ h
  | .malformedRead .. => execMalformedRead_keeps _ _ _ h
  | .entropyHealthPass => execEntropyHealthPass_keeps h
  | .contextStartDone .. => execContextStartDone_keeps _ h
  | .walkerRequestIssue .. => execWalkerRequestIssue_keeps _ _ h
  | .walkerAppendAck .. => execWalkerAppendAck_keeps _ _ h
  | .sorterRequestIssue .. => execSorterRequestIssue_keeps _ _ _ h
  | .throttleRampFrame .. => execThrottleRampFrame_keeps _ h
  | .flsPwCommandEnd => execFlsPwCommandEnd_keeps h
  | .norUpdateDone .. => execNorUpdateDone_keeps _ h

theorem keeps_of_exec {c : Instr} {s t : State} (h : exec c s = .next t) : Keeps s t := by
  have hkeeps := exec_keeps (Keeps.refl s) c
  rwa [h] at hkeeps

/-- A step keeps what `Keeps` says of the state without the command that it takes off the queue. -/
theorem keeps_of_step {s t : State} (h : step s = .next t) : Keeps { s with pending := s.pending.tail } t := by
  cases hq : s.pending with
  | nil =>
    have ht : s.fclkTick = t := Host.Outcome.next.inj ((step_nil hq).symm.trans h)
    have hs : ({ s with pending := [] } : State) = s := by rw [← hq]
    rw [List.tail_nil, hs, ← ht]
    exact State.fclkTick_keeps (Keeps.refl s)
  | cons c rest => exact keeps_of_exec ((step_cons hq).symm.trans h)

theorem State.wf_iff (s : State) : s.wf = true ↔
    memWf s.mem.hbm = true ∧ memWf s.mem.store = true ∧ memWf s.mem.bench = true ∧ memWf s.mem.vreg = true := by
  simp only [State.wf, Bool.and_eq_true, and_assoc]

theorem Keeps.wf {s t : State} (h : Keeps s t) (hs : s.wf = true) : t.wf = true := by
  obtain ⟨hhbm, hstore, hbench, hvreg⟩ := s.wf_iff.1 hs
  exact t.wf_iff.2 ⟨h.hbm hhbm, h.store hstore, h.bench hbench, h.vreg hvreg⟩

end Sys2Proof.Machine

namespace Sys2Proof
open Sys2Proof.Machine

/-- Settles O5: what every command keeps includes the canonical form of each memory. -/
theorem stepsKeepMemoriesCanonical : Obligations.StepsKeepMemoriesCanonical := fun _ _ hs hstep => (keeps_of_step hstep).wf hs

/-- Settles O6: what every command keeps includes a programmed digest. -/
theorem fusedDigestStays : Obligations.FusedDigestStays := fun _ _ d hs hstep => (keeps_of_step hstep).digest d hs

/-- Settles O4: no command touches the queue, so that a step leaves it without its front. -/
theorem commandsLeaveTheQueue : Obligations.CommandsLeaveTheQueue :=
  ⟨fun _ _ _ hexec => (keeps_of_exec hexec).pending, fun _ _ hstep => (keeps_of_step hstep).pending⟩

/-- Settles O7: what every command keeps includes what has been sent and the count of values drawn. -/
theorem sentStaysSent : Obligations.SentStaysSent := fun _ _ hstep => ⟨(keeps_of_step hstep).out, (keeps_of_step hstep).drawn⟩

/-- Settles O1: the step's second arm. -/
theorem stepRunsTheFront : Obligations.StepRunsTheFront := fun _ _ _ => step_cons

/-- Settles O3: each command's meaning ends in a next state on every path. -/
theorem everyCommandAnswersNext : Obligations.EveryCommandAnswersNext := exec_eq_next

/-- Settles O2: the tick is one increment of COUNT, where the clocks run. -/
theorem idleStepCountsFclk : Obligations.IdleStepCountsFclk := by
  intro s hq
  refine ⟨s.fclkTick, step_nil hq, ?_⟩
  by_cases hstop : s.fld .pwrState fPwrStateState = 3
  · have hclk : s.clocked = false := State.clocked_of_stopped hstop
    have htick : s.fclkTick = s := if_neg (by simp [hclk])
    rw [htick, if_pos hstop]
    exact ⟨rfl, rfl, fun _ _ _ _ => rfl⟩
  · have hclk : s.clocked = true := by simp [State.clocked, hstop]
    have htick : s.fclkTick = s.bump .olaFclkNow fOlaFclkNowCount 0 := if_pos hclk
    rw [htick, if_neg hstop]
    exact ⟨rfl, s.fld_setFld .olaFclkNow _ 0 _ (by decide), fun r i w hr => s.reg_setReg_ne _ _ _ _ _ _ _ hr⟩

end Sys2Proof
end

section
/-! While the die is STOPPED (R643): each shared operation leaves the state as it is without its clock, and so does each command that needs
one. -/

namespace Sys2Proof.Machine

section
variable {s : State}

theorem State.clocked_of_not_stopped (h : s.fld .pwrState fPwrStateState ≠ 3) : s.clocked = true := by
  simp [State.clocked, h]

theorem State.run_of_not_clocked (h : s.clocked = false) : s.run = false :=
  Bool.eq_false_iff.2 fun hrun => Bool.false_ne_true (h.symm.trans (State.clocked_of_run hrun))

/-! ## Operations that need RUN -/

section
variable (h : s.run = false)
include h

theorem State.doLetterFetch_halted (q : Nat) (host : HostReply) (rd : ReadRes) : s.doLetterFetch q host rd = s :=
  if_pos (by simp [h])

theorem State.startSeq_halted (q op : Nat) (go) : s.startSeq q op go = s := State.startWith_halted h ..

theorem State.doVec_halted (c op : Nat) : s.doVec c op = s := State.dispatch_halted h ..

theorem State.doStreamBegin_halted (c : Nat) : s.doStreamBegin c = s := by
  unfold State.doStreamBegin
  split
  · rfl
  · split
    · rfl
    · exact if_pos (by simp [h])

theorem State.doVictim_halted (x kslot : Nat) (g : FlashGroup) : s.doVictim x kslot g = s := if_pos (by simp [h])

theorem State.flashOn_halted : s.flashOn = false := by simp [State.flashOn, h]

theorem State.doRetire_halted (ch blk : Nat) (dst : List Nat) : s.doRetire ch blk dst = s :=
  if_pos (by simp [State.flashOn_halted h])

theorem State.doDisturb_halted (ch blk : Nat) (retried : Bool) (dst : List Nat) : s.doDisturb ch blk retried dst = s :=
  if_pos (by simp [State.flashOn_halted h])

theorem State.doEraseDone_halted (ch : Nat) (blank : Bool) : s.doEraseDone ch blank = s := by
  unfold State.doEraseDone
  split
  · rfl
  · exact if_pos (by simp [h])

theorem State.schedOn_halted (cl : Nat) : s.schedOn cl = false := by simp [State.schedOn, h]

end

/-! ## Operations that need a clock -/

section
variable (h : s.clocked = false)
include h

theorem State.shadowWrite_halted (off len value : Nat) : s.shadowWrite off len value = s := by
  unfold State.shadowWrite
  split
  · rfl
  · split
    · simp [h]
    · split
      · rfl
      · split
        · rfl
        · exact if_pos (by simp [h])

theorem State.doDoorbell_halted (v : View) (win q : Nat) (tail : BitVec 32) : s.doDoorbell v win q tail = s :=
  if_neg (by simp [h])

theorem State.doTableWrites_halted (n : Nat) : s.doTableWrites n = s := by
  unfold State.doTableWrites
  split
  · rfl
  · exact if_pos (by simp [h])

theorem State.collStart_halted (q op : Nat) : s.collStart q op = s := by
  have hcasts : s.castsWaiting q = [] := if_neg (by simp [h])
  rw [State.collStart, hcasts]
  exact State.startWith_halted (State.run_of_not_clocked h) ..

theorem State.doRecordWrite_halted (q : Nat) (hostErr : Bool) : s.doRecordWrite q hostErr = s := by
  unfold State.doRecordWrite
  dsimp only
  split
  · rfl
  · exact if_pos (by simp [h])

theorem State.inCore_halted (c a : Nat) (fault : CoreFault) (rd : ReadRes) (go) : s.inCore c a fault rd go = s :=
  if_pos (by simp [h])

theorem State.doSignalRelease_halted (c : Nat) : s.doSignalRelease c = s := by
  unfold State.doSignalRelease
  split
  · rfl
  · split
    · rfl
    · exact if_pos (by simp [h])

theorem State.doStreamEnd_halted (c : Nat) : s.doStreamEnd c = s := by
  unfold State.doStreamEnd
  split
  · rfl
  · dsimp only
    split
    · rfl
    · exact if_pos (by simp [h])

theorem State.doSignal_halted (sop : Sop) (i : Nat) (rd : ReadRes) : s.doSignal sop i rd = s := by
  simp only [State.doSignal, State.opReady_halted h]

theorem State.doDemoted_halted (n : Nat) (ok : Bool) (slot : Nat) (g : FlashGroup) : s.doDemoted n ok slot g = s := by
  unfold State.doDemoted
  dsimp only
  split
  · rfl
  · exact if_pos (by simp [h])

theorem State.trainStep_halted (p : Nat) (peer : PeerInfo) : s.trainStep p peer = s := if_pos (by simp [h])

theorem State.laneFails_halted (p lane : Nat) : s.laneFails p lane = s := if_pos (by simp [h])

theorem State.nakFrame_halted (p n : Nat) : s.nakFrame p n = s := if_pos (by simp [h])

theorem State.repairFrame_halted (p lane : Nat) : s.repairFrame p lane = s := if_pos (by simp [h])

theorem State.key1_halted (p : Nat) (m : KeyMsg) : s.key1 p m = s := if_pos (by simp [State.keyingOn, h])

theorem State.key2_halted (p : Nat) (m : KeyMsg) : s.key2 p m = s := if_pos (by simp [h])

theorem State.key4_halted (p : Nat) (tagOk : Bool) : s.key4 p tagOk = s := if_pos (by simp [h])

theorem State.fwRestart_halted (f cause : Nat) : s.fwRestart f cause = s := if_pos (by simp [h])

theorem State.hostRead_halted (addr : Nat) (rd : ReadRes) : s.hostRead addr rd = s := if_pos (by simp [h])

theorem State.hostWrite_halted (addr : Nat) (be : BitVec 64) (data : List Byte) : s.hostWrite addr be data = s := if_pos (by simp [h])

theorem State.queueCmd_halted (v : View) (win q : Nat) (go) : s.queueCmd v win q go = s := if_neg (by simp [h])

theorem State.doWindback_halted (q : Nat) : s.doWindback q = s := if_neg (by simp [h])

theorem State.flGo_halted (op slot units : Nat) (go) : s.flGo op slot units go = s := if_pos (by simp [h])

theorem State.pwGo_halted (cmd slot len : Nat) : s.pwGo cmd slot len = s := if_pos (by simp [h])

theorem State.awlWrite_halted (f) : s.awlWrite f = s := if_pos (by simp [h])

theorem State.laceMoves_halted (cl : Nat) : s.laceMoves cl = false := by simp [State.laceMoves, h]

/-- R368: pages are zeroed in RUN, and before it from step 10 of the start on. -/
theorem State.zeroing_halted : s.zeroing = false := by
  have hrun := State.run_of_not_clocked h
  have hstop : s.fld .pwrState fPwrStateState = 3 := by simpa [State.clocked] using h
  simp [State.zeroing, hrun, hstop]

end

end

end Sys2Proof.Machine

namespace Sys2Proof
open Sys2Proof.Machine Sys2Proof.Claims

/-- Settles O9: the commands are grouped by what they ask for, a shared operation or their own condition, and each asks for a clock. -/
theorem stoppedDieStandsStill : Obligations.StoppedDieStandsStill := by
  intro s c hstop hworks
  have hclk := State.clocked_of_stopped hstop
  have hrun := State.run_of_not_clocked hclk
  have next_congr {t : State} (h : t = s) : (.next t : Res) = .next s := congrArg _ h
  cases c with
  | registerWrite | rstFwWindowWrite | rstFwLoadGo | fwVerifyDone | ucieModuleTrain | ucieRetrain | ucieRetrainTimeout | hostHotReset |
    h2dSnoop | flProgramDone | pwrwarnAssert | pwrwarnDeassert | journalFlushDone | parcelPgood | parcelTrained | parcelIdentified |
    parcelStepTimeout | parcelReadDrainExpiry | parcelLatchPulseEnd | parcelRemoved | pclPgoodLoss | resetNAssert | resetNDeassert |
    startStepDone | startStepTimeout | cfgCtlRecover | i3cEntdaa | i3cReadStatus | i3cReadTemp | i3cWriteBudget | i3cReadCap |
    thermalConversion | coolantOkDeassert | coolantOkAssert | coldStopStageDone | pwrStateResume | resumeDone | d3hotEntry | d0Return |
    clockMonitorWindow | entropyHealthFail | attestationDone | tapBypass | tapSamplePreload | tapExtest | tapOwnerFuse | malformedRead |
    entropyHealthPass | flsPwCommandEnd | norUpdateDone => nomatch hworks
  | nopLetter | run | signalLetter | waitLetter | move | gather | place | swap | promoteFetch | promotePin | promoteUnpin | time =>
    exact next_congr (State.startWith_halted hrun ..)
  | nop | endCmd | phase | ldt | lds | mac | drain | vmemLoad | vmemStore | attnPipelined | attnSequenced | xferBenchToRemote |
    xferRemoteToBench | wait | signal => exact next_congr (State.dispatch_halted hrun ..)
  | frameWrite | frameReadReq | frameResponse | frameSignal | timeFrame | collFrame => exact next_congr (State.withFrame_halted hclk ..)
  | shadowWrite => exact next_congr (State.shadowWrite_halted hclk ..)
  | hifDoorbell => exact next_congr (State.doDoorbell_halted hclk ..)
  | letterFetch => exact next_congr (State.doLetterFetch_halted hrun ..)
  | seqOpen | seqStep | seqEnd | seqClose => exact next_congr (State.startSeq_halted hrun ..)
  | seqTableWritesDone => exact next_congr (State.doTableWrites_halted hclk ..)
  | collectiveAllGather | collectiveAllReduce | collectiveBroadcast => exact next_congr (State.collStart_halted hclk ..)
  | completionRecordWrite => exact next_congr (State.doRecordWrite_halted hclk ..)
  | streamBegin => exact next_congr (State.doStreamBegin_halted hrun ..)
  | streamFetch | attnNormalise | commandComplete | vectorIssue | stationaryLoadCycle | vectorAccumulate | wPortChunk | drainRowRead |
    oPortTake | feederLineArrive | blockExpand | softmaxRowEnter | softmaxRowDeliver => exact next_congr (State.inCore_halted hclk ..)
  | vecAdd | vecSub | vecMul | vecFma | vecMin | vecMax | vecCmplt | vecCmpeq | vecSel | vecCvt | vecSum | vecHmax | vecExp2 | vecRcp | vecRsq |
    vecStateL | vecStateM => exact next_congr (State.doVec_halted hrun ..)
  | signalQueueRelease => exact next_congr (State.doSignalRelease_halted hclk ..)
  | streamEnd => exact next_congr (State.doStreamEnd_halted hclk ..)
  | syncSignalAdd | syncSignalSub | syncSignalSet => exact next_congr (State.doSignal_halted hclk ..)
  | victimDemotion => exact next_congr (State.doVictim_halted hrun ..)
  | pageDemoted => exact next_congr (State.doDemoted_halted hclk ..)
  | olaTrainStepDone => exact next_congr (State.trainStep_halted hclk ..)
  | laneErrorLimit | laneLockLoss => exact next_congr (State.laneFails_halted hclk ..)
  | controlNak => exact next_congr (State.nakFrame_halted hclk ..)
  | controlRepair => exact next_congr (State.repairFrame_halted hclk ..)
  | keyingMessage1 => exact next_congr (State.key1_halted hclk ..)
  | keyingMessage2 => exact next_congr (State.key2_halted hclk ..)
  | keyingMessage4 => exact next_congr (State.key4_halted hclk ..)
  | fwWatchdogExpiry | fwComparisonFail | fwException | fwLocalMemoryUe => exact next_congr (State.fwRestart_halted hclk ..)
  | memRd | memRdData => exact next_congr (State.hostRead_halted hclk ..)
  | memWr | memWrPtl => exact next_congr (State.hostWrite_halted hclk ..)
  | queueRestart | queuePause | queueResume | queueReset => exact next_congr (State.queueCmd_halted hclk ..)
  | queueWindback => exact next_congr (State.doWindback_halted hclk ..)
  | flsReqWrite | flsReqTrim | flsReqConfig | flsReqFormat => exact next_congr (State.flGo_halted hclk ..)
  | flEraseDone => exact next_congr (State.doEraseDone_halted hrun ..)
  | blockRetire => exact next_congr (State.doRetire_halted hrun ..)
  | readDisturbRelocate => exact next_congr (State.doDisturb_halted hrun ..)
  | flsPwUnlock | flsPwRelock | flsPwSet => exact next_congr (State.pwGo_halted hclk ..)
  | pclCmdRequest => exact exec_pclCmdRequest_of_not_clocked hclk
  | awlEnable | awlDisable => exact next_congr (State.awlWrite_halted hclk ..)
  | parcelButton => exact exec_parcelButton_of_not_clocked hclk
  | memSpecRd => rfl
  | tileSwap | benchCorrectedWriteback | syncSlabCopyDone | synPortDataWrite | fillerHoldExpiry | fillerStepExpiry | fillerRiseFrame |
    descriptorStart | chainDescriptorRead | laceChunkReturn | regulatorWindowEnd | pageReadback | placeLayerCopied | swapGroupStaged |
    swapGateTaken | swapGroupCopied | promotionStart | zeroRequestIssue | bagStart | srtCacheInvAll | srtCacheInv | cacheInvalidateDone |
    olaTrainTimeout | repairDone | autoRetrain | frameTransmit | controlCredit | counterRekey | preemptionPoint | contextDrainDone |
    fwRestartPhaseDone | fwReady | leaseExpiry | hifRingConsWrite | txnOpen | txnTimeout | pclCmdRelease | droopHoldExpiry | scrubRead |
    sramRowSpareDone | hubBankCopyDone | awlStartDone | awlDrainDone | contextStartDone =>
    exact next_congr (if_neg (by simp [hclk, hrun, State.laceMoves_halted, State.schedOn_halted, State.zeroing_halted]))
  | awlInjGo => exact next_congr ((if_pos (by simp [hclk])).trans (State.awlWrite_halted hclk _))
  | coreSelfTest | courierRequestIssue | courierResponse | laceChunkSend | laceChunkForward | regulatorGrant | ctxCmdReset | hifLeaseClaim |
    hifLeaseRelease | txnCommit | txnAbort | txnCheckDone | txnDomainAdopt | parcelPresent | powerControlPeriod | limiterCompare | droopTrip |
    ageingMeasure | secAttGo | pmcBwWindowEnd | walkerRequestIssue | sorterRequestIssue | throttleRampFrame =>
    exact next_congr (if_pos (by simp [hclk, hrun, State.laceMoves_halted hclk]))
  | letterComplete | descriptorComplete | walkerReadReturn | stepFramesGranted | routeRecordRelease | zeroPageComplete | cacheLookup |
    sectorReadReturn | sliceExpiry | waitYieldExpiry | contextSwitch | contextSwitchDone | contextResetDone | responseTimeout |
    walkerAppendAck => refine next_congr ?_; split <;> simp [hclk]
  | promotionDone =>
    refine next_congr ?_
    split
    · split <;> simp [hclk]
    · rfl
  | bagRowArrive | bagOutputAck =>
    refine next_congr ?_
    split
    · rfl
    · split <;> simp [hclk]
  | promoteRoute => refine next_congr ?_; split <;> simp [hrun, State.startWith_halted]
  | syncWaitArrive => refine next_congr ?_; simp [State.opReady_halted, hclk]

end Sys2Proof
end

section
/-! The machine after a full restart; register fields; HBM; counters (R617, R7, R666, R712). -/

namespace Sys2Proof.Machine

/-! ## Registers of an empty table -/

theorem State.reg_of_no_regs {s : State} (h : s.regs = []) (r : RegName) (i w : Nat) : s.reg r i w = regReset r i := by
  rw [State.reg, h]; rfl

theorem State.fld_of_no_regs {s : State} {r : RegName} {f : Fl} {i n : Nat} {w : Word} (h : s.regs = []) (hreset : regReset r i = w)
    (hfield : getFl f w = n) : s.fld r f i = n := by
  rw [State.fld, State.reg_of_no_regs h, hreset, hfield]

/-- Nothing of a state whose registers are all at their reset values is active. -/
theorem State.idle_of_no_regs {s : State} (h : s.regs = []) :
    (∀ x : Fin 1024, s.ctxState x = 0) ∧ (∀ i : Fin 8, s.txnState i = 0) ∧ (∀ k : Fin 16, s.leaseLive k = false) ∧
      ∀ p : Fin 12, s.portState p = 0 :=
  ⟨fun _ => State.fld_of_no_regs (w := 0) h rfl (by decide), fun _ => State.fld_of_no_regs (w := 0) h rfl (by decide),
    fun _ => by rw [State.leaseLive, State.fld_of_no_regs (w := 0) (n := 0) h rfl (by decide)]; rfl,
    fun _ => State.fld_of_no_regs (w := 0xFF00000000) h rfl (by decide)⟩

/-! ## HBM -/

section
variable {s : State} {a : Nat} {bs : List Byte}

theorem State.hbmWrite_of_out (h : s.flt.hbmOut.contains (hbmStack a) = true) : s.hbmWrite a bs = (s, true) := if_pos (.inl h)

theorem State.hbmWrite_of_poisoned (h : s.hbmPoisoned (a / 64) = true) (hpart : ¬ (a % 64 = 0 ∧ bs.length = 64)) :
    s.hbmWrite a bs = (s, true) := if_pos (.inr ⟨h, hpart⟩)

/-- R666: a line in service takes a write where it is not poisoned, and a whole line in any case. -/
theorem State.hbmWrite_of_taken (hin : s.flt.hbmOut.contains (hbmStack a) = false)
    (hfine : s.hbmPoisoned (a / 64) = false ∨ (a % 64 = 0 ∧ bs.length = 64)) :
    s.hbmWrite a bs = (({ s with mem := { s.mem with
      hbm := memWrite s.mem.hbm a bs
      hbmBad := if a % 64 = 0 ∧ bs.length = 64 then setErase (a / 64) s.mem.hbmBad else s.mem.hbmBad } } : State).mend 4
        (fun l => l == a / 64), false) := by
  refine if_neg ?_
  rintro (hout | ⟨hbad, hpart⟩)
  · rw [hin] at hout
    exact Bool.false_ne_true hout
  · obtain hgood | hwhole := hfine
    · rw [hgood] at hbad
      exact Bool.false_ne_true hbad
    · exact hpart hwhole

end

/-! ## Counters -/

/-- R712: 48 bits of the sum below WRAP, which an overflow sets and nothing clears. -/
theorem pmcAdd_toNat (c : BitVec 49) (n : Nat) : (pmcAdd c n).toNat =
    (c.toNat % 2 ^ 48 + n) % 2 ^ 48 + if 2 ^ 48 ≤ c.toNat ∨ 2 ^ 48 ≤ c.toNat % 2 ^ 48 + n then 2 ^ 48 else 0 := by
  rw [pmcAdd, BitVec.toNat_ofNat]
  refine Nat.mod_eq_of_lt ?_
  split <;> omega

theorem State.count_pmc (s : State) (kind inst ev n : Nat) :
    (s.count kind inst ev n).pmc = tabUpd 0 s.pmc (pmcAgent kind inst ev) (fun c => pmcAdd c n) := rfl

end Sys2Proof.Machine

namespace Sys2Proof
open Sys2Proof.Machine Sys2Proof.Claims

theorem machineAtReset : MachineAtReset := by
  obtain ⟨hctx, htxn, hlease, hport⟩ := State.idle_of_no_regs (s := State.reset) rfl
  refine ⟨State.reg_of_no_regs rfl, rfl, rfl, fun _ => ⟨rfl, rfl⟩, hctx, fun _ => rfl, htxn, hlease, hport, by decide, by decide, by decide,
    fun s => ⟨s.afterReset, rfl, State.reg_of_no_regs rfl, rfl, rfl, rfl, rfl, rfl, rfl, rfl, rfl, rfl, rfl, rfl⟩⟩

/-- Settles O8: a restart leaves every table of registers and structures empty. -/
theorem resetLeavesTheMachine : Obligations.ResetLeavesTheMachine := ⟨machineAtReset, rfl⟩

/-- Settles O10, from the laws of fields. -/
theorem fieldsReadBackWhatIsSet : Obligations.FieldsReadBackWhatIsSet :=
  ⟨fun s r f i x hf => s.fld_setFld r f i x hf, fun s r f g i x hf hg hfg => s.fld_setFld_other r f g i x hf hg hfg,
    fun s r r' _ i _ i' w' hne => s.reg_setReg_ne r r' i 0 i' w' _ hne⟩

/-- Settles O11, by what a write meets. -/
theorem hbmReadsBackWhatIsWritten : Obligations.HbmReadsBackWhatIsWritten := by
  refine fun s a bs => ⟨fun hin hfine => ?_, State.hbmWrite_of_poisoned, State.hbmWrite_of_out⟩
  rw [State.hbmWrite_of_taken hin hfine]
  exact ⟨memRead_memWrite s.mem.hbm bs a, fun b hb => memGet_write_out s.mem.hbm a b bs hb, rfl, rfl, rfl, rfl, rfl, rfl⟩

/-- Settles O12, by what one counter adds and what a table keeps. -/
theorem countersWrap : Obligations.CountersWrap := by
  intro s kind inst ev n hn
  have hlt := (tabGet 0 s.pmc (pmcAgent kind inst ev)).isLt
  simp only [State.count_pmc, tabGet_upd_same, pmcAdd_toNat]
  refine ⟨?sum, ?wrap, fun j hj => tabGet_upd_ne _ _ _ _ hj⟩
  case sum => split <;> omega
  case wrap => split <;> omega

end Sys2Proof
end

section
/-! Registers: commands that write some of them and nothing else, and what a write from the host takes (R3, R7, R9, R532, R718, R725). -/

namespace Sys2Proof.Machine

/-! ## States that differ in registers alone -/

section
variable {ks : List Nat} {s t : State}

theorem RegsOnly.refl (ks : List Nat) (s : State) : RegsOnly ks s s := ⟨rfl, fun _ _ _ _ => rfl⟩

theorem RegsOnly.setFld (h : RegsOnly ks s t) {r : RegName} {i : Nat} (hr : regKey r i 0 ∈ ks) (f : Fl) (x : Nat) :
    RegsOnly ks s (t.setFld r f i x) := by
  obtain ⟨hsame, hregs⟩ := h
  refine ⟨?_, fun r' i' w' hr' => ?_⟩
  · rw [hsame]
    rfl
  · have hne : regKey r' i' w' ≠ regKey r i 0 := fun he => hr' (he ▸ hr)
    exact (t.reg_setReg_ne r r' i 0 i' w' _ hne).trans (hregs r' i' w' hr')

theorem RegsOnly.ite {c : Prop} [Decidable c] {t u : State} (ht : RegsOnly ks s t) (hu : RegsOnly ks s u) :
    RegsOnly ks s (if c then t else u) := by
  split
  · exact ht
  · exact hu

theorem RegsOnly.awlRequest (h : RegsOnly ks s t) (hctl : regKey .awlCtl 0 0 ∈ ks) (on : Bool) : RegsOnly ks s (t.awlRequest on) := by
  have hset (f : Fl) (x : Nat) := h.setFld hctl f x
  exact .ite (.ite (hset ..) h) (.ite (.ite (hset ..) (.ite (hset ..) h)) (.ite (hset ..) (.ite (hset ..) h)))

theorem RegsOnly.awlWrite (h : RegsOnly ks s t) (hstatus : regKey .awlStatus 0 0 ∈ ks) {f : State → State} (hf : RegsOnly ks s (f t)) :
    RegsOnly ks s (t.awlWrite f) :=
  .ite h (.ite (hf.setFld hstatus _ _) (h.setFld hstatus _ _))

end

/-! ## Writes from the host -/

/-- R3, R7 and R9, bit by bit. -/
theorem getLsbD_writeBits (l : List Fl) (v : View) (m old x : Word) (b : Nat) : (writeBits l v m old x).getLsbD b =
    if ((fieldMask l (fun f => f.acc == .w1c && f.seen v)).getLsbD b && m.getLsbD b && x.getLsbD b) = true then false
    else if ((fieldMask l (fun f => f.acc == .rw && f.seen v)).getLsbD b && m.getLsbD b) = true then x.getLsbD b
    else old.getLsbD b := by
  by_cases hb : b < 64
  · simp only [writeBits, BitVec.getLsbD_and, BitVec.getLsbD_or, BitVec.getLsbD_not, hb, decide_true, Bool.true_and]
    cases x.getLsbD b <;> cases m.getLsbD b <;> cases old.getLsbD b <;> simp [Bool.and_comm]
  · have hout (y : Word) : y.getLsbD b = false := BitVec.getLsbD_of_ge y b (Nat.le_of_not_lt hb)
    simp [hout]

section
variable {s : State} {v : View} {win i w : Nat} {r : RegName} {m x : Word}

section
variable (hawl : isAwl r = false) (hdata : r ≠ .pmcData) (hbw : r ≠ .pmcBwCfg) (hpw : r ≠ .flsPw) (hload : r ≠ .rstFwLoad)
include hawl hdata hbw hpw hload

/-- A register without behaviour of its own. -/
theorem State.writeReg_of_plain (hown : v = .P ∨ ownRef r = none) :
    s.writeReg v win r i w m x = s.setReg r i w (writeBits (regFields r) v m (s.reg r i w) x) := by
  unfold State.writeReg
  simp only [hawl, Bool.false_eq_true, if_false]
  split
  · next k hk => simp [hk] at hown
  · rfl

/-- R738: a window holds its own selections; that of the counters only with CTR_USER. -/
theorem State.writeReg_of_ownRef {k : Nat} (hk : ownRef r = some k) :
    s.writeReg .U win r i w m x = if r = .pmcRef ∧ s.ctrUser = false then s
      else { s with uregs := tabUpd 0 s.uregs (win * 8 + k) (fun old => writeBits (regFields r) .U m old x) } := by
  unfold State.writeReg
  simp only [hawl, Bool.false_eq_true, if_false]
  rw [hk]

end

/-- R718. -/
theorem State.writeReg_pmcBwCfg : s.writeReg v win .pmcBwCfg i w m x =
    let new := writeBits (regFields .pmcBwCfg) v m (s.reg .pmcBwCfg i w) x
    if 10 ≤ getFl fPmcBwCfgLog2Window new ∧ getFl fPmcBwCfgLog2Window new ≤ 20 then s.setReg .pmcBwCfg i w new else s := rfl

theorem State.writeReg_rstFwLoad : s.writeReg v win .rstFwLoad i w m x =
    if s.released = true then s else s.setReg .rstFwLoad i w (writeBits (regFields .rstFwLoad) v m (s.reg .rstFwLoad i w) x) := rfl

/-- R714: the only write of a counter is the clear of its WRAP. -/
theorem State.writeReg_pmcData_of_some {k : Nat} (hk : s.pmcSel v win = some k) : s.writeReg v win .pmcData i w m x =
    if (x &&& m).toNat.testBit 63 = true then { s with pmc := tabUpd 0 s.pmc k (fun c => BitVec.ofNat 49 (c.toNat % 2 ^ 48)) } else s := by
  change (match s.pmcSel v win with
    | some k => _
    | none => s) = _
  rw [hk]

theorem State.writeReg_pmcData_of_none (hk : s.pmcSel v win = none) : s.writeReg v win .pmcData i w m x = s := by
  change (match s.pmcSel v win with
    | some k => _
    | none => s) = _
  rw [hk]

/-- R725, for a register of the awl but the one that shows its state. -/
theorem State.writeReg_of_awl (hawl : isAwl r = true) (hr : r ≠ .awlStatus) : s.writeReg .P win r i w m x =
    if s.testEnable = false then s.setFld .awlStatus fAwlStatusCode 0 codeTestDenied.toNat
    else if r = .awlCtl ∧ getFl fAwlCtlEn (writeBits (regFields r) .P m (s.reg r) x) ≠ s.fld .awlCtl fAwlCtlEn then s
    else (s.setReg r i w (clampAwl r (writeBits (regFields r) .P m (s.reg r i w) x))).setFld .awlStatus fAwlStatusCode 0 codeOk.toNat := by
  unfold State.writeReg
  simp only [hawl, if_true, hr, ne_eq, not_true_eq_false, or_self, if_false]

/-- A write that reaches a register, and that no other command takes, is the register's. -/
theorem exec_registerWrite_of_located {off len value : Nat} (hin : inAperture v off len = false) (hbad : badAccess v off len = false)
    (hloc : locate v off = some (r, i, w)) (hrun : s.clocked = true ∨ (v = .P ∧ runsStopped r = true)) (hview : v = .U → (regRow r).u = true)
    (hm : coverMask off len = m) (hx : BitVec.ofNat 64 (value % 2 ^ (8 * len) * 2 ^ (8 * (off % 8))) = x) :
    exec (.registerWrite v off len value) s = .next (if ownCommand r m x = true then s else s.writeReg v (winOf off) r i w m x) := by
  have hrun' : (s.clocked || v == .P && runsStopped r) = true := by simpa using hrun
  have hview' : (v == .U && !(regRow r).u) = false := by
    cases v with
    | P => rfl
    | U => simp [hview rfl]
  refine congrArg Host.Outcome.next ?_
  simp only [State.registerWrite, hin, hbad, hloc, hrun', hview', hm, hx, Bool.false_eq_true, if_false, Bool.not_true, Bool.false_or]

end

section
variable {s : State} {v : View} {off len : Nat}

theorem exec_registerWrite_of_bad (value : Nat) (hclk : s.clocked = true) (hin : inAperture v off len = false)
    (hbad : badAccess v off len = true) : exec (.registerWrite v off len value) s = .next (s.postMalformed v off len true) := by
  refine congrArg Host.Outcome.next ?_
  simp only [State.registerWrite, hin, hbad, hclk, Bool.false_eq_true, if_false, if_true]

theorem exec_malformedRead_of_bad (hclk : s.clocked = true) (hbad : badAccess v off len = true) :
    exec (.malformedRead v off len) s = .next ((s.postMalformed v off len false).toHost (.regData (List.replicate len 0xFF))) :=
  congrArg Host.Outcome.next ((if_pos hbad).trans (by rw [if_pos hclk]))

end

end Sys2Proof.Machine

namespace Sys2Proof
open Sys2Proof.Machine

/-- Settles O13: each of the commands sets fields of its registers, on every path. -/
theorem registerCommandsChangeTheirRegisters : Obligations.RegisterCommandsChangeTheirRegisters := by
  intro s hclk
  refine ⟨fun i o d => ⟨_, rfl, ?commit⟩, fun k id p => ⟨_, rfl, ?claim⟩, fun w => ⟨_, rfl, ?budget⟩, ⟨_, rfl, ?entropy⟩, ?awl⟩
  case commit =>
    have hkeep : RegsOnly [regKey .txnCtl i 0, regKey .txnStatus i 0] s (s.keepCtl i o d.toNat) :=
      ((RegsOnly.refl _ s).setFld (by simp) _ _).setFld (by simp) _ _
    exact .ite (.refl _ s) (.ite (hkeep.setFld (by simp) _ _) hkeep)
  case claim => exact .ite (.refl _ s) (((RegsOnly.refl _ s).setFld (by simp) _ _).setFld (by simp) _ _)
  case budget => exact .ite ((RegsOnly.refl _ s).setFld (by simp) _ _) (.refl _ s)
  case entropy => exact (RegsOnly.refl _ s).setFld (by simp) _ _
  case awl =>
    have hself : RegsOnly [regKey .awlCtl 0 0, regKey .awlStatus 0 0] s s := .refl _ s
    have hctl {t : State} (h : RegsOnly [regKey .awlCtl 0 0, regKey .awlStatus 0 0] s t) (f : Fl) (x : Nat) :=
      h.setFld (r := .awlCtl) (i := 0) (by simp) f x
    rintro c (rfl | rfl | rfl | rfl) <;> refine ⟨_, rfl, ?_⟩
    · exact hself.awlWrite (by simp) ((hctl hself _ _).awlRequest (by simp) _)
    · exact hself.awlWrite (by simp) ((hctl hself _ _).awlRequest (by simp) _)
    · exact .ite (.ite (hctl (hctl hself _ _) _ _) (hctl hself _ _)) hself
    · exact .ite (.ite (hctl (hctl hself _ _) _ _) (hctl hself _ _)) hself

/-- Settles O14: a write that reaches a register is the register's, by its kind; a malformed access is logged. -/
theorem registersTakeWrites : Obligations.RegistersTakeWrites := by
  refine ⟨?reaches, getLsbD_writeBits, fun s v off len value hclk hbad =>
    ⟨fun hin => exec_registerWrite_of_bad value hclk hin hbad, exec_malformedRead_of_bad hclk hbad⟩⟩
  intro s v off len value r i w m x hrun hin hbad hloc hview hm hx
  have hexec := exec_registerWrite_of_located (value := value) hin hbad hloc hrun hview hm hx
  refine ⟨fun hown => ?own, fun hown hawl hdata hbw hpw hload => ?ordinary, fun hown => ?special⟩
  case own => rw [hexec, if_pos hown]
  case ordinary =>
    rw [if_neg (Bool.eq_false_iff.1 hown)] at hexec
    refine ⟨fun hv => ?_, fun k hv hk hr => ?_, fun hv hr huser => ?_⟩
    · exact hexec.trans (congrArg _ (State.writeReg_of_plain hawl hdata hbw hpw hload hv))
    · subst hv
      refine hexec.trans (congrArg _ ((State.writeReg_of_ownRef hawl hdata hbw hpw hload hk).trans (if_neg ?_)))
      rintro ⟨hpmc, huser⟩
      rw [huser] at hr
      exact hr.elim (· hpmc) Bool.false_ne_true
    · subst hv hr
      exact hexec.trans (congrArg _ ((State.writeReg_of_ownRef hawl hdata hbw hpw hload rfl).trans (if_pos ⟨rfl, huser⟩)))
  case special =>
    rw [if_neg (Bool.eq_false_iff.1 hown)] at hexec
    refine ⟨fun k hr hk hbit => ?_, fun hr hk => ?_, fun n hr hn => ⟨fun h10 h20 => ?_, fun hout => ?_⟩, fun hr => ?_, fun hr hrel => ?_,
      fun hr hrel => ?_, fun hawl hv hr htest => ?_, fun hawl hv hr hctl htest => ?_⟩
    · subst hr
      exact hexec.trans (congrArg _ ((State.writeReg_pmcData_of_some hk).trans (if_pos hbit)))
    · subst hr
      refine hexec.trans (congrArg _ ?_)
      cases hsel : s.pmcSel v (winOf off) with
      | none => exact State.writeReg_pmcData_of_none hsel
      | some k =>
        have hbit : (x &&& m).toNat.testBit 63 = false := hk.resolve_left (by simp [hsel])
        exact (State.writeReg_pmcData_of_some hsel).trans (if_neg (Bool.eq_false_iff.1 hbit))
    · subst hr hn
      exact hexec.trans (congrArg _ (State.writeReg_pmcBwCfg.trans (if_pos ⟨h10, h20⟩)))
    · subst hr hn
      exact hexec.trans (congrArg _ (State.writeReg_pmcBwCfg.trans (if_neg fun ⟨h10, h20⟩ => hout.elim (Nat.not_lt.2 h10) (Nat.not_lt.2 h20))))
    · subst hr
      exact hexec
    · subst hr
      exact hexec.trans (congrArg _ (State.writeReg_rstFwLoad.trans (if_neg (by simp [hrel]))))
    · subst hr
      exact hexec.trans (congrArg _ (State.writeReg_rstFwLoad.trans (if_pos hrel)))
    · subst hv
      exact hexec.trans (congrArg _ ((State.writeReg_of_awl hawl hr).trans (if_pos htest)))
    · subst hv
      exact hexec.trans (congrArg _ ((State.writeReg_of_awl hawl hr).trans
        ((if_neg (by simp [htest])).trans (if_neg fun h => hctl h.1))))

end Sys2Proof
end

section
/-! Slab copies that end, flags cleared through the port, and letters: NOP, SIGNAL and WAIT, completion, completion records (chapters 04 and
05). -/

namespace Sys2Proof.Machine

/-! ## Slabs and ports -/

section
variable {s : State}

/-- R220: the operations that a copy held are served in their order once its spare serves the slab. -/
theorem State.doSlabCopyDone_of_some {home slab : Nat} {c : SlabCopy}
    (h : s.sync.copies.find? (fun c => c.home == home && c.slab == slab) = some c) :
    s.doSlabCopyDone home slab =
      let u : State := { s with sync := { s.sync with copies := removeFirst (fun x => x.home == home && x.slab == slab) s.sync.copies } }
      let v := if home = 16 then u.bump .synSpareStatus fSynSpareStatusHubUsed 0
        else u.setFld .synSpareStatus fSynSpareStatusClusterUsed 0 (u.fld .synSpareStatus fSynSpareStatusClusterUsed ||| 2 ^ home)
      (v.spareSwitched (if home = 16 then 0x51 else 0x60 + home) slab (v.sparesFree home)).each c.held (fun s op => s.serveOp op .clean) := by
  simp only [State.doSlabCopyDone, h]

theorem exec_syncSlabCopyDone (h : s.clocked = true) (home : Fin 17) (slab : Nat) :
    exec (.syncSlabCopyDone home slab) s = .next (s.doSlabCopyDone home slab) :=
  congrArg Host.Outcome.next (if_pos h)

theorem exec_synPortDataWrite_of_some {v : View} {win : Fin 1024} {k : ObjKey} (hclk : s.clocked = true) (hk : s.portObj v win = some k)
    (value : BitVec 64) :
    exec (.synPortDataWrite v win value) s = .next (s.setObj k { s.obj k with
      satHi := (s.obj k).satHi && getFl fSynPortDataSatHi value == 0
      satLo := (s.obj k).satLo && getFl fSynPortDataSatLo value == 0 }) := by
  refine congrArg Host.Outcome.next ((if_pos hclk).trans ?_)
  simp only [hk]

/-! ## Letters of synchronisation -/

theorem exec_nopLetter {q : Fin 4096} {x : Letter} (h : s.startable q 0 = some x) :
    exec (.nopLetter q) s = .next ((s.begun q x).endLetter ⟨q, x.pm⟩ { code := codeOk }) :=
  congrArg Host.Outcome.next (State.startWith_go h _ rfl _)

section
variable {l : LetterId} {x : Letter} {k : ObjKey}

theorem State.startSignal_of_some (h : s.letterRef l (BitVec.ofNat 20 (x.field 0x10 4)) = some k) :
    s.startSignal l x = s.sendSync
      { who := .letter l
        act := .signal (match x.field 0x14 1 with
          | 0 => .add
          | 1 => .sub
          | _ => .set)
        key := k, ref := BitVec.ofNat 20 (x.field 0x10 4), cl := k.cl, mem := 0, value := BitVec.ofNat 32 (x.field 0x18 4), q := l.q } := by
  simp only [State.startSignal, h] <;> rfl

theorem State.startWait_of_some (h : s.letterRef l (BitVec.ofNat 20 (x.field 0x10 4)) = some k) (hok : s.refOk l (x.field 0x10 4) true = true) :
    s.startWait l x = (s.setWork l .wait).sendSync
      { who := .letter l, act := .wait (if x.field 0x14 1 = 0 then .ge else .eq) ((x.field 0x15 1).testBit 0), key := k
        ref := BitVec.ofNat 20 (x.field 0x10 4), cl := k.cl, mem := 0, value := BitVec.ofNat 32 (x.field 0x18 4), q := l.q } := by
  simp only [State.startWait, h, hok, Bool.not_true, Bool.false_eq_true, if_false]

end

/-! ## Completion -/

theorem Letter.halts_of_ok {x : Letter} (h : x.ended = some { code := codeOk }) : x.halts = false := by
  simp [Letter.halts, h]

/-- R153, for a letter that owes no event. -/
theorem State.completeLetter_of_ok {q : Nat} {x : Letter} (hend : x.ended = some { code := codeOk }) (hevents : x.events = [])
    (hostErr : Bool) :
    s.completeLetter q x hostErr =
      ((s.updLetter ⟨q, x.pm⟩ (fun y => { y with started := true, completed := true, events := [] })).countCtx
        (s.queue q).ctx.toNat 4).advance q := by
  have hctx (f : Letter → Letter) : (s.updLetter ⟨q, x.pm⟩ f).letterCtx ⟨q, x.pm⟩ = (s.queue q).ctx.toNat := by
    simp only [State.letterCtx, State.updLetter, State.queue_updQ]
  simp only [State.completeLetter, Letter.halts_of_ok hend, hevents, hctx, State.each, List.foldl_nil, Bool.false_eq_true, if_false]

theorem exec_letterComplete {q : Fin 4096} {pm : BitVec 32} {x : Letter} (hclk : s.clocked = true) (hx : s.letter ⟨q, pm⟩ = some x)
    (hmay : s.mayComplete q x = true) (hostErr : Bool) : exec (.letterComplete q pm hostErr) s = .next (s.completeLetter q x hostErr) := by
  refine congrArg Host.Outcome.next ?_
  simp only [hx, hclk, hmay, Bool.and_self, if_true]

theorem State.mayComplete_of_started {q : Nat} {x : Letter} {e : LetterEnd} (hend : x.ended = some e) (hcompleted : x.completed = false)
    (hstarted : x.started = true) (hquiet : s.letterQuiet ⟨q, x.pm⟩ = true) : s.mayComplete q x = true := by
  simp [State.mayComplete, hend, hcompleted, hstarted, hquiet]

/-! ## Completion records -/

theorem Queue.nextRecord_of_completed {x : Queue} {y : Letter} {ys : List Letter} {e : LetterEnd} (hrefusal : x.refusal = none)
    (hletters : x.letters = y :: ys) (hcompleted : y.completed = true) (hend : y.ended = some e) :
    x.nextRecord = some (y.pm, e, false) := by
  simp [Queue.nextRecord, hrefusal, hletters, hcompleted, hend]

/-- A write that meets neither poison nor a controller out of service is taken. -/
theorem State.hbmWrite_of_not_lost {a : Nat} (h : s.hbmLost a = false) (bs : List Byte) : (s.hbmWrite a bs).2 = false := by
  obtain ⟨hgood, hin⟩ := Bool.or_eq_false_iff.1 h
  rw [State.hbmWrite_of_taken hin (.inl hgood)]

/-- A context's ring in the die window takes a record at PROD. -/
theorem State.ringWrite_of_translate {i sz a : Nat} (hi : i < 1024) (hloc : s.fld .hifRingCfg fHifRingCfgLoc i ≠ 1)
    (haddr : s.translate i (s.fld .hifRingCfg fHifRingCfgRingBase i +
      s.fld .hifRingCons fHifRingConsProd i % 2 ^ s.fld .hifRingCfg fHifRingCfgLog2Entries i * sz) = some a)
    (hfine : s.hbmLost a = false) (bs : List Byte) (hostErr : Bool) :
    s.ringWrite i sz bs hostErr = ((s.hbmWrite a bs).1.hbmAccess (some i) a true srcHub 1, .ok) := by
  have hdev : i ≠ devRing := by unfold devRing; omega
  simp only [State.ringWrite, hdev, hloc, Nat.mod_eq_of_lt hi, haddr, State.hbmWrite_of_not_lost hfine, if_false, Bool.false_eq_true]

theorem State.doRecordWrite_of_ok {q : Nat} {hostErr : Bool} {pm : BitVec 32} {e : LetterEnd} {u : State} (hclk : s.clocked = true)
    (hnext : (s.queue q).nextRecord = some (pm, e, false))
    (hring : s.fld .hifRingCfg fHifRingCfgLog2Entries (s.queue q).ctx.toNat ≠ 0) (hspace : s.ringHasSpace (s.queue q).ctx.toNat = true)
    (hwrite : s.ringWrite (s.queue q).ctx.toNat 16 (s.recordBytes q pm e) hostErr = (u, .ok)) :
    s.doRecordWrite q hostErr =
      ((u.ringAdvance (s.queue q).ctx.toNat).updLetter ⟨q, pm⟩ (fun y => { y with recorded := true })).advance q := by
  simp [State.doRecordWrite, hnext, hclk, hring, hspace, hwrite]

end

end Sys2Proof.Machine

namespace Sys2Proof
open Sys2Proof.Machine

/-- Settles O22, from the end of a copy and the port's write. -/
theorem slabCopiesEndAndFlagsClear : Obligations.SlabCopiesEndAndFlagsClear :=
  ⟨fun _ home slab _ hclk hcopy => (exec_syncSlabCopyDone hclk home slab).trans (congrArg _ (State.doSlabCopyDone_of_some hcopy)),
    fun _ _ _ value _ hclk hk => exec_synPortDataWrite_of_some hclk hk value⟩

/-- Settles O24: each letter's start, by the object that its reference names. -/
theorem nopSignalAndWaitLetters : Obligations.NopSignalAndWaitLetters :=
  ⟨fun _ _ _ => exec_nopLetter, fun _ _ _ _ hx hk => (exec_signalLetter hx).trans (congrArg _ (State.startSignal_of_some hk)),
    fun _ _ _ _ hx hk hok => (exec_waitLetter hx).trans (congrArg _ (State.startWait_of_some hk hok)),
    fun _ _ _ hx hnone => (exec_signalLetter hx).trans (congrArg _ (State.startSignal_of_letterRef_none hnone))⟩

/-- Settles O25: a completion without events, and a record that its ring takes. -/
theorem lettersCompleteInOrder : Obligations.LettersCompleteInOrder := by
  refine ⟨?completes, ?recorded⟩
  case completes =>
    intro s q pm hostErr x hclk hx hpm hend hcompleted hstarted hevents hquiet
    subst hpm
    exact (exec_letterComplete hclk hx (State.mayComplete_of_started hend hcompleted hstarted hquiet) hostErr).trans
      (congrArg _ (State.completeLetter_of_ok hend hevents hostErr))
  case recorded =>
    intro s q hostErr x rest e a hclk hrefusal hletters hcompleted hend hctx hring hspace hloc haddr hfine
    exact congrArg _ (State.doRecordWrite_of_ok hclk (Queue.nextRecord_of_completed hrefusal hletters hcompleted hend) hring hspace
      (State.ringWrite_of_translate hctx hloc haddr hfine _ hostErr))

end Sys2Proof
end

section
/-! Queue commands (R541, R542, R564, R758). -/

namespace Sys2Proof.Machine

variable {s : State} {v : View} {win : Fin 1024} {q : Fin 4096}

/-- R541: a command reaches the queue that its view shows, once the number written is kept (R738). -/
theorem State.queueCmd_of_seen {win q : Nat} (hclk : s.clocked = true) (hseen : ((s.keepQport v win q).queue q).seen v win = true)
    (go : State → State) : s.queueCmd v win q go = go (s.keepQport v win q) :=
  (if_pos hclk).trans (if_pos hseen)

/-- The P-view shows every queue that is bound, and keeps the number in its register. -/
theorem State.queueCmd_P {q : Nat} (hclk : s.clocked = true) (hbound : (s.queue q).bound = true) (win : Nat) (go : State → State) :
    s.queueCmd .P win q go = go (s.setFld .hifQportRef fHifQportRefQueue 0 q) :=
  State.queueCmd_of_seen (v := .P) hclk (Queue.seen_eq_true_iff.2 ⟨hbound, .inl rfl⟩) go

/-- R151: a queue started again is ACTIVE where its ring is not overrun. -/
theorem State.activate_of_fits {q : Nat} (h : (s.queue q).ahead ≤ 2 ^ (s.queue q).log2.toNat) :
    s.activate q = s.updQ q (fun x => { x with state := .active, heldRestart := false }) := by
  have hfits : ¬ (QState.active = QState.active ∧ 2 ^ (s.queue q).log2.toNat < (s.queue q).ahead) := fun h' => absurd h'.2 (Nat.not_lt.2 h)
  unfold State.activate State.checkOverrun
  rw [State.queue_updQ]
  exact if_neg hfits

theorem State.doRestart_of_windback {q : Nat} (hstate : (s.queue q).state = .halted) (hback : (s.queue q).windback = true) :
    s.doRestart q = s.updQ q (fun x => { x with heldRestart := true }) :=
  (if_neg (not_not.2 hstate)).trans (if_pos hback)

theorem State.doRestart_of_halted {q : Nat} (hstate : (s.queue q).state = .halted) (hback : (s.queue q).windback = false) :
    s.doRestart q = s.activate q :=
  (if_neg (not_not.2 hstate)).trans (if_neg (Bool.eq_false_iff.1 hback))

theorem State.doWindback_of_empty {q : Nat} (hclk : s.clocked = true) (hstate : (s.queue q).state = .halted)
    (hback : (s.queue q).windback = true) (hempty : (s.queue q).letters = []) (hheld : (s.queue q).heldRestart = false) :
    s.doWindback q = s.updQ q (fun x => { x with windback := false, head := x.completed, accepted := x.completed }) :=
  (if_pos (by simp [hclk, hstate, hback, hempty])).trans (if_neg (Bool.eq_false_iff.1 hheld))

end Sys2Proof.Machine

namespace Sys2Proof
open Sys2Proof.Machine Sys2Proof.Claims

/-- R541 and R542, command by command. -/
theorem queueCommandsMoveTheQueue : QueueCommandsMoveTheQueue := by
  refine ⟨fun s win q hclk hbound hstate => ?pause, fun s win q hclk hbound hstate hfits => ?resume,
    fun s win q hclk hbound hstate hback hfits => ?restart, fun s win q hclk hbound hstate hback => ?held,
    fun s q hclk hstate hback hempty hheld => congrArg _ (State.doWindback_of_empty hclk hstate hback hempty hheld)⟩
  case pause => exact congrArg _ ((State.queueCmd_P hclk hbound win _).trans (if_pos hstate))
  case resume => exact congrArg Host.Outcome.next ((State.queueCmd_P hclk hbound win _).trans
      ((if_pos hstate).trans (State.activate_of_fits (s := s.keepQport .P win q) hfits)))
  case restart =>
    exact congrArg _ ((State.queueCmd_P hclk hbound win _).trans
      ((State.doRestart_of_halted (s := s.keepQport .P win q) hstate hback).trans (State.activate_of_fits hfits)))
  case held => exact congrArg _ ((State.queueCmd_P hclk hbound win _).trans
      (State.doRestart_of_windback (s := s.keepQport .P win q) hstate hback))

/-- R758, by whether the queue is DISABLED. -/
theorem queuesReset : QueuesReset := by
  intro s v win q u hclk hkeep hseen
  subst hkeep
  have hcmd := State.queueCmd_of_seen hclk hseen (fun s => if (s.queue q).state = .disabled then s else s.resetQueue q)
  exact ⟨fun hstate => congrArg _ (hcmd.trans (if_neg hstate)), fun hstate => congrArg _ (hcmd.trans (if_pos hstate))⟩

/-- Settles O26, from the commands that start and stop a queue and the one that empties it. -/
theorem queueCommands : Obligations.QueueCommands := ⟨queueCommandsMoveTheQueue, queuesReset⟩

end Sys2Proof
end

section
/-! Core commands: what a dispatched one joins, the descriptors that engines hand over, and completion (R164, R171, R179, R234). -/

namespace Sys2Proof.Machine

variable {s : State}

/-! ## Cores and sequencers -/

@[simp] theorem State.core_updCore (s : State) (c : Nat) (f : Core → Core) : (s.updCore c f).core c = f (s.core c) := tabGet_upd_same ..

@[simp] theorem State.core_updSeqr (s : State) (x cm : Nat) (f : Seqr → Seqr) (c : Nat) : (s.updSeqr x cm f).core c = s.core c := rfl

@[simp] theorem State.core_setVreg (s : State) (c r off : Nat) (bs : List Byte) (c' : Nat) : (s.setVreg c r off bs).core c' = s.core c' := rfl

@[simp] theorem State.core_count (s : State) (kind inst ev n c : Nat) : (s.count kind inst ev n).core c = s.core c := rfl

/-- An effect that leaves the cores leaves them over a whole list. -/
theorem State.core_each {α : Type} {f : State → α → State} {c : Nat} (hf : ∀ s a, (f s a).core c = s.core c) (l : List α) (s : State) :
    (s.each l f).core c = s.core c := by
  induction l generalizing s with
  | nil => rfl
  | cons a l ih => exact (ih (f s a)).trans (hf s a)

@[simp] theorem State.seqr_updSeqr (s : State) (x cm : Nat) (f : Seqr → Seqr) : (s.updSeqr x cm f).seqr x cm = f (s.seqr x cm) :=
  tabGet_upd_same ..

@[simp] theorem State.seqr_updCore (s : State) (c : Nat) (f : Core → Core) (x cm : Nat) : (s.updCore c f).seqr x cm = s.seqr x cm := rfl

@[simp] theorem State.core_popHead (s : State) (p : CorePlace) (c : Nat) : (s.popHead p).core c = s.core c := rfl

theorem State.phase_popHead (s : State) (p : CorePlace) : ((s.popHead p).seqr p.x p.cm).phase = (s.seqr p.x p.cm).phase := by
  rw [State.popHead, State.seqr_updSeqr]
  rfl

/-! ## Commands that join their engine -/

theorem State.cmds_handOver (s : State) (p : CorePlace) (t : Stream) (r : BitVec 128) (e : Engine) :
    ((s.handOver p t r e).core p.c).cmds =
      (s.core p.c).cmds ++ [{ id := (s.core p.c).nextCmd, raw := r, eng := e, letter := t.letter }] := by
  rw [State.handOver, State.core_updCore]
  rfl

theorem State.phase_handOver (s : State) (p : CorePlace) (t : Stream) (r : BitVec 128) (e : Engine) :
    ((s.handOver p t r e).seqr p.x p.cm).phase = (s.seqr p.x p.cm).phase := by
  rw [State.handOver, State.seqr_updCore, State.phase_popHead]

/-- R234: the engine hands over the command that it starts, while the courier has room. -/
theorem State.engineHands_of_some {p : CorePlace} {e : Engine} {x : Cmd} (hx : s.nextHand p e = some x)
    (hroom : s.courierRoom (cmCl p.cm) = true) :
    s.engineHands p e = (s.updCmd p.c x.id (fun y => { y with handed := true })).queueDesc (cmCl p.cm)
      (if e = .transfer then .xfer p.cm x.id else .drain p.cm x.id)
      (if e = .transfer then xferDesc p.cm x.raw else drainDesc p.cm x.raw) p.x x.letter.q (s.seqr p.x p.cm).phase.toNat
      (if e = .transfer then cb x.raw 119 117 else 0) none := by
  simp only [State.engineHands, hx, hroom, Bool.not_true, Bool.false_eq_true, if_false]

theorem State.engineHands_of_none {p : CorePlace} {e : Engine} (hx : s.nextHand p e = none) : s.engineHands p e = s := by
  simp only [State.engineHands, hx]

section
variable {p : CorePlace} {x : Cmd}

/-- R170, for the only command of the core. -/
theorem State.nextHand_drain_of_alone (halone : (s.core p.c).cmds = [x]) (heng : x.eng = .drain) (hdone : x.done = false) :
    s.nextHand p .drain = if (maskArrays (drMask x.raw)).any (fun a => decide (cnt x.issued a < drN x.raw)) = true ∧ x.handed = false ∧
      drDest x.raw = 2 then some x else none := by
  cases hmore : (maskArrays (drMask x.raw)).any (fun a => decide (cnt x.issued a < drN x.raw)) <;>
    simp [State.nextHand, halone, heng, hdone, hmore, Option.filter, List.find?]

theorem State.nextHand_transfer_of_alone (halone : (s.core p.c).cmds = [x]) (heng : x.eng = .transfer) (hdone : x.done = false)
    (hhanded : x.handed = false) : s.nextHand p .transfer = some x := by
  simp [State.nextHand, halone, heng, hdone, hhanded]

end

/-- No vector of a command that joins is issued yet. -/
theorem cnt_zeros (a : Nat) : cnt [0, 0, 0, 0] a = 0 := by
  rcases a with _ | _ | _ | _ | a <;> rfl

/-! ## Completion -/

theorem State.inCore_of_place {c a : Nat} {p : CorePlace} (hclk : s.clocked = true) (hp : s.place c = some p) (rd : ReadRes)
    (go : State → State) : s.inCore c a .none rd go = go s := by
  simp [State.inCore, hclk, hp]

theorem State.afterCmd_of_plain (s : State) (p : CorePlace) {x : Cmd} (hfail : x.fail = none) (htransfer : x.eng ≠ .transfer)
    (hattention : x.eng ≠ .attention) : s.afterCmd p x = s := by
  cases heng : x.eng <;> simp_all [State.afterCmd]

/-- R171: an oldest command of its engine that is done leaves the core; what an engine but these does afterwards is its own. -/
theorem State.doComplete_of_done {c : Nat} {p : CorePlace} {x : Cmd} {xs : List Cmd} (hp : s.place c = some p)
    (hcmds : (s.core c).cmds = x :: xs) (heng : x.eng = .weight ∨ x.eng = .array ∨ x.eng = .drain) (hdone : x.done = true)
    (hfail : x.fail = none) :
    s.doComplete c x.eng = (s.updCore c (fun k => { k with cmds := removeFirst (fun y => y.id == x.id) k.cmds })).coreHands c := by
  obtain heng | heng | heng := heng <;> simp [State.doComplete, hp, heng, hcmds, hdone, State.afterCmd_of_plain, hfail]

theorem State.vecStart_of_out {c id : Nat} {x : Cmd} (hx : (s.core c).working .vector = some x) (hout : x.out.isSome = true) :
    s.vecStart c id = s := by
  simp [State.vecStart, hx, hout]

/-- R82: the results of a VEC are written, and it counts as one completed vector command. -/
theorem State.vecFinish_of_vec {c : Nat} {x : Cmd} {o : VecOut} (hout : x.out = some o) (hop : opc x.raw = 0x0C) :
    s.vecFinish c x =
      ((s.each o.regs.reverse (fun s e => s.setVreg c e.1 0 e.2)).updCmd c x.id (fun y => { y with done := true })).count 0 c 10 := by
  simp [State.vecFinish, hout, hop]

theorem State.doComplete_of_vec {c : Nat} {p : CorePlace} {x : Cmd} {o : VecOut} (hp : s.place c = some p) (hcmds : (s.core c).cmds = [x])
    (heng : x.eng = .vector) (hdone : x.done = false) (hfail : x.fail = none) (hout : x.out = some o) (hop : opc x.raw = 0x0C) :
    s.doComplete c .vector = ((s.vecFinish c x).updCore c (fun k => { k with cmds := removeFirst (fun y => y.id == x.id) k.cmds })).coreHands c := by
  have hwork : (s.core c).working .vector = some x := by simp [Core.working, hcmds, heng, hdone]
  have hcmd : (s.core c).cmd x.id = some x := by simp [Core.cmd, hcmds]
  have hstart : s.vecStart c x.id = s := State.vecStart_of_out hwork (by simp [hout])
  have hregs : (s.each o.regs.reverse (fun s e => s.setVreg c e.1 0 e.2)).core c = s.core c := State.core_each (fun s e => s.core_setVreg ..) _ s
  have hfinish : ((s.vecFinish c x).core c).cmds = [{ x with done := true }] := by
    rw [State.vecFinish_of_vec hout hop, State.core_count, State.updCmd, State.core_updCore, hregs, hcmds]
    simp [updFirst]
  simp [State.doComplete, hp, hwork, hcmd, hstart, hdone, hfinish, heng, State.afterCmd_of_plain, hfail]

end Sys2Proof.Machine

namespace Sys2Proof
open Sys2Proof.Machine Sys2Proof.Claims

/-- R164, R171 and R179. -/
theorem nopEndAndPhase : NopEndAndPhase := by
  intro s c p t r hgo
  have hdispatch (op : Nat) (go) (hop : opc r = op) : s.dispatch c (isOp op) go = go s p t r :=
    s.dispatch_go c p t r _ go hgo (by simp [isOp, hop])
  exact ⟨fun hop => congrArg _ (hdispatch _ _ hop), fun hop => congrArg _ (hdispatch _ _ hop), fun hop => congrArg _ (hdispatch _ _ hop)⟩

/-- R43, R49, R57 and R63: each command joins its engine; R234: the engine then hands over the descriptor of what it starts. -/
theorem commandsReachTheirEngines : CommandsReachTheirEngines := by
  intro s c p t r hgo
  have hdispatch (is : BitVec 128 → Bool) (go) (his : is r = true) : s.dispatch c is go = go s p t r := s.dispatch_go c p t r is go hgo his
  refine ⟨fun hop => ?_, fun hop => ?_, fun hop => ?_, fun hop => ?_, fun hop hdir => ?_, fun hop hdir => ?_, fun hempty => ⟨?_, ?_, ?_⟩⟩
  · exact congrArg _ (hdispatch _ _ (by simp [isOp, hop]))
  · exact congrArg _ (hdispatch _ _ (by simp [isOp, hop]))
  · exact congrArg _ (hdispatch _ _ (by simp [isOp, hop]))
  · exact congrArg _ (hdispatch _ _ (by simp [isOp, hop]))
  · exact congrArg _ (hdispatch _ _ (by simp [isOp, hop, hdir]))
  · exact congrArg _ (hdispatch _ _ (by simp [isOp, hop, hdir]))
  all_goals
    have halone (e : Engine) : ((s.handOver p t r e).core p.c).cmds =
        [{ id := (s.core p.c).nextCmd, raw := r, eng := e, letter := t.letter }] := by
      rw [State.cmds_handOver, hempty, List.nil_append]
  · intro _ hdest
    exact State.engineHands_of_none ((State.nextHand_drain_of_alone (halone .drain) rfl rfl).trans (if_neg fun h => hdest h.2.2))
  · intro _ hdest hmask hn hroom
    have hmore : (maskArrays (drMask r)).any (fun a => decide (cnt [0, 0, 0, 0] a < drN r)) = true := by
      obtain ⟨a, ha⟩ := List.exists_mem_of_ne_nil _ hmask
      exact List.any_eq_true.2 ⟨a, ha, by simpa [cnt_zeros] using Nat.pos_of_ne_zero hn⟩
    refine (State.engineHands_of_some ((State.nextHand_drain_of_alone (halone .drain) rfl rfl).trans
      (if_pos ⟨hmore, rfl, hdest⟩)) hroom).trans ?_
    rw [State.phase_handOver]
    rfl
  · intro hroom
    refine (State.engineHands_of_some (State.nextHand_transfer_of_alone (halone .transfer) rfl rfl rfl) hroom).trans ?_
    rw [State.phase_handOver]
    rfl

/-- R82 and R171. -/
theorem commandsComplete : CommandsComplete := by
  refine ⟨fun s c p x o hclk hp _ hcmds heng hdone hfail hout hop => ?vec, fun s c p x rest hclk hp _ hcmds heng hdone hfail => ?other⟩
  case vec =>
    refine congrArg _ ((State.inCore_of_place hclk hp _ _).trans ((State.doComplete_of_vec hp hcmds heng hdone hfail hout hop).trans ?_))
    rw [State.vecFinish_of_vec hout hop]
  case other =>
    exact congrArg _ ((State.inCore_of_place hclk hp _ _).trans (State.doComplete_of_done hp hcmds heng hdone hfail))

/-- Settles O27, from dispatch to completion. -/
theorem coreCommandsMove : Obligations.CoreCommandsMove := ⟨nopEndAndPhase, commandsReachTheirEngines, commandsComplete⟩

end Sys2Proof
end

section
/-! The vector unit: VEC and VMEM take their sources (R82, R90), and what the operations of Table 4-22 compute. -/

namespace Sys2Proof.Machine

variable {s : State} {c : Nat} {r : BitVec 128}

/-! ## A command that meets an idle core -/

/-- The command that joins the vector engine of an idle core, with what its read finds. -/
def State.loneVec (s : State) (p : CorePlace) (t : Stream) (r : BitVec 128) (rd : ReadRes) : Cmd :=
  { id := (s.core p.c).nextCmd, raw := r, eng := .vector, letter := t.letter, rd := rd }

/-- The state in which it stands there. -/
def State.joinVec (s : State) (p : CorePlace) (t : Stream) (r : BitVec 128) (rd : ReadRes) : State :=
  (s.handOver p t r .vector).updCmd p.c (s.core p.c).nextCmd (fun x => { x with rd := rd })

theorem State.dispatchVec_eq (s : State) (p : CorePlace) (t : Stream) (r : BitVec 128) (rd : ReadRes) :
    s.dispatchVec p t r rd = (s.joinVec p t r rd).vecStart p.c (s.core p.c).nextCmd := rfl

section
variable {p : CorePlace} {t : Stream} {rd : ReadRes}

theorem State.core_joinVec (hidle : (s.core p.c).cmds = []) :
    (s.joinVec p t r rd).core p.c =
      { s.core p.c with cmds := [s.loneVec p t r rd], nextCmd := (s.core p.c).nextCmd + 1 } := by
  rw [State.joinVec, State.updCmd, State.core_updCore, State.handOver, State.core_updCore, State.core_popHead, hidle]
  simp [updFirst, State.loneVec]

theorem State.working_joinVec (hidle : (s.core p.c).cmds = []) :
    ((s.joinVec p t r rd).core p.c).working .vector = some (s.loneVec p t r rd) := by
  rw [State.core_joinVec hidle]
  rfl

/-- The sources of the only command of a core stand, but for state entries that rows in flight update. -/
theorem State.vecReady_joinVec (hidle : (s.core p.c).cmds = []) (hattn : (s.core p.c).attn = none)
    (hrows : opc r ≠ 0x0C ∨ (s.core p.c).smRows = []) : ((s.joinVec p t r rd).core p.c).vecReady (s.loneVec p t r rd) = true := by
  obtain hop | hrows := hrows
  · simp [Core.vecReady, State.core_joinVec hidle, Core.attnVector, hattn, Core.readFree, State.loneVec, hop]
  · simp [Core.vecReady, State.core_joinVec hidle, Core.attnVector, hattn, Core.readFree, hrows]

theorem State.vecStart_joinVec (hidle : (s.core p.c).cmds = [])
    (hready : ((s.joinVec p t r rd).core p.c).vecReady (s.loneVec p t r rd) = true) :
    (s.joinVec p t r rd).vecStart p.c (s.core p.c).nextCmd =
      if opc r = 0x0D then
        if vmStore r = true then
          (s.joinVec p t r rd).updCmd p.c (s.core p.c).nextCmd
            (fun y => { y with out := some ⟨(rangeFrom (vmReg r) (vmCnt r + 1)).map (fun v => (v, s.vreg p.c v))⟩ })
        else
          let u := (s.joinVec p t r rd).benchReads p.c (vmLines r) rd
          if u.2 = true then u.1.benchFails p.c (s.core p.c).nextCmd
          else u.1.updCmd p.c (s.core p.c).nextCmd (fun y => { y with out := some ⟨(List.range (vmCnt r + 1)).map (fun i =>
            (vmReg r + i, memRead s.mem.bench (benchAddr p.c (vmLine r i)) 512))⟩ })
      else ((s.joinVec p t r rd).vecCounts p.c r).updCmd p.c (s.core p.c).nextCmd
        (fun y => { y with out := some ⟨s.vecResults p.c r⟩ }) := by
  have hgo : ¬ ((s.loneVec p t r rd).id ≠ (s.core p.c).nextCmd ∨ (s.loneVec p t r rd).out.isSome = true ∨
      (!((s.joinVec p t r rd).core p.c).vecReady (s.loneVec p t r rd)) = true) := by
    rintro (hid | hout | hnot)
    · exact hid rfl
    · exact Bool.false_ne_true hout
    · simp [hready] at hnot
  unfold State.vecStart
  dsimp only
  rw [State.working_joinVec hidle]
  exact if_neg hgo

end

theorem State.vecCounts_of_ne_cvt (h : vecVop r ≠ 0x09) (s : State) : s.vecCounts c r = s := if_neg fun h' => h h'.2.1

/-- A read that finds every line clean leaves no trace. -/
theorem State.benchReads_of_clean {ls : List Nat} (h : ∀ l ∈ ls, s.benchSees c l .clean = .clean) : s.benchReads c ls .clean = (s, false) := by
  induction ls with
  | nil => rfl
  | cons l ls ih =>
    have hl : s.benchRead c l .clean = (s, false) := by simp only [State.benchRead, h l (.head _)]
    simp only [State.benchReads, hl, ih fun l' hl' => h l' (.tail _ hl'), Bool.or_self]

/-- The rows of Table 4-22 run the operation of their number. -/
theorem exec_vecRows {c : Fin 272} {e : Instr × Nat} (he : e ∈ Claims.vecRows c) (s : State) : exec e.1 s = .next (s.doVec c e.2) := by
  simp only [Claims.vecRows, List.mem_cons, List.not_mem_nil, or_false] at he
  rcases he with rfl | rfl | rfl | rfl | rfl | rfl | rfl | rfl | rfl | rfl | rfl | rfl | rfl | rfl | rfl | rfl | rfl <;> rfl

/-! ## Results -/

/-- A VEC without repeats takes its sources from the register file. -/
theorem State.vecResults_of_single (hrep : vecRep r = 0) : s.vecResults c r = s.vecStep c r [] 0 := by
  rw [State.vecResults, hrep]
  rfl

theorem State.vecResults_of_lanes (hrep : vecRep r = 0) (himm : vecBimm r = false) (hcvt : vecVop r ≠ 0x09)
    (hl : vecVop r ≠ 0x0F) (hm : vecVop r ≠ 0x10) :
    s.vecResults c r = [(vecVd r, lanesBytes (vopLanes (vecVop r) (lanes (s.vreg c (vecVa r))) (lanes (s.vreg c (vecVb r)))
      (lanes (s.vreg c (vecVc r)))))] := by
  simp [State.vecResults_of_single hrep, State.vecStep, hcvt, hl, hm, himm, State.vregIn]

theorem State.vecResults_of_state (hrep : vecRep r = 0) (hop : vecVop r = 0x0F ∨ vecVop r = 0x10) :
    s.vecResults c r = [(vecVd r, lanesBytes ((List.range 128).map (fun k =>
      tabGet 0 (if vecVop r = 0x0F then s.cs.smL else s.cs.smM) (256 * c + ((vecImm r).toNat + k) % 256))))] := by
  have hcvt : vecVop r ≠ 0x09 := by omega
  simp only [State.vecResults_of_single hrep, State.vecStep, if_neg hcvt, if_pos hop, Nat.add_zero]

theorem State.vecResults_of_cvt (hrep : vecRep r = 0) (hop : vecVop r = 0x09) (hs : vecSfmt r ≠ 12) (hd : vecDfmt r = 12) :
    s.vecResults c r = [(vecVd r, cvtToF32 (vecSfmt r) (s.vreg c (vecVa r)) (s.vreg c (vecVs r)))] := by
  simp [State.vecResults_of_single hrep, State.vecStep, hop, hs, hd, cvtSource, State.vregIn]

end Sys2Proof.Machine

namespace Sys2Proof
open Sys2Proof.Machine Sys2Proof.Claims

/-- R82 and R128, for each row of Table 4-22. -/
theorem vecTakesItsSources : VecTakesItsSources := by
  intro s c p t r hgo hop hidle hattn hrows e he hvop
  have hne : opc r ≠ 0x0D := by rw [hop]; decide
  have hstart := (s.dispatchVec_eq p t r .clean).trans
    ((State.vecStart_joinVec hidle (State.vecReady_joinVec hidle hattn (.inr hrows))).trans (if_neg hne))
  refine ⟨(exec_vecRows he s).trans (congrArg _ ?_), fun hcvt => State.vecCounts_of_ne_cvt hcvt⟩
  exact (s.dispatch_go c p t r _ _ hgo (by simp [isVop, isOp, hop, hvop])).trans hstart

/-- R82: a load reads its lines, a store its registers. -/
theorem vmemTakesItsSources : VmemTakesItsSources := by
  intro s c p t r hgo hop hidle hattn
  have hstart := (s.dispatchVec_eq p t r .clean).trans
    ((State.vecStart_joinVec hidle (State.vecReady_joinVec hidle hattn (.inl (by rw [hop]; decide)))).trans (if_pos hop))
  refine ⟨fun hload hclean => congrArg Host.Outcome.next ?load, fun hstore => congrArg Host.Outcome.next ?store⟩
  case load =>
    have hreads : (s.joinVec p t r .clean).benchReads p.c (vmLines r) .clean = (s.joinVec p t r .clean, false) :=
      State.benchReads_of_clean hclean
    rw [s.dispatch_go c p t r _ _ hgo (by simp [isOp, hop, hload]), hstart, if_neg (by simp [hload]), hreads]
    rfl
  case store =>
    rw [s.dispatch_go c p t r _ _ hgo (by simp [isOp, hop, hstore]), hstart, if_pos hstore]
    rfl

/-- Table 4-22, row by row: `vopLanes` lane by lane and across the lanes, the two reads of the softmax state, and CVT. -/
theorem vecResultsByOperation : VecResultsByOperation := by
  intro s c r hrep himm
  have hlanes (op : Nat) (hop : vecVop r = op) (hcvt : op ≠ 0x09) (hl : op ≠ 0x0F) (hm : op ≠ 0x10) :
      s.vecResults c r = [(vecVd r, lanesBytes (vopLanes op (lanes (s.vreg c (vecVa r))) (lanes (s.vreg c (vecVb r)))
        (lanes (s.vreg c (vecVc r)))))] := by
    subst hop
    exact State.vecResults_of_lanes hrep himm hcvt hl hm
  refine ⟨fun hop => ?_, fun hop => ?_, fun hop => ?_, fun hop => ?_, fun hop => ?_, fun hop => ?_, fun hop => ?_, fun hop => ?_, fun hop => ?_,
    fun hop => ?_, fun hop => ?_, fun hop => ?_, fun hop => ?_, fun hop => ?_, fun hop => ?stateL, fun hop => ?stateM,
    fun hop hs hd => State.vecResults_of_cvt hrep hop hs hd⟩
  case stateL => rw [State.vecResults_of_state hrep (.inl hop), if_pos hop]
  case stateM => rw [State.vecResults_of_state hrep (.inr hop), if_neg (by omega)]
  all_goals exact hlanes _ hop (by decide) (by decide) (by decide)

/-- Settles O28, from the sources taken and the results held. -/
theorem vectorCommandsCompute : Obligations.VectorCommandsCompute :=
  ⟨vecTakesItsSources, vecResultsByOperation, vmemTakesItsSources⟩

end Sys2Proof
end

section
/-! RUN letters, the streams that they give their members, and the commands that synchronise them (R160 to R164, R172, R173). -/

namespace Sys2Proof.Machine

variable {s : State}

/-! ## Reads of HBM -/

/-- An access of HBM is counted, and nothing else. -/
theorem State.hbmAccess_shape (s : State) (ctx : Option Nat) (a : Nat) (write : Bool) (src units : Nat) :
    ∃ mv pmc bwc, s.hbmAccess ctx a write src units = { s with mv := mv, pmc := pmc, bwc := bwc } := by
  have hcharge (p : Nat) (c : ReqClass) : ∃ mv pmc bwc, s.charge p c write src units = { s with mv := mv, pmc := pmc, bwc := bwc } := by
    by_cases hp : p < 6
    · exact ⟨_, _, _, if_pos hp⟩
    · exact ⟨_, _, _, if_neg hp⟩
  obtain ⟨mv, pmc, bwc, h⟩ := hcharge (hbmPort a) (if write = true then .write else .read)
  cases ctx with
  | none => exact ⟨mv, pmc, bwc, h⟩
  | some x => exact ⟨mv, _, bwc, by rw [State.hbmAccess, h]; rfl⟩

@[simp] theorem State.winRead_hbmAccess (s : State) (ctx : Option Nat) (a : Nat) (write : Bool) (src units x off n : Nat) :
    (s.hbmAccess ctx a write src units).winRead x off n = s.winRead x off n := by
  obtain ⟨mv, pmc, bwc, h⟩ := s.hbmAccess_shape ctx a write src units
  rw [h]; rfl

@[simp] theorem State.winPoisoned_hbmAccess (s : State) (ctx : Option Nat) (a : Nat) (write : Bool) (src units x off n : Nat) :
    (s.hbmAccess ctx a write src units).winPoisoned x off n = s.winPoisoned x off n := by
  obtain ⟨mv, pmc, bwc, h⟩ := s.hbmAccess_shape ctx a write src units
  rw [h]; rfl

/-! ## RUN -/

theorem exec_run {q : Fin 4096} {x : Letter} (h : s.startable q 1 = some x) (rd : ReadRes) :
    exec (.run q rd) s = .next ((s.begun q x).startRun ⟨q, x.pm⟩ x rd) :=
  congrArg Host.Outcome.next (State.startWith_go h _ rfl _)

/-- The bytes of a RUN's image that hold its header and stream table (R160). -/
def State.runHeader (s : State) (l : LetterId) (x : Letter) : Nat :=
  min (x.field 0x18 8) (0x80 + 16 * leField (s.winRead (s.letterCtx l) (x.field 0x10 8) 128) 0x44 4)

/-- The members of this die that a RUN's image gives a stream, with their paths and stream-table entries. -/
def State.runMembers (s : State) (l : LetterId) (x : Letter) : List (Nat × Nat × StreamEntry) :=
  (s.unitMembers (s.queue l.q).unit).filterMap (fun m =>
    ((s.streamTable (s.letterCtx l) (x.field 0x10 8) (leField (s.winRead (s.letterCtx l) (x.field 0x10 8) 128) 0x44 4)).find?
      (fun e => e.member == m.2)).map (fun e => (m.1, m.2, e)))

/-- R160 and R163: an admitted image, for a state `v` in which the read of its header has been counted. -/
theorem State.startRun_of_admitted {l : LetterId} {x : Letter} {rd : ReadRes} {v : State}
    (hsize : x.field 0x10 8 + x.field 0x18 8 ≤ 2 ^ 38) (hmap : s.mapped (s.letterCtx l) (x.field 0x10 8) (x.field 0x18 8) = true)
    (hclean : s.hbmSees ((s.translate (s.letterCtx l) (x.field 0x10 8)).getD 0) rd = .clean)
    (hfine : s.winPoisoned (s.letterCtx l) (x.field 0x10 8) (s.runHeader l x) = false)
    (hv : s.hbmAccess (some (s.letterCtx l)) ((s.translate (s.letterCtx l) (x.field 0x10 8)).getD 0) false srcHub
      ((s.runHeader l x + 63) / 64) = v)
    (hunit : (v.queue l.q).unit = (s.queue l.q).unit) (hctx : v.letterCtx l = s.letterCtx l)
    (hok : v.checkImage (s.letterCtx l) (x.field 0x10 8) (x.field 0x18 8) (s.queue l.q).unit = none) :
    s.startRun l x rd = State.runEnds (l := l) (
      (v.setWork l (.run (x.field 0x10 8) ((v.runMembers l x).map (fun m => (m.1, StreamEnd.waiting))))).each (v.runMembers l x)
        (fun u m => u.updSeqr (s.letterCtx l) m.1 (fun q => { q with streams := q.streams ++
          [{ letter := l, ctx := s.letterCtx l, offset := x.field 0x10 8 + m.2.2.offset, commands := m.2.2.commands
             path := BitVec.ofNat 32 m.2.1 }] }))) := by
  have hadmit : ¬ (2 ^ 38 < x.field 0x10 8 + x.field 0x18 8 ∨
      (!s.mapped (s.letterCtx l) (x.field 0x10 8) (x.field 0x18 8)) = true) := by
    rw [hmap]; simpa using hsize
  unfold State.runHeader at hfine hv
  unfold State.startRun State.runMembers
  simp only [if_neg hadmit, hclean, hfine, State.hbmNote_of_clean hclean, hv, hok, hunit, hctx, reduceCtorEq, Bool.false_eq_true, or_self,
    if_false]

/-! ## Streams -/

section
variable {c : Nat} {p : CorePlace} {t : Stream}

/-- R161: the argument line is written and the stream begins. -/
theorem State.doStreamBegin_of_some {x : Letter} (hp : s.place c = some p) (ht : (s.seqr p.x p.cm).disp = some t) (hrun : s.run = true)
    (hbegun : t.begun = false) (hfail : t.fail = none) (habort : t.abort = false) (hretire : s.fld .fltCoreCtl fFltCoreCtlRetire c ≠ 1)
    (hx : s.letter t.letter = some x) :
    s.doStreamBegin c = (((s.benchWrite c (16383 * 64) (argLine x)).1.updLetter t.letter (fun y => match y.work with
        | .run b st => { y with work := .run b (st.map (fun e => if e.1 = p.cm then (e.1, StreamEnd.running) else e)) }
        | _ => y)).updSeqr p.x p.cm
      (fun q => { q.updDisp (fun t => { t with begun := true }) with phase := BitVec.ofNat 8 x.phase })).notePhase (cmCl p.cm) x.phase := by
  simp [State.doStreamBegin, hp, ht, hrun, hbegun, hfail, habort, hretire, hx] <;> rfl

/-- The next commands of a stream, as they stand in HBM. -/
def State.nextCommands (s : State) (p : CorePlace) (t : Stream) (n : Nat) : List (BitVec 128) :=
  (List.range n).map (fun i => BitVec.ofNat 128 (leNat (s.winRead p.x (t.offset + 16 * t.fetched + 16 * i) 16)))

/-- R162: the next commands of a stream arrive. -/
theorem State.doStreamFetch_of_clean {n a : Nat} {rd : ReadRes} (hp : s.place c = some p) (ht : (s.seqr p.x p.cm).fetching = some t)
    (hrun : s.run = true) (hn : n ≠ 0) (hleft : t.fetched + n ≤ t.commands)
    (hroom : ((s.seqr p.x p.cm).streams.map (fun t => t.queue.length)).foldl (· + ·) 0 + n ≤ 512)
    (haddr : s.translate p.x (t.offset + 16 * t.fetched) = some a) (hmap : s.mapped p.x (t.offset + 16 * t.fetched) (16 * n) = true)
    (hclean : s.hbmSees a rd = .clean) (hfine : s.winPoisoned p.x (t.offset + 16 * t.fetched) (16 * n) = false) :
    s.doStreamFetch c n rd = (s.hbmAccess (some p.x) a false (srcCore c) ((16 * n + 63) / 64)).updSeqr p.x p.cm (fun q => { q with
      streams := updFirst (fun e => e.letter == t.letter) (fun e => { e with
        fetched := e.fetched + n, queue := e.queue ++ s.nextCommands p t n }) q.streams }) := by
  have hgo : (!s.run || n == 0 || decide (t.commands < t.fetched + n) ||
      decide (512 < ((s.seqr p.x p.cm).streams.map (fun t => t.queue.length)).foldl (· + ·) 0 + n)) = false := by
    simp [hrun, hn, hleft, Nat.not_lt.2 hroom]
  unfold State.doStreamFetch
  simp only [hp, ht]
  rw [if_neg (Bool.eq_false_iff.1 hgo)]
  simp [haddr, hmap, hclean, hfine, State.hbmNote_of_clean hclean, State.nextCommands]

/-- R164: a stream that has dispatched END ends once none of its commands is in the core. -/
theorem State.doStreamEnd_of_ended (hp : s.seat c = some p) (ht : (s.seqr p.x p.cm).cur = some t) (hclk : s.clocked = true)
    (hfail : t.fail = none) (hended : t.ended = true) (hcmds : (s.core c).cmds.any (fun x => x.letter == t.letter) = false) :
    s.doStreamEnd c = (s.updSeqr p.x p.cm (fun q => { q with
      streams := removeFirst (fun e => e.letter == t.letter) q.streams, waitDone := none })).reportStream t.letter p.cm (some codeOk) := by
  have hheld : ((s.seqr p.x p.cm).waiting.isSome && !t.ended) = false := by rw [hended]; exact Bool.and_false _
  unfold State.doStreamEnd
  simp only [hp, ht, hclk, hfail, hended, hcmds, Bool.not_true, Bool.false_eq_true, if_false, if_true]
  unfold State.closeStream
  simp only [hheld, Bool.false_eq_true, if_false]

/-- R173: the oldest signal leaves once the commands that it waits for have left. -/
theorem State.doSignalRelease_of_cons {g : QSig} {gs : List QSig} (hp : s.place c = some p) (hq : (s.seqr p.x p.cm).sigq = g :: gs)
    (hclk : s.clocked = true) (hafter : (s.core c).cmds.any (fun x => g.after.contains x.id) = false) :
    s.doSignalRelease c = (s.updSeqr p.x p.cm (fun q => { q with sigq := gs })).sendSync g.op := by
  unfold State.doSignalRelease
  simp only [hp, hq, hclk, hafter, Bool.not_true, Bool.or_self, Bool.false_eq_true, if_false]

end

/-! ## WAIT and SIGNAL -/

section
variable {p : CorePlace} {t : Stream} {r : BitVec 128} {k : ObjKey}

theorem State.dispatchWait_of_some (h : s.cmdRef p (cb r 117 98) = some k) :
    s.dispatchWait p t r =
      (((s.popHead p).updSeqr p.x p.cm (fun q => { q with waiting := some (cb r 118 118 == 1) })).startFiller p.c).sendSync
        { who := .core p.x p.cm, act := .wait (if cb r 121 120 = 0 then .ge else .eq) (cb r 119 119 == 1), key := k
          ref := BitVec.ofNat 20 (cb r 117 98), cl := cmCl p.cm, mem := cmMem p.cm, value := BitVec.ofNat 32 (cb r 95 64), q := t.letter.q } := by
  simp only [State.dispatchWait, h]

theorem State.dispatchSignal_of_some (h : s.cmdRef p (cb r 113 94) = some k) (hroom : (s.seqr p.x p.cm).sigq.length < 8) :
    s.dispatchSignal p t r = (s.popHead p).updSeqr p.x p.cm (fun q => { q with
      sigq := q.sigq ++ [⟨{ who := .core p.x p.cm
                            act := .signal (match cb r 121 120 with
                              | 0 => .add
                              | 1 => .sub
                              | _ => .set)
                            key := k, ref := BitVec.ofNat 20 (cb r 113 94), cl := cmCl p.cm, mem := cmMem p.cm
                            value := BitVec.ofNat 32 (cb r 63 32), q := t.letter.q },
          ((s.core p.c).cmds.filter (fun x => (cb r 119 114).testBit (engineBit x.eng))).map (·.id)⟩] }) := by
  simp only [State.dispatchSignal, h, if_neg (Nat.not_le.2 hroom)] <;> rfl

end

end Sys2Proof.Machine

namespace Sys2Proof
open Sys2Proof.Machine Sys2Proof.Claims

/-- R160 and R163. -/
theorem runAdmitsItsImage : RunAdmitsItsImage := by
  intro s q rd x hx u l ctx unit base bytes hsize hmap hclean hdr hfine v hok
  refine (exec_run hx rd).trans (congrArg _ ?_)
  have hqueue : v.queue q = u.queue q := u.queue_hbmAccess ..
  have hunit : (v.queue l.q).unit = (u.queue l.q).unit := congrArg Queue.unit hqueue
  have hctx : v.letterCtx l = u.letterCtx l := congrArg (fun x : Queue => x.ctx.toNat) hqueue
  refine (State.startRun_of_admitted (v := v) hsize hmap hclean hfine rfl hunit hctx hok).trans ?_
  unfold State.runMembers
  rw [hunit, hctx]

/-- R161 to R164. -/
theorem streamsBeginFetchAndEnd : StreamsBeginFetchAndEnd := by
  refine ⟨fun s c p t x hp ht hrun hbegun hfail habort hretire hx => ?begins,
    fun s c n rd p t a hp ht hrun hn hleft hroom haddr hmap hclean hfine => ?fetches,
    fun s c p t hp ht hclk hfail hended hcmds => congrArg _ (State.doStreamEnd_of_ended hp ht hclk hfail hended hcmds)⟩
  case begins => exact congrArg _ (State.doStreamBegin_of_some hp ht hrun hbegun hfail habort hretire hx)
  case fetches =>
    exact congrArg _ ((State.inCore_of_place (State.clocked_of_run hrun) hp _ _).trans
      (State.doStreamFetch_of_clean hp ht hrun hn hleft hroom haddr hmap hclean hfine))

/-- R172 and R173. -/
theorem waitAndSignalCommands : WaitAndSignalCommands := by
  refine ⟨fun s c p t r k hgo hop hk => ?wait, fun s c p t r k hgo hop hk hroom => ?signal,
    fun s c p g gs hp hq hclk hafter => congrArg _ (State.doSignalRelease_of_cons hp hq hclk hafter)⟩
  case wait => exact congrArg _ ((s.dispatch_go c p t r _ _ hgo (by simp [isOp, hop])).trans (State.dispatchWait_of_some hk))
  case signal => exact congrArg _ ((s.dispatch_go c p t r _ _ hgo (by simp [isOp, hop])).trans (State.dispatchSignal_of_some hk hroom))

/-- Settles O29, from a RUN to the end of its streams. -/
theorem runsAndStreams : Obligations.RunsAndStreams := ⟨runAdmitsItsImage, streamsBeginFetchAndEnd, waitAndSignalCommands⟩

end Sys2Proof
end

section
/-! The arrays: issue slots, tile swaps and the accumulate stage (R38, R47, R48, R57, R74 to R81). -/

namespace Sys2Proof.Machine
open Sys2Proof.Claims

variable {s : State} {c a : Nat}

/-- A core at work takes an effect that meets no fault. -/
theorem State.inCore_of_atWork (h : AtWork s c) (a : Nat) (rd : ReadRes) (go : State → State) : s.inCore c a .none rd go = go s := by
  obtain ⟨hclk, hplace⟩ := h
  obtain ⟨p, hp⟩ := Option.isSome_iff_exists.1 hplace
  exact State.inCore_of_place hclk hp rd go

theorem State.when_true (s : State) (f : State → State) : s.when true f = f s := rfl

theorem State.when_false (s : State) (f : State → State) : s.when false f = s := rfl

/-! ## Issue slots -/

section
variable (hpipe : ((s.core c).arr a).pipe.length < 5) (hagain : ((s.core c).arr a).again = [])
include hpipe hagain

/-- A slot of its own, held back by nothing and reissuing nothing. -/
theorem State.issue_of_free :
    s.issue c a = if s.refusesSlot c a = true then s.bubble c a 5 else
      match s.macIssue c a with
      | .ok (x, vs) =>
        (((s.issueSlot c a (vs.map (s.macVec c x))).count 0 c 0 vs.length).updCore c (fun k => k.updArr a (fun (r : Arr) =>
          vs.foldl (fun r v => r.updFeeder (v.t * macN x.raw + v.v) (fun (f : Feeder) => { f with queue := f.queue.tail })) r))).updCmd c x.id
            (fun y => { y with issued := bumpAt y.issued a vs.length })
      | .error cause => s.freeSlot c a cause := by
  have hheld : (!((s.core c).arr a).again.isEmpty) = false := by rw [hagain]; rfl
  unfold State.issue
  simp only [if_neg (Nat.not_le.2 hpipe), hheld, Bool.false_eq_true, if_false] <;> rfl

end

/-! ## Tile swaps -/

theorem State.doTileSwap_of_idle {t : Tile} {x : Cmd} (hshadow : (s.core c).shadow = some t) (hasks : (s.core c).asksTile = some x)
    (hidle : (s.core c).arrs.all Arr.tileIdle = true) (hfmt : t.fmt = macWfmt x.raw) :
    s.doTileSwap c =
      (s.updCore c (fun k => { k with shadow := none, arrs := k.arrs.map (fun (a : Arr) => { a with active := some t }) })).updCmd c x.id
        (fun y => { y with tile := y.tile + 1 }) := by
  simp only [State.doTileSwap, hshadow, hasks, hidle, hfmt, Bool.not_true, Bool.false_eq_true, if_false, ne_eq, not_true_eq_false]

/-! ## The accumulate stage -/

/-- The check of a slot, with the disturbances that it meets (R74). -/
def State.slotOk (s : State) (c a : Nat) (ups : List Upset) (x : Slot) : Bool :=
  (x.vecs.zipIdx).all (fun e => checkPasses e.1.2 e.2 (s.upsetsOf c a x ups))

/-- The slot at its accumulate stage leaves the pipeline. -/
def State.dropSlot (s : State) (c a : Nat) (rest : List Slot) : State :=
  s.updCore c (fun k => k.updArr a (fun (r : Arr) => { r with pipe := rest }))

/-- R74 to R81, for the oldest of five slots. -/
theorem State.accumulate_of_five {ups : List Upset} {x : Slot} {rest : List Slot} (hpipe : ((s.core c).arr a).pipe = x :: rest)
    (hrest : rest.length = 4) (hlive : x.squashed = false) :
    s.accumulate c a ups =
      if s.slotOk c a ups x = true then
        ((s.dropSlot c a rest).when x.suspect (fun s => s.bumpSat .fltCoreStatus fFltCoreStatusReplays c)).each x.vecs
          (fun s e => s.commitVec c a e.1 e.2)
      else if x.suspect = true then s.haltCore c a .aligner
      else (s.updCore c (fun k => k.updArr a (fun (r : Arr) => { r with
        pipe := rest.map (fun (y : Slot) => { y with squashed := true })
        again := { x with suspect := true } :: rest ++ r.again }))).count 0 c 6 4 := by
  have hfive : ¬ (x :: rest).length < 5 := by simp [hrest]
  unfold State.accumulate
  simp only [hpipe, if_neg hfive, hlive, Bool.false_eq_true, if_false]
  rfl

end Sys2Proof.Machine

namespace Sys2Proof
open Sys2Proof.Machine Sys2Proof.Claims

/-- R38, R47, R48, R57 and R407. -/
theorem arraysIssueAndSwap : ArraysIssueAndSwap := by
  refine ⟨fun s c a x vs hwork hpipe hagain hfree hmac => ?issued, fun s c a hwork hpipe hagain hrefused => ?refused,
    fun s c t x hwork hshadow hasks hidle hfmt => ?swapped⟩
  case issued =>
    refine congrArg _ ((State.inCore_of_atWork hwork _ _ _).trans ((State.issue_of_free hpipe hagain).trans ?_))
    rw [if_neg (Bool.eq_false_iff.1 hfree), hmac]
  case refused =>
    exact congrArg _ ((State.inCore_of_atWork hwork _ _ _).trans ((State.issue_of_free hpipe hagain).trans (if_pos hrefused)))
  case swapped =>
    obtain ⟨hclk, hplace⟩ := hwork
    exact congrArg _ ((if_pos (by rw [hclk, hplace]; rfl)).trans (State.doTileSwap_of_idle hshadow hasks hidle hfmt))

/-- R74 to R81, by the check and by whether the slot has failed before. -/
theorem accumulateCommitsReplaysOrHalts : AccumulateCommitsReplaysOrHalts := by
  intro s c a ups x rest hwork hpipe hrest hlive ok
  have hrun {t : State} (h : s.accumulate c a ups = t) : exec (.vectorAccumulate c a ups .none) s = .next t :=
    congrArg _ ((State.inCore_of_atWork hwork _ _ _).trans h)
  have hstage := State.accumulate_of_five (ups := ups) hpipe hrest hlive
  refine ⟨fun hok hfirst => hrun ?_, fun hok hagain => hrun ?_, fun hbad hfirst => hrun ?_, fun hbad hagain => hrun ?_⟩
  · exact hstage.trans ((if_pos hok).trans (by rw [hfirst]; rfl))
  · exact hstage.trans ((if_pos hok).trans (by rw [hagain]; rfl))
  · exact hstage.trans ((if_neg (Bool.eq_false_iff.1 hbad)).trans (if_neg (Bool.eq_false_iff.1 hfirst)))
  · exact hstage.trans ((if_neg (Bool.eq_false_iff.1 hbad)).trans (if_pos hagain))

/-- Settles O30, from the issue slot to the accumulate stage. -/
theorem arraysCompute : Obligations.ArraysCompute := ⟨arraysIssueAndSwap, accumulateCommitsReplaysOrHalts⟩

end Sys2Proof
end

section
/-! The arrays: stationary loads, the W port, feeders and expansion, drains and the O port (R36, R44, R49, R61 to R66, R399 to R414). -/

namespace Sys2Proof.Machine
open Sys2Proof.Claims

variable {s : State} {c a : Nat}

/-! ## Bench reads and stationary loads -/

theorem State.benchRead_of_clean {line : Nat} (h : s.benchSees c line .clean = .clean) : s.benchRead c line .clean = (s, false) := by
  simp only [State.benchRead, h]

/-- Two lines that are free to be read and clean give their 128 B. -/
theorem State.load128_of_clean {id line : Nat} (hfree : (s.core c).readFree id line = true) (hfree' : (s.core c).readFree id (line + 1) = true)
    (hclean : s.benchSees c line .clean = .clean) (hclean' : s.benchSees c (line + 1) .clean = .clean) :
    s.load128 c id line .clean = some (.ok (s.benchLine c line ++ s.benchLine c (line + 1), s)) := by
  have hreads : s.benchReads c [line, line + 1] .clean = (s, false) :=
    State.benchReads_of_clean fun l hl => by
      rcases List.mem_pair.1 hl with rfl | rfl
      · exact hclean
      · exact hclean'
  simp [State.load128, hfree, hfree', hreads]

/-- What an array has of the tile of an LDS. -/
def Arr.loadedFor (r : Arr) (id : Nat) : List Byte :=
  match r.statLoad with
  | some (i, b) => if i = id then b else []
  | none => []

/-- R49: a cycle of an LDS whose next two bench lines are read. -/
theorem State.ldsCycle_of_loaded {cause : Nat} {x : Cmd} {b : List Byte}
    (hload : s.load128 c x.id (ldsLine x.raw a + (((s.core c).arr a).loadedFor x.id).length / 64) .clean = some (.ok (b, s))) :
    s.ldsCycle c a cause x .clean =
      let fmt := ldsFmt x.raw
      let all := ((s.core c).arr a).loadedFor x.id ++ b
      if all.length < tileBytes fmt + (if isMx fmt then 128 else 0) then
        (s.bubble c a cause).updCore c (fun k => k.updArr a (fun (r : Arr) => { r with statLoad := some (x.id, all) }))
      else
        (((s.bubble c a cause).updCore c (fun k => k.updArr a (fun (r : Arr) =>
          { r with statLoad := none, stat := some (statTile fmt all) }))).countTile c (statTile fmt all)).updCmd c x.id
            (fun y =>
              let is := bumpAt y.issued a 1
              { y with issued := is, done := (maskArrays (ldsMask x.raw)).all (fun i => cnt is i != 0) }) := by
  unfold State.ldsCycle
  cases hstat : ((s.core c).arr a).statLoad with
  | none =>
    simp only [Arr.loadedFor, hstat] at hload ⊢
    simp only [hload]
  | some e =>
    simp only [Arr.loadedFor, hstat] at hload ⊢
    simp only [hload]

theorem State.statCycle_of_lds {x : Cmd} (hpipe : ((s.core c).arr a).pipe.length < 5) (hagain : ((s.core c).arr a).again = [])
    (hcmd : (s.core c).arrayCmd = some x) (hissue : s.macIssue c a = .error 7) (rd : ReadRes) :
    s.statCycle c a rd = s.ldsCycle c a (if s.refusesSlot c a = true then 5 else 7) x rd := by
  have hown : ¬ (5 ≤ ((s.core c).arr a).pipe.length ∨ (!((s.core c).arr a).again.isEmpty) = true) := by
    rw [hagain]; simpa using hpipe
  unfold State.statCycle
  simp only [if_neg hown, hcmd, hissue]

/-! ## The W port -/

theorem State.wPort_of_clean {x : Cmd} (hloading : (s.core c).loading = some x) (hlace : ldtLace x.raw = false) :
    let n := (s.core c).load.length / 256
    let line := ldtLine x.raw x.tile + 4 * n
    let mx := isMx (ldtFmt x.raw) ∧ n < 8
    let scaleLine := ldtLine x.raw x.tile + tileBytes (ldtFmt x.raw) / 64 + n / 4
    let reads := rangeFrom line 4 ++ (if mx then [scaleLine] else [])
    reads.all (fun i => (s.core c).readFree x.id i) = true → (∀ i ∈ reads, s.benchSees c i .clean = .clean) →
    s.wPort c .clean = s.acceptChunk c x (((rangeFrom line 4).map (s.benchLine c)).flatten)
      (if mx then ((s.benchLine c scaleLine).drop (16 * (n % 4))).take 16 else []) := by
  dsimp only
  intro hfree hclean
  unfold State.wPort
  simp only [hloading, hlace, hfree, Bool.not_true, Bool.false_eq_true, if_false, State.benchReads_of_clean hclean]

/-! ## Feeders and expansion -/

section
variable {f idx : Nat} {x : Cmd}

/-- The lines that a feeder holds for a command. -/
def Feeder.linesFor (g : Feeder) (id : Nat) : List (Nat × List Byte) := if g.cmd = id then g.lines else []

theorem State.feederLine_of_clean {line : Nat} {rest : List Nat} (hneed : (s.core c).needLines a f = some (x, idx, line :: rest))
    (hroom : (((s.core c).arr a).feeder f).queue.length < 4) (hfree : (s.core c).readFree x.id line = true)
    (hclean : s.benchSees c line .clean = .clean) :
    s.feederLine c a f .clean =
      let addr := macAddr x.raw a (idx / macN x.raw) (idx % macN x.raw)
      let lines := (((s.core c).arr a).feeder f).linesFor x.id ++ [(line, s.benchLine c line)]
      if macCmp x.raw = true then
        s.updCore c (fun k => k.updArr a (fun (r : Arr) => { r with
          fetch := r.fetch.take x.id (entryOf (((s.core c).arr a).indexFor x.id) addr).isNone (line, s.benchLine c line) }))
      else if rest.isEmpty = true then
        s.feedVec c a f x idx ((heldLine lines addr).getD [])
          (if isMx (macAfmt x.raw) then ((heldLine lines (addr + 1)).getD []).take 2 else [])
      else
        s.updCore c (fun k => k.updArr a (fun (r : Arr) => r.updFeeder f (fun (g : Feeder) =>
          { g with cmd := x.id, fetched := if g.cmd = x.id then g.fetched else 0, lines := lines }))) := by
  have hread : ¬ (4 ≤ (((s.core c).arr a).feeder f).queue.length ∨ (!(s.core c).readFree x.id line) = true) := by
    simpa [hfree] using hroom
  unfold State.feederLine
  simp only [hneed, if_neg hread, State.benchRead_of_clean hclean, Bool.false_eq_true, if_false]
  rfl

/-- What a block that does not fit is reported with (R414). -/
def State.oversizeDetail (s : State) (c a f addr why size n : Nat) : List Byte :=
  leBytes 4 (c / 17 * 2 ^ 24 + (s.memberOf c).getD 0 * 2 ^ 20 + a * 2 ^ 18 + f * 2 ^ 17) ++ leBytes 4 addr ++ leBytes 4 0 ++
    [BitVec.ofNat 8 why, BitVec.ofNat 8 size, BitVec.ofNat 8 n, 0]

/-- A vector whose block expanded enters its feeder, or enters as zeros and is counted and reported (R412 to R414). -/
def State.enterBlock (s : State) (c a f : Nat) (x : Cmd) (idx : Nat) (e : IdxEntry) (block : Except (Nat × Nat) (List Byte × Nat)) : State :=
  let addr := macAddr x.raw a (idx / macN x.raw) (idx % macN x.raw)
  let u := (s.count 0 c 15).count 0 c 16 (if e.bad then 0 else e.size)
  let scales := if isMx (macAfmt x.raw) then [e.scale0, e.scale1] else []
  match block with
  | .ok (bytes, n) =>
    (u.when (n < e.size) (fun s => s.bumpSat .cmpFeedStatus fCmpFeedStatusUndersize c)).feedVec c a f x idx bytes scales
  | .error (why, n) =>
    let v := u.bumpSat .cmpFeedStatus fCmpFeedStatusOversize c
    (if (s.core c).oversize.contains x.id then v
      else (v.postCtx (v.letterCtx x.letter) (v.letterEvent x.letter codeBlockOversize 0 (v.oversizeDetail c a f addr why e.size n))).updCore c
        (fun k => { k with oversize := k.oversize.filter (fun i => k.cmds.any (fun y => y.id == i)) ++ [x.id] })).feedVec c a f x idx
          (List.replicate 64 0) scales

/-- R408: a vector whose index entry and block lines are held is expanded. -/
theorem State.doExpand_of_held {e : IdxEntry} (hneed : (s.core c).needLines a f = some (x, idx, []))
    (hroom : (((s.core c).arr a).feeder f).queue.length < 4) (hcmp : macCmp x.raw = true)
    (hentry : entryOf (((s.core c).arr a).indexFor x.id) (macAddr x.raw a (idx / macN x.raw) (idx % macN x.raw)) = some e) :
    s.doExpand c a f = s.enterBlock c a f x idx e (expandBlock e
      ((((e.lines.map (fun i => (heldLine (((s.core c).arr a).heldFor x.id) i).getD [])).flatten).drop (e.offset % 64)).take e.size)
      (memRead s.mem.bench (c * 2 ^ 20 + e.offset + e.size) (min 9 (2 ^ 20 - (e.offset + e.size))))) := by
  have hready : ¬ ((!macCmp x.raw) = true ∨ 4 ≤ (((s.core c).arr a).feeder f).queue.length) := by simpa [hcmp] using hroom
  unfold State.doExpand
  simp only [hneed, if_neg hready, hentry]
  rfl

end

section
variable {e : IdxEntry} {b : List Byte} (hgood : e.bad = false)
include hgood

/-- R400 and R413: a BITMAP block, by its size and the elements that its bitmap names. -/
theorem expandBlock_of_bitmap (hkind : (b.headD 0).toNat = 1) (after : List Byte) :
    expandBlock e b after =
      let bm := leField (b ++ after) 1 8
      let n := (List.range 64).countP (fun i => bm.testBit i)
      if e.size < 9 then .error (1, 9 + n)
      else if n = 64 then .error (4, 9 + n)
      else if e.size < 9 + n then .error (1, 9 + n)
      else .ok (spread bm (b.drop 9), 9 + n) := by
  simp only [expandBlock, hgood, hkind, Bool.false_eq_true, if_false]

theorem expandBlock_of_raw (hkind : (b.headD 0).toNat = 2) (after : List Byte) :
    expandBlock e b after = if e.size < 65 then .error (1, 65) else .ok ((b.drop 1).take 64, 65) := by
  simp only [expandBlock, hgood, hkind, Bool.false_eq_true, if_false]

theorem expandBlock_of_unknown (hkind : 3 ≤ (b.headD 0).toNat) (after : List Byte) : expandBlock e b after = .error (2, 0) := by
  obtain ⟨k, hk⟩ := Nat.exists_eq_add_of_le' hkind
  simp only [expandBlock, hgood, hk, Bool.false_eq_true, if_false]

end

/-! ## Drains and the O port -/

theorem State.drainRow_of_ready {x : Cmd} (hmask : (drMask x.raw).testBit a = true) (hrow : cnt x.issued a < drN x.raw)
    (hroom : ((s.core c).arr a).orows.length < 2) (htaken : ((s.core c).arr a).refused = false)
    (hdone : (s.core c).rowDone x a (drBase x.raw + cnt x.issued a) = true) :
    s.drainRow c a x =
      let i := cnt x.issued a
      let row := drBase x.raw + i
      let xs := (List.range 64).map (fun j => if drInt x.raw then intNum (s.accGet c a row j).toInt 0 else f32Num (s.accGet c a row j))
      let out := convRow (drFmt x.raw) (drSat x.raw) (drShift x.raw) xs
      let excess := convExcess (drFmt x.raw) (drSat x.raw) (drShift x.raw) xs
      ((((s.when (excess != 0) (fun s => s.count 0 c 14 excess)).when (drClear x.raw)
        (fun s => s.each (List.range 64) (fun s j => s.accSet c a row j 0))).updCore c (fun k => k.updArr a (fun (q : Arr) =>
          { q with orows := q.orows ++ [{ cmd := x.id, pos := arrayPos (drMask x.raw) a, r := i, bytes := out.1, scales := out.2 }] }))).updCmd
        c x.id (fun y => { y with issued := bumpAt y.issued a 1 })) := by
  unfold State.drainRow
  refine if_neg ?_
  simp only [hmask, htaken, hdone, Bool.not_true, Bool.false_eq_true, false_or, or_false]
  omega

section
variable {p : CorePlace} {x : Cmd} {o : ORow}

theorem State.deliver_of_bench (hdest : drDest x.raw = 0) (hfree : (rangeFrom (drLine x.raw + o.pos * cb x.raw 63 50 + o.r * cb x.raw 71 64)
      (drRowLines x.raw)).all (fun l => (s.core p.c).writeFree x.id l) = true) :
    s.deliver p x o =
      some (s.benchWriteAll p.c ((drLine x.raw + o.pos * cb x.raw 63 50 + o.r * cb x.raw 71 64) * 64) o.bytes 4) := by
  unfold State.deliver
  simp only [hdest]
  exact if_pos hfree

theorem State.deliver_of_registers (hdest : drDest x.raw = 1) :
    s.deliver p x o = some (s.setVreg p.c (cb x.raw 76 72 + (o.pos * drN x.raw + o.r) * rowBytes (drFmt x.raw) / 512)
      ((o.pos * drN x.raw + o.r) * rowBytes (drFmt x.raw) % 512) o.bytes) := by
  unfold State.deliver
  simp only [hdest]

theorem State.deliver_of_courier {d : CDesc} (hdest : drDest x.raw = 2)
    (hd : (s.courier (cmCl p.cm)).descs.find? (fun d => d.origin == .drain p.cm x.id) = some d) (hactive : d.active = true) :
    s.deliver p x o = some (s.updDesc (cmCl p.cm) d.id (fun (e : CDesc) => if e.fail.isSome then e else { e with
      buf := e.buf ++ (List.range (drRowLines x.raw)).map (fun i =>
        ⟨(o.pos * drN x.raw + o.r) * drRowLines x.raw + i, (o.bytes.drop (64 * i)).take 64⟩) })) := by
  unfold State.deliver
  simp only [hdest, hd, hactive, Bool.not_true, Bool.false_eq_true, if_false]

/-- A row that its DRAIN delivers leaves its array and counts as committed. -/
def State.retireRow (s : State) (p : CorePlace) (a : Nat) (x : Cmd) (o : ORow) : State :=
  ((s.deliverScales p x o).updCore p.c (fun k => k.updArr a (fun (q : Arr) => { q with orows := q.orows.tail, refused := false }))).updCmd
    p.c x.id (fun y =>
      let cs := bumpAt y.committed a 1
      { y with committed := cs, done := drDest x.raw != 2 && (maskArrays (drMask x.raw)).all (fun i => decide (drN x.raw ≤ cnt cs i)) })

theorem State.takeRow_of_delivered {u : State} (hcmd : (s.core p.c).cmd o.cmd = some x) (hopen : x.done = false) (hu : s.deliver p x o = some u) :
    s.takeRow p a o = some (u.retireRow p a x o) := by
  unfold State.takeRow
  simp only [hcmd, hopen, Bool.false_eq_true, if_false, hu]
  rfl

/-- Arrays without rows give the O port nothing. -/
theorem State.takeRows_of_empty (used : Nat) {l : List Nat} (h : ∀ a ∈ l, ((s.core p.c).arr a).orows = []) : s.takeRows p used l = s := by
  induction l with
  | nil => rfl
  | cons a l ih =>
    simp only [State.takeRows, h a (.head _)]
    exact ih fun b hb => h b (.tail _ hb)

/-- The O port takes the one row of array 0. -/
theorem State.takeRows_of_single {u : State} (hrow : ((s.core p.c).arr 0).orows = [o]) (htake : s.takeRow p 0 o = some u)
    (hothers : ∀ a ∈ [1, 2, 3], ((u.core p.c).arr a).orows = []) : s.takeRows p 0 [0, 1, 2, 3] = u := by
  unfold State.takeRows
  simp only [hrow, ne_eq, not_true_eq_false, false_and, if_false, htake]
  exact State.takeRows_of_empty _ hothers

end

end Sys2Proof.Machine

namespace Sys2Proof
open Sys2Proof.Machine Sys2Proof.Claims

/-- R49, R51 and R114. -/
theorem stationaryLoadsFillTheBuffer : StationaryLoadsFillTheBuffer := by
  intro s c a x hwork hpipe hagain hcmd hissue cause got line all size hfree hfree' hclean hclean'
  have hcycle : exec (.stationaryLoadCycle c a .clean .none) s = .next (s.ldsCycle c a cause x .clean) :=
    congrArg Host.Outcome.next ((State.inCore_of_atWork hwork _ _ _).trans (State.statCycle_of_lds hpipe hagain hcmd hissue _))
  have hlds := State.ldsCycle_of_loaded (cause := cause) (State.load128_of_clean hfree hfree' hclean hclean')
  exact ⟨fun hpart => hcycle.trans (congrArg _ (hlds.trans (if_pos hpart))),
    fun hwhole => hcycle.trans (congrArg _ (hlds.trans (if_neg (Nat.not_lt.2 hwhole))))⟩

/-- R36 and R44. -/
theorem wPortTakesChunks : WPortTakesChunks := by
  intro s c x hwork hloading hlace n line mx scaleLine reads hfree hclean
  exact congrArg _ ((State.inCore_of_atWork hwork _ _ _).trans (State.wPort_of_clean hloading hlace hfree hclean))

/-- R403 to R414, line by line and block by block. -/
theorem feedersFetchAndExpand : FeedersFetchAndExpand := by
  refine ⟨?fetched, ?expanded⟩
  case fetched =>
    intro s c a f x idx line rest hwork hneed hroom hfree hclean addr g lines run
    have hrun {t : State} (h : s.feederLine c a f .clean = t) : run = .next t := congrArg _ ((State.inCore_of_atWork hwork _ _ _).trans h)
    have hline := State.feederLine_of_clean hneed hroom hfree hclean
    refine ⟨fun hplain hlast => hrun ?_, fun hplain hmore => hrun ?_, fun hcmp => hrun (hline.trans (if_pos hcmp))⟩
    · exact hline.trans ((if_neg (Bool.eq_false_iff.1 hplain)).trans (if_pos (by rw [hlast]; rfl)))
    · exact hline.trans ((if_neg (Bool.eq_false_iff.1 hplain)).trans (if_neg (by simpa using hmore)))
  case expanded =>
    intro s c a f x idx e hwork hneed hroom hcmp addr held hentry all after block u v scales detail
    have hrun {t : State} (h : s.doExpand c a f = t) : exec (.blockExpand c a f .none) s = .next t :=
      congrArg _ ((State.inCore_of_atWork hwork _ _ _).trans h)
    have hexpand := State.doExpand_of_held hneed hroom hcmp hentry
    have hblocked {r} (h : block = r) : s.doExpand c a f = s.enterBlock c a f x idx e r := hexpand.trans (congrArg _ h)
    have hone : (s.core c).oversize.contains x.id = false → ¬ (s.core c).oversize.contains x.id = true := Bool.eq_false_iff.1
    exact ⟨fun bytes n hok => hrun (hblocked hok),
      fun why n hbad hold => hrun ((hblocked hbad).trans (congrArg (fun t : State => t.feedVec c a f x idx _ _) (if_pos hold))),
      fun why n hbad hnew => hrun ((hblocked hbad).trans (congrArg (fun t : State => t.feedVec c a f x idx _ _) (if_neg (hone hnew))))⟩

/-- Table 10-3 and Table 10-4, by the kind in the block's first byte. -/
theorem blocksExpandByKind : BlocksExpandByKind := by
  intro e b after bm n is
  have hbitmap (h1 : is 1) := expandBlock_of_bitmap h1.1 h1.2 after
  have hraw (h2 : is 2) := expandBlock_of_raw h2.1 h2.2 after
  refine ⟨fun hbad => if_pos hbad, fun h0 => ?zeros, fun h1 hn hsize => (hbitmap h1).trans ?whole, fun h1 hsmall => (hbitmap h1).trans ?small,
    fun h1 hn hsize => (hbitmap h1).trans ?full, fun h2 hsize => (hraw h2).trans (if_neg (Nat.not_lt.2 hsize)),
    fun h2 hsize => (hraw h2).trans (if_pos hsize), fun k hk hrest => expandBlock_of_unknown hk.1 (hk.2 ▸ hrest) after⟩
  case zeros =>
    obtain ⟨hgood, hzero⟩ := h0
    simp only [expandBlock, hgood, hzero, Bool.false_eq_true, if_false]
  case whole => exact (if_neg (by omega)).trans ((if_neg (Nat.ne_of_lt hn)).trans (if_neg (Nat.not_lt.2 hsize)))
  case small =>
    by_cases h9 : e.size < 9
    · exact if_pos h9
    · obtain ⟨hn, hsize⟩ := hsmall.resolve_left h9
      exact (if_neg h9).trans ((if_neg (Nat.ne_of_lt hn)).trans (if_pos hsize))
  case full => exact (if_neg (by omega)).trans (if_pos hn)

/-- R61, R63, R66, R769 and R770: a row is read and converted, and the O port takes the row of array 0 by the destination of its DRAIN. -/
theorem drainsConvertAndDeliver : DrainsConvertAndDeliver := by
  refine ⟨?read, ?taken⟩
  case read =>
    intro s c a x hwork hdrain i row hmask hrow hroom hopen hdone
    refine congrArg _ ((State.inCore_of_atWork hwork _ _ _).trans ?_)
    simp only [State.drainNext, hdrain]
    exact congrArg (fun t : State => t.coreHands c) (State.drainRow_of_ready hmask hrow hroom hopen hdone)
  case taken =>
    intro s c p x o hclk hp hrow hcmd hopen n takes
    have htakes {u : State} (hu : s.deliver p x o = some u) : takes u := by
      intro hothers
      refine congrArg _ ((State.inCore_of_place hclk hp _ _).trans ?_)
      simp only [hp]
      exact State.takeRows_of_single hrow (State.takeRow_of_delivered hcmd hopen hu) hothers
    exact ⟨fun hdest hfree => htakes (State.deliver_of_bench hdest hfree), fun hdest => htakes (State.deliver_of_registers hdest),
      fun d hdest hd hactive => htakes (State.deliver_of_courier hdest hd hactive)⟩

/-- Settles O31, from the stationary loads to the O port. -/
theorem arraysLoadAndDrain : Obligations.ArraysLoadAndDrain :=
  ⟨stationaryLoadsFillTheBuffer, wPortTakesChunks, feedersFetchAndExpand, blocksExpandByKind, drainsConvertAndDeliver⟩

end Sys2Proof
end

section
/-! A core's filler timers, write-back and self-test (R95, R99 to R101, R213, R217, R670), and the lace (R242 to R246). -/

namespace Sys2Proof.Machine

variable {s : State}

/-! ## The self-test -/

section
variable {c m : Nat}

/-- A core that has been cured works again, and its cluster's lace with it. -/
def State.coreBack (s : State) (c : Nat) : State :=
  ((s.setFld .fltCoreStatus fFltCoreStatusHalted c 0).updCore c (fun k => { k with halt := none })).thawLace (c / 17)

/-- Table 2-14, for a core that halted with a cause. -/
theorem State.selfTest_of_halt {code : List Code} {status : Nat} (h : (s.core c).halt = some (code, status)) (finding : SelfTest) :
    s.selfTest c m finding = match finding with
      | .noFault => (s.coreBack c).coreEvent c m 0 m code status
      | .steer l =>
        if s.steerFree c l then (((s.steerIn c l).coreBack c).spareSwitched (0x20 + c / 17) (c % 17) 0).coreEvent c m 1 m code status else s
      | .other =>
        match s.spareCore (c / 17) with
        | some d => ((s.takeSpare c d m).thawLace (c / 17)).coreEvent c m 2 m code status
        | none => ((s.clusterOut (c / 17)).setFld .fltCoreStatus fFltCoreStatusMember c 0x1F).coreEvent c m 3 0xFF code status := by
  simp only [State.selfTest, h] <;> rfl

theorem exec_coreSelfTest_of_halted {c : Fin 272} (hclk : s.clocked = true) (hfw : s.fwOn (3 + c / 17) = true) (hm : s.memberOf c = some m)
    (hhalted : s.halted c = true) (finding : SelfTest) : exec (.coreSelfTest c finding) s = .next (s.selfTest c m finding) := by
  refine congrArg Host.Outcome.next ((if_neg (by simp [hclk, hfw])).trans ?_)
  simp only [hm, hhalted, if_true]

end

/-! ## The lace -/

section
variable {cl c : Nat}

/-- A tile has left the entry: its descriptor, where a courier still holds it, is fed on. -/
def State.tileLeaves (s : State) (cl id : Nat) : State :=
  match (List.range 20).find? (fun k => (s.desc k id).isSome) with
  | some k => s.feedEntry k id cl 4
  | none => s

theorem State.tileLeaves_of_some {id k : Nat} (h : (List.range 20).find? (fun k => (s.desc k id).isSome) = some k) :
    s.tileLeaves cl id = s.feedEntry k id cl 4 := by
  simp only [State.tileLeaves, h]

theorem State.tileLeaves_of_none {id : Nat} (h : (List.range 20).find? (fun k => (s.desc k id).isSome) = none) : s.tileLeaves cl id = s := by
  simp only [State.tileLeaves, h]

section
variable {t : LaceTile} {rest : List LaceTile} (htiles : (s.lace cl).tiles = t :: rest) (hc : s.liveMember cl 0 = some c)
include htiles hc

/-- R245: member 0 refuses the entry's next chunk. -/
theorem State.laceSend_of_refused (h : s.takeChunk c t.fmt (chunkOf t.bytes t.scales (s.lace cl).sent).1
    (chunkOf t.bytes t.scales (s.lace cl).sent).2 = none) : s.laceSend cl = s.count 1 cl 4 := by
  simp only [State.laceSend, htiles, hc, h]

/-- R242: member 0 takes the entry's next chunk. -/
theorem State.laceSend_of_taken {u : State} (h : s.takeChunk c t.fmt (chunkOf t.bytes t.scales (s.lace cl).sent).1
    (chunkOf t.bytes t.scales (s.lace cl).sent).2 = some u) :
    s.laceSend cl =
      if ((s.lace cl).sent + 1) * 256 < t.bytes.length then u.updLace cl (fun e => { e with sent := e.sent + 1 })
      else (u.updLace cl (fun e => { e with tiles := rest, sent := 0, inRing := e.inRing ++ [(t.id, t.fmt)] })).tileLeaves cl t.id := by
  simp only [State.laceSend, htiles, hc, h]
  rfl

end

theorem exec_laceChunkSend {cl : Fin 16} (h : s.laceMoves cl = true) : exec (.laceChunkSend cl .none) s = .next (s.laceSend cl) :=
  congrArg Host.Outcome.next (if_neg (by simp [h]))

/-- R244: the register of member `m` meets member m + 1. -/
theorem State.laceForward_of_some {m d fmt : Nat} {b sc : List Byte} (hc : s.liveMember cl m = some c) (hd : s.liveMember cl (m + 1) = some d)
    (hfwd : (s.core c).fwd = some (fmt, b, sc)) :
    s.laceForward cl m = match s.takeChunk d fmt b sc with
      | some u => u.updCore c (fun k => { k with fwd := none })
      | none => s := by
  simp only [State.laceForward, hc, hd, hfwd] <;> rfl

theorem exec_laceChunkForward {cl m : Fin 16} (h : s.laceMoves cl = true) (hm : m.val < 15) :
    exec (.laceChunkForward cl m .none) s = .next (s.laceForward cl m) := by
  have hinner : (m == 15) = false := by
    rw [beq_eq_false_iff_ne, ne_eq, Fin.ext_iff]
    exact Nat.ne_of_lt hm
  exact congrArg Host.Outcome.next (if_neg (by simp [h, hinner]))

/-- A tile has passed the whole ring: its feed ends with its last tile (R246). -/
def State.tileReturns (s : State) (cl id : Nat) : State :=
  match (List.range 20).find? (fun k => (s.desc k id).isSome) with
  | some k => match s.desc k id with
    | some d => if (s.lace cl).desc = some id ∧ (s.lace cl).returnedTiles = d.desc.rows.toNat then s.endDesc k id codeOk [] else s
    | none => s
  | none => s

/-- R246: a chunk that returns to the entry. -/
theorem State.laceReturn_of_some {ch : Nat × List Byte × List Byte} {id fmt : Nat} {rest : List (Nat × Nat)}
    (hc : s.liveMember cl 15 = some c) (hfwd : (s.core c).fwd = some ch) (hring : (s.lace cl).inRing = (id, fmt) :: rest) :
    s.laceReturn cl =
      let t := s.updCore c (fun k => { k with fwd := none })
      if ((s.lace cl).returnedChunks + 1) * 256 < tileBytes fmt then
        t.updLace cl (fun e => { e with returnedChunks := (s.lace cl).returnedChunks + 1 })
      else State.tileReturns ((t.updLace cl (fun e => { e with
        returnedChunks := 0, inRing := rest
        returnedTiles := if e.desc = some id then e.returnedTiles + 1 else e.returnedTiles })).bump .laceStatus fLaceStatusTilesReturned cl)
          cl id := by
  simp only [State.laceReturn, hc, hfwd, hring]
  rfl

theorem exec_laceChunkReturn {cl : Fin 16} (h : s.laceMoves cl = true) : exec (.laceChunkReturn cl) s = .next (s.laceReturn cl) :=
  congrArg Host.Outcome.next (if_pos h)

theorem State.tileReturns_of_none {id : Nat} (h : (List.range 20).find? (fun k => (s.desc k id).isSome) = none) : s.tileReturns cl id = s := by
  simp only [State.tileReturns, h]

theorem State.tileReturns_of_some {id k : Nat} {d : CDesc} (hk : (List.range 20).find? (fun k => (s.desc k id).isSome) = some k)
    (hd : s.desc k id = some d) :
    s.tileReturns cl id =
      if (s.lace cl).desc = some id ∧ (s.lace cl).returnedTiles = d.desc.rows.toNat then s.endDesc k id codeOk [] else s := by
  simp only [State.tileReturns, hk, hd]

end

end Sys2Proof.Machine

namespace Sys2Proof
open Sys2Proof.Machine Sys2Proof.Claims

/-- R95, R213 and R217. -/
theorem fillerTimersAndWriteback : FillerTimersAndWriteback := by
  intro s c a hclk
  dsimp only
  refine ⟨fun hon => congrArg _ (if_pos (by rw [hclk]; exact hon)), fun hon hhold hlt => congrArg _ (if_pos (by simp [hclk, hon, hhold, hlt])),
    fun hfloor => congrArg _ (if_neg (by simp [hfloor])), fun m hm hlow => congrArg _ ((if_pos hclk).trans ?rises),
    fun m hm hfull => congrArg _ ((if_pos hclk).trans ?ends),
    fun line hline => congrArg _ (if_pos (by rw [hclk]; exact hline))⟩
  case rises => simp only [hm, if_neg (Nat.not_le.2 hlow)]
  case ends => simp only [hm, if_pos hfull]

/-- Table 2-14, by the finding. -/
theorem selfTestActsByItsFinding : SelfTestActsByItsFinding := by
  intro s c m code status hclk hfw hm hhalted hhalt back
  have htest (finding : SelfTest) {u : State} (h : s.selfTest c m finding = u) : exec (.coreSelfTest c finding) s = .next u :=
    (exec_coreSelfTest_of_halted hclk hfw hm hhalted finding).trans (congrArg _ h)
  have hact := State.selfTest_of_halt (m := m) hhalt
  refine ⟨htest _ (hact _), fun l hfree => htest _ ((hact _).trans (if_pos hfree)), fun d hspare => htest _ ((hact _).trans ?taken),
    fun hnone => htest _ ((hact _).trans ?out)⟩
  case taken => simp only [hspare]
  case out => simp only [hnone]

/-- Settles O32, from the timers and the self-test. -/
theorem coresFillAndTest : Obligations.CoresFillAndTest := ⟨fillerTimersAndWriteback, selfTestActsByItsFinding⟩

/-- Settles O33: the entry's chunk, a member's and the one that returns. -/
theorem laceMovesChunks : Obligations.LaceMovesChunks := by
  refine ⟨?send, ?forward, ?back⟩
  case send =>
    intro s cl c t rest hmoves htiles hc ch
    have hsend {v : State} (h : s.laceSend cl = v) : exec (.laceChunkSend cl .none) s = .next v :=
      (exec_laceChunkSend hmoves).trans (congrArg _ h)
    refine ⟨fun hrefused => hsend (State.laceSend_of_refused htiles hc hrefused),
      fun u htaken hmore => hsend ((State.laceSend_of_taken htiles hc htaken).trans (if_pos hmore)), fun u htaken hlast => ?_⟩
    have hsent := (State.laceSend_of_taken htiles hc htaken).trans (if_neg (Nat.not_lt.2 hlast))
    exact ⟨fun k hk => hsend (hsent.trans (State.tileLeaves_of_some hk)), fun hnone => hsend (hsent.trans (State.tileLeaves_of_none hnone))⟩
  case forward =>
    intro s cl m c d fmt b sc hmoves hm hc hd hfwd
    have hforward := (exec_laceChunkForward hmoves hm).trans (congrArg _ (State.laceForward_of_some hc hd hfwd))
    refine ⟨fun hrefused => hforward.trans ?_, fun u htaken => hforward.trans ?_⟩
    · simp only [hrefused]
    · simp only [htaken]
  case back =>
    intro s cl c ch id fmt rest hmoves hc hfwd hring t
    have hreturn {v : State} (h : s.laceReturn cl = v) : exec (.laceChunkReturn cl) s = .next v :=
      (exec_laceChunkReturn hmoves).trans (congrArg _ h)
    have hact := State.laceReturn_of_some hc hfwd hring
    refine ⟨fun hmore => hreturn (hact.trans (if_pos hmore)), fun hlast => ?_⟩
    have hround := hact.trans (if_neg (Nat.not_lt.2 hlast))
    dsimp only
    refine ⟨fun hnone => hreturn (hround.trans (State.tileReturns_of_none hnone)), fun k d hk hd => ⟨fun hdesc hrows => ?_, fun hother => ?_⟩⟩
    · exact hreturn ((hround.trans (State.tileReturns_of_some hk hd)).trans (if_pos ⟨hdesc, hrows⟩))
    · exact hreturn ((hround.trans (State.tileReturns_of_some hk hd)).trans (if_neg (not_and_or.2 hother)))

end Sys2Proof
end

section
/-! ATTN: start, the online-softmax stage, normalisation and the page walker (R86 to R88, R271, R274, R282, R289, R294 to R297). -/

namespace Sys2Proof.Machine
open Sys2Proof.Claims

variable {s : State} {c : Nat}

/-! ## Start -/

section
variable {p : CorePlace}

/-- R87, for the oldest ATTN of a core without one. -/
theorem State.attnStart_of_working {x : Cmd} (hfree : (s.core p.c).attn = none) (hx : (s.core p.c).working .attention = some x) :
    s.attnStart p =
      let es := (rangeFrom (atQbase x.raw) (atQn x.raw)).map (fun i => 256 * p.c + i % 256)
      (({ s with cs := { s.cs with
        smM := es.foldl (fun t k => tabSet 0 t k f32NegInf) s.cs.smM
        smL := es.foldl (fun t k => tabSet 0 t k 0) s.cs.smL } } : State).updCore p.c (fun k => { k with
          attn := some (s.newAttn p x), smRows := [] })) := by
  simp only [State.attnStart, hfree, hx]

/-- An ATTN joins its engine with the bench lines of its operands and results, and the LDS formats of its arrays are forgotten. -/
def State.joinAttn (s : State) (p : CorePlace) (t : Stream) (r : BitVec 128) (reads writes : Nat × Nat) : State :=
  ((s.handOver p t r .attention).updCmd p.c (s.core p.c).nextCmd (fun x => { x with reads := reads, writes := writes })).updCore p.c (fun k =>
    { k with ldsFmt := (List.range 4).map (fun a => if atImpl r = 0 ∨ a < 2 then none else k.ldsFmt.getD a none) })

theorem State.core_joinAttn (t : Stream) (r : BitVec 128) (reads writes : Nat × Nat) (hidle : (s.core p.c).cmds = []) :
    ((s.joinAttn p t r reads writes).core p.c).attn = (s.core p.c).attn ∧
      ((s.joinAttn p t r reads writes).core p.c).working .attention =
        some { id := (s.core p.c).nextCmd, raw := r, eng := .attention, letter := t.letter, reads := reads, writes := writes } := by
  rw [State.joinAttn, State.core_updCore, State.updCmd, State.core_updCore, State.handOver, State.core_updCore, State.core_popHead]
  simp [Core.working, hidle, updFirst]

theorem State.dispatchAttn_of_ok {t : Stream} {r : BitVec 128} (hcheck : s.attnCheck p r = none) :
    s.dispatchAttn p t r =
      let lines (f : Nat) : Nat := s.kvDim p.x * (elemBits f / 8) / 64
      (s.joinAttn p t r (atQline r, atQn r * lines (atQfmt r) + 2 * (atQn r / s.kvGroup p.x) * lines (atKvfmt r))
        (atOline r, atQn r * (s.kvDim p.x / 32))).attnStart p := by
  simp only [State.dispatchAttn, hcheck]
  rfl

end

/-! ## The online-softmax stage and normalisation -/

section
variable {a : Attn} (hattn : (s.core c).attn = some a)
include hattn

theorem State.smEnter_of_ready (hblock : a.entered / a.qn < a.blocks) (hscored : a.scored (a.entered / a.qn) (a.entered % a.qn) = true)
    (hplace : a.entered / a.qn < minList 0 ((a.arrays.filter (fun i => !a.scores i)).map (fun i => (a.at_ i).blk)) + 2)
    (hroom : (s.core c).smRows.length < 2) :
    s.smEnter c =
      (s.updCore c (fun k => { k with smRows := k.smRows ++ [⟨a.entered / a.qn, a.entered % a.qn, s.scoreRow c a (a.entered % a.qn)⟩] })).updAttn
        c (fun a => { a with entered := a.entered + 1 }) := by
  simp only [State.smEnter, hattn]
  refine if_neg ?_
  simp only [hscored, Bool.not_true, Bool.false_eq_true, false_or]
  omega

theorem State.smDeliver_of_cons {x : SmRow} {rest : List SmRow} (hrows : (s.core c).smRows = x :: rest) :
    s.smDeliver c =
      let e := 256 * c + (a.qbase + x.r) % 256
      let o := softmaxRow (tabGet 0 s.cs.smM e) (tabGet 0 s.cs.smL e) a.kscale x.scores
        ((List.range a.keys).map (fun k => a.keyValid x.blk k x.r))
      let f := if a.wp = 32 then 10 else 2
      (({ s with cs := { s.cs with smM := tabSet 0 s.cs.smM e o.1, smL := tabSet 0 s.cs.smL e o.2.1 } } : State).updCore c
        (fun k => { k with smRows := rest })).updAttn c (fun a => { a with
          pbuf := a.pbuf ++ [{ blk := x.blk, r := x.r, alpha := o.2.2.1
                               p := (o.2.2.2.map (fun v => leBytes (elemBits f / 8) (convOut f false 0 (f32Num v)))).flatten }]
          delivered := a.delivered + 1 }) := by
  simp only [State.smDeliver, hattn, hrows]

end

theorem State.normalise_of_ready {p : CorePlace} {a : Attn} (hattn : (s.core p.c).attn = some a) (hblocks : a.blocks ≤ a.minBlk)
    (hfree : (rangeFrom (a.oline + a.outRow * (a.D / 32)) (a.D / 32)).all (fun l => (s.core p.c).writeFree a.cmd l) = true) :
    s.normalise p =
      let u := s.benchWriteAll p.c ((a.oline + a.outRow * (a.D / 32)) * 64) (s.outRow p.c a a.outRow) 8
      if a.outRow + 1 < a.qn then u.updAttn p.c (fun a => { a with outRow := a.outRow + 1 })
      else ((u.updCmd p.c a.cmd (fun x => { x with done := true })).updCore p.c (fun k => { k with attn := none, smRows := [] })).attnStart p := by
  simp only [State.normalise, hattn]
  refine if_neg ?_
  rintro (hlt | hheld)
  · exact Nat.not_lt.2 hblocks hlt
  · obtain ⟨l, hl, hnot⟩ := List.any_eq_true.1 hheld
    have hall := List.all_eq_true.1 hfree l hl
    simp [hall] at hnot

/-! ## The page walker -/

section
variable {cl : Nat} {a : Attn}

/-- The walker's turn passes to a core (R289). -/
def State.walkTurn (s : State) (cl c : Nat) : State := { s with mv := { s.mv with walkLast := tabSet 0 s.mv.walkLast cl c } }

theorem State.walkIssue_of_next (hnext : s.walkNext cl = some c) (hattn : (s.core c).attn = some a) (htags : s.tagsOf (.walker cl) < 128) :
    s.walkIssue cl .none =
      if a.appendNext < a.appends then (s.walkTurn cl c).walkAppend cl c a else (s.walkTurn cl c).walkRead cl c a := by
  simp only [State.walkIssue, hnext, hattn, if_neg (Nat.not_le.2 htags), reduceCtorEq, if_false]
  rfl

/-- R294, R295: an append whose page and bench line are at hand. -/
theorem State.walkAppend_of_ready {addr src n x off : Nat} (happend : a.append a.appendNext = (src, n, x, off))
    (hlocked : s.appendLocked a = false) (haddr : s.appendAddr a a.appendNext = .ok addr) (hheld : s.appendHeld a a.appendNext = false)
    (hfree : (s.core c).readFree a.cmd (src / 64) = true) (hclean : s.benchSees c (src / 64) .clean = .clean) :
    s.walkAppend cl c a =
      (s.walkReq cl c a .write a.appendNext (n / 64) addr (memRead s.mem.bench (c * 2 ^ 20 + src) n)).updAttn c
        (fun a => { a with appendNext := a.appendNext + 1 }) := by
  simp only [State.walkAppend, happend, hfree, hlocked, haddr, hheld, State.benchRead_of_clean hclean, Bool.not_true, Bool.false_eq_true, and_false,
    if_false]

/-- R296: a further read of the block that is staged. -/
theorem State.walkRead_of_piece {addr f : Nat} {i off : Nat} (hpiece : a.piece ≠ 0) (hget : (a.pieces a.staged)[a.piece]? = some (i, f, off))
    (hheld : s.heldAt a.ctx (a.frameOff f off) = false) (haddr : s.translate a.ctx (a.frameOff f off) = some addr) :
    s.walkRead cl c a = (s.walkReq cl c a .read a.piece a.pieceLines addr []).updAttn c (fun a => { a with piece := a.piece + 1 }) := by
  simp only [State.walkRead, if_neg hpiece, hget, hheld, haddr, Bool.false_eq_true, if_false]

theorem exec_walkerRequestIssue {cl : Fin 16} (hrun : s.run = true) (hin : s.clusterIn cl = true) :
    exec (.walkerRequestIssue cl .none) s = .next (s.walkIssue cl .none) :=
  congrArg Host.Outcome.next ((if_neg (by simp [hrun, hin])).trans (if_neg (by simp)))

/-- The ATTN that a request works for fails at an uncorrectable line. -/
def State.walkLost (s : State) (c : Nat) (a : Attn) (addr : Nat) : State :=
  (s.contained a.ctx (((s.core c).cmd a.cmd).map (·.letter)) codeHbmUncorrectable (hbmDetail addr 0)).failAttn c codeHbmUncorrectable

theorem exec_walkerAppendAck {cl : Fin 16} {tag : Nat} {r : Req} (hclk : s.clocked = true) (hr : s.answerable (.walker cl) tag = some r)
    (hwrite : r.cls = .write) (hfor : ((s.dropReq tag).hbmWriteLines r.addr r.data r.lines).walkFor r = some (c, a)) :
    exec (.walkerAppendAck cl tag) s = .next (
      let u := (s.dropReq tag).hbmWriteLines r.addr r.data r.lines
      if s.flt.hbmOut.contains (hbmStack r.addr) then u.walkLost c a r.addr
      else u.updAttn c (fun a => { a with appendAcked := a.appendAcked + 1 })) := by
  refine congrArg Host.Outcome.next ?_
  simp only [hr, hclk, hwrite, Bool.not_true, Bool.false_eq_true, ne_eq, not_true_eq_false, or_self, if_false, hfor]
  rfl

theorem exec_walkerReadReturn {cl : Fin 16} {tag : Nat} {r : Req} {rd : ReadRes} (hclk : s.clocked = true)
    (hr : s.answerable (.walker cl) tag = some r) (hread : r.cls = .read)
    (hfor : ((s.dropReq tag).hbmReads (lineAddrs r.addr r.lines) rd).1.walkFor r = some (c, a)) :
    exec (.walkerReadReturn cl tag rd) s = .next (
      let t := (s.dropReq tag).hbmReads (lineAddrs r.addr r.lines) rd
      if t.2 then t.1.walkLost c a r.addr else t.1.walkStage cl c a r) := by
  refine congrArg Host.Outcome.next ?_
  simp only [hr, hclk, hread, Bool.not_true, Bool.false_eq_true, ne_eq, not_true_eq_false, or_self, if_false, hfor]
  rfl

theorem State.walkStage_of_piece {r : Req} {i f off : Nat} (hget : (a.pieces a.staged)[r.line]? = some (i, f, off)) :
    s.walkStage cl c a r =
      let v := (s.each (a.scatter a.staged i off (memRead s.mem.hbm r.addr (64 * r.lines))) (fun s e =>
        (s.benchWrite c (attnSlot a.staged + e.1) e.2).1)).updAttn c (fun a => { a with pieceDone := a.pieceDone + 1 })
      if a.pieceDone + 1 = (a.pieces a.staged).length then v.blockStaged cl c a else v := by
  simp only [State.walkStage, hget]

end

end Sys2Proof.Machine

namespace Sys2Proof
open Sys2Proof.Machine Sys2Proof.Claims

/-- R87, R271, R276, R284 and R768. -/
theorem attnStarts : AttnStarts := by
  intro s c p t r hgo hop hcheck hidle hattn id D lines reads writes u es v
  have hgoes (is : BitVec 128 → Bool) (his : is r = true) : s.dispatch c is (fun s p t r => s.dispatchAttn p t r) = v := by
    obtain ⟨hfree, hworking⟩ := State.core_joinAttn t r reads writes hidle
    have hjoin : s.dispatchAttn p t r = (s.joinAttn p t r reads writes).attnStart p := State.dispatchAttn_of_ok hcheck
    have hstart := State.attnStart_of_working (hfree.trans hattn) hworking
    exact (s.dispatch_go c p t r is _ hgo his).trans (hjoin.trans hstart)
  exact ⟨fun himpl => congrArg _ (hgoes _ (by simp [isOp, hop, himpl])), fun himpl => congrArg _ (hgoes _ (by simp [isOp, hop, himpl]))⟩

/-- R86 to R88, R274, R282 and R284. -/
theorem softmaxTakesAndDeliversRows : SoftmaxTakesAndDeliversRows := by
  refine ⟨?enters, ?delivers, ?normalises⟩
  case enters =>
    intro s c a hwork hattn b r hblock hscored hplace hroom
    exact congrArg _ ((State.inCore_of_atWork hwork _ _ _).trans (State.smEnter_of_ready hattn hblock hscored hplace hroom))
  case delivers =>
    intro s c a x rest hwork hattn hrows e o f
    exact congrArg _ ((State.inCore_of_atWork hwork _ _ _).trans (State.smDeliver_of_cons hattn hrows))
  case normalises =>
    intro s c p a hclk hp hattn hblocks hfree u
    have hrun {t : State} (h : s.normalise p = t) : exec (.attnNormalise ⟨c, .none⟩) s = .next t := by
      refine congrArg _ ((State.inCore_of_place hclk hp _ _).trans ?_)
      simp only [hp]
      exact h
    have hrow := State.normalise_of_ready hattn hblocks hfree
    exact ⟨fun hmore => hrun (hrow.trans (if_pos hmore)), fun hlast => hrun (hrow.trans (if_neg (Nat.not_lt.2 hlast)))⟩

/-- R289 and R294 to R297: what the walker issues, and what its responses do. -/
theorem walkerAppendsStagesAndRowsLeave : WalkerAppendsStagesAndRowsLeave := by
  refine ⟨?issues, ?acks, ?stages⟩
  case issues =>
    intro s cl c a hrun hin hnext hattn htags u
    have hissue {t : State} (h : s.walkIssue cl .none = t) : exec (.walkerRequestIssue cl .none) s = .next t :=
      (exec_walkerRequestIssue hrun hin).trans (congrArg _ h)
    have hturn := State.walkIssue_of_next hnext hattn htags
    refine ⟨fun addr src n x off hleft happend hlocked haddr hheld hfree hclean => ?_, fun addr i f off hall hpiece hget hheld haddr => ?_⟩
    · exact hissue ((hturn.trans (if_pos hleft)).trans (State.walkAppend_of_ready happend hlocked haddr hheld hfree hclean))
    · exact hissue ((hturn.trans (if_neg (Nat.not_lt.2 hall))).trans (State.walkRead_of_piece hpiece hget hheld haddr))
  case acks =>
    intro s cl tag c r a hclk hr hwrite u hfor
    have hack := exec_walkerAppendAck hclk hr hwrite hfor
    exact ⟨fun hin => hack.trans (congrArg _ (if_neg (Bool.eq_false_iff.1 hin))), fun hout => hack.trans (congrArg _ (if_pos hout))⟩
  case stages =>
    intro s cl tag c r a rd hclk hr hread t u hfor
    have hreturn := exec_walkerReadReturn hclk hr hread hfor
    exact ⟨fun hlost => hreturn.trans (congrArg _ (if_pos hlost)), fun i f off hgood hget =>
      hreturn.trans (congrArg _ ((if_neg (Bool.eq_false_iff.1 hgood)).trans (State.walkStage_of_piece hget)))⟩

/-- Settles O34, from the start, the online-softmax stage and the walker. -/
theorem attentionRuns : Obligations.AttentionRuns := ⟨attnStarts, softmaxTakesAndDeliversRows, walkerAppendsStagesAndRowsLeave⟩

end Sys2Proof
end

section
/-! Couriers: MOVE letters and chains, descriptors that start, issue and end, and their responses (R226 to R239). -/

namespace Sys2Proof.Machine
open Sys2Proof.Claims

variable {s : State} {k : Nat} {d : CDesc}

/-! ## MOVE letters and chains -/

theorem exec_move {q : Fin 4096} {x : Letter} (h : s.startable q 4 = some x)
    (hroom : s.courierRoom (letterCourier (s.queue q).unit (natBits (x.field 0x38 4) 22 21)) = true) :
    exec (.move q) s = .next ((s.begun q x).startMove ⟨q, x.pm⟩ x) :=
  congrArg Host.Outcome.next (State.startWith_go h _ hroom _)

/-- R231, R233: a chained descriptor that is mapped and read clean joins its courier. -/
theorem State.chainRead_of_clean {l : LetterId} {x : Letter} {n : Nat} {stamp : Option (BitVec 32)} (hx : s.letter l = some x)
    (hwork : x.work = .move n true stamp) (hopen : x.ended = none)
    (hroom : s.courierRoom (letterCourier (s.queue l.q).unit (natBits (x.field 0x38 4) 22 21)) = true)
    (hmap : s.mapped (s.letterCtx l) (x.field 0x30 8 + 32 * (n - 1)) 32 = true)
    (hclean : s.hbmSees ((s.translate (s.letterCtx l) (x.field 0x30 8 + 32 * (n - 1))).getD 0) .clean = .clean) :
    s.chainRead l .clean =
      let ctx := s.letterCtx l
      let off := x.field 0x30 8 + 32 * (n - 1)
      let u := s.hbmAccess (some ctx) ((s.translate ctx off).getD 0) false srcHub 1
      (u.setWork l (.move n false stamp)).queueDesc (letterCourier (s.queue l.q).unit (natBits (x.field 0x38 4) 22 21)) (.move l n)
        (parseDesc (u.winRead ctx off 32)) ctx l.q x.phase x.hint stamp := by
  simp only [State.chainRead, hx, hwork, hopen, hroom, hmap, hclean, State.hbmNote_of_clean hclean, Option.isSome_none, Bool.not_true,
    Bool.false_eq_true, or_self, if_false, reduceCtorEq]

/-! ## Descriptors that start -/

section
variable (hnext : (s.courier k).descs.find? (fun d => !d.active && !s.awaitsResidence d) = some d)
  (hroom : ((s.courier k).descs.filter (fun d => d.active && !d.origin.isSwitch)).length < 16)
include hnext hroom

theorem State.startDesc_of_code {code : Code} (hcheck : s.checkDesc d.origin d.ctx d.desc = some code) :
    s.startDesc k = s.endDesc k d.id code [] := by
  simp only [State.startDesc, hnext, if_neg (Nat.not_le.2 hroom), hcheck]

theorem State.startDesc_of_ok (hcheck : s.checkDesc d.origin d.ctx d.desc = none)
    (hin : d.desc.residence.any (fun c => !s.clusterIn c) = false) (hmay : s.descMayStart d = true) (hfeed : d.desc.feedCluster = none) :
    s.startDesc k =
      ((s.updDesc k d.id (fun x => { x with active := true })).when (k < 16) (fun s => s.notePhase k d.phase.toNat)).crrNote k := by
  simp only [State.startDesc, hnext, if_neg (Nat.not_le.2 hroom), hcheck, hin, hmay, hfeed, Bool.not_true, Bool.false_eq_true, if_false]

end

/-- R229, R230: the work that letters have queued for the courier comes first, then its oldest descriptor. -/
theorem exec_descriptorStart {k : Fin 20} (hrun : s.run = true) :
    exec (.descriptorStart k) s = .next (
      let t := (s.each s.liveLetters (fun s p => (((s.placeCopy k p.1).placeCopy k p.1).swapStageNext p.1).swapCopyStart p.1)).startDesc k
      if k.val < 16 then t.clusterHands k else t) :=
  congrArg Host.Outcome.next (if_pos hrun)

/-! ## Requests -/

/-- The courier's next descriptor, in rotation, issues. -/
def State.issueTurn (s : State) (k : Nat) (d : CDesc) : State :=
  (s.setFld .crrStatus fCrrStatusPoolWait k 0).updCourier k (fun c => { c with lastId := d.id })

section
variable (hnext : s.nextIssuer k = some d)
include hnext

theorem State.issueNext_of_full (htag : s.canTag k = false) :
    s.issueNext k = (s.setFld .crrStatus fCrrStatusPoolWait k 1).count (if k < 16 then 1 else 2) (if k < 16 then k else k - 16) 3 := by
  simp only [State.issueNext, hnext, htag, Bool.not_false, if_true]

theorem State.issueNext_of_write {n : Nat} (htag : s.canTag k = true) (hdst : sideSpace d.desc.dst = 0) (hbuf : d.firstBuf = some n)
    (hfan : d.desc.fan = []) : s.issueNext k = (s.issueTurn k d).issueWrite k d n := by
  simp only [State.issueNext, hnext, htag, hdst, hbuf, hfan, Bool.not_true, Bool.false_eq_true, if_false, OfNat.zero_ne_ofNat, List.isEmpty_nil,
    if_true]
  rfl

theorem State.issueNext_of_read (htag : s.canTag k = true) (hbuf : d.firstBuf = none) :
    s.issueNext k = (s.issueTurn k d).issueRead k d d.nextRead := by
  simp only [State.issueNext, hnext, htag, hbuf, ite_self, Bool.not_true, Bool.false_eq_true, if_false]
  rfl

end

/-- R237: lines wait to be written to HBM. -/
theorem State.issueWrite_of_hbm {n a : Nat} (hdst : sideSpace d.desc.dst = 0) (ha : s.translate d.ctx (d.desc.dstLine n) = some a) :
    s.issueWrite k d n =
      let lines := min (chunkLines (d.desc.dstLine n) (d.desc.rowLeft n)) (runFrom d.buf 4 n)
      (s.updDesc k d.id (fun x => { x with buf := x.buf.filter (fun b => !decide (n ≤ b.line ∧ b.line < n + lines)) })).descReq k d n lines
        .write (some (hbmPort a)) lines a ((rangeFrom n lines).map (fun i => match d.buf.find? (fun b => b.line == i) with
          | some b => b.data
          | none => [])).flatten := by
  simp only [State.issueWrite, hdst, true_or, if_true, ha] <;> rfl

theorem State.issueRead_of_hbm {n a : Nat} (hsrc : sideSpace d.desc.src = 0)
    (ha : s.translate (d.desc.srcCtx.getD d.ctx) (d.desc.srcLine n) = some a) :
    s.issueRead k d n =
      let lines := chunkLines (d.desc.srcLine n) (d.desc.rowLeft n)
      (s.updDesc k d.id (fun x => { x with nextRead := n + lines })).descReq k d n lines .read (some (hbmPort a)) lines a [] := by
  simp only [State.issueRead, hsrc, true_or, if_true, ha]

theorem State.issueRead_of_store {n : Nat} (hsrc : sideSpace d.desc.src = 1) :
    s.issueRead k d n =
      let lines := chunkLines (d.desc.srcLine n) (d.desc.rowLeft n)
      (s.updDesc k d.id (fun x => { x with nextRead := n + lines })).descReq k d n lines .read none lines
        (storeAddr (sideSel d.desc.src % 16) (d.desc.srcLine n)) [] := by
  simp [State.issueRead, hsrc]

theorem exec_courierRequestIssue {k : Fin 20} (hrun : s.run = true) (hclk : s.clocked = true) :
    exec (.courierRequestIssue k .none) s = .next ((s.issueNext k).courierHands k) :=
  congrArg Host.Outcome.next ((if_neg (by simp [hclk])).trans (if_pos hrun))

/-! ## Responses -/

section
variable {r : Req} {reply : HostReply} {rd : ReadRes}

/-- The request of a response is taken off its courier. -/
def State.taken (s : State) (k : Nat) (r : Req) : State := (s.dropReq r.tag).crrNote k

section
variable (hd : (s.taken k r).desc k r.item = some d)
include hd

theorem State.respond_of_parity :
    s.respond k r reply rd true =
      let t := (s.taken k r).failDesc k d.id codePortParity r.line []
      if sideSpace (if r.cls = .write then d.desc.dst else d.desc.src) = 2 then t.haltAt (r.addr / 2 ^ 20) 0 .parity else t := by
  unfold State.taken at hd ⊢
  simp only [State.respond, hd, if_true]

/-- R238: a write to HBM stands there. -/
theorem State.respond_of_write (hcls : r.cls = .write) (hdst : sideSpace d.desc.dst = 0)
    (hin : (s.taken k r).flt.hbmOut.contains (hbmStack r.addr) = false) :
    s.respond k r reply rd false =
      let v := (((s.taken k r).writeThere d r).count (if k < 16 then 1 else 2) (if k < 16 then k else k - 16) 1 r.lines).countCtx d.ctx 5 r.lines
      (v.updDesc k d.id (fun x => { x with acked := x.acked + r.lines, acks := tabUpd 0 x.acks v.die (· + r.lines) })).settleDesc k d.id [] := by
  unfold State.taken at hd hin ⊢
  have hmem : hbmStack r.addr ∉ ((s.dropReq r.tag).crrNote k).flt.hbmOut := by simpa using hin
  simp [State.respond, hd, hcls, hdst, hmem]

theorem State.respond_of_ok {v : State} {bs : List Byte} (hcls : r.cls = .read) (hback : (s.taken k r).readBack d r reply rd = (v, .ok bs)) :
    s.respond k r reply rd false = v.gotLines k d r bs := by
  unfold State.taken at hd hback
  simp only [State.respond, hd, hcls, hback, Bool.false_eq_true, if_false, reduceCtorEq]

theorem State.respond_of_error {v : State} {code : Code} {det : List Byte} (hcls : r.cls = .read) (hplain : d.origin.switchOf = none)
    (hback : (s.taken k r).readBack d r reply rd = (v, .error (code, det))) :
    s.respond k r reply rd false = v.failDesc k d.id code r.line det := by
  unfold State.taken at hd hback
  simp only [State.respond, hd, hcls, hback, hplain, Bool.false_eq_true, if_false, reduceCtorEq]

end

/-- R226: the lines of a read join those to be written. -/
theorem State.gotLines_of_plain {bs : List Byte} (hfail : d.fail = none) (hfeed : d.desc.feedCluster = none) :
    s.gotLines k d r bs =
      (s.count (if k < 16 then 1 else 2) (if k < 16 then k else k - 16) 0 r.lines).updDesc k d.id
        (fun x => { x with buf := x.buf ++ splitLines r.lines r.line bs }) := by
  simp only [State.gotLines, hfail, hfeed, Option.isSome_none, Bool.false_eq_true, if_false]

theorem exec_courierResponse {k : Fin 20} {tag : Nat} (hclk : s.clocked = true) (hr : s.answerable (.courier k) tag = some r)
    {fault : AgentFault} (hfault : fault ≠ .control) :
    exec (.courierResponse k tag reply rd fault) s = .next ((s.respond k r reply rd (fault == .parity)).courierHands k) := by
  refine congrArg Host.Outcome.next ((if_neg (by simp [hclk])).trans ?_)
  cases fault with
  | control => exact absurd rfl hfault
  | parity => simp only [hr]
  | none => simp only [hr]

end

end Sys2Proof.Machine

namespace Sys2Proof
open Sys2Proof.Machine Sys2Proof.Claims

/-- R231 to R233. -/
theorem movesQueueDescriptors : MovesQueueDescriptors := by
  refine ⟨?letter, ?chained⟩
  case letter =>
    intro s q x hx k u l hroom hunit
    have hmove {t : State} (h : u.startMove l x = t) : exec (.move q) s = .next t := (exec_move hx hroom).trans (congrArg _ h)
    have hstart : u.startMove l x = if unitLevel (u.queue q).unit = 0 then u.endLetter l { code := codeUnitInvalid }
        else if !u.doneOk l (x.field 0x38 4) then u.endLetter l { code := codeSyncInvalid }
        else
          let stamp := if x.field 0x3E 2 = 0 then none else some (u.stampNow + BitVec.ofNat 32 (64 * x.field 0x3E 2))
          (u.setWork l (.move 0 false stamp)).queueDesc (letterCourier (u.queue q).unit (natBits (x.field 0x38 4) 22 21)) (.move l 0)
            (parseDesc ((x.raw.drop 0x10).take 32)) (u.letterCtx l) l.q x.phase x.hint stamp := rfl
    rw [hunit] at hstart
    refine ⟨fun hnone => hmove (hstart.trans (if_pos hnone)), fun hsome hbad => hmove (hstart.trans ((if_neg hsome).trans (if_pos ?_))),
      fun hsome hok => hmove (hstart.trans ((if_neg hsome).trans (if_neg ?_)))⟩
    · simp [hbad]
    · simp [hok]
  case chained =>
    intro s q pm x n stamp hrun hx hwork hopen l ctx off k hroom hmap hclean
    exact congrArg _ ((if_pos hrun).trans (State.chainRead_of_clean hx hwork hopen hroom hmap hclean))

/-- R226 to R230 and R235 to R238. -/
theorem couriersStartIssueAndEnd : CouriersStartIssueAndEnd := by
  refine ⟨?starts, ?issues, ?ends⟩
  case starts =>
    intro s k d hrun u hands hnext hroom
    have hstart {t : State} (h : u.startDesc k = t) : exec (.descriptorStart k) s = .next (hands t) :=
      (exec_descriptorStart hrun).trans (congrArg (fun t => Host.Outcome.next (hands t)) h)
    exact ⟨fun code hcode => hstart (State.startDesc_of_code hnext hroom hcode),
      fun hcheck hin hmay hfeed => hstart (State.startDesc_of_ok hnext hroom hcheck hin hmay hfeed)⟩
  case issues =>
    intro s k d hrun hnext u
    have hissue {t : State} (h : s.issueNext k = t) : exec (.courierRequestIssue k .none) s = .next (t.courierHands k) :=
      (exec_courierRequestIssue hrun (State.clocked_of_run hrun)).trans (congrArg (fun t => Host.Outcome.next (State.courierHands t k)) h)
    refine ⟨fun hfull => hissue (State.issueNext_of_full hnext hfull), fun n a htag hdst hbuf hfan ha => hissue ?_,
      fun a htag hsrc hbuf ha => hissue ?_, fun htag hsrc hbuf => hissue ?_⟩
    · exact (State.issueNext_of_write hnext htag hdst hbuf hfan).trans (State.issueWrite_of_hbm hdst ha)
    · exact (State.issueNext_of_read hnext htag hbuf).trans (State.issueRead_of_hbm hsrc ha)
    · exact (State.issueNext_of_read hnext htag hbuf).trans (State.issueRead_of_store hsrc)
  case ends =>
    intro s k id d hd hclk hactive hfail hdst hacked
    refine congrArg Host.Outcome.next ?_
    simp [hd, hclk, hactive, hfail, hdst, hacked]

/-- R226, R238 and R239. -/
theorem courierResponsesAct : CourierResponsesAct := by
  intro s k tag reply rd r d hclk hr u kind inst hd
  have hrespond (fault : AgentFault) (hfault : fault ≠ .control) {t : State} (h : s.respond k r reply rd (fault == .parity) = t) :
      exec (.courierResponse k tag reply rd fault) s = .next (t.courierHands k) :=
    (exec_courierResponse hclk hr hfault).trans (congrArg (fun t => Host.Outcome.next (State.courierHands t k)) h)
  have hparity := State.respond_of_parity (reply := reply) (rd := rd) hd
  refine ⟨fun hside => hrespond .parity nofun (hparity.trans (if_neg hside)), fun hside => hrespond .parity nofun (hparity.trans (if_pos hside)),
    fun hcls hdst hin => hrespond .none nofun (State.respond_of_write hd hcls hdst hin),
    fun v bs hcls hback hfail hfeed => hrespond .none nofun ((State.respond_of_ok hd hcls hback).trans (State.gotLines_of_plain hfail hfeed)),
    fun v code det hcls hplain hback => hrespond .none nofun (State.respond_of_error hd hcls hplain hback)⟩

/-- Settles O35, from the letters, the descriptors and the responses. -/
theorem couriersMove : Obligations.CouriersMove := ⟨movesQueueDescriptors, couriersStartIssueAndEnd, courierResponsesAct⟩

end Sys2Proof
end

section
/-! Regulated ports (R253 to R260), and SEQ letters with their operations (R299 to R303, R308, R309). -/

namespace Sys2Proof.Machine
open Sys2Proof.Claims

variable {s : State}

/-! ## Ports -/

theorem exec_regulatorGrant (hclk : s.clocked = true) (p : Fin 22) : exec (.regulatorGrant p .none) s = .next (s.doGrant p) :=
  congrArg Host.Outcome.next (if_neg (by simp [hclk]))

theorem State.doGrant_of_req {p : Nat} {r : Req} (h : s.portChoice p = some (.inl r)) : s.doGrant p = s.grantReq p r := by
  simp only [State.doGrant, h]

theorem State.doGrant_of_job {p : Nat} {w} (h : s.portChoice p = some (.inr w)) :
    s.doGrant p = (s.issueJob w).charge p .write true 0 w.units := by
  simp only [State.doGrant, h]

theorem State.doGrant_of_none {p : Nat} (h : s.portChoice p = none) : s.doGrant p = s := by
  simp only [State.doGrant, h]

/-! ## SEQ letters -/

theorem State.startSeq_of_seqLetter {q op : Nat} {x : Letter} (h : SeqLetter s q op x) (go : State → LetterId → Letter → State) :
    s.startSeq q op go = go (s.begun q x) ⟨q, x.pm⟩ x := by
  obtain ⟨hx, hop, hfree, habort, hdone⟩ := h
  refine (State.startWith_go hx _ (by simp [hop, hfree, habort]) _).trans (if_neg ?_)
  simp [hdone]

section
variable {l : LetterId} {x : Letter}

theorem State.startOpen_of_placed {a : Nat} (hfree : (s.sequence (x.field 0x12 2)).state = .free)
    (hpool : s.fld .kvpPool fKvpPoolPoolPages (s.letterCtx l) ≠ 0)
    (hroom : s.kv.tableUsed + s.tablesOf (s.letterCtx l) ≤ s.tableBytes) (ha : s.tablePlace (s.tablesOf (s.letterCtx l)) = some a) :
    s.startOpen l x =
      ({ s with kv := { s.kv with tableUsed := s.kv.tableUsed + s.tablesOf (s.letterCtx l) } } : State).addSeqOp l (x.field 0x12 2) 0 0 a := by
  have hfits : ¬ (s.fld .kvpPool fKvpPoolPoolPages (s.letterCtx l) = 0 ∨ s.tableBytes < s.kv.tableUsed + s.tablesOf (s.letterCtx l)) := by
    rw [not_or]
    exact ⟨hpool, Nat.not_lt.2 hroom⟩
  simp only [State.startOpen, hfree, ne_eq, not_true_eq_false, if_false, if_neg hfits, ha]

/-- R308: a STEP of a sequence of its own takes its frames at once, or waits. -/
theorem State.startStep_of_mine (hmine : s.seqMine l (x.field 0x12 2) = true)
    (hstate : (s.sequence (x.field 0x12 2)).state = .idle ∨ (s.sequence (x.field 0x12 2)).state = .parked ∨
      (s.sequence (x.field 0x12 2)).state = .parking)
    (fs : List Nat) :
    s.startStep l x fs =
      if 2 ^ 24 < (s.sequence (x.field 0x12 2)).length + x.field 0x14 2 then s.endLetter l { code := codeKvLengthExceeded }
      else
        let v := (s.addSeqOp l (x.field 0x12 2) 1 (x.field 0x14 2)).settleParking (x.field 0x12 2)
        (v.tryStep l fs).getD (v.hungerCheck (s.letterCtx l)) := by
  refine (if_neg (by simp [hmine, hstate])).trans ?_
  congr 1
  dsimp only
  split <;> simp_all

theorem State.tryStep_of_granted {o : SeqOp} {fs : List Nat} (ho : s.kv.ops.find? (fun o => o.letter == l) = some o)
    (hstate : (s.sequence o.seq).state ≠ .parking) (hwait : s.mustWait (s.sequence o.seq).ctx o = false)
    (hframes : s.framesOk (s.sequence o.seq).ctx (s.stepNeed o.seq o.count) fs = true) :
    s.tryStep l fs = if s.readbackLocked o fs then some ((s.cancelSeqOp o).endLetter l { code := codeRegionLocked })
      else some (s.grantStep o fs) := by
  simp only [State.tryStep, ho, if_neg hstate, hwait, hframes, Bool.not_true, Bool.false_eq_true, if_false]

end

/-! ## Operations that take effect -/

theorem State.seqEffect_of_close {o : SeqOp} (hop : 3 ≤ o.op) : s.seqEffect o = (s.closeSeq o.seq, 0) := by
  obtain ⟨k, hk⟩ := Nat.exists_eq_add_of_le' hop
  simp only [State.seqEffect, hk]

/-- R303, R760: the effect of an operation, and the end of its letter. -/
theorem State.doTableWrites_of_ready {n : Nat} {o : SeqOp} {y : Letter} (ho : s.kv.ops.find? (fun o => o.seq == n) = some o)
    (hclk : s.clocked = true) (hready : s.seqReady o = true) (hy : s.letter o.letter = some y) :
    s.doTableWrites n =
      let u := (s.seqEffect o).1
      (((({ u with kv := { u.kv with ops := removeFirst (fun p => p.letter == o.letter) u.kv.ops } } : State).letterDone o.letter
        (y.field 0x18 4) engHub).endLetter o.letter { code := codeOk, result := BitVec.ofNat 32 (s.seqEffect o).2 }).hungerCheck
          (s.letterCtx o.letter)).flKick := by
  simp only [State.doTableWrites, ho, hclk, hready, hy, Bool.not_true, Bool.or_self, Bool.false_eq_true, if_false]

end Sys2Proof.Machine

namespace Sys2Proof
open Sys2Proof.Machine Sys2Proof.Claims

/-- Settles O36, from the port's choice and from whether a split is to be adopted. -/
theorem portsGrantAndWindowsEnd : Obligations.PortsGrantAndWindowsEnd := by
  intro s p hclk
  have hgrant {t : State} (h : s.doGrant p = t) : exec (.regulatorGrant p .none) s = .next t :=
    (exec_regulatorGrant hclk p).trans (congrArg _ h)
  refine ⟨fun r hr => hgrant (State.doGrant_of_req hr), fun w hw => hgrant (State.doGrant_of_job hw),
    fun hnone => hgrant (State.doGrant_of_none hnone), fun hsame => ?_, fun hadopt => ?_⟩
  · exact congrArg _ ((if_pos hclk).trans (if_neg (Bool.eq_false_iff.1 hsame)))
  · exact congrArg _ ((if_pos hclk).trans (if_pos hadopt))

/-- R299 to R303 and R308, by the operation and its check. -/
theorem sequenceLettersAct : SequenceLettersAct := by
  intro s q op x hseq u l n z refused
  have hstart {op' : Nat} (hop : op = op') (go : State → LetterId → Letter → State) {t : State} (h : go u l x = t) :
      (.next (s.startSeq q op' go) : Res) = .next t :=
    congrArg Host.Outcome.next ((State.startSeq_of_seqLetter (hop ▸ hseq) go).trans h)
  refine ⟨fun hop => ?opened, fun hop fs => ?stepped, fun hop => ?ended, fun hop => ?closed⟩
  case opened =>
    refine ⟨fun hused => hstart hop _ (if_pos hused), fun hfree hpool => hstart hop _ ((if_neg ?_).trans (if_pos (.inl hpool))),
      fun a hfree hpool hroom ha => hstart hop _ (State.startOpen_of_placed hfree hpool hroom ha)⟩
    exact fun h => h hfree
  case stepped =>
    refine ⟨fun hstepping => hstart hop _ (if_pos (.inr ?stepping)),
      fun hmine hstate hlong => hstart hop _ ((State.startStep_of_mine hmine hstate fs).trans (if_pos hlong)), fun hmine hstate hfits => ?fits⟩
    case stepping =>
      have hz : (u.sequence n).state = .stepping := hstepping
      simp [n, hz]
    case fits =>
      have hstep := (State.startStep_of_mine hmine hstate fs).trans (if_neg (Nat.not_lt.2 hfits))
      refine ⟨fun o ho hpark hwait hframes hlock => hstart hop _ (hstep.trans ?_), fun w hw => hstart hop _ (hstep.trans ?_),
        fun hnone => hstart hop _ (hstep.trans ?_)⟩
      · exact congrArg (fun r : Option State => r.getD _)
          ((State.tryStep_of_granted ho hpark hwait hframes).trans (if_neg (Bool.eq_false_iff.1 hlock)))
      · exact congrArg (fun r : Option State => r.getD _) hw
      · exact congrArg (fun r : Option State => r.getD _) hnone
  case ended =>
    refine ⟨fun hidle => hstart hop _ (if_pos (.inr (.inl hidle))), fun hother => hstart hop _ (if_pos (.inr (.inr hother))),
      fun hmine hstepping hopener => hstart hop _ (if_neg ?_)⟩
    have hz : (u.sequence n).state = .stepping := hstepping
    have ho : (u.sequence n).opener = l.q := hopener
    simp [n, hz, ho, hmine]
  case closed =>
    refine ⟨fun hstepping => hstart hop _ (if_pos (.inr hstepping)), fun hmine hopen => hstart hop _ (if_neg ?_)⟩
    have hz : (u.sequence n).state ≠ .stepping := hopen
    simp [n, hz, hmine]

/-- R302, R303 and R760, by the operation. -/
theorem sequenceOperationsTakeEffect : SequenceOperationsTakeEffect := by
  intro s n o y ho hclk hready hy q ends
  have hends {u : State} {result : Nat} (h : s.seqEffect o = (u, result)) : exec (.seqTableWritesDone n) s = .next (ends u result) :=
    congrArg Host.Outcome.next ((State.doTableWrites_of_ready ho hclk hready hy).trans (by rw [h]))
  have heffect {n : Nat} (hop : o.op = n) : s.seqEffect o = s.seqEffect { o with op := n } := by rw [← hop]
  exact ⟨fun hop => hends (heffect hop), fun hop => hends (heffect hop), fun hop => hends (heffect hop),
    fun hop => hends (State.seqEffect_of_close hop)⟩

/-- Settles O37, from the letters and from what their table writes bring about. -/
theorem sequencesAct : Obligations.SequencesAct := ⟨sequenceLettersAct, sequenceOperationsTakeEffect⟩

end Sys2Proof
end

section
/-! Pages between the pool and flash (R308, R309, R312 to R315), and the zeroing of HBM pages. -/

namespace Sys2Proof.Machine
open Sys2Proof.Claims

variable {s : State}

/-! ## Frames, demotion and read-back -/

/-- R309, for the STEP of a sequence that waits for its frames. -/
theorem exec_stepFramesGranted {n : Fin 65536} {o : SeqOp} (fs : List Nat) (hclk : s.clocked = true)
    (ho : s.kv.ops.find? (fun o => o.seq == n.val && o.op == 1 && !o.granted) = some o) :
    exec (.stepFramesGranted n fs) s = .next (((s.settleParking n).tryStep o.letter fs).getD s) := by
  refine congrArg Host.Outcome.next ?_
  simp only [ho, if_pos hclk]

/-- The victim whose END was the earliest. -/
def earliestVictim (v : Nat × Nat) (vs : List (Nat × Nat)) : Nat := (vs.foldl (fun a b => if b.1 < a.1 then b else a) v).2

/-- R312: no demotion is under way, a STEP of the context waits, and a victim is left. -/
theorem State.doVictim_of_cons {x kslot : Nat} {g : FlashGroup} {v : Nat × Nat} {vs : List (Nat × Nat)} (hrun : s.run = true)
    (hfw2 : s.fwOn 2 = true) (hfw0 : s.fwOn 0 = true) (hwarn : s.fl.warn = false)
    (hnone : s.kv.seqs.find? (fun e => e.2.state == .parking && e.2.ctx == x) = none)
    (hwaits : (s.waitingSteps x).all (fun o => !s.mustWait x o) = false) (hpolicy : s.fld .kvpPool fKvpPoolPolicy x ≠ 0)
    (hvictims : s.victims x = v :: vs) {w : State}
    (hw : (s.updSequence (earliestVictim v vs) (fun q => { q with state := .parking })).demoteNext (earliestVictim v vs) kslot g = some w) :
    s.doVictim x kslot g = (w.hungerCheck x).flKick := by
  unfold earliestVictim at hw
  simp only [State.doVictim, hrun, hfw2, hfw0, hwarn, hnone, hwaits, hpolicy, hvictims, hw, Bool.not_true, Bool.or_self, Bool.false_eq_true,
    or_self, if_false, Option.map_none]

/-- R312: the next page of a sequence takes a slot of the region, and its first unit is to be programmed. -/
theorem State.demoteNext_of_page {n kslot l p : Nat} {g : FlashGroup} (hpage : (s.pagesAt n 0).head? = some (l, p))
    (hslot : kslot < s.kvSlots (s.sequence n).ctx) (hunused : s.kvSlotUsed (s.sequence n).ctx kslot = false) :
    s.demoteNext n kslot g =
      ((((s.setLoc n l p 2 (s.frameOf n l p)).bumpEpoch n).setKvSlot (s.sequence n).ctx kslot true).updSequence n
        (fun q => { q with transit := some (l, p, kslot) })).demoteUnit n l p kslot 0 g := by
  have hfree : (List.range (s.kvSlots (s.sequence n).ctx)).any (fun f => !s.kvSlotUsed (s.sequence n).ctx f) = true :=
    List.any_eq_true.2 ⟨kslot, List.mem_range.2 hslot, by rw [hunused]; rfl⟩
  have hchoice : ¬ (s.kvSlots (s.sequence n).ctx ≤ kslot ∨ s.kvSlotUsed (s.sequence n).ctx kslot = true) := by
    rw [hunused]; simpa using hslot
  simp only [State.demoteNext, hpage, hfree, if_neg hchoice, Bool.not_true, Bool.false_eq_true, if_false]

/-- R312, R583: a unit whose bytes can be read and whose group is erased and fresh is programmed. -/
theorem State.demoteUnit_of_erased {n layer page kslot i : Nat} {g : FlashGroup} :
    let x := (s.sequence n).ctx
    let r := s.kvRegion x
    let u := kslot * s.kvUnits x + i
    let off := s.frameWin x (s.frameOf n layer page) + i * 65536
    let ch := unitChannel (s.region r).home u
    s.erased (s.grpKey ch g) = true → s.groupFresh (s.grpKey ch g) = true → s.winPoisoned x off (s.unitBytes x i) = false →
    s.demoteUnit n layer page kslot i g = some ((s.winAccess x off (s.unitBytes x i) false srcHub).addProg
      { ch := ch, grp := s.grpKey ch g, region := r, unit := u, data := s.pageUnit x (s.frameOf n layer page) i
        who := .demote n layer kslot, tries := 0, issued := false }) := by
  intro x r u off ch herased hfresh hclean
  exact (if_neg (by simp [x, r, u, ch, herased])).trans ((if_neg (by simp [x, r, u, ch, hfresh])).trans (if_neg (Bool.eq_false_iff.1 hclean)))

section
variable {n l p k slot : Nat} {g : FlashGroup} (hclk : s.clocked = true) (htransit : (s.sequence n).transit = some (l, p, k))
  (hprogs : s.fl.progs.any (fun j => j.who == ProgFor.demote n l k) = false)
include hclk htransit hprogs

/-- R313: not every unit of the page in transit was programmed. -/
theorem State.doDemoted_of_failed (hok : (rangeFrom (k * s.kvUnits (s.sequence n).ctx) (s.kvUnits (s.sequence n).ctx)).all
    (fun u => (s.unitGroup (s.kvRegion (s.sequence n).ctx) u).isSome) = false) :
    s.doDemoted n false slot g = (s.demotionFails n l p k).hungerCheck (s.sequence n).ctx := by
  simp [State.doDemoted, htransit, hclk, hprogs, hok]

/-- The page in transit leaves its frame: its entries name its slot in flash. -/
def State.pageLeaves (s : State) (n l p k : Nat) : State :=
  (((s.setLoc n l p 1 k).freeFrame (s.sequence n).ctx (s.frameOf n l p)).bumpEpoch n).updSequence n (fun q => { q with transit := none })

/-- R312, R314: every unit of the page in transit is programmed; the demotion ends where an operation waits, and goes on elsewhere. -/
theorem State.doDemoted_of_durable (hok : (rangeFrom (k * s.kvUnits (s.sequence n).ctx) (s.kvUnits (s.sequence n).ctx)).all
    (fun u => (s.unitGroup (s.kvRegion (s.sequence n).ctx) u).isSome) = true) {w : State}
    (hw : (if (s.pageLeaves n l p k).seqAwaited n then some ((s.pageLeaves n l p k).settleParking n)
      else (s.pageLeaves n l p k).demoteNext n slot g) = some w) :
    s.doDemoted n true slot g = (w.hungerCheck (s.sequence n).ctx).flKick := by
  unfold State.pageLeaves at hw
  simp only [State.doDemoted, htransit, hclk, hprogs, hok, hw, Bool.not_true, Bool.or_self, bne_self_eq_false, Bool.false_eq_true, if_false]

end

/-- R315: a page of the granted STEP is read from flash and written to its frame. -/
theorem State.doReadback_of_clean {n l p f : Nat} {o : SeqOp} {rb : List (Nat × Nat)} {fs : List Nat}
    (ho : s.kv.ops.find? (fun o => o.seq == n && o.op == 1 && o.granted) = some o) (hrb : o.readback = (l, p) :: rb) (hfs : o.frames = f :: fs)
    (hbar : s.flashBar (s.kvRegion (s.sequence n).ctx) = none)
    (hin : (rangeFrom (s.frameOf n l p * s.kvUnits (s.sequence n).ctx) (s.kvUnits (s.sequence n).ctx)).any
      (fun u => s.fl.chOut.contains (unitChannel (s.region (s.kvRegion (s.sequence n).ctx)).home u)) = false) :
    s.doReadback n .clean =
      let x := (s.sequence n).ctx
      let r := s.kvRegion x
      let k := s.frameOf n l p
      let off := k * s.kvUnits x * 65536
      (((((((s.sectorReads r off (s.kvPageBytes x / 4096) srcHub).winAccess x (s.frameWin x f) (s.kvPageBytes x) true srcHub).frameWrite x f
        (s.flashRead r off (s.kvPageBytes x))).setLoc n l p 0 f).freeKvSlot x k).bumpEpoch n).updSeqOp o.letter
          (fun o => { o with frames := fs, readback := rb })) := by
  simp only [State.doReadback, ho, hrb, hfs, hbar, hin, Bool.false_eq_true, or_false, if_false, reduceCtorEq]

/-! ## Zeroing -/

theorem State.mem_charge (s : State) (p : Nat) (c : ReqClass) (write : Bool) (src units : Nat) : (s.charge p c write src units).mem = s.mem := by
  unfold State.charge
  dsimp only
  split <;> rfl

theorem State.tier_charge (s : State) (p : Nat) (c : ReqClass) (write : Bool) (src units : Nat) :
    (s.charge p c write src units).tier = s.tier := by
  unfold State.charge
  dsimp only
  split <;> rfl

/-- A grant's charge leaves memory and the tiers as the request's effect left them. -/
theorem State.grantReq_keeps_tiers (s : State) (p : Nat) (r : Req) :
    (s.grantReq p r).mem = (s.granted r).mem ∧ (s.grantReq p r).tier = (s.granted r).tier := by
  unfold State.grantReq
  dsimp only
  split
  · split
    · exact ⟨(State.countCtx_mem ..).trans (State.mem_charge ..), (State.countCtx_tier ..).trans (State.tier_charge ..)⟩
    · exact ⟨State.mem_charge .., State.tier_charge ..⟩
  · exact ⟨State.mem_charge .., State.tier_charge ..⟩

/-- A write of the zeroing engine is done as it is granted. -/
theorem State.granted_of_zero {r : Req} (h : r.agent = .zero) :
    s.granted r =
      let t := (s.dropReq r.tag).zeroLines r.addr r.lines
      { t with tier := { t.tier with
          zero := updFirst (fun y => y.page == r.item) (fun (y : ZeroPage) => { y with acked := y.acked + 1 }) t.tier.zero } } :=
  if_pos h

end Sys2Proof.Machine

namespace Sys2Proof
open Sys2Proof.Machine Sys2Proof.Claims

/-- R308, R309 and R312 to R315. -/
theorem pagesMoveBetweenPoolAndFlash : PagesMoveBetweenPoolAndFlash := by
  refine ⟨?frames, ?victim, ?demoted, ?readback⟩
  case frames =>
    intro s n fs o hclk ho
    have hrun := exec_stepFramesGranted fs hclk ho
    have htakes {t : State} (h : (s.settleParking n).tryStep o.letter fs = some t) : exec (.stepFramesGranted n fs) s = .next t :=
      hrun.trans (by rw [h]; rfl)
    refine ⟨fun p hp hpark hwait hframes => ⟨fun hopen => htakes ?opened, fun hlock => htakes ?locked⟩, fun hnone => hrun.trans ?waits⟩
    case opened => exact (State.tryStep_of_granted hp hpark hwait hframes).trans (if_neg (Bool.eq_false_iff.1 hopen))
    case locked => exact (State.tryStep_of_granted hp hpark hwait hframes).trans (if_pos hlock)
    case waits =>
      rw [hnone]
      rfl
  case victim =>
    intro s x slot g v vs hrun hfw2 hfw0 hwarn hnone hwaits hpolicy hvictims n t c
    have hvictim {w : State} (hw : t.demoteNext n slot g = some w) : exec (.victimDemotion x slot g) s = .next ((w.hungerCheck x).flKick) :=
      congrArg _ (State.doVictim_of_cons hrun hfw2 hfw0 hwarn hnone hwaits hpolicy hvictims hw)
    exact ⟨fun w hw => hvictim hw, fun l p hpage hslot hunused herased hfresh hclean =>
      hvictim ((State.demoteNext_of_page hpage hslot hunused).trans (State.demoteUnit_of_erased herased hfresh hclean))⟩
  case demoted =>
    intro s v n slot g l p k ok hclk htransit hprogs hok hv
    replace hv : v = s.pageLeaves n l p k := hv
    subst hv
    have hends {w : State} (h : s.doDemoted n ok slot g = w) : exec (.pageDemoted n ok slot g) s = .next w := congrArg Host.Outcome.next h
    refine ⟨fun hfailed => hends ?failed, fun hdone hawaited => hends ?awaited, fun w hdone hfree hw => hends ?goes⟩
    case failed =>
      subst hfailed
      exact State.doDemoted_of_failed hclk htransit hprogs hok
    case awaited =>
      subst hdone
      exact State.doDemoted_of_durable hclk htransit hprogs hok (if_pos hawaited)
    case goes =>
      subst hdone
      exact State.doDemoted_of_durable hclk htransit hprogs hok ((if_neg (Bool.eq_false_iff.1 hfree)).trans hw)
  case readback =>
    intro s n o l p f x r k rb fs hclk ho hrb hfs hx hr hk hbar hin
    subst hx hr hk
    exact congrArg _ ((if_pos hclk).trans (State.doReadback_of_clean ho hrb hfs hbar hin))

/-- A page's writes are asked for, done as they are granted, and counted. -/
theorem pagesAreZeroed : PagesAreZeroed := by
  refine ⟨?asked, ?zeroed, ?free⟩
  case asked =>
    intro s z hzeroing hz
    refine congrArg Host.Outcome.next ((if_pos hzeroing).trans ?_)
    simp only [hz]
  case zeroed =>
    intro s p r hclk hr hzero
    obtain ⟨hmem, htier⟩ := s.grantReq_keeps_tiers p r
    rw [State.granted_of_zero hzero] at hmem htier
    refine ⟨s.grantReq p r, (exec_regulatorGrant hclk p).trans (congrArg _ (State.doGrant_of_req hr)), ?_, fun l hlo hhi => ?_, ?_⟩
    · rw [hmem]
      rfl
    · rw [State.hbmPoisoned, hmem]
      simp [State.zeroLines, hlo, hhi]
    · rw [htier]
      rfl
  case free =>
    intro s z hclk hz
    refine congrArg Host.Outcome.next ?_
    simp only [hz, if_pos hclk]
    rfl

/-- Settles O38, from the demotions and read-backs and from the zeroing. -/
theorem pagesMove : Obligations.PagesMove := ⟨pagesMoveBetweenPoolAndFlash, pagesAreZeroed⟩

end Sys2Proof
end

section
/-! Experts: PROMOTE letters, ready records, and promotions (R360 to R365). -/

namespace Sys2Proof.Machine
open Sys2Proof.Claims

variable {s : State}

/-! ## PROMOTE letters -/

section
variable {l : LetterId} {x : Letter} {r u : Nat} {pin : Bool}

theorem State.fetchDone_of_full {slot : Nat} (hpin : pin = true) (hfull : s.pinFull r u = true) :
    s.fetchDone l r u slot pin = s.endLetter l { code := codeExpertUnavailable } :=
  if_pos ⟨hpin, hfull⟩

theorem State.fetchDone_fetch (slot : Nat) :
    s.fetchDone l r u slot false = s.endLetter l { code := codeOk, result := BitVec.ofNat 32 slot } :=
  if_neg fun h => Bool.false_ne_true h.1

theorem State.fetchDone_pin (slot : Nat) (hroom : s.pinFull r u = false) :
    s.fetchDone l r u slot true =
      (s.updExpert r u (fun e => { e with pinned := true })).endLetter l { code := codeOk, result := BitVec.ofNat 32 slot } :=
  if_neg fun h => Bool.eq_false_iff.1 hroom h.2

/-- The unit of the expert that a PROMOTE names. -/
def State.promoteUnit (s : State) (x : Letter) : Nat := x.field 0x12 2 * (s.region (x.field 0x10 1)).experts + x.field 0x14 2

/-- A PROMOTE starts by the OP of its payload. -/
theorem State.startWith_promote {q n : Nat} (hx : s.startable q 9 = some x) (hop : x.field 0x11 1 = n)
    (go : State → LetterId → Letter → State) :
    s.startWith q 9 (fun x => x.field 0x11 1 == n) go = go (s.begun q x) ⟨q, x.pm⟩ x :=
  State.startWith_go hx (fun x => x.field 0x11 1 == n) (beq_iff_eq.2 hop) go

theorem State.startFetch_of_code {c : Code} (h : s.promoteCheck l x = some c) : s.startFetch l x pin = s.endLetter l { code := c } := by
  simp only [State.startFetch, h]

section
variable (hcheck : s.promoteCheck l x = none)
include hcheck

theorem State.startFetch_of_resident {slot : Nat} (h : (s.expert (x.field 0x10 1) (s.promoteUnit x)).state = .resident slot) :
    s.startFetch l x pin = s.fetchDone l (x.field 0x10 1) (s.promoteUnit x) slot pin := by
  unfold State.promoteUnit at h ⊢
  simp only [State.startFetch, hcheck, h]

/-- R361, R364: an expert that is absent or in transit is promoted, and the letter waits for it. -/
theorem State.startFetch_of_away (h : ∀ slot, (s.expert (x.field 0x10 1) (s.promoteUnit x)).state ≠ .resident slot) :
    s.startFetch l x pin =
      if pin = true ∧ s.pinFull (x.field 0x10 1) (s.promoteUnit x) = true then s.endLetter l { code := codeExpertUnavailable }
      else
        let v := (s.setWork l (.fetch pin)).promote (x.field 0x10 1) (s.promoteUnit x) l
        { v with tier := { v.tier with
            promWaits := v.tier.promWaits ++ [{ letter := l, r := x.field 0x10 1, u := s.promoteUnit x, pin := pin }] } } := by
  unfold State.promoteUnit at h ⊢
  unfold State.startFetch
  simp only [hcheck]

/-- R365: a PIN beyond the pins that its layer may have. -/
theorem State.startFetch_of_full (hfull : s.pinFull (x.field 0x10 1) (s.promoteUnit x) = true) :
    s.startFetch l x true = s.endLetter l { code := codeExpertUnavailable } := by
  by_cases h : ∃ slot, (s.expert (x.field 0x10 1) (s.promoteUnit x)).state = .resident slot
  · obtain ⟨slot, hslot⟩ := h
    exact (State.startFetch_of_resident hcheck hslot).trans (State.fetchDone_of_full rfl hfull)
  · exact (State.startFetch_of_away hcheck (not_exists.1 h)).trans (if_pos ⟨rfl, hfull⟩)

end

theorem exec_promoteRoute {q : Fin 4096} (hx : s.startable q 9 = some x) (hop : x.field 0x11 1 = 0) (hidle : s.routing q = none) (rd : ReadRes) :
    exec (.promoteRoute q rd) s = .next (match (s.begun q x).routeCheck ⟨q, x.pm⟩ x with
      | some c => (s.begun q x).endLetter ⟨q, x.pm⟩ { code := c }
      | none => ((s.begun q x).fresh.2.setWork ⟨q, x.pm⟩ (.route 0 (s.begun q x).fresh.1)).routeGo ⟨q, x.pm⟩ rd) := by
  refine congrArg Host.Outcome.next ?_
  simp only [hidle, State.startWith_promote hx hop] <;> rfl

theorem exec_promoteUnpin {q : Fin 4096} (hx : s.startable q 9 = some x) (hop : x.field 0x11 1 = 3) :
    exec (.promoteUnpin q) s = .next (match (s.begun q x).promoteCheck ⟨q, x.pm⟩ x with
      | some c => (s.begun q x).endLetter ⟨q, x.pm⟩ { code := c }
      | none => ((s.begun q x).updExpert (x.field 0x10 1) ((s.begun q x).promoteUnit x) (fun e => { e with pinned := false })).endLetter ⟨q, x.pm⟩
          { code := codeOk }) :=
  congrArg Host.Outcome.next (State.startWith_promote hx hop _)

end

/-! ## Promotions -/

theorem State.endPromotion_of_copied {p : Promotion} (hfail : p.fail = none) (slot : Nat) :
    s.endPromotion p slot =
      let t : State := { s with tier := { s.tier with
        promos := removeFirst (fun x => x.r == p.r && x.u == p.u) s.tier.promos
        promWaits := s.tier.promWaits.filter (fun w => !(w.r == p.r && w.u == p.u)) } }
      ((t.updExpert p.r p.u (fun e => { e with state := .resident slot })).releaseHeld p.r p.u slot).each
        (s.tier.promWaits.filter (fun w => w.r == p.r && w.u == p.u)) (fun s w => s.fetchDone w.letter p.r p.u slot w.pin) := by
  simp only [State.endPromotion, hfail]

theorem exec_promotionStart {p : Promotion} {k : Nat} {e : Option Nat} (hrun : s.run = true)
    (hroom : (s.tier.promos.filter (fun p => p.slot.isSome)).length < 16)
    (hp : s.tier.promos.find? (fun p => p.slot.isNone && (s.takeSlot p.r).isSome) = some p) (hslot : s.takeSlot p.r = some (k, e))
    (hcourier : s.courierRoom (16 + k % 4) = true) : exec .promotionStart s = .next (s.beginPromotion p k e) := by
  refine congrArg Host.Outcome.next ((if_pos ?_).trans ?_)
  · rw [hrun, decide_eq_true hroom]
    rfl
  · simp only [hp, hslot, hcourier, if_true]

theorem exec_promotionDone {r : Fin 255} {u k : Nat} {p : Promotion} (hclk : s.clocked = true)
    (hp : s.tier.promos.find? (fun p => p.r == r.val && p.u == u) = some p) (hslot : p.slot = some k) (hcopied : p.copied = true) :
    exec (.promotionDone r u) s = .next (s.endPromotion p k) := by
  refine congrArg Host.Outcome.next ?_
  simp only [hp, hslot, hclk, hcopied, Bool.and_self, if_true]

end Sys2Proof.Machine

namespace Sys2Proof
open Sys2Proof.Machine Sys2Proof.Claims

/-- R360, R361 and R365, by OP, check and state of the expert. -/
theorem promoteLettersAct : PromoteLettersAct := by
  intro s q x hx u l r n
  have hfetch {t : State} (hop : x.field 0x11 1 = 1) (h : u.startFetch l x false = t) : exec (.promoteFetch q) s = .next t :=
    congrArg Host.Outcome.next ((State.startWith_promote hx hop _).trans h)
  have hpin {t : State} (hop : x.field 0x11 1 = 2) (h : u.startFetch l x true = t) : exec (.promotePin q) s = .next t :=
    congrArg Host.Outcome.next ((State.startWith_promote hx hop _).trans h)
  refine ⟨fun hop hidle rd => ⟨fun c hc => ?routeEnds, fun hok => ?routeGoes⟩,
    fun hop hok => ⟨fun k hk => hfetch hop ?_, fun haway => hfetch hop ?_⟩,
    fun hop hok => ⟨fun hfull => hpin hop (State.startFetch_of_full hok hfull), fun haway hroom => hpin hop ?_, fun k hk hroom => hpin hop ?_⟩,
    fun hop hok => ?unpinned, fun c hc => ⟨fun hop => hfetch hop (State.startFetch_of_code hc), fun hop => hpin hop (State.startFetch_of_code hc),
      fun hop => ?unpinEnds⟩⟩
  case routeEnds => exact (exec_promoteRoute hx hop hidle rd).trans (by rw [show u.routeCheck l x = some c from hc])
  case routeGoes => exact (exec_promoteRoute hx hop hidle rd).trans (by rw [show u.routeCheck l x = none from hok])
  case unpinned => exact (exec_promoteUnpin hx hop).trans (by rw [show u.promoteCheck l x = none from hok]; rfl)
  case unpinEnds => exact (exec_promoteUnpin hx hop).trans (by rw [show u.promoteCheck l x = some c from hc])
  · exact (State.startFetch_of_resident hok hk).trans (State.fetchDone_fetch k)
  · exact (State.startFetch_of_away hok haway).trans (if_neg fun h => Bool.false_ne_true h.1)
  · exact (State.startFetch_of_away hok haway).trans (if_neg fun h => Bool.eq_false_iff.1 hroom h.2)
  · exact (State.startFetch_of_resident hok hk).trans (State.fetchDone_pin k hroom)

/-- R360 to R364: the record, the promotion that starts, and the one that is copied. -/
theorem expertsArePromotedAndReleased : ExpertsArePromotedAndReleased := by
  refine ⟨?released, ?starts, ?done⟩
  case released =>
    intro s r i x hclk hx hcredit hfirst
    refine congrArg Host.Outcome.next ?_
    simp only [hx, hclk, hcredit, hfirst, Bool.and_self, beq_self_eq_true, if_true]
  case starts =>
    intro s p k e hrun hroom hp hslot hcourier
    exact (exec_promotionStart hrun hroom hp hslot hcourier).trans rfl
  case done =>
    intro s r u p k hclk hp hslot hcopied hfail
    exact (exec_promotionDone hclk hp hslot hcopied).trans (congrArg _ (State.endPromotion_of_copied hfail k))

/-- Settles O40, from the letters and the promotions. -/
theorem expertsMove : Obligations.ExpertsMove := ⟨promoteLettersAct, expertsArePromotedAndReleased⟩

end Sys2Proof
end

section
/-! GATHER: dealing, reading and pooling bags (R370 to R388). -/

namespace Sys2Proof.Machine
open Sys2Proof.Claims

variable {s : State}

/-! ## Dealing -/

theorem exec_gather {q : Fin 4096} {x : Letter} (h : s.startable q 5 = some x) (rd : ReadRes) :
    exec (.gather q rd) s = .next ((s.begun q x).startGather ⟨q, x.pm⟩ x rd) :=
  congrArg Host.Outcome.next (State.startWith_go h _ rfl _)

section
variable {l : LetterId} {x : Letter} {rd : ReadRes}

theorem State.startGather_of_code {c : Code} (h : s.gatherCheck l x rd = some c) :
    s.startGather l x rd =
      let g := gatherSpec x
      (s.contained (s.letterCtx l) (some l) c (s.winDetail (s.letterCtx l) [(g.offs * 64, 4), (g.offs * 64 + 4 * g.bags, 4)])).endLetter l
        { code := c } := by
  simp only [State.startGather, h]

theorem State.startGather_of_ok (h : s.gatherCheck l x rd = none) :
    s.startGather l x rd =
      let g := gatherSpec x
      (((s.winAccess (s.letterCtx l) (g.offs * 64) 4 false srcHub).winAccess (s.letterCtx l) (g.offs * 64 + 4 * g.bags) 4 false
        srcHub).setWork l (.gather 0 none)).each (((List.range g.selected.length).zip g.selected).filter (fun p => decide (p.1 < g.bags)))
          (fun s p => ({ s with srt := { s.srt with jobs := tabUpd [] s.srt.jobs p.2 (fun js =>
            js ++ [{ letter := l, next := p.1, step := g.selected.length }]) } } : State).srtNote p.2) := by
  simp only [State.startGather, h]

end

/-! ## Bags that start -/

section
variable {k slot : Nat} {j : GatherJob} {x : Letter}

/-- The next bag of a sorter leaves its job. -/
def State.takeJob (s : State) (k : Nat) (x : Letter) : State :=
  { s with srt := { s.srt with jobs := tabUpd [] s.srt.jobs k (nextJob (gatherSpec x).bags) } }

/-- A bag takes its slot with its rows and an empty accumulator. -/
def State.newBag (s : State) (k slot : Nat) (j : GatherJob) (ctx : Nat) (g : GatherSpec) (rows : List BagRow) : State :=
  (({ s with srt := { s.srt with bags := s.srt.bags ++ [{ k := k, slot := slot, letter := j.letter, bag := j.next, rows := rows
                                                          acc := List.replicate g.elems (if g.pool = 2 then f32NegInf else 0) }] } } :
    State).srtNote k).chargeBag k ctx g j.next rows.length

section
variable (hj : (tabGet [] s.srt.jobs k).head? = some j) (hslot : s.freeSlotOf k = some slot) (hx : s.letter j.letter = some x)
include hj hslot hx

/-- R375: the output cluster is in service, or the output goes to HBM. -/
theorem State.doBagStart_of_in (hready : ((gatherSpec x).outCs = false ∨ s.clusterIn (gatherSpec x).outSel = false) ∨
      s.residentOn (gatherSpec x).outSel (s.letterCtx j.letter) = true)
    (hin : (gatherSpec x).outCs = false ∨ s.clusterIn (gatherSpec x).outSel = true) :
    s.doBagStart k .clean = match (s.takeJob k x).bagRows (s.letterCtx j.letter) (gatherSpec x) j.next with
      | .ok rows => (s.takeJob k x).newBag k slot j (s.letterCtx j.letter) (gatherSpec x) rows
      | .error c =>
        let u := (s.takeJob k x).newBag k slot j (s.letterCtx j.letter) (gatherSpec x) []
        u.failBag k slot c (u.winDetail (s.letterCtx j.letter) (u.bagRanges (s.letterCtx j.letter) (gatherSpec x) j.next)) := by
  have hgone : ((gatherSpec x).outCs && !s.clusterIn (gatherSpec x).outSel) = false := by
    rcases hin with h | h <;> simp [h]
  have hgo : ((gatherSpec x).outCs && !false && !s.residentOn (gatherSpec x).outSel (s.letterCtx j.letter)) = false := by
    rcases hready with (h | h) | h <;> rcases hin with h' | h' <;> simp_all
  cases hrows : (s.takeJob k x).bagRows (s.letterCtx j.letter) (gatherSpec x) j.next with
  | ok rows =>
    unfold State.takeJob at hrows
    simp only [State.doBagStart, hj, hslot, hx, hgone, hgo, hrows, Bool.false_eq_true, if_false, reduceCtorEq]
    rfl
  | error c =>
    unfold State.takeJob at hrows
    simp only [State.doBagStart, hj, hslot, hx, hgone, hgo, hrows, Bool.false_eq_true, if_false, reduceCtorEq]
    rfl

/-- R375: the bag of a cluster out of service fails. -/
theorem State.doBagStart_of_out {rows : List BagRow} (hout : (gatherSpec x).outCs = true) (hgone : s.clusterIn (gatherSpec x).outSel = false)
    (hrows : (s.takeJob k x).bagRows (s.letterCtx j.letter) (gatherSpec x) j.next = .ok rows) :
    s.doBagStart k .clean =
      ((s.takeJob k x).newBag k slot j (s.letterCtx j.letter) (gatherSpec x) rows).failBag k slot codeUnitOutOfService [] := by
  unfold State.takeJob at hrows ⊢
  unfold State.newBag
  simp only [State.doBagStart, hj, hslot, hx, hout, hgone, hrows, Bool.not_false, Bool.not_true, Bool.and_true, Bool.and_false, Bool.false_and,
    Bool.false_eq_true, if_false, if_true]

end

end

/-! ## Requests of a bag -/

section
variable {k slot i : Nat} {b : Bag} {g : GatherSpec} {r : BagRow}

theorem exec_sorterRequestIssue {k : Fin 6} {slot : Fin 16} (hrun : s.run = true) (hb : s.bagAt k slot = some b) (hg : s.bagSpec b = some g) :
    exec (.sorterRequestIssue k slot .none) s = .next (s.bagIssue b g) := by
  refine congrArg Host.Outcome.next ((if_neg (by simp [State.clocked_of_run hrun])).trans ?_)
  simp only [hb, hg, hrun, if_true]

theorem State.bagIssue_of_miss {g' : GatherSpec} {sector : Nat} (h : s.openMiss b.k b.slot = some (g', sector)) :
    s.bagIssue b g = s.issueSector b.k b.slot g' sector := by
  simp only [State.bagIssue, h]

theorem State.bagIssue_of_full (hmiss : s.openMiss b.k b.slot = none) (hfull : b.full = true) (hleft : b.outIssued < g.outLines) :
    s.bagIssue b g = s.issueOut b g := by
  simp only [State.bagIssue, hmiss, hfull, if_true, if_pos hleft]

theorem State.bagIssue_of_row (hmiss : s.openMiss b.k b.slot = none) (hfull : b.full = false)
    (hi : b.rows.findIdx? (fun r => decide (r.issued < g.rowLines)) = some i) (hr : b.rows[i]? = some r) :
    s.bagIssue b g = if r.idx < g.hotRows then s.issueHot b g i r else s.issueCold b g i r := by
  simp only [State.bagIssue, hmiss, hfull, hi, hr, Bool.false_eq_true, if_false]

/-- R377: a hot row is read from HBM, up to 256 B at once. -/
theorem State.issueHot_of_mapped {a : Nat} (hfree : s.sorterFree b.k = true)
    (hheld : s.heldAt (s.region g.hot).owner ((s.region g.hot).base + g.rowAt r.idx r.issued) = false)
    (ha : s.translate (s.region g.hot).owner ((s.region g.hot).base + g.rowAt r.idx r.issued) = some a) :
    s.issueHot b g i r =
      let lines := chunkLines ((s.region g.hot).base + g.rowAt r.idx r.issued) (g.rowLines - r.issued)
      ((s.when (r.issued == 0) (fun s => s.count 4 b.k 0)).updBag b.k b.slot
        (fun x => x.updRow i (fun y => { y with issued := y.issued + lines }))).sorterReq b.k b.slot (i * 64 + r.issued) lines .read
          (some (hbmPort a)) a [] := by
  simp only [State.issueHot, hfree, hheld, ha, Bool.not_true, Bool.false_eq_true, if_false]

/-- R377, R389: a cold row's line is looked up, or asked of flash where there is no cache. -/
theorem State.issueCold_of_open (hbar : s.flashBar g.cold = none) (hfree : s.cacheSets = 0 ∨ s.sorterFree b.k = true) :
    s.issueCold b g i r =
      let x : Lookup := { k := b.k, slot := b.slot, row := i, line := r.issued }
      let t := (s.when (r.issued == 0) (fun s => s.count 4 b.k 1)).updBag b.k b.slot
        (fun y => y.updRow i (fun z => { z with issued := z.issued + 1 }))
      if s.cacheSets = 0 then t.coldMiss x
      else ({ t with srt := { t.srt with lookups := t.srt.lookups ++ [x] } } : State).srtNote b.k := by
  have hmay : ¬ (s.cacheSets ≠ 0 ∧ s.sorterFree b.k = false) := fun h => hfree.elim h.1 (Bool.eq_false_iff.1 h.2)
  simp only [State.issueCold, hbar, if_neg hmay]

/-- The lines of a bag's output that its next request writes. -/
def Bag.outPart (b : Bag) (g : GatherSpec) : Nat := chunkLines (g.outAt b.bag b.outIssued) (g.outLines - b.outIssued)

/-- Their bytes. -/
def Bag.outData (b : Bag) (g : GatherSpec) : List Byte := ((b.output g).drop (64 * b.outIssued)).take (64 * b.outPart g)

/-- R387: output lines are asked for. -/
def State.outAsked (s : State) (b : Bag) (g : GatherSpec) : State :=
  s.updBag b.k b.slot (fun x => { x with outIssued := b.outIssued + b.outPart g })

theorem State.issueOut_of_store (hfree : s.sorterFree b.k = true) (hstore : g.outCs = true) :
    s.issueOut b g = (s.outAsked b g).sorterReq b.k b.slot b.outIssued (b.outPart g) .write none
      (storeAddr g.outSel (g.outAt b.bag b.outIssued)) (b.outData g) := by
  simp only [State.issueOut, hfree, hstore, Bool.not_true, Bool.false_and, Bool.false_eq_true, if_false, if_true]
  rfl

theorem State.issueOut_of_hbm {a : Nat} (hfree : s.sorterFree b.k = true) (hhbm : g.outCs = false)
    (hheld : s.heldAt (s.letterCtx b.letter) (g.outAt b.bag b.outIssued) = false)
    (ha : s.translate (s.letterCtx b.letter) (g.outAt b.bag b.outIssued) = some a) :
    s.issueOut b g = (s.outAsked b g).sorterReq b.k b.slot b.outIssued (b.outPart g) .write (some (hbmPort a)) a (b.outData g) := by
  simp only [State.issueOut, hfree, hhbm, hheld, ha, Bool.not_true, Bool.and_false, Bool.false_eq_true, if_false]
  rfl

/-! ## Rows that arrive, and outputs that are acknowledged -/

/-- R381: the next row of a bag is here. -/
theorem State.doRowArrive_of_ready {rd : ReadRes} (hi : (List.range b.rows.length).find? (fun i => s.rowReady b g i) = some i)
    (hr : b.rows[i]? = some r) :
    s.doRowArrive b g rd =
      if g.hotRows ≤ r.idx then s.giveRow b g i (r.bytes g.rowLines)
      else
        let t := (s.each (s.rowReqs b i) (fun s q => s.dropReq q.tag)).readAll (s.rowReqs b i) rd
        match t.2 with
        | some a => (t.1.srtNote b.k).failBag b.k b.slot codeHbmUncorrectable (hbmDetail a 0)
        | none => (t.1.srtNote b.k).giveRow b g i (((s.rowReqs b i).map (fun q => memRead s.mem.hbm q.addr (64 * q.lines))).flatten) := by
  simp only [State.doRowArrive, hi, hr] <;> rfl

theorem exec_bagRowArrive {k : Fin 6} {slot : Fin 16} {rd : ReadRes} (hclk : s.clocked = true) (hb : s.bagAt k slot = some b)
    (hg : s.bagSpec b = some g) : exec (.bagRowArrive k slot rd) s = .next (s.doRowArrive b g rd) := by
  refine congrArg Host.Outcome.next ?_
  simp only [hb, hg, hclk, if_true]

theorem exec_bagOutputAck {k : Fin 6} {slot : Fin 16} (hclk : s.clocked = true) (hb : s.bagAt k slot = some b)
    (hg : s.bagSpec b = some g) : exec (.bagOutputAck k slot) s = .next (s.doOutputAck b g) := by
  refine congrArg Host.Outcome.next ?_
  simp only [hb, hg, hclk, if_true]

end

theorem Bag.output_of_rows {b : Bag} (h : 0 < b.rows.length) (g : GatherSpec) :
    b.output g = (convRow g.outFmt false 0 ((if g.pool = 1 then b.acc.map (fun a => f32Mul a (oneOver b.rows.length)) else b.acc).map f32Num)).1 := by
  simp only [Bag.output, if_neg (Nat.ne_of_gt h)]

end Sys2Proof.Machine

namespace Sys2Proof
open Sys2Proof.Machine Sys2Proof.Claims

/-- R370 to R376: the letter deals its bags, and a sorter starts its next one. -/
theorem gathersDealTheirBags : GathersDealTheirBags := by
  refine ⟨?letter, ?starts⟩
  case letter =>
    intro s q rd x hx u l g
    exact ⟨fun c hc => (exec_gather hx rd).trans (congrArg _ (State.startGather_of_code hc)),
      fun hok => (exec_gather hx rd).trans (congrArg _ (State.startGather_of_ok hok))⟩
  case starts =>
    intro s k j slot x hrun hj hslot hx g hready t bag
    have hstart {v : State} (h : s.doBagStart k .clean = v) : exec (.bagStart k .clean) s = .next v :=
      congrArg Host.Outcome.next ((if_pos hrun).trans h)
    have hgoes := State.doBagStart_of_in hj hslot hx hready
    refine ⟨fun hin rows hrows => hstart ((hgoes hin).trans ?_), fun hin c hc => hstart ((hgoes hin).trans ?_),
      fun hout hgone rows hrows => hstart (State.doBagStart_of_out hj hslot hx hout hgone hrows)⟩
    · rw [show (s.takeJob k x).bagRows (s.letterCtx j.letter) (gatherSpec x) j.next = .ok rows from hrows]
      rfl
    · rw [show (s.takeJob k x).bagRows (s.letterCtx j.letter) (gatherSpec x) j.next = .error c from hc]
      rfl

/-- R377 to R388: what a bag asks for, its rows and its output. -/
theorem bagsReadPoolAndEnd : BagsReadPoolAndEnd := by
  refine ⟨?rows, ?sector, ?output, ?arrives, ?acked⟩
  case rows =>
    intro s k slot b g i r hrun hb hg hmiss hfull hi hr note
    have hissue {t : State} (h : (if r.idx < g.hotRows then s.issueHot b g i r else s.issueCold b g i r) = t) :
        exec (.sorterRequestIssue k slot .none) s = .next t :=
      (exec_sorterRequestIssue hrun hb hg).trans (congrArg _ ((State.bagIssue_of_row hmiss hfull hi hr).trans h))
    refine ⟨fun a hhot hfree hheld ha => hissue ((if_pos hhot).trans (State.issueHot_of_mapped hfree hheld ha)),
      fun hcold hbar hsets hfree => hissue ((if_neg (Nat.not_lt.2 hcold)).trans ?cached),
      fun hcold hbar hsets => hissue ((if_neg (Nat.not_lt.2 hcold)).trans ?uncached)⟩
    case cached => exact (State.issueCold_of_open hbar (.inr hfree)).trans (if_neg hsets)
    case uncached => exact (State.issueCold_of_open hbar (.inl hsets)).trans (if_pos hsets)
  case sector =>
    intro s k slot b g g' sector hrun hb hg hmiss
    exact (exec_sorterRequestIssue hrun hb hg).trans (congrArg _ (State.bagIssue_of_miss hmiss))
  case output =>
    intro s k slot b g hrun hb hg hmiss hfull hleft hfree n off lines data t
    have hissue {t : State} (h : s.issueOut b g = t) : exec (.sorterRequestIssue k slot .none) s = .next t :=
      (exec_sorterRequestIssue hrun hb hg).trans (congrArg _ ((State.bagIssue_of_full hmiss hfull hleft).trans h))
    exact ⟨fun hstore => hissue (State.issueOut_of_store hfree hstore),
      fun a hhbm hheld ha => hissue (State.issueOut_of_hbm hfree hhbm hheld ha)⟩
  case arrives =>
    intro s k slot b g i r rd hclk hb hg hi hr
    have harrive {t : State} (h : s.doRowArrive b g rd = t) : exec (.bagRowArrive k slot rd) s = .next t :=
      (exec_bagRowArrive hclk hb hg).trans (congrArg _ h)
    have hrow := State.doRowArrive_of_ready (rd := rd) hi hr
    refine ⟨fun hcold => harrive (hrow.trans (if_pos hcold)), fun hhot => ?_⟩
    have hread := hrow.trans (if_neg (Nat.not_le.2 hhot))
    refine ⟨fun hgood => harrive (hread.trans ?_), fun a hbad => harrive (hread.trans ?_)⟩
    · simp only [hgood]
    · simp only [hbad]
  case acked =>
    intro s k slot b g hclk hb hg hfull hissued qs hgranted hgood
    refine (exec_bagOutputAck hclk hb hg).trans (congrArg _ ((if_neg ?done).trans (if_neg ?good)))
    case done =>
      rintro (hopen | hleft | hwaits)
      · simp [hfull] at hopen
      · exact Nat.not_lt.2 hissued hleft
      · exact Bool.eq_false_iff.1 hgranted hwaits
    case good =>
      rintro ⟨hhbm, hout⟩
      rcases hgood with hstore | hin
      · simp [hstore] at hhbm
      · exact Bool.eq_false_iff.1 hin hout

/-- R382, by POOL. -/
theorem poolingFollowsItsMode : PoolingFollowsItsMode := by
  refine ⟨fun w acc x => ⟨rfl, rfl, rfl, rfl⟩, fun b g hrows => ⟨fun hmean => ?_, fun hother => ?_⟩⟩
  · rw [Bag.output_of_rows hrows, if_pos hmean]
  · rw [Bag.output_of_rows hrows, if_neg hother]

/-- Settles O41, from the dealing, the reads and the pooling. -/
theorem gathersPool : Obligations.GathersPool := ⟨gathersDealTheirBags, bagsReadPoolAndEnd, poolingFollowsItsMode⟩

end Sys2Proof
end

section
/-! The sorter cache: lookups, sectors and the driver's invalidations (R389 to R398). -/

namespace Sys2Proof.Machine

variable {s : State}

/-! ## Lookups -/

/-- A lookup is taken from the sorter that asked for it. -/
def State.takeLookup (s : State) (x : Lookup) : State :=
  ({ s with srt := { s.srt with lookups := removeFirst (fun y => y == x) s.srt.lookups } } : State).srtNote x.k

section
variable {x : Lookup} {ue : Bool} {g : GatherSpec} {off : Nat} (hx : (s.takeLookup x).lookupAt x = some (g, off))
include hx

/-- The set of the line that a lookup asks for. -/
def State.lookupSet (s : State) (g : GatherSpec) (off : Nat) : Nat := cacheSet s.cacheSets (off / 64) g.cold

/-- The state and the outcome of reading the set's tag line. -/
def State.readTags (s : State) (set : Nat) : State × Bool := s.storeReads (set % 16) [s.setLine set] .clean

/-- R391: every way of a set whose tag line cannot be read is dropped. -/
theorem State.doCacheLookup_of_lostTags (htag : ((s.takeLookup x).readTags ((s.takeLookup x).lookupSet g off)).2 = true) :
    s.doCacheLookup x ue =
      let t := s.takeLookup x
      let set := t.lookupSet g off
      ((((t.readTags set).1.setCache set []).count 4 x.k 5).count 4 x.k 3).coldMiss x := by
  unfold State.takeLookup at hx htag
  simp only [State.doCacheLookup, hx]
  exact if_pos htag

section
variable (htag : ((s.takeLookup x).readTags ((s.takeLookup x).lookupSet g off)).2 = false)
include htag

theorem State.doCacheLookup_of_miss (hmiss : ((s.takeLookup x).cacheWays ((s.takeLookup x).lookupSet g off)).find?
    (fun w => w.region == g.cold && w.line == off / 64) = none) :
    s.doCacheLookup x ue =
      let t := s.takeLookup x
      ((t.readTags (t.lookupSet g off)).1.count 4 x.k 3).coldMiss x := by
  unfold State.takeLookup at hx htag hmiss
  unfold State.lookupSet at hmiss
  simp only [State.doCacheLookup, hx, hmiss]
  exact if_neg (Bool.eq_false_iff.1 htag)

/-- R390, R391: a way that holds the line gives it, or is dropped where it cannot be read. -/
theorem State.doCacheLookup_of_hit {w} (hhit : ((s.takeLookup x).cacheWays ((s.takeLookup x).lookupSet g off)).find?
    (fun w => w.region == g.cold && w.line == off / 64) = some w) :
    s.doCacheLookup x ue =
      let t := s.takeLookup x
      let set := t.lookupSet g off
      let rest := removeFirst (fun y => y == w) (t.cacheWays set)
      let u := (t.readTags set).1
      let data := u.storeReads (set % 16) [u.setLine set + 1 + w.way] (if ue then .uncorrectable else .clean)
      if data.2 then (((data.1.setCache set rest).count 4 x.k 5).count 4 x.k 3).coldMiss x
      else ((data.1.setCache set (rest ++ [w])).count 4 x.k 2).giveLine x
        (u.storeRead (set % 16) ((u.setLine set + 1 + w.way) * 64) 64) := by
  unfold State.takeLookup at hx htag hhit
  unfold State.lookupSet at hhit
  simp only [State.doCacheLookup, hx, hhit]
  exact if_neg (Bool.eq_false_iff.1 htag)

end

end

/-! ## Sectors -/

/-- A sector's read is over. -/
def State.takeSector (s : State) (k : Nat) (r : Req) : State :=
  let t : State := { s.dropReq r.tag with srt := { (s.dropReq r.tag).srt with
    stale := (s.dropReq r.tag).srt.stale.filter (fun (t : Nat) => t != r.tag) } }
  ((t.srtNote k).count 4 k 6).flashTouch (r.item - 16) r.addr

/-- R394, R395: a sector that no bag waits for any more arrives clean. -/
theorem State.doSector_of_clean {k : Nat} {r : Req} (hnone : s.sectorBags k (r.item - 16) (r.addr / 4096) = [])
    (hlate : (s.takeSector k r).lateBar (r.item - 16) = none)
    (hin : (s.takeSector k r).fl.chOut.contains (unitChannel (s.region (r.item - 16)).home (r.addr / 65536)) = false) :
    s.doSector k r .clean = (s.takeSector k r).sectorHere k (r.item - 16) (r.addr / 4096) (s.srt.stale.contains r.tag)
      ((s.takeSector k r).flashRead (r.item - 16) r.addr 4096) := by
  unfold State.takeSector at hlate hin ⊢
  simp only [State.doSector, hlate, hin, hnone, List.isEmpty_nil, Bool.false_eq_true, or_false, if_false, if_true, reduceCtorEq]

theorem exec_cacheLookup {k : Fin 6} {slot : Fin 16} {x : Lookup} (hclk : s.clocked = true)
    (hx : s.srt.lookups.find? (fun x => x.k == k.val && x.slot == slot.val) = some x) (ue : Bool) :
    exec (.cacheLookup k slot ue) s = .next (s.doCacheLookup x ue) := by
  refine congrArg Host.Outcome.next ?_
  simp only [hx, hclk, if_true]

theorem exec_sectorReadReturn {k : Fin 6} {tag : Nat} {r : Req} (hclk : s.clocked = true) (hr : s.answerable (.sorter k) tag = some r)
    (hitem : 16 ≤ r.item) (rd : ReadRes) : exec (.sectorReadReturn k tag rd) s = .next (s.doSector k r rd) := by
  refine congrArg Host.Outcome.next ?_
  simp only [hr, if_pos (And.intro hclk hitem)]

/-! ## Invalidations -/

theorem State.invDone_of_ne_nil (h : s.srt.inv ≠ []) :
    s.invDone = ({ s with srt := { s.srt with inv := [] } } : State).setFld .srtCacheCtl fSrtCacheCtlBusy 0 0 := by
  obtain ⟨r, rs, hr⟩ := List.exists_cons_of_ne_nil h
  simp only [State.invDone, hr]

end Sys2Proof.Machine

namespace Sys2Proof
open Sys2Proof.Machine

/-- Settles O42: a lookup by the tag line and the ways of its set, a sector, and the driver's invalidations. -/
theorem cacheLooksUpFillsAndInvalidates : Obligations.CacheLooksUpFillsAndInvalidates := by
  refine ⟨?lookup, ?sector, ?invalidates⟩
  case lookup =>
    intro s k slot x ue g off hclk hx t hline set ws hit tag
    have hlookup {u : State} (h : s.doCacheLookup x ue = u) : exec (.cacheLookup k slot ue) s = .next u :=
      (exec_cacheLookup hclk hx ue).trans (congrArg _ h)
    refine ⟨fun hlost => hlookup (State.doCacheLookup_of_lostTags hline hlost),
      fun htag hmiss => hlookup (State.doCacheLookup_of_miss hline htag hmiss), fun w htag hhit => ?_⟩
    have hway := State.doCacheLookup_of_hit (ue := ue) hline htag hhit
    exact ⟨fun hgood => hlookup (hway.trans (if_neg (Bool.eq_false_iff.1 hgood))), fun hbad => hlookup (hway.trans (if_pos hbad))⟩
  case sector =>
    intro s k tag region sector rd r hclk hr hitem hregion hsector hnone hrd t u hlate hin
    subst hregion hsector hrd
    exact (exec_sectorReadReturn hclk hr hitem .clean).trans (congrArg _ (State.doSector_of_clean hnone hlate hin))
  case invalidates =>
    intro s hclk begins
    exact ⟨congrArg Host.Outcome.next (if_pos hclk), fun r hr => congrArg Host.Outcome.next (if_pos ⟨hclk, hr⟩),
      fun hinv => congrArg Host.Outcome.next ((if_pos hclk).trans (State.invDone_of_ne_nil hinv))⟩

end Sys2Proof
end

section
/-! Olila ports: training, the repair of lanes, and keys (R423 to R428, R434, R701 to R704). -/

namespace Sys2Proof.Machine
open Sys2Proof.Claims

variable {s : State} {p : Nat}

/-! ## Training -/

section
variable {peer : PeerInfo} (hclk : s.clocked = true) (hstate : s.portState p = 1)
include hclk hstate

/-- Table 11-2, by the step under way. -/
theorem State.trainStep_of_training :
    s.trainStep p peer =
      if (s.port p).step = 1 then
        if 2 ≤ peer.badLanes.eraseDups.length ∨ 2 ≤ peer.badTx.eraseDups.length then s.portDown p codeLinkDown 3
        else
          let t := match peer.badLanes.head? with
            | some lane => (s.setFld .olaPortStatus fOlaPortStatusSpareRx p 1).setFld .olaPortStatus fOlaPortStatusSpareRxLane p lane.val
            | none => s
          let t := match peer.badTx.head? with
            | some lane => (t.setFld .olaPortStatus fOlaPortStatusSpareTx p 1).setFld .olaPortStatus fOlaPortStatusSpareTxLane p lane.val
            | none => t
          t.updPort p (fun x => { x with step := 2 })
      else if (s.port p).step = 2 then
        (s.updPort p (fun x => { x with step := 3 })).emit (.train p s.die (s.portEnc p) (s.reg .olaRouteEpoch))
      else
        let u := ((s.setFld .olaPortStatus fOlaPortStatusPeerDie p peer.die.toNat).setFld .olaPortStatus fOlaPortStatusPeerPort p
          peer.port.toNat).updPort p (fun x => { x with peerEpoch := peer.epoch })
        if peer.enc ≠ u.portEnc p ∨ peer.die.toNat = u.die then u.portDown p codeLinkDown 3
        else if u.portEnc p then ((u.updPort p (fun x => { x with step := 4 })).setPortState p 2).keyStart p
        else u.activatePort p :=
  if_neg (by simp [hclk, hstate])

/-- R424: step 1 with no more than one bad lane in each direction. -/
theorem State.trainStep_one (hstep : (s.port p).step = 1) (hfew : peer.badLanes.length ≤ 1 ∧ peer.badTx.length ≤ 1) :
    s.trainStep p peer =
      let t := match peer.badLanes.head? with
        | some lane => (s.setFld .olaPortStatus fOlaPortStatusSpareRx p 1).setFld .olaPortStatus fOlaPortStatusSpareRxLane p lane.val
        | none => s
      let t := match peer.badTx.head? with
        | some lane => (t.setFld .olaPortStatus fOlaPortStatusSpareTx p 1).setFld .olaPortStatus fOlaPortStatusSpareTxLane p lane.val
        | none => t
      t.updPort p (fun x => { x with step := 2 }) := by
  have hdups (l : List (Fin 8)) (hl : l.length ≤ 1) : l.eraseDups.length ≤ 1 := by
    match l, hl with
    | [], _ => exact Nat.zero_le 1
    | [_], _ => exact Nat.le_refl 1
  have hrx := hdups _ hfew.1
  have htx := hdups _ hfew.2
  exact (State.trainStep_of_training hclk hstate).trans ((if_pos hstep).trans (if_neg (by omega)))

end

theorem State.trainTimeout_of_training (h : s.portState p = 1) : s.trainTimeout p = s.portDown p codeLinkDown 3 := by
  simp only [State.trainTimeout, h]

theorem State.trainTimeout_of_keying (h : s.portState p = 2) : s.trainTimeout p = s.portDown p codeLinkAuthFail 4 := by
  simp only [State.trainTimeout, h]

theorem State.trainTimeout_of_repair (h : s.portState p = 4) : s.trainTimeout p = s.portDown p codeLinkDown 3 := by
  simp only [State.trainTimeout, h]

/-! ## Lanes -/

section
variable {lane : Nat} (hclk : s.clocked = true)
include hclk

/-- R425: a receiving lane fails, other than the one under repair. -/
theorem State.laneFails_of_other (hstate : s.portState p = 3 ∨ s.portState p = 4 ∧ (s.port p).repairLane ≠ some lane) :
    s.laneFails p lane =
      if s.fld .olaPortStatus fOlaPortStatusSpareRx p = 1 ∨ (s.port p).repairLane.isSome then s.portDown p codeLinkDown 1
      else ((s.setPortState p 4).updPort p (fun x => { x with repairLane := some lane, agreed := false, step := 2 })).emit
        (.control p 2 lane 0 (s.port p).ackNo) := by
  refine if_neg ?_
  rcases hstate with h | ⟨h, hlane⟩
  · simp [hclk, h]
  · simp [hclk, h, hlane]

/-- R425: the peer agrees to the repair that this end asked for. -/
theorem State.repairFrame_of_agreed (hstate : s.portState p = 4) (hlane : (s.port p).repairLane = some lane)
    (hopen : (s.port p).agreed = false) :
    s.repairFrame p lane =
      ((s.setFld .olaPortStatus fOlaPortStatusSpareRx p 1).setFld .olaPortStatus fOlaPortStatusSpareRxLane p lane).updPort p
        (fun x => { x with agreed := true }) :=
  (if_neg (by simp [hclk, hstate])).trans (if_pos ⟨hstate, hlane, hopen⟩)

/-- R425: the peer asks for a repair while its own spare is free. -/
theorem State.repairFrame_of_asked (hstate : s.portState p = 3) (hspare : s.fld .olaPortStatus fOlaPortStatusSpareTx p ≠ 1) :
    s.repairFrame p lane =
      ((((s.setPortState p 4).setFld .olaPortStatus fOlaPortStatusSpareTx p 1).setFld .olaPortStatus fOlaPortStatusSpareTxLane p lane).updPort p
        (fun x => { x with agreed := x.repairLane.isNone || x.agreed, step := 2 })).emit (.control p 2 lane 0 (s.port p).ackNo) :=
  (if_neg (by simp [hclk, hstate])).trans ((if_neg (by simp [hstate])).trans (if_neg hspare))

end

/-! ## Keys -/

/-- R701: message 1 at a responder that keys with no one. -/
theorem State.key1_of_idle {m : KeyMsg} (hon : s.keyingOn = true) (henc : s.portEnc p = true) (hstate : s.portState p = 2 ∨ s.portState p = 3)
    (hresp : s.initiator p = false) (hidle : (s.port p).keying = .idle) :
    s.key1 p m =
      if s.peerOk p m (message1Signed (s.fld .olaPortStatus fOlaPortStatusPeerDie p) s.die
          (s.fld .olaPortStatus fOlaPortStatusPeerPort p) p m.body m.rand) then
        let r := s.rand256
        let e := Config.mlkemEncap m.body r.2.drawn
        let h := keyDigest (keyMsgBytes m) e.1 r.1
        let z := keySecrets e.2 h
        (({ r.2 with drawn := r.2.drawn + 1, sec := { r.2.sec with signs := r.2.sec.signs + 1 } } : State).updPort p (fun x => { x with
          keying := .wait4, newRx := z.1, newTx := z.2.1, newRxSalt := z.2.2.1, newTxSalt := z.2.2.2 })).emit (.keyMsg p 2
            { pub := Config.identityKey, body := e.1, rand := r.1
              sig := Config.mldsaSign (ascii "SV2-OLA") (leBytes 32 h.toNat) r.2.sec.signs })
      else s.portDown p codeLinkAuthFail 4 := by
  have hgo : (!s.keyingOn || !s.portEnc p || (s.portState p != 2 && s.portState p != 3) || s.initiator p || (s.port p).keying != .idle) = false := by
    rcases hstate with h | h <;> simp [hon, henc, h, hresp, hidle]
  refine (if_neg (Bool.eq_false_iff.1 hgo)).trans ?_
  cases hok : s.peerOk p m (message1Signed (s.fld .olaPortStatus fOlaPortStatusPeerDie p) s.die
    (s.fld .olaPortStatus fOlaPortStatusPeerPort p) p m.body m.rand) with
  | false => rfl
  | true => rfl

/-- R701, R702: message 2 at the initiator that waits for it. -/
theorem State.key2_of_wait {m : KeyMsg} (hclk : s.clocked = true) (hfw : s.fwOn 0 = true) (hwait : (s.port p).keying = .wait2) :
    s.key2 p m =
      let h := keyDigest (s.port p).msg1 m.body m.rand
      match (if s.peerOk p m (leBytes 32 h.toNat) then Config.mlkemDecap (s.port p).kemDraw m.body else none) with
      | none => s.portDown p codeLinkAuthFail 4
      | some k =>
        let z := keySecrets k h
        let m4 : Out := .keyMsg p 4 { pub := [], body := [], rand := 0, sig := [] }
        if s.portState p = 3 then
          (s.updPort p (fun x => { x with keying := .idle, msg1 := [], kemDraw := 0, txKey := z.1, txSalt := z.2.2.1, keyPhase := !x.keyPhase
                                          counter := 1, newRx := z.2.1, newRxSalt := z.2.2.2, pendingRx := true })).emit m4
        else ((s.updPort p (fun x => { x with keying := .idle, msg1 := [], kemDraw := 0, txKey := z.1, txSalt := z.2.2.1, keyPhase := false
                                              counter := 1, rxKey := z.2.1, rxSalt := z.2.2.2, rxPhase := false, rxCounter := 0 })).emit
          m4).activatePort p :=
  if_neg (by simp [hclk, hfw, hwait])

section
variable (hclk : s.clocked = true) (hwait : (s.port p).keying = .wait4)
include hclk hwait

theorem State.key4_of_bad : s.key4 p false = s.portDown p codeLinkAuthFail 4 :=
  (if_neg (by simp [hclk, hwait])).trans (if_pos rfl)

/-- R702: message 4 loads the responder's keys, with the other key phase on an active port. -/
theorem State.key4_of_good :
    s.key4 p true =
      let again := s.portState p == 3
      let t := s.updPort p (fun x => { x with
        keying := .idle, txKey := x.newTx, txSalt := x.newTxSalt, rxKey := x.newRx, rxSalt := x.newRxSalt
        newTx := 0, newRx := 0, newTxSalt := 0, newRxSalt := 0, counter := 0, rxCounter := 1
        keyPhase := again && !x.keyPhase, rxPhase := again && !x.rxPhase })
      if again then t else t.activatePort p :=
  (if_neg (by simp [hclk, hwait])).trans (if_neg (by simp))

end

end Sys2Proof.Machine

namespace Sys2Proof
open Sys2Proof.Machine Sys2Proof.Claims

/-- Table 11-2, R423, R424, R427, R428 and R703. -/
theorem portsTrain : PortsTrain := by
  intro s p peer hclk
  have htimeout {t : State} (h : s.trainTimeout p = t) : exec (.olaTrainTimeout p) s = .next t := congrArg Host.Outcome.next ((if_pos hclk).trans h)
  refine ⟨fun hstate hstep => ⟨fun hmany => ?many, fun hrx htx => ?clean, fun lane hrx htx => ?receiving, fun lane hrx htx => ?transmitting⟩,
    fun hstate hstep => ?numbers, fun hstate hstep => ?peer, fun hstate => htimeout (State.trainTimeout_of_training hstate),
    fun hstate => htimeout (State.trainTimeout_of_keying hstate), fun hstate => htimeout (State.trainTimeout_of_repair hstate),
    fun hstate hauto => congrArg Host.Outcome.next (if_pos ⟨hclk, hstate, hauto⟩)⟩
  case many => exact congrArg Host.Outcome.next ((State.trainStep_of_training hclk hstate).trans ((if_pos hstep).trans (if_pos hmany)))
  case clean => exact congrArg Host.Outcome.next ((State.trainStep_one hclk hstate hstep (by simp [hrx, htx])).trans (by rw [hrx, htx]; rfl))
  case receiving => exact congrArg Host.Outcome.next ((State.trainStep_one hclk hstate hstep (by simp [hrx, htx])).trans (by rw [hrx, htx]; rfl))
  case transmitting => exact congrArg Host.Outcome.next ((State.trainStep_one hclk hstate hstep (by simp [hrx, htx])).trans (by rw [hrx, htx]; rfl))
  case numbers =>
    exact congrArg Host.Outcome.next ((State.trainStep_of_training hclk hstate).trans ((if_neg (by simp [hstep])).trans (if_pos hstep)))
  case peer =>
    intro u
    have hthree := (State.trainStep_of_training (peer := peer) hclk hstate).trans ((if_neg (by simp [hstep])).trans (if_neg (by simp [hstep])))
    have hagree (henc : peer.enc = u.portEnc p) (hdie : peer.die.toNat ≠ u.die) : ¬ (peer.enc ≠ u.portEnc p ∨ peer.die.toNat = u.die) :=
      fun h => h.elim (fun hne => hne henc) hdie
    exact ⟨fun hbad => congrArg Host.Outcome.next (hthree.trans (if_pos hbad)),
      fun henc hdie hplain => congrArg Host.Outcome.next (hthree.trans ((if_neg (hagree henc hdie)).trans (if_neg (Bool.eq_false_iff.1 hplain)))),
      fun henc hdie hcrypt => congrArg Host.Outcome.next (hthree.trans ((if_neg (hagree henc hdie)).trans (if_pos hcrypt)))⟩

/-- R425 and R426. -/
theorem lanesAreRepaired : LanesAreRepaired := by
  intro s p lane hclk fails
  have hlane {t : State} (h : s.laneFails p lane = t) : exec (.laneErrorLimit p lane) s = .next t ∧ exec (.laneLockLoss p lane) s = .next t :=
    ⟨congrArg Host.Outcome.next h, congrArg Host.Outcome.next h⟩
  refine ⟨fun hstate hspare hfree => hlane ?asks, fun hstate hspare => hlane ?spent, fun l hstate hl hother => hlane ?second,
    fun hstate hl hopen => congrArg Host.Outcome.next (State.repairFrame_of_agreed hclk hstate hl hopen),
    fun hstate hspare => congrArg Host.Outcome.next (State.repairFrame_of_asked hclk hstate hspare),
    fun hstate hagreed => congrArg Host.Outcome.next (if_pos ⟨hclk, hstate, hagreed⟩)⟩
  case asks => exact (State.laneFails_of_other hclk (.inl hstate)).trans (if_neg (by simp [hspare, hfree]))
  case spent => exact (State.laneFails_of_other hclk (.inl hstate)).trans (if_pos (.inl hspare))
  case second =>
    exact (State.laneFails_of_other hclk (.inr ⟨hstate, by simp [hl, hother]⟩)).trans (if_pos (.inr (by simp [hl])))

/-- Table 17-7, R434 and R701 to R704. -/
theorem portsAgreeOnKeys : PortsAgreeOnKeys := by
  refine ⟨fun s p hclk henc hstate hcount => congrArg Host.Outcome.next (if_pos ⟨hclk, henc, hstate, hcount⟩),
    fun s p m hon henc hstate hresp hidle => congrArg Host.Outcome.next (State.key1_of_idle hon henc hstate hresp hidle),
    fun s p m hclk hfw hwait => congrArg Host.Outcome.next (State.key2_of_wait hclk hfw hwait), fun s p hclk hwait =>
      ⟨congrArg Host.Outcome.next (State.key4_of_bad hclk hwait), fun hnew => congrArg Host.Outcome.next ?new,
        fun hactive => congrArg Host.Outcome.next ?again⟩⟩
  case new =>
    refine (State.key4_of_good hclk hwait).trans ?_
    rw [beq_eq_false_iff_ne.2 hnew]
    rfl
  case again =>
    refine (State.key4_of_good hclk hwait).trans ?_
    rw [beq_iff_eq.2 hactive]
    rfl

/-- Settles O43, from the training, the repairs and the keys. -/
theorem olilaPortsComeUp : Obligations.OlilaPortsComeUp := ⟨portsTrain, lanesAreRepaired, portsAgreeOnKeys⟩

end Sys2Proof
end

section
/-! Olila ports: frames sent, resent and taken up (R429 to R436, R446 to R461). -/

namespace Sys2Proof.Machine
open Sys2Proof.Claims

variable {s : State} {p : Nat}

/-! ## Frames that leave -/

theorem exec_frameTransmit {p : Fin 12} (hclk : s.clocked = true) (hstate : s.portState p = 3) :
    exec (.frameTransmit p) s = .next (s.transmit p) :=
  congrArg Host.Outcome.next (if_pos (by simp [hclk, hstate]))

/-- R432: a frame that is to be resent goes first. -/
theorem State.transmit_of_again {f : Frame} {rest : List Frame} (h : (s.port p).again = f :: rest) :
    s.transmit p =
      (((s.updPort p (fun x => { x with again := rest })).emit (.frame p f (frameWords f))).count 7 p 3).countBw (22 + p) 1 (frameBeats f) := by
  simp only [State.transmit, h]

/-- R430 to R436: a new frame takes a credit, its number and, encrypted, its COUNTER, and is kept. -/
theorem State.transmit_of_new {v : Nat} {i} (hagain : (s.port p).again = []) (hroom : (s.port p).replay.length < 128)
    (hpick : (s.port p).pick (s.portEnc p) = some (v, i)) :
    s.transmit p =
      let f := (s.port p).wire (s.portEnc p) i
      let u := s.updPort p (fun x => { x with
        tx := removeFirst (fun j => j == i) x.tx
        last := x.last.set v i.src
        credits := x.credits.modify v (· - 1)
        passed3 := if v = 3 then 0 else if (v != 3 && (s.port p).tx.any (fun j => frameVc j.frame == 3)) then x.passed3 + 1 else x.passed3
        nextSeq := (x.nextSeq + 1) % 4096
        counter := if s.portEnc p then x.counter + 1 else x.counter
        replay := x.replay ++ [f] })
      let w := ((((u.emit (.frame p f (frameWords f))).count 7 p 0).count 7 p 5 (64 * f.lines.toNat)).count 7 p 6 f.payload.length).countBw
        (22 + p) 0 (frameBeats f)
      if i.src < 32 then w.countCtx f.ctx.toNat 8 f.payload.length else w := by
  simp only [State.transmit, hagain, if_neg (Nat.not_le.2 hroom), hpick]

/-- NAKs in a row for one number, that of the next included. -/
def OlaPort.naksWith (x : OlaPort) (n : Nat) : Nat := if x.nakSeq = n ∧ x.naks ≠ 0 then x.naks + 1 else 1

/-- R432: a NAK that names a frame that is kept. -/
theorem State.nakFrame_of_kept {n : Nat} (hclk : s.clocked = true) (husable : s.portUsable p = true)
    (hkept : (s.port p).replay.any (fun f => frameSn f == n) = true) :
    s.nakFrame p n =
      if 8 ≤ (s.port p).naksWith n then s.portDown p codeLinkDown 2
      else s.updPort p (fun x => { x with
        replay := x.replay.dropWhile (fun f => frameSn f != n), again := x.replay.dropWhile (fun f => frameSn f != n)
        nakSeq := n, naks := (s.port p).naksWith n }) :=
  if_neg (by simp [hclk, husable, hkept])

/-! ## Frames that arrive -/

section
variable {f : Frame}

/-- R446: a WRITE, once its payload is unpacked. -/
theorem State.writeArrive_of_code {c : Code}
    (h : (s.unpack p f.ctx.toNat f (fun i => f.addr.toNat + 64 * i)).1.windowBars f.ctx.toNat f.addr.toNat (64 * f.lines.toNat) true = some c) :
    s.writeArrive p f = (s.unpack p f.ctx.toNat f (fun i => f.addr.toNat + 64 * i)).1.answer f c [] false := by
  simp only [State.writeArrive, h]

theorem State.writeArrive_of_ok
    (h : (s.unpack p f.ctx.toNat f (fun i => f.addr.toNat + 64 * i)).1.windowBars f.ctx.toNat f.addr.toNat (64 * f.lines.toNat) true = none) :
    s.writeArrive p f =
      let v := s.unpack p f.ctx.toNat f (fun i => f.addr.toNat + 64 * i)
      let w := v.1.newOutside (.frameWrite f v.2)
      if f.lines.toNat = 0 then v.1.answer f codeOk [] false
      else w.2.askLines (srcOlila p) w.1 f.ctx.toNat f.addr.toNat f.lines.toNat 0 f.lines.toNat := by
  simp only [State.writeArrive, h]

/-- R429: a READ_REQ of 1 to 32 lines. -/
theorem State.readArrive_of_lines (hlo : 0 < f.arg.toNat) (hhi : f.arg.toNat ≤ 32) :
    s.readArrive p f = match s.windowBars f.ctx.toNat f.addr.toNat (64 * f.arg.toNat) false with
      | some c => s.answer f c [] false
      | none =>
        let w := s.newOutside (.frameRead f [] false)
        w.2.askLines (srcOlila p) w.1 f.ctx.toNat f.addr.toNat f.arg.toNat 0 f.arg.toNat :=
  if_neg (by omega)

/-! ### Responses -/

section
variable {rr : RemoteReq} {q : Req} {k : Nat} (hkeep : f.tag.toNat ≠ lostTag)
  (hrr : s.ola.remote.find? (fun r => r.tag == f.tag.toNat && r.die == f.src.toNat) = some rr)
  (hq : s.mv.reqs.find? (fun q => q.tag == f.tag.toNat) = some q) (hk : rr.agent = .courier k)
include hkeep hrr hq hk

theorem State.responseArrive_of_bad (hcode : frameCode f ≠ codeOk) : s.responseArrive p f = s.endRemote f.tag.toNat (frameCode f) := by
  simp only [State.responseArrive, if_neg hkeep, hrr, hq, hk, if_pos hcode]

section
variable {d : CDesc} (hcode : frameCode f = codeOk) (hd : s.desc k q.item = some d)
include hcode hd

/-- The payload of a courier's RESPONSE. -/
def State.remoteBytes (s : State) (p : Nat) (f : Frame) (d : CDesc) (q : Req) : State × List Byte :=
  s.unpack p d.ctx f (fun i => d.desc.dstLine (q.line + i))

/-- A RESPONSE takes its request off the courier. -/
def State.remoteOver (s : State) (p : Nat) (f : Frame) (d : CDesc) (q : Req) (k : Nat) : State :=
  let v := (s.remoteBytes p f d q).1
  (({ v with ola := { v.ola with remote := v.ola.remote.filter (fun (y : RemoteReq) => y.tag != f.tag.toNat) } } : State).dropReq
    f.tag.toNat).crrNote k

theorem State.responseArrive_of_write (hcls : q.cls = .write) :
    s.responseArrive p f = ((((s.remoteOver p f d q k).count (if k < 16 then 1 else 2) (if k < 16 then k else k - 16) 1 q.lines).countCtx
      d.ctx 5 q.lines).updDesc k d.id (fun x => { x with
        acked := x.acked + q.lines, acks := tabUpd 0 x.acks rr.die (· + q.lines) })).settleDesc k d.id [] := by
  unfold State.remoteOver State.remoteBytes
  simp only [State.responseArrive, if_neg hkeep, hrr, hq, hk, hd, hcode, hcls, ne_eq, not_true_eq_false, if_false, if_true]

theorem State.responseArrive_of_read (hcls : q.cls ≠ .write) (hfail : d.fail = none) (hfeed : d.desc.feedCluster = none) :
    s.responseArrive p f = ((s.remoteOver p f d q k).count (if k < 16 then 1 else 2) (if k < 16 then k else k - 16) 0 q.lines).updDesc k d.id
      (fun x => { x with buf := x.buf ++ splitLines q.lines q.line (padBytes (64 * q.lines) (s.remoteBytes p f d q).2) }) := by
  unfold State.remoteOver State.remoteBytes
  simp only [State.responseArrive, if_neg hkeep, hrr, hq, hk, hd, hcode, if_neg hcls, hfail, hfeed, ne_eq, not_true_eq_false, if_false,
    Option.isSome_none, Bool.false_eq_true]

end

end

/-! ### Signals, TIME and COLL frames -/

/-- The operation of a SIGNAL frame. -/
def frameSop (n : Nat) : Option Sop :=
  match n with
  | 0 => some .add
  | 1 => some .sub
  | 2 => some .set
  | _ => none

/-- R448: a SIGNAL that names an object here. -/
theorem State.signalArrive_of_some {op : Sop} {k : ObjKey} (hop : frameSop (f.addr.toNat / 2 ^ 20 % 4) = some op)
    (href : (BitVec.ofNat 20 f.addr.toNat).toNat / 2 ^ 18 = 2) (hk : s.resolveRef f.ctx.toNat 0 0 (BitVec.ofNat 20 f.addr.toNat) = some k) :
    s.signalArrive f = s.sendSync { who := .frame, act := .signal op, key := k, ref := BitVec.ofNat 20 f.addr.toNat
                                    cl := 0, mem := 0, value := BitVec.ofNat 32 f.arg.toNat, q := 0 } := by
  have heq : s.signalArrive f = match frameSop (f.addr.toNat / 2 ^ 20 % 4), (if (BitVec.ofNat 20 f.addr.toNat).toNat / 2 ^ 18 = 2 then
      s.resolveRef f.ctx.toNat 0 0 (BitVec.ofNat 20 f.addr.toNat) else none) with
    | some op, some k =>
      s.sendSync { who := .frame, act := .signal op, key := k, ref := BitVec.ofNat 20 f.addr.toNat, cl := 0, mem := 0
                   value := BitVec.ofNat 32 f.arg.toNat, q := 0 }
    | _, _ => s := rfl
  rw [heq, hop, if_pos href, hk]

/-- The letter that waits for a TIME reply. -/
def State.timeWaiter (s : State) (tag : Nat) : Option (LetterId × Letter) :=
  s.liveLetters.find? (fun e => match e.2.work with
    | .time w => w.tag + timeReply == tag
    | _ => false)

/-- R461: a reply ends its round. -/
theorem State.timeArrive_of_reply {l : LetterId} {x : Letter} {w} (hreply : timeReply ≤ f.tag.toNat)
    (hwait : s.timeWaiter f.tag.toNat = some (l, x)) (hwork : x.work = .time w) :
    s.timeArrive f = s.timeRound l w.round w.t1 f.addr f.arg (s.reg .olaFclkNow) := by
  have heq : s.timeArrive f = if f.tag.toNat < timeReply then
        (s.sendFrame 20 (s.mkFrame 5 f.src.toNat f.ctx.toNat (s.reg .olaFclkNow) (BitVec.ofNat 64 (f.tag.toNat + timeReply))
          (s.reg .olaFclkNow) [])).1
      else match s.timeWaiter f.tag.toNat with
        | some e => match e.2.work with
          | .time w => s.timeRound e.1 w.round w.t1 f.addr f.arg (s.reg .olaFclkNow)
          | _ => s
        | none => s := rfl
  rw [heq, if_neg (Nat.not_lt.2 hreply), hwait]
  simp only [hwork]

/-- The bytes of a COLL frame of a letter that runs. -/
def State.collBytes (s : State) (p : Nat) (f : Frame) (l : LetterId) (x : Letter) (recv : Nat) : State × List Byte :=
  s.unpack p f.ctx.toNat f (fun i => (collSpec x).lands (s.collDies l).length (s.collPos l) recv + f.tag.toNat + 64 * i)

/-- R456: what a letter notes of a COLL frame. -/
def collNotes (p : Nat) (f : Frame) (bytes : List Byte) (x : Letter) : Letter :=
  match x.work with
  | .coll w =>
    if f.lines = 0 then
      if (collSpec x).op = 2 ∧ f.addr.toNat / 2 ^ 32 % 256 = 1 then { x with work := .coll { w with recv := 1 } }
      else if (collSpec x).op = 2 ∨ f.addr.toNat / 2 ^ 32 % 256 = w.sent % 256 then
        { x with work := .coll { w with shakes := setInsert f.src.toNat w.shakes } }
      else x
    else if f.addr.toNat / 2 ^ 32 % 256 = w.recv % 256 ∧ f.tag.toNat = w.inb.length then
      { x with work := .coll { w with inb := w.inb ++ bytes, port := p } }
    else x
  | _ => x

theorem State.collArrive_of_live {l : LetterId} {x : Letter} {w} (hlive : s.liveColl f.ctx.toNat (f.addr.toNat % 2 ^ 32) = some l)
    (hx : s.letter l = some x) (hwork : x.work = .coll w) :
    s.collArrive p f = ((s.collBytes p f l x w.recv).1.updLetter l (collNotes p f (s.collBytes p f l x w.recv).2)).collPush l := by
  simp only [State.collArrive, hlive, hx, hwork]
  rfl

theorem State.collArrive_of_early (hnone : s.liveColl f.ctx.toNat (f.addr.toNat % 2 ^ 32) = none) (hlines : f.lines = 0) :
    s.collArrive p f = { s with ola := { s.ola with shakes := s.ola.shakes ++
      [{ ctx := f.ctx.toNat, id := f.addr.toNat % 2 ^ 32, step := f.addr.toNat / 2 ^ 32 % 256, die := f.src.toNat }] } } := by
  simp only [State.collArrive, hnone, hlines, if_true]

end

/-! ## Lines of a frame that are granted -/

section
variable {r : Req} {w : OutsideWork} {f : Frame} (hw : (s.dropReq r.tag).outsideWork r.item = some w)
include hw

theorem State.serveOutside_of_write {bytes : List Byte} (hop : w.op = .frameWrite f bytes) :
    s.serveOutside r =
      let t := (s.dropReq r.tag).each (List.range r.lines) (fun s i =>
        (s.hbmWrite (r.addr + 64 * i) ((bytes.drop (64 * (r.line + i))).take 64)).1)
      if t.outsideOver w.id then (t.dropOutside w.id).answer f codeOk [] false else t := by
  simp only [State.serveOutside, hw, hop]

theorem State.serveOutside_of_read {got : List (Nat × List Byte)} {bad : Bool} (hop : w.op = .frameRead f got bad) :
    s.serveOutside r =
      let h := (s.dropReq r.tag).hbmReads (lineAddrs r.addr r.lines) .clean
      let all := got ++ [(r.line, memRead s.mem.hbm r.addr (64 * r.lines))]
      let t := h.1.setOutside w.id (.frameRead f all (bad || h.2))
      if !t.outsideOver w.id then t
      else if bad || h.2 then (t.dropOutside w.id).answer f codeHbmUncorrectable [] false
      else (t.dropOutside w.id).answer f codeOk
        ((List.range f.arg.toNat).map (fun i => (all.find? (fun e => e.1 == i)).map (·.2) |>.getD [])).flatten
        ((List.range f.arg.toNat).any (fun i => (t.dropOutside w.id).protectedAt f.ctx.toNat (f.addr.toNat + 64 * i))) := by
  simp only [State.serveOutside, hw, hop]
  rfl

end

end Sys2Proof.Machine

namespace Sys2Proof
open Sys2Proof.Machine Sys2Proof.Claims

/-- R430 to R436. -/
theorem portsSendAndResend : PortsSendAndResend := by
  intro s p hclk
  refine ⟨fun f rest hstate hagain => (exec_frameTransmit hclk hstate).trans (congrArg _ (State.transmit_of_again hagain)),
    fun v i hstate hagain hroom hpick => (exec_frameTransmit hclk hstate).trans (congrArg _ (State.transmit_of_new hagain hroom hpick)),
    fun n husable hkept => ?nak, fun vc f husable => congrArg Host.Outcome.next (if_pos (by rw [hclk, husable]; rfl))⟩
  have hnak := State.nakFrame_of_kept hclk husable hkept
  exact ⟨fun hmany => congrArg Host.Outcome.next (hnak.trans (if_pos hmany)),
    fun hfew => congrArg Host.Outcome.next (hnak.trans (if_neg (Nat.not_le.2 hfew)))⟩

/-- R429, R446 to R461: a frame of this die, by its type, and one that receipt keeps back. -/
theorem framesAreTakenUp : FramesAreTakenUp := by
  refine ⟨?taken, ?written, ?read, ?kept⟩
  case taken =>
    intro s u p r f hr
    have hgo {n : Nat} (ht : r.frame.typ.toNat = n) {go : State → Frame → State} {t : State} (h : go u f = t) :
        (.next (s.withFrame p n r go) : Res) = .next t := congrArg Host.Outcome.next ((State.withFrame_go hr ht go).trans h)
    have htyp {n : BitVec 8} (ht : r.frame.typ = n) : r.frame.typ.toNat = n.toNat := congrArg BitVec.toNat ht
    refine ⟨fun ht => ⟨fun c hc => hgo (htyp ht) (State.writeArrive_of_code hc), fun hok hzero => hgo (htyp ht) ?_,
        fun hok hlines => hgo (htyp ht) ?_⟩,
      fun ht hbad => hgo (htyp ht) (if_pos ?_), fun ht hlo hhi c hc => hgo (htyp ht) ((State.readArrive_of_lines hlo hhi).trans (by rw [hc])),
      fun ht hlo hhi hok => hgo (htyp ht) ((State.readArrive_of_lines hlo hhi).trans (by rw [hok])),
      fun rr q k ht hkeep hrr hq hk hcode => hgo (htyp ht) (State.responseArrive_of_bad hkeep hrr hq hk hcode),
      fun rr q k d ht hkeep hrr hq hk hcode hd =>
        ⟨fun hcls => hgo (htyp ht) (State.responseArrive_of_write hkeep hrr hq hk hcode hd hcls),
          fun hcls hfail hfeed => hgo (htyp ht) (State.responseArrive_of_read hkeep hrr hq hk hcode hd hcls hfail hfeed)⟩,
      fun ht hlost => hgo (htyp ht) (if_pos hlost), fun k op n hop ht hn href hk => hgo (htyp ht) (State.signalArrive_of_some ?_ href hk),
      fun ht hask => hgo (htyp ht) (if_pos hask), fun l x w ht hreply hwait hwork => hgo (htyp ht) (State.timeArrive_of_reply hreply hwait hwork),
      fun l x w ht hlive hx hwork => hgo (htyp ht) ((State.collArrive_of_live hlive hx hwork).trans rfl),
      fun ht hnone hlines => hgo (htyp ht) (State.collArrive_of_early hnone hlines)⟩
    · exact (State.writeArrive_of_ok hok).trans (if_pos (congrArg BitVec.toNat hzero))
    · exact (State.writeArrive_of_ok hok).trans (if_neg fun h => hlines (BitVec.eq_of_toNat_eq h))
    · exact hbad.imp_left (congrArg BitVec.toNat)
    · rw [hn]
      rcases hop with ⟨rfl, rfl⟩ | ⟨rfl, rfl⟩ | ⟨rfl, rfl⟩ <;> rfl
  case written =>
    intro s r w f bytes hw hop t
    have hserve := State.serveOutside_of_write hw hop
    exact ⟨fun hover => hserve.trans (if_pos hover), fun hopen => hserve.trans (if_neg (Bool.eq_false_iff.1 hopen))⟩
  case read =>
    intro s r w f got bad hw hop h all t
    have hserve := State.serveOutside_of_read hw hop
    refine ⟨fun hopen => hserve.trans (if_pos (by simp [t, all, h, hopen])), fun hover hbad => hserve.trans ((if_neg ?_).trans (if_pos hbad)),
      fun hover hgood => hserve.trans ((if_neg ?_).trans (if_neg (Bool.eq_false_iff.1 hgood)))⟩
    all_goals
      rw [show State.outsideOver _ _ = true from hover]
      exact Bool.false_ne_true
  case kept =>
    intro s u p r hr
    have hkept {n : Nat} (ht : r.frame.typ.toNat = n) (go : State → Frame → State) : (.next (s.withFrame p n r go) : Res) = .next u :=
      congrArg Host.Outcome.next (State.withFrame_kept hr ht go)
    have htyp {n : BitVec 8} (ht : r.frame.typ = n) : r.frame.typ.toNat = n.toNat := congrArg BitVec.toNat ht
    exact ⟨fun ht => hkept (htyp ht) _, fun ht => hkept (htyp ht) _, fun ht => hkept (htyp ht) _, fun ht => hkept (htyp ht) _,
      fun ht => hkept (htyp ht) _, fun ht => hkept (htyp ht) _⟩

/-- Settles O44, from what is sent and what arrives. -/
theorem olilaCarriesFrames : Obligations.OlilaCarriesFrames := ⟨portsSendAndResend, framesAreTakenUp⟩

end Sys2Proof
end

section
/-! COLLECTIVE and TIME letters that start (R455 to R462). -/

namespace Sys2Proof.Machine

variable {s : State} {l : LetterId} {x : Letter}

/-- A COLLECTIVE of each operation starts, when no broadcast of its queue waits for room. -/
theorem exec_collective {q : Fin 4096} {op : Nat} {i : Instr} (hx : s.startable q 0x0B = some x) (hop : x.field 0x10 1 = op)
    (hcasts : s.castsWaiting q = [])
    (hi : (op = 0 ∧ i = .collectiveAllGather q) ∨ (op = 1 ∧ i = .collectiveAllReduce q) ∨ (op = 2 ∧ i = .collectiveBroadcast q)) :
    exec i s = .next ((s.begun q x).startColl ⟨q, x.pm⟩ x) := by
  have hstart : s.collStart q op = (s.begun q x).startColl ⟨q, x.pm⟩ x := by
    unfold State.collStart
    rw [hcasts]
    exact State.startWith_go hx (fun x => x.field 0x10 1 == op) (beq_iff_eq.2 hop) _
  rcases hi with ⟨rfl, rfl⟩ | ⟨rfl, rfl⟩ | ⟨rfl, rfl⟩ <;> exact congrArg Host.Outcome.next hstart

theorem State.startColl_of_code {c : Code} (h : s.collCheck l x = some c) : s.startColl l x = s.endLetter l { code := c } := by
  simp only [State.startColl, h]

/-- R456: the letter takes up the handshakes that came early. -/
def State.collTakes (s : State) (l : LetterId) (x : Letter) : State :=
  ({ s with ola := { s.ola with
    shakes := s.ola.shakes.filter (fun (k : Shake) => !(k.ctx == s.letterCtx l && k.id == (collSpec x).id)) } } : State).setWork l (.coll
      { shakes := ((s.ola.shakes.filter (fun k => k.ctx == s.letterCtx l && k.id == (collSpec x).id)).filter (fun k => k.step == 0)).map (·.die) })

section
variable (hcheck : s.collCheck l x = none)
  (hfine : (s.winLost (s.letterCtx l) (collSpec x).src ((collSpec x).sourceBytes (s.collPos l))).or
    (s.winOut (s.letterCtx l) ((collSpec x).ownPut (s.collDies l).length (s.collPos l)).1
      ((collSpec x).ownPut (s.collDies l).length (s.collPos l)).2) = none)
include hcheck hfine

theorem State.startColl_of_empty (hbytes : (collSpec x).bytes = 0) :
    s.startColl l x = (s.letterDone l (collSpec x).done engHub).endLetter l { code := codeOk } := by
  simp only [State.startColl, hcheck, hfine, if_pos hbytes]

section
variable (hbytes : (collSpec x).bytes ≠ 0)
include hbytes

/-- R456, R457: in an ALL_GATHER the die puts its own block in place and shakes hands with the die before it. -/
theorem State.startColl_of_gather (hop : (collSpec x).op = 0) (hring : (s.collDies l).length ≠ 1) :
    s.startColl l x =
      let g := collSpec x
      let p := s.collPos l
      let v := s.collTakes l x
      (((v.winAccess (s.letterCtx l) g.src (g.sourceBytes p) false g.courier).winWrite (s.letterCtx l) (g.dst + p * g.bytes)
        (v.winRead (s.letterCtx l) g.src (g.sourceBytes p)) .write g.courier).shake l (s.letterCtx l)
          ((s.collDies l).getD (back (s.collDies l).length p 1) 0) g.id 0).collPush l := by
  have hput : (collSpec x).ownPut (s.collDies l).length (s.collPos l) =
      ((collSpec x).dst + s.collPos l * (collSpec x).bytes, (collSpec x).bytes) := if_pos hop
  rw [hput] at hfine
  simp only [State.startColl, hcheck, hput, hfine, if_neg hbytes, hop, if_neg hring, OfNat.zero_ne_ofNat, if_false, if_true]
  rfl

/-- R458: in an ALL_REDUCE of more than one die it puts nothing in place yet. -/
theorem State.startColl_of_reduce (hop : (collSpec x).op = 1) (hring : (s.collDies l).length ≠ 1) :
    s.startColl l x = ((s.collTakes l x).shake l (s.letterCtx l)
      ((s.collDies l).getD (back (s.collDies l).length (s.collPos l) 1) 0) (collSpec x).id 0).collPush l := by
  have hput : (collSpec x).ownPut (s.collDies l).length (s.collPos l) = (0, 0) := by simp [CollSpec.ownPut, hop, hring]
  rw [hput] at hfine
  simp only [State.startColl, hcheck, hput, hfine, if_neg hbytes, hop, if_neg hring, OfNat.one_ne_ofNat, if_false, if_true]
  rfl

/-- R459: in a BROADCAST every die but the root shakes hands with the root. -/
theorem State.startColl_of_cast (hop : (collSpec x).op = 2) :
    s.startColl l x = (if s.collPos l = (collSpec x).root then s.collTakes l x
      else (s.collTakes l x).shake l (s.letterCtx l) ((s.collDies l).getD (collSpec x).root 0) (collSpec x).id 0).collPush l := by
  have hput : (collSpec x).ownPut (s.collDies l).length (s.collPos l) = (0, 0) := by simp [CollSpec.ownPut, hop]
  rw [hput] at hfine
  simp only [State.startColl, hcheck, hput, hfine, if_neg hbytes, hop, if_true]
  rfl

end

end

/-! ## TIME -/

theorem exec_time {q : Fin 4096} (hx : s.startable q 0x0A = some x) : exec (.time q) s = .next ((s.begun q x).startTime ⟨q, x.pm⟩ x) :=
  congrArg Host.Outcome.next (State.startWith_go hx _ rfl _)

theorem State.startTime_of_code {c : Code} (h : s.timeCheck l x = some c) : s.startTime l x = s.endLetter l { code := c } := by
  simp only [State.startTime, h]

theorem State.startTime_of_other (h : s.timeCheck l x = none) (hdie : x.field 0x10 1 ≠ s.die) :
    s.startTime l x = s.timeAsk l (x.field 0x10 1) 0 := by
  simp only [State.startTime, h, if_neg hdie]

end Sys2Proof.Machine

namespace Sys2Proof
open Sys2Proof.Machine

/-- Settles O45, by the check, the bytes and the operation. -/
theorem collectivesAndTimeStart : Obligations.CollectivesAndTimeStart := by
  refine ⟨?collective, ?time⟩
  case collective =>
    intro s q op x i hx hop hcasts hi u l g ds p ctx own v
    have hstart {t : State} (h : u.startColl l x = t) : exec i s = .next t := (exec_collective hx hop hcasts hi).trans (congrArg _ h)
    refine ⟨fun c hc => hstart (State.startColl_of_code hc), fun hcheck hfine =>
      ⟨fun hnone => hstart (State.startColl_of_empty hcheck hfine hnone), fun hbytes hgather hown hring => hstart ?gather,
        fun hbytes hreduce hring => hstart (State.startColl_of_reduce hcheck hfine hbytes hreduce hring),
        fun hbytes hcast hroot => hstart ((State.startColl_of_cast hcheck hfine hbytes hcast).trans ?root),
        fun hbytes hcast hroot => hstart ((State.startColl_of_cast hcheck hfine hbytes hcast).trans ?member)⟩⟩
    case gather =>
      rw [← hown]
      exact State.startColl_of_gather hcheck hfine hbytes hgather hring
    case root => exact congrArg (fun t : State => t.collPush l) (if_pos hroot)
    case member => exact congrArg (fun t : State => t.collPush l) (if_neg hroot)
  case time =>
    intro s q x hx u l
    exact ⟨fun c hc => (exec_time hx).trans (congrArg _ (State.startTime_of_code hc)),
      fun hok hdie => (exec_time hx).trans (congrArg _ (State.startTime_of_other hok hdie))⟩

end Sys2Proof
end

section
/-! Contexts: turns on a cluster, reset, start and drain (R473 to R489). -/

namespace Sys2Proof.Machine
open Sys2Proof.Claims

variable {s : State} {cl : Nat}

/-! ## The scheduler -/

theorem State.preempt_of_empty {x : Nat} (hempty : s.schedule.resident cl = none)
    (hbest : s.schedule.bestOf cl (s.schedule.readyOn cl) = some x) : s.preempt cl = s.schedule.orderSwitch cl none x := by
  simp only [State.preempt, hempty, hbest]

/-- A context that a context build holds on its cluster stays there. -/
theorem State.preempt_of_held {r : Nat} (hres : s.schedule.resident cl = some r) (hheld : s.schedule.heldFor cl = some r)
    (hwait : s.schedule.waitPoint r cl = true) : s.preempt cl = s.schedule := by
  simp only [State.preempt, hres, hwait, hheld, if_true, true_or]

/-! ## Switches -/

section
variable {w : Switch}

theorem State.doSwitch_of_ordered (hw : tabGet none s.cx.switch cl = some w) (hphase : w.phase = .ordered) :
    s.doSwitch cl = (s.switchOut cl w).switchGo cl := by
  simp only [State.doSwitch, hw, if_pos hphase]

theorem State.doSwitch_of_saved (hw : tabGet none s.cx.switch cl = some w) (hphase : w.phase = .saved) : s.doSwitch cl = s.switchIn cl w := by
  simp only [State.doSwitch, State.switchGo, hw, hphase, reduceCtorEq, if_false]

theorem State.doSwitch_of_loaded (hw : tabGet none s.cx.switch cl = some w) (hphase : w.phase = .loaded) :
    s.doSwitch cl = s.switchLoaded cl w := by
  simp only [State.doSwitch, State.switchGo, hw, hphase, reduceCtorEq, if_false]

theorem exec_contextSwitch {cl : Fin 16} (hw : tabGet none s.cx.switch cl.val = some w) (hclk : s.clocked = true) :
    exec (.contextSwitch cl) s = .next (s.doSwitch cl) := by
  refine congrArg Host.Outcome.next ?_
  simp only [hw, if_pos hclk]

theorem State.switchOut_of_none (h : w.out = none) : s.switchOut cl w = s.phaseTo cl w .saved := by
  simp only [State.switchOut, h]

/-- R479: what runs on the cluster is saved where its context asks for it. -/
theorem State.switchOut_of_some {o : Nat} (h : w.out = some o) :
    s.switchOut cl w =
      if s.fld .ctxEntry fCtxEntrySave o = 1 then
        (((s.wasOn o cl).setImage o cl (some { (s.wasOn o cl).clusterImage cl with serial := (s.wasOn o cl).mv.spent })).queueBlock o cl
          true).phaseTo cl w .saving
      else (s.wasOn o cl).phaseTo cl w .saved := by
  simp only [State.switchOut, h]
  rfl

/-- R480: the zeroed cluster takes up the saved image, if there is one. -/
theorem State.switchIn_of_image {i} (h : tabGet none (s.zeroCluster cl).cx.images (16 * w.inn + cl) = some i) :
    s.switchIn cl w = ((s.zeroCluster cl).queueBlock w.inn cl false).phaseTo cl w .loading := by
  simp only [State.switchIn, h]

theorem State.switchIn_of_none (h : tabGet none (s.zeroCluster cl).cx.images (16 * w.inn + cl) = none) :
    s.switchIn cl w = (s.zeroCluster cl).phaseTo cl w .moved := by
  simp only [State.switchIn, h]

theorem exec_contextSwitchDone {cl : Fin 16} (hw : tabGet none s.cx.switch cl.val = some w) (hclk : s.clocked = true)
    (hphase : w.phase = .moved) : exec (.contextSwitchDone cl) s = .next (s.switchDone cl w) := by
  refine congrArg Host.Outcome.next ?_
  simp only [hw, hclk, hphase, beq_self_eq_true, Bool.and_self, if_true]

end

/-! ## Slices -/

section
variable {cl : Fin 16} {x : Nat} (hres : s.resident cl = some x) (hclk : s.clocked = true)
include hres hclk

theorem exec_sliceExpiry (hfree : s.heldFor cl ≠ some x) (hslice : s.fld .ctxEntry fCtxEntrySlice x ≠ 0) :
    exec (.sliceExpiry cl) s = .next { s with cx := { s.cx with used := setInsert cl.val s.cx.used } } := by
  refine congrArg Host.Outcome.next ?_
  simp only [hres]
  exact if_pos ⟨hclk, hfree, hslice⟩

theorem exec_waitYieldExpiry (hwait : s.waitPoint x cl = true) (hyield : s.fld .ctxSchedCfg fCtxSchedCfgWaitYield ≠ 0) :
    exec (.waitYieldExpiry cl) s = .next { s with cx := { s.cx with yielded := setInsert cl.val s.cx.yielded } } := by
  refine congrArg Host.Outcome.next ?_
  simp only [hres]
  exact if_pos ⟨hclk, hwait, hyield⟩

end

end Sys2Proof.Machine

namespace Sys2Proof
open Sys2Proof.Machine Sys2Proof.Claims

/-- R473 to R484. -/
theorem contextsTakeTurns : ContextsTakeTurns := by
  refine ⟨fun s cl x hon hempty hbest => congrArg Host.Outcome.next ((if_pos hon).trans (State.preempt_of_empty hempty hbest)),
    fun s cl r hon hres hheld hwait => congrArg Host.Outcome.next ((if_pos hon).trans (State.preempt_of_held hres hheld hwait)),
    fun s cl x hres hclk => ⟨exec_sliceExpiry hres hclk, exec_waitYieldExpiry hres hclk⟩, fun s cl w hw hclk => ?phases,
    fun s cl w => ⟨State.switchOut_of_none, fun o ho hsave => ?saved, fun o ho hkeep => ?dropped, State.switchIn_of_none,
      fun i hi => State.switchIn_of_image hi⟩⟩
  case phases =>
    have hswitch := exec_contextSwitch hw hclk
    exact ⟨fun hphase => hswitch.trans (congrArg _ (State.doSwitch_of_ordered hw hphase)),
      fun hphase => hswitch.trans (congrArg _ (State.doSwitch_of_saved hw hphase)),
      fun hphase => hswitch.trans (congrArg _ (State.doSwitch_of_loaded hw hphase)), fun hphase => exec_contextSwitchDone hw hclk hphase⟩
  case saved => exact (State.switchOut_of_some ho).trans (if_pos hsave)
  case dropped => exact (State.switchOut_of_some ho).trans (if_neg hkeep)

/-- R485 to R489. -/
theorem contextsResetStartAndDrain : ContextsResetStartAndDrain := by
  intro s hclk
  refine ⟨fun x => ⟨fun hbar => ?refused, fun hmay => ?begins⟩, fun x hx => ?resetDone,
    fun x hstate => ⟨fun hplain => ?started, fun hpending => ?drains⟩,
    fun x hstate hresetting hquiet => ⟨fun hplain => ?off, fun hpending => ?startsAgain⟩⟩
  case refused => exact congrArg Host.Outcome.next ((if_neg (by simp [hclk])).trans (if_pos hbar))
  case begins => exact congrArg Host.Outcome.next ((if_neg (by simp [hclk])).trans (if_neg (Bool.eq_false_iff.1 hmay)))
  case resetDone =>
    refine congrArg Host.Outcome.next ?_
    simp only [hx, if_pos hclk]
  case started => exact congrArg Host.Outcome.next ((if_pos ⟨hclk, hstate⟩).trans (if_neg hplain))
  case drains => exact congrArg Host.Outcome.next ((if_pos ⟨hclk, hstate⟩).trans (if_pos hpending))
  case off => exact congrArg Host.Outcome.next ((if_pos ⟨hclk, hstate, hresetting, hquiet⟩).trans (if_neg hplain))
  case startsAgain => exact congrArg Host.Outcome.next ((if_pos ⟨hclk, hstate, hresetting, hquiet⟩).trans (if_pos hpending))

/-- Settles O46, from the turns on a cluster and from the life of a context. -/
theorem contextsLive : Obligations.ContextsLive := ⟨contextsTakeTurns, contextsResetStartAndDrain⟩

end Sys2Proof
end

section
/-! The host's accesses to HBM, and its CONS (R520, R521, R527, R528, R545, R546, R665, R666). -/

namespace Sys2Proof.Machine

variable {s : State}

/-! ## Requests -/

theorem State.hostRead_of_in {addr : Nat} (hclk : s.clocked = true) (hin : addr ≤ hdmLimit) (rd : ReadRes) :
    s.hostRead addr rd =
      (s.newOutside (.hostRead rd)).2.askOutside srcHost (s.newOutside (.hostRead rd)).1 0 1 (addr / 64 * 64) :=
  if_neg (by simp [hclk, hin])

theorem State.hostWrite_of_in {addr : Nat} (hclk : s.clocked = true) (hin : addr ≤ hdmLimit) (be : BitVec 64) (data : List Byte) :
    s.hostWrite addr be data =
      if s.tablePage (addr / 64 * 64 / 2 ^ 21) then s.toHost (.memDone (addr / 64 * 64))
      else (s.newOutside (.hostWrite be data)).2.askOutside srcHost (s.newOutside (.hostWrite be data)).1 0 1 (addr / 64 * 64) :=
  if_neg (by simp [hclk, hin])

/-! ## Requests that are granted -/

section
variable {a : Nat}

theorem State.readForHost_of_clean {rd : ReadRes} (h : s.hbmSees a rd = .clean) :
    s.readForHost a rd = s.toHost (.memData a (memRead s.mem.hbm a 64) (s.tablePage (a / 2 ^ 21))) := by
  simp only [State.readForHost, State.hbmNote_of_clean h, h]
  rfl

theorem State.readForHost_of_uncorrectable {rd : ReadRes} (h : s.hbmSees a rd = .uncorrectable) :
    s.readForHost a rd = ((s.hbmNote a rd).hostUe a 2).toHost (.memData a (memRead (s.hbmNote a rd).mem.hbm a 64) true) := by
  simp only [State.readForHost, h]
  rfl

section
variable {be : BitVec 64} {data : List Byte}

/-- R335: a write into a locked region is reported and discarded. -/
theorem State.writeForHost_of_locked {k : Nat} (h : s.lockOf a = some k) :
    s.writeForHost a be data =
      (s.postDev { code := codeRegionLocked, detail := leBytes 8 a ++ leBytes 4 0 ++ [BitVec.ofNat 8 k] }).toHost (.memDone a) := by
  simp only [State.writeForHost, h]

/-- R665, R666: a line that is lost, or poisoned and written in part, is reported. -/
theorem State.writeForHost_of_open (h : s.lockOf a = none) :
    s.writeForHost a be data =
      (if s.flt.hbmOut.contains (hbmStack a) = true ∨ (s.hbmPoisoned (a / 64) = true ∧ be ≠ BitVec.allOnes 64) then s.hostUe a 3
        else (s.hbmWrite a (mergeBytes be (memRead s.mem.hbm a 64) (padBytes 64 data))).1).toHost (.memDone a) := by
  simp only [State.writeForHost, h]

end

end

section
variable {r : Req} {w : OutsideWork} (hw : (s.dropReq r.tag).outsideWork r.item = some w)
include hw

theorem State.serveOutside_of_hostRead {rd : ReadRes} (hop : w.op = .hostRead rd) :
    s.serveOutside r = ((s.dropReq r.tag).dropOutside w.id).readForHost r.addr rd := by
  simp only [State.serveOutside, hw, hop]

theorem State.serveOutside_of_hostWrite {be : BitVec 64} {data : List Byte} (hop : w.op = .hostWrite be data) :
    s.serveOutside r = ((s.dropReq r.tag).dropOutside w.id).writeForHost r.addr be data := by
  simp only [State.serveOutside, hw, hop]

end

/-! ## CONS -/

/-- R545: CONS moves on as far as PROD. -/
def State.consMoved (s : State) (ring : Nat) (cons : BitVec 32) : State :=
  if (cons - BitVec.ofNat 32 (s.fld .hifRingCons fHifRingConsCons ring)).toNat ≤
      (BitVec.ofNat 32 (s.fld .hifRingCons fHifRingConsProd ring) - BitVec.ofNat 32 (s.fld .hifRingCons fHifRingConsCons ring) : BitVec 32).toNat
  then s.setFld .hifRingCons fHifRingConsCons ring cons.toNat else s

/-- R546: the ring is armed, and interrupts at once where records are left. -/
theorem exec_hifRingConsWrite {v : View} {win : Fin 1024} {ring : Fin 2049} (cons : BitVec 32) (hclk : s.clocked = true)
    (hseen : ringSeen v win ring = true) :
    exec (.hifRingConsWrite v win ring cons) s = .next (
      let w := (s.consMoved ring cons).setFld .hifRingCfg fHifRingCfgArmed ring 1
      if w.fld .hifRingCfg fHifRingCfgIrqEn ring = 1 ∧
          w.fld .hifRingCons fHifRingConsCons ring ≠ (BitVec.ofNat 32 (s.fld .hifRingCons fHifRingConsProd ring) : BitVec 32).toNat then
        ((w.setFld .hifRingCfg fHifRingCfgArmed ring 0).toHost (.msix (ringVector ring))).count 8 0 3
      else w) :=
  congrArg Host.Outcome.next (if_pos (by rw [hclk, hseen]; rfl))

end Sys2Proof.Machine

namespace Sys2Proof
open Sys2Proof.Machine

/-- Settles O48: the requests, what each does as it is granted, and CONS. -/
theorem hostAccessesMemory : Obligations.HostAccessesMemory := by
  refine ⟨fun s addr rd hclk hin => ?reads, fun s addr be data hclk hin => ?writes, fun s r w hw => ?granted, fun s addr => ⟨rfl, rfl⟩,
    fun s u w v win ring cons cur prod hclk hseen hcur hprod hu hw => ?cons⟩
  case reads =>
    have hread := State.hostRead_of_in hclk hin rd
    exact ⟨congrArg Host.Outcome.next hread, congrArg Host.Outcome.next hread⟩
  case writes =>
    have hwrite (be : BitVec 64) := State.hostWrite_of_in hclk hin be data
    exact ⟨fun htable => ⟨congrArg Host.Outcome.next ((hwrite _).trans (if_pos htable)),
        congrArg Host.Outcome.next ((hwrite _).trans (if_pos htable))⟩,
      fun hplain => ⟨congrArg Host.Outcome.next ((hwrite _).trans (if_neg (Bool.eq_false_iff.1 hplain))),
        congrArg Host.Outcome.next ((hwrite _).trans (if_neg (Bool.eq_false_iff.1 hplain)))⟩⟩
  case granted =>
    intro u a
    refine ⟨fun rd hop hclean => (State.serveOutside_of_hostRead hw hop).trans (State.readForHost_of_clean hclean),
      fun rd hop hbad => (State.serveOutside_of_hostRead hw hop).trans (State.readForHost_of_uncorrectable hbad),
      fun be data k hop hlock => (State.serveOutside_of_hostWrite hw hop).trans (State.writeForHost_of_locked hlock),
      fun be data hop hopen hlost => (State.serveOutside_of_hostWrite hw hop).trans ((State.writeForHost_of_open hopen).trans ?_),
      fun be data hop hopen hin hgood => (State.serveOutside_of_hostWrite hw hop).trans ((State.writeForHost_of_open hopen).trans ?_)⟩
    · exact congrArg (fun t : State => t.toHost (.memDone a)) (if_pos hlost)
    · refine congrArg (fun t : State => t.toHost (.memDone a)) (if_neg ?_)
      rintro (hout | ⟨hpoison, hpart⟩)
      · exact Bool.eq_false_iff.1 hin hout
      · exact hgood.elim (fun h => Bool.eq_false_iff.1 h hpoison) hpart
  case cons =>
    have hrun := exec_hifRingConsWrite cons hclk hseen
    subst hcur hprod hu hw
    refine ⟨fun hoff => hrun.trans (congrArg _ (if_neg ?_)), fun hall => hrun.trans (congrArg _ (if_neg ?_)),
      fun hon hleft => hrun.trans (congrArg _ (if_pos ⟨hon, hleft⟩))⟩
    · exact fun h => Nat.one_ne_zero (h.1.symm.trans hoff)
    · exact fun h => h.2 hall

end Sys2Proof
end

section
/-! Transactions (R444, R548, R552 to R558). -/

namespace Sys2Proof.Machine

variable {s : State} {i : Nat}

/-! ## OPEN, COMMIT and ABORT -/

theorem State.txnOpen_of_busy (h : s.txnState i ≠ 0) (owner domains : Nat) : s.txnOpen i owner domains = s.setTxnCode i codeTxnBusy := if_pos h

/-- R552: an idle slot opens on domains that no other holds, for a live lease. -/
theorem State.txnOpen_of_idle (h : s.txnState i = 0) (owner domains : Nat) :
    s.txnOpen i owner domains =
      let u := s.keepCtl i owner domains
      if u.domainsHeld domains then u.setTxnCode i codeTxnBusy
      else if !u.leaseLive owner then u.setTxnCode i codeTxnOwnerLost
      else if domains = 0 then u.setTxnCode i codeTxnAborted
      else
        ((((u.updTxn i (fun _ => { domains := domains, owner := owner })).setTxnState i 1).bump .txnStatus fTxnStatusSeq i).setFld
          .txnStatus fTxnStatusAdopted i 0).setFld .txnStatus fTxnStatusWrites i 0 :=
  if_neg (not_not.2 h)

/-! ## Shadow writes -/

section
variable {off len d w : Nat} {r : RegName} {k : Nat} (hclk : s.clocked = true) (hap : inAperture .P off len = false)
  (hgood : badAccess .P off len = false) (hloc : locate .P off = some (r, k, w)) (hdom : domainOf r w = some d)
include hap hgood hloc hdom

theorem State.shadowWrite_of_none (hopen : s.openFor d = none) (value : Nat) : s.shadowWrite off len value = s := by
  simp only [State.shadowWrite, hap, hgood, hloc, hdom, Option.bind_some, hopen, Bool.false_eq_true, if_false]

include hclk

/-- R554: a write that belongs to an open transaction is recorded, and the 257th rolls it back. -/
theorem State.shadowWrite_of_open {j : Nat} (hopen : s.openFor d = some j) (value : Nat) :
    s.shadowWrite off len value =
      if 256 ≤ s.fld .txnStatus fTxnStatusWrites j then s.rollback j codeTxnFull
      else (s.updTxn j (fun t => { t with shadow := t.shadow ++ [{ off := off, len := len, value := value % 2 ^ (8 * len) }] })).bump .txnStatus
        fTxnStatusWrites j := by
  simp only [State.shadowWrite, hap, hgood, hloc, hdom, Option.bind_some, hopen, hclk, Bool.not_true, Bool.false_eq_true, if_false]

end

/-! ## Domains at hand -/

section
variable {d : Nat} {rest : List Nat} (h : (s.txn i).todo = d :: rest)
include h

theorem State.atHand_links (hd : d = 6) : s.atHand i = { s with ola := { s.ola with hold := true } } := by
  subst hd
  simp only [State.atHand, h]

theorem State.atHand_contexts (hd : d = 4) :
    s.atHand i = { s with cx := { s.cx with heldExt := s.lostExtents (s.copyDomain (s.txn i) 4) (s.txn i) } } := by
  subst hd
  simp only [State.atHand, h]

theorem State.atHand_power (hd : d = 1) : s.atHand i = s.updTxn i (fun t => { t with mark := s.pw.periods }) := by
  subst hd
  simp only [State.atHand, h]

theorem State.atHand_other (h6 : d ≠ 6) (h4 : d ≠ 4) (h1 : d ≠ 1) : s.atHand i = s := by
  unfold State.atHand
  dsimp only
  split <;> simp_all

end

end Sys2Proof.Machine

namespace Sys2Proof
open Sys2Proof.Machine

/-- Settles O49, by the slot's state. -/
theorem transactionsLive : Obligations.TransactionsLive := by
  intro s slot hclk
  refine ⟨fun owner dom => ?opens, fun off len value r k w d hap hgood hloc hdom => ?shadow,
    fun hopen htime => congrArg Host.Outcome.next (if_pos ⟨hclk, hopen, htime⟩), fun hstate => ?checked, fun d rest htodo => ?hand,
    fun d rest u hstate htodo hu => ?adopts⟩
  case opens =>
    intro u
    have hopen {t : State} (h : s.txnOpen slot owner dom.toNat = t) : exec (.txnOpen slot owner dom) s = .next t :=
      congrArg Host.Outcome.next ((if_pos hclk).trans h)
    have hclocked : ¬ (!s.clocked) = true := by simp [hclk]
    refine ⟨fun hbusy => hopen (State.txnOpen_of_busy hbusy _ _), fun hidle hheld => hopen ((State.txnOpen_of_idle hidle _ _).trans (if_pos hheld)),
      fun hidle hfree hdead => hopen ((State.txnOpen_of_idle hidle _ _).trans ?dead),
      fun hidle hfree hlive hsome => hopen ((State.txnOpen_of_idle hidle _ _).trans ?opened), fun hstate => ⟨?commits, ?aborts⟩,
      fun hstate => ⟨?commitLate, ?abortLate⟩⟩
    case dead => exact (if_neg (Bool.eq_false_iff.1 hfree)).trans (if_pos (by rw [hdead]; rfl))
    case opened =>
      exact (if_neg (Bool.eq_false_iff.1 hfree)).trans ((if_neg (by rw [hlive]; exact Bool.false_ne_true)).trans (if_neg hsome))
    case commits => exact congrArg Host.Outcome.next ((if_neg hclocked).trans (if_pos hstate))
    case aborts => exact congrArg Host.Outcome.next ((if_neg hclocked).trans (if_pos hstate))
    case commitLate => exact congrArg Host.Outcome.next ((if_neg hclocked).trans (if_neg hstate))
    case abortLate => exact congrArg Host.Outcome.next ((if_neg hclocked).trans (if_neg hstate))
  case shadow =>
    have hwrite {j : Nat} (hopen : s.openFor d = some j) := State.shadowWrite_of_open hclk hap hgood hloc hdom hopen value
    exact ⟨fun hnone => congrArg Host.Outcome.next (State.shadowWrite_of_none hap hgood hloc hdom hnone value),
      fun j hopen hfull => congrArg Host.Outcome.next ((hwrite hopen).trans (if_pos hfull)),
      fun j hopen hroom => congrArg Host.Outcome.next ((hwrite hopen).trans (if_neg (Nat.not_le.2 hroom)))⟩
  case checked =>
    have hcheck : ¬ ((!s.clocked) = true ∨ s.txnState slot ≠ 2) := by simp [hclk, hstate]
    exact ⟨fun journal hpass => congrArg Host.Outcome.next ((if_neg hcheck).trans (if_pos hpass)),
      fun journal hfail => congrArg Host.Outcome.next ((if_neg hcheck).trans (if_neg (Bool.eq_false_iff.1 hfail)))⟩
  case hand => exact ⟨State.atHand_links htodo, State.atHand_contexts htodo, State.atHand_power htodo, State.atHand_other htodo⟩
  case adopts =>
    subst hu
    have hadopt : exec (.txnDomainAdopt slot) s = .next (
        let u := s.beginDomain slot d
        if (u.txn slot).begun && u.adopted (u.txn slot) d then u.endDomain slot d rest else u) := by
      refine congrArg Host.Outcome.next ((if_neg (by simp [hclk, hstate])).trans ?_)
      simp only [htodo]
    exact ⟨fun hdone => hadopt.trans (congrArg _ (if_pos hdone)), fun hwaits => hadopt.trans (congrArg _ (if_neg (Bool.eq_false_iff.1 hwaits)))⟩

end Sys2Proof
end

section
/-! Passwords (R593 to R596), the power warning and NOR updates (R597 to R599, R625, R747), and the start sequence (R617 to R625, R745). -/

namespace Sys2Proof.Machine

variable {s : State}

/-! ## Passwords -/

theorem State.pwGo_of_busy (h : s.fld .flsPwCtl fFlsPwCtlBusy = 1) (cmd slot len : Nat) : s.pwGo cmd slot len = s :=
  if_pos (by simp [h])

/-- R593: a password command is taken with the bytes that FLS_PW holds. -/
theorem State.pwGo_of_idle (hclk : s.clocked = true) (hidle : s.fld .flsPwCtl fFlsPwCtlBusy ≠ 1) (cmd slot len : Nat) :
    s.pwGo cmd slot len =
      let u := (s.setFld .flsPwCtl fFlsPwCtlSlot 0 slot).setFld .flsPwCtl fFlsPwCtlLen 0 len
      let bytes := (((List.range 4).map (fun i => leBytes 8 (u.reg .flsPw i).toNat)).flatten).take len
      ({ u with fl := { u.fl with pwJob := some { cmd := cmd, slot := slot, len := len, bytes := bytes } } } : State).setFld .flsPwCtl
        fFlsPwCtlBusy 0 1 :=
  if_neg (by simp [hclk, hidle])

/-- The outcome of a password command whose LEN is one of 1 to 32, or that needs none (R594 to R596). -/
def State.pwOutcome (s : State) (j : PwJob) : State × Code :=
  if j.cmd = 2 then (s.when (s.fld .flsProt fFlsProtHasPw j.slot == 1) (fun s => s.setFld .flsProt fFlsProtLocked j.slot 1), codeOk)
  else if j.cmd = 1 then s.pwUnlock j
  else s.pwSet j

/-- R612: the command ends with its code, and FLS_PW is zero. -/
theorem State.doPwEnd_of_outcome {j : PwJob} (hj : s.fl.pwJob = some j) (hfw : s.fwOn 0 = true)
    (hrandom : j.cmd ≠ 3 ∨ s.fld .secStatus fSecStatusEntFail ≠ 1) (hlen : j.cmd = 2 ∨ (1 ≤ j.len ∧ j.len ≤ 32)) :
    s.doPwEnd =
      let r := s.pwOutcome j
      let u := ((r.1.setFld .flsPwCtl fFlsPwCtlCode 0 r.2.toNat).setFld .flsPwCtl fFlsPwCtlBusy 0 0).each (List.range 4)
        (fun s i => s.setReg .flsPw i 0 0)
      { u with fl := { u.fl with pwJob := none } } := by
  have hmay : ¬ (!s.fwOn 0 || (j.cmd == 3 && s.fld .secStatus fSecStatusEntFail == 1)) = true := by
    rcases hrandom with h | h <;> simp [hfw, h]
  have hbytes : j.cmd ≠ 2 → ¬ (j.len = 0 ∨ 32 < j.len) := fun h => by
    have := hlen.resolve_left h
    omega
  unfold State.pwOutcome
  by_cases hrelock : j.cmd = 2
  · simp only [State.doPwEnd, hj, if_neg hmay, if_pos hrelock]
  · simp only [State.doPwEnd, hj, if_neg hmay, if_neg hrelock, if_neg (hbytes hrelock)]

/-! ## NOR updates -/

/-- The NOR slot has been programmed. -/
def State.norWritten (s : State) (slot : Nat) (image : List Byte) : State :=
  ({ s with fl := { s.fl with nor := none } } : State).emit (.nor slot image)

theorem State.doNorDone_of_request {j} {q : Nat} {r : FlReq} (hj : s.fl.nor = some j) (hq : j.req = some q) (hfw : s.fwOn 0 = true)
    (hr : (s.norWritten j.slot j.image).flReq q = some r) :
    s.doNorDone true = (((s.norWritten j.slot j.image).flProgress q { r with done := r.units }).endFlReq q 2 0).flKick := by
  unfold State.norWritten at hr ⊢
  simp only [State.doNorDone, hj, hq, hfw, hr, Bool.not_true, Bool.false_and, Bool.false_eq_true, if_false, if_true]

theorem State.doNorDone_of_recover {j} (hj : s.fl.nor = some j) (hq : j.req = none) :
    s.doNorDone true = (s.norWritten j.slot j.image).setFld .cfgStatus fCfgStatusRecovered 0 1 := by
  unfold State.norWritten
  simp only [State.doNorDone, hj, hq, Option.isSome_none, decide_false, Bool.and_false, Bool.false_eq_true, if_false, if_true]

/-! ## The start sequence -/

theorem exec_startStepDone (h : s.starting = true) (d : StartData) : exec (.startStepDone d) s = .next (s.bootStep d) :=
  congrArg Host.Outcome.next (if_pos h)

/-- Table 15-1, for the steps that end without data. -/
theorem State.plainStep_one (h : s.start.step = 1) : s.plainStep = s.identify.toStep 2 2 := if_pos h

theorem State.plainStep_two (h : s.start.step = 2) : s.plainStep = (s.setFld .clkStatus fClkStatusCclkLock 0 1).toStep 3 3 := by
  simp [State.plainStep, h]

theorem State.plainStep_three (h : s.start.step = 3) (hlink : (List.range 4).all (fun m => s.ucieWidth m == 0) = false) :
    s.plainStep = (s.setFld .clkStatus fClkStatusUclkLock 0 1).toStep 4 4 := by
  simp only [State.plainStep, h, hlink, Nat.reduceEqDiff, Bool.false_eq_true, if_false, if_true]

theorem State.plainStep_five (h : s.start.step = 5) : s.plainStep = s.selectImage s.start.cands := by
  simp [State.plainStep, h]

theorem State.plainStep_seven (h : s.start.step = 7) : s.plainStep = s.configure.toStep 8 6 := by
  simp [State.plainStep, h]

theorem State.plainStep_eight (h : s.start.step = 8) (hcool : s.start.coolant = true) : s.plainStep = s.hbmUp.toStep 9 7 := by
  simp [State.plainStep, h, hcool]

theorem State.plainStep_nine (h : s.start.step = 9) : s.plainStep = (s.fabricUp.toStep 10 7).setFld .rstFwLoad fRstFwLoadStatus 0 1 := by
  simp [State.plainStep, h]

theorem State.plainStep_ten (h : s.start.step = 10) (hrel : s.released = true) :
    s.plainStep = (s.toStep 11 8).setFld .pwrState fPwrStateState 0 1 := by
  simp [State.plainStep, h, hrel]

/-- R625: RECOVER after a failure at step 4 or 5. -/
theorem State.recover_of_failed (hstage : s.stage = 15) (hstep : s.fld .cfgStatus fCfgStatusFailStep = 4 ∨ s.fld .cfgStatus fCfgStatusFailStep = 5)
    (hnor : s.fl.nor = none) :
    s.recover =
      let b := memRead s.fw.window 0 65536
      if s.cfgReason b = 0 then
        { s with fl := { s.fl with nor := some { slot := 1, image := withGen (b.take (imgBytes b)) (s.start.maxGen + 1), req := none } } }
      else s.postSignature 7 (s.cfgReason b) := by
  refine if_neg ?_
  rcases hstep with h | h <;> simp [hstage, h, hnor]

end Sys2Proof.Machine

namespace Sys2Proof
open Sys2Proof.Machine

/-- Settles O52, from the taking and from the end of a command. -/
theorem passwordsLockAndUnlock : Obligations.PasswordsLockAndUnlock := by
  refine ⟨fun s slot len cmd i hi => ?taken, fun s j r hj hfw hr => ?ended⟩
  case taken =>
    have hexec : exec i s = .next (s.pwGo cmd slot len.toNat) := by
      rcases hi with ⟨rfl, rfl⟩ | ⟨rfl, rfl⟩ | ⟨rfl, rfl⟩ <;> rfl
    refine ⟨fun hbusy => hexec.trans (congrArg _ (State.pwGo_of_busy hbusy ..)), fun hclk hidle u j hu hcmd hslot hlen hbytes => ?_⟩
    obtain ⟨jcmd, jslot, jlen, jbytes⟩ := j
    subst hu hcmd hslot hlen hbytes
    exact hexec.trans (congrArg _ (State.pwGo_of_idle hclk hidle ..))
  case ended =>
    have hend (hrandom : j.cmd ≠ 3 ∨ s.fld .secStatus fSecStatusEntFail ≠ 1) (hlen : j.cmd = 2 ∨ (1 ≤ j.len ∧ j.len ≤ 32))
        (hout : s.pwOutcome j = r) := (State.doPwEnd_of_outcome hj hfw hrandom hlen).trans (by rw [hout])
    rcases hr with ⟨hcmd, hr⟩ | ⟨hcmd, hlo, hhi, hr⟩ | ⟨hcmd, hlo, hhi, hfine, hr⟩
    · exact congrArg Host.Outcome.next (hend (.inl (by omega)) (.inl hcmd) ((if_pos hcmd).trans hr.symm))
    · exact congrArg Host.Outcome.next (hend (.inl (by omega)) (.inr ⟨hlo, hhi⟩) ((if_neg (by omega)).trans ((if_pos hcmd).trans hr.symm)))
    · exact congrArg Host.Outcome.next (hend (.inr hfine) (.inr ⟨hlo, hhi⟩) ((if_neg (by omega)).trans ((if_neg (by omega)).trans hr.symm)))

/-- Settles O53: the warning and its end, a flush, and a NOR slot that is programmed. -/
theorem powerWarningAndNor : Obligations.PowerWarningAndNor := by
  intro s
  refine ⟨fun hwarn hstep hpower => ?warned, fun hwarn => congrArg Host.Outcome.next (if_pos hwarn),
    fun ch hflushing hprogs => congrArg Host.Outcome.next (if_pos (by rw [hflushing, hprogs]; rfl)), fun j u hj hu => ?nor⟩
  case warned =>
    have hmay : ¬ (s.fl.warn || decide (s.start.step < 6)) = true := by simp [hwarn, hstep]
    refine congrArg Host.Outcome.next ((if_neg hmay).trans ?_)
    rw [if_neg hpower]
  case nor =>
    subst hu
    exact ⟨fun q r hq hfw hr => congrArg Host.Outcome.next (State.doNorDone_of_request hj hq hfw hr),
      fun hq => congrArg Host.Outcome.next (State.doNorDone_of_recover hj hq)⟩

/-- Settles O55, step by step. -/
theorem startGoesByItsSteps : Obligations.StartGoesByItsSteps := by
  intro s
  refine ⟨rfl, fun hstep => congrArg Host.Outcome.next (if_pos hstep), fun hstarting => ?steps, fun hstage hstep hnor b hb => ?recovers⟩
  case steps =>
    have hplain {t : State} (h : s.plainStep = t) : exec (.startStepDone .plain) s = .next t :=
      (exec_startStepDone hstarting _).trans (congrArg _ h)
    refine ⟨fun h => hplain (State.plainStep_one h), fun h => hplain (State.plainStep_two h), fun h hlink => hplain (State.plainStep_three h hlink),
      fun h a b => (exec_startStepDone hstarting _).trans (congrArg _ (if_pos h)), fun h slot b rest hcands => hplain ?image,
      fun h hcands => hplain ?noImage, fun h tr => (exec_startStepDone hstarting _).trans (congrArg _ (if_pos h)),
      fun h => hplain (State.plainStep_seven h), fun h hcool => hplain (State.plainStep_eight h hcool), fun h => hplain (State.plainStep_nine h),
      fun h hrel => hplain (State.plainStep_ten h hrel), fun code hlimit => congrArg Host.Outcome.next (if_pos ?limit)⟩
    case image =>
      rw [State.plainStep_five h, hcands]
      rfl
    case noImage =>
      rw [State.plainStep_five h, hcands]
      rfl
    case limit => exact ⟨hstarting, by omega, hlimit.elim (fun h => .inl (by omega)) (fun h => .inr h.2)⟩
  case recovers =>
    subst hb
    exact congrArg Host.Outcome.next (State.recover_of_failed hstage hstep hnor)

end Sys2Proof
end

section
/-! The flash subsystem's requests, programs, erases, retirement and relocation (R582 to R592, R608). -/

namespace Sys2Proof.Machine

variable {s : State}

/-! ## The request port -/

/-- What a GO keeps: OP and UNITS (notes/assumptions/25.md). -/
def State.flReqKept (s : State) (op slot units : Nat) : State :=
  (s.setFld .flsReqCtl fFlsReqCtlOp slot op).setFld .flsReqCtl fFlsReqCtlUnits slot units

/-- The slot shows BUSY. -/
def State.flReqTaken (s : State) (op slot units : Nat) : State :=
  (s.flReqKept op slot units).setReg .flsReqStatus slot 0 (putFl fFlsReqStatusState 0 1)

theorem State.flGo_of_busy (hclk : s.clocked = true) {slot : Nat} (hbusy : s.fld .flsReqStatus fFlsReqStatusState slot = 1) (op units : Nat)
    (go : State → FlReq → Option State) : s.flGo op slot units go = s.flReqKept op slot units := by
  simp only [State.flGo, hclk, Bool.not_true, Bool.false_eq_true, if_false, if_pos hbusy, State.flReqKept]

/-- R588: a request that fails a check ends at once. -/
theorem State.flGo_of_bar (hclk : s.clocked = true) {op slot units : Nat} (hidle : s.fld .flsReqStatus fFlsReqStatusState slot ≠ 1) {c : Code}
    (hbar : (s.flReqTaken op slot units).flReqBar (s.newFlReq op slot units) = some c) (go : State → FlReq → Option State) :
    s.flGo op slot units go = (s.flReqTaken op slot units).endFlReq slot 3 c.toNat := by
  unfold State.flReqTaken State.flReqKept at *
  simp only [State.flGo, hclk, Bool.not_true, Bool.false_eq_true, if_false, if_neg hidle, hbar]

/-- Any other starts. -/
theorem State.flGo_of_start (hclk : s.clocked = true) {op slot units : Nat} (hidle : s.fld .flsReqStatus fFlsReqStatusState slot ≠ 1)
    (hbar : (s.flReqTaken op slot units).flReqBar (s.newFlReq op slot units) = none) {go : State → FlReq → Option State} {t : State}
    (hgo : go ((s.flReqTaken op slot units).setFlReq slot (some (s.newFlReq op slot units))) (s.newFlReq op slot units) = some t) :
    s.flGo op slot units go = t.flKick := by
  unfold State.flReqTaken State.flReqKept at *
  simp only [State.flGo, hclk, Bool.not_true, Bool.false_eq_true, if_false, if_neg hidle, hbar, hgo]

/-! ## The next unit of a WRITE -/

theorem State.flNext_of_complete {r : FlReq} (habort : r.abort = false) (hall : r.done = r.units) (slot : Nat) (g : FlashGroup) :
    s.flNext slot r g = some (s.endFlReq slot 2 0) :=
  (if_neg (by simp [habort])).trans (if_pos hall)

/-- R582 to R584, R589: the next unit is programmed into the group that the translation layer chose. -/
theorem State.flNext_of_group {r : FlReq} {u ch : Nat} {data : List Byte} (habort : r.abort = false) (hmore : r.done ≠ r.units)
    (hu : r.dstOff / 65536 + r.done = u) (hch : unitChannel (s.region r.dstRegion).home u = ch) (hbar : s.flReqBar r = none)
    (hunmapped : s.unitGroup r.dstRegion u = none) (hidle : s.fl.progs.any (fun j => j.region == r.dstRegion && j.unit == u) = false)
    {g : FlashGroup} (herased : s.erased (s.grpKey ch g) = true) (hdata : s.flSource r = .ok data)
    (hfresh : s.groupFresh (s.grpKey ch g) = true) (slot : Nat) :
    s.flNext slot r g = some (((s.flCharge r).setFlReq slot (some { r with busy := true })).addProg
      { ch := ch, grp := s.grpKey ch g, region := r.dstRegion, unit := u, data := data, who := .request slot, tries := 0, issued := false }) := by
  subst hu hch
  simp only [State.flNext, habort, Bool.false_eq_true, if_false, if_neg hmore, hbar, hunmapped, hidle, herased, hdata, hfresh,
    Option.isSome_none, Bool.not_true, or_self]

/-! ## Programs -/

/-- The program that has ended on a channel. -/
abbrev State.programAtWork (s : State) (ch : Nat) : Option ProgJob := s.fl.progs.find? (fun j => j.ch == ch && j.issued && s.fwOn 0)

theorem State.doProgramDone_of_out {ch : Nat} {j : ProgJob} (hj : s.programAtWork ch = some j) (hout : s.fl.chOut.contains ch = true)
    (res : ProgramResult) (g : FlashGroup) : s.doProgramDone ch res g = ((s.programFails j).flKick).gateNclk ch := by
  simp only [State.doProgramDone, hj, if_pos hout]

/-- R584: what a verified program was for goes on. -/
theorem State.doProgramDone_of_verified {ch : Nat} {j : ProgJob} (hj : s.programAtWork ch = some j) (hin : s.fl.chOut.contains ch = false)
    {g : FlashGroup} {t : State} (hnext : (s.programmed j).programNext j g = some t) :
    s.doProgramDone ch .verified g = t.flKick.gateNclk ch := by
  simp only [State.doProgramDone, hj, hin, Bool.false_eq_true, if_false, if_true, hnext]

/-- R585: RETRY is spent. -/
theorem State.doProgramDone_of_spent {ch : Nat} {j : ProgJob} (hj : s.programAtWork ch = some j) (hin : s.fl.chOut.contains ch = false)
    {res : ProgramResult} (hres : res ≠ .verified) (hspent : s.fld .flsCfg fFlsCfgRetry ≤ j.tries) (g : FlashGroup) :
    s.doProgramDone ch res g = ((s.markBlock (blockKey j.grp)).programFails j).flKick.gateNclk ch := by
  simp only [State.doProgramDone, hj, hin, Bool.false_eq_true, if_false, if_neg hres, if_pos hspent]

/-- R585: the program is tried again on another group. -/
theorem State.doProgramDone_of_retry {ch : Nat} {j : ProgJob} (hj : s.programAtWork ch = some j) (hin : s.fl.chOut.contains ch = false)
    {res : ProgramResult} (hres : res ≠ .verified) (hleft : j.tries < s.fld .flsCfg fFlsCfgRetry) {g : FlashGroup} {u v : State}
    (hu : s.markBlock (blockKey j.grp) = u) (herased : u.erased (s.grpKey ch g) = true) (hopen : u.groupOpen (s.grpKey ch g) = true)
    (hfresh : u.blockOpen (s.grpKey ch g) = false) (hv : u.count 6 ch 4 = v) :
    s.doProgramDone ch res g =
      let j' : ProgJob := { j with grp := s.grpKey ch g, tries := j.tries + 1, issued := false }
      ({ v with fl := { v.fl with progs := updFirst (fun x => x == j) (fun _ => j') v.fl.progs } } : State).flKick.gateNclk ch := by
  subst hu hv
  simp only [State.doProgramDone, hj, hin, Bool.false_eq_true, if_false, if_neg hres, if_neg (Nat.not_le.mpr hleft), herased, hopen, hfresh,
    Bool.not_true, Bool.or_self]

theorem State.programNext_of_lastUnit {j : ProgJob} {slot : Nat} {q : FlReq} (hwho : j.who = .request slot) (hq : s.flReq slot = some q)
    (habort : q.abort = false) (hlast : q.done + 1 = q.units) (g : FlashGroup) :
    s.programNext j g = some ((s.flProgress slot { q with done := q.done + 1, busy := false }).endFlReq slot 2 0) := by
  simp only [State.programNext, hwho, hq]
  exact State.flNext_of_complete (by exact habort) hlast slot g

/-! ## Erases -/

/-- R582, R591: a block verified blank has its groups erased and its read count cleared. -/
theorem State.doEraseDone_of_blank {ch : Nat} {e : EraseJob} {u : State} (he : s.fl.erases.find? (fun e => e.ch == ch && e.issued) = some e)
    (hwarn : s.fl.warn = false) (hrun : s.run = true) (hfw : s.fwOn 0 = true) (hu : s.count 6 ch 5 = u) :
    s.doEraseDone ch true = ({ u with fl := { u.fl with
      erases := removeFirst (fun x => x == e) u.fl.erases
      notErased := tabClear u.fl.notErased (blockLo e.blk) (blockHi e.blk)
      metas := tabClear u.fl.metas (blockLo e.blk) (blockHi e.blk)
      data := tabClear u.fl.data (blockLo e.blk * 65536) (blockHi e.blk * 65536)
      reads := tabSet 0 u.fl.reads e.blk 0
      eraseCnt := tabUpd 0 u.fl.eraseCnt e.blk (· + 1) } } : State).flKick := by
  subst hu
  simp only [State.doEraseDone, he, hwarn, hrun, hfw, Bool.not_true, Bool.or_self, Bool.false_eq_true, if_false]

theorem State.doEraseDone_of_notBlank (s : State) (ch : Nat) : s.doEraseDone ch false = s := by
  unfold State.doEraseDone
  split
  · rfl
  · exact if_pos (by simp)

/-! ## Relocation and retirement -/

/-- R586: a marked block that is emptied leaves use. -/
theorem State.doRetire_of_emptied {ch b : Nat} {dst : List Nat} {t u v : State} (hon : s.flashOn = true) (hup : s.channelUp ch = true)
    (hidle : s.fl.progs.any (fun j => blockKey j.grp == b) = false) (hmarked : s.fl.marked.contains b = true)
    (ht : s.relocate ch b dst = some t)
    (hu : ({ t with fl := { t.fl with marked := setErase b t.fl.marked, retired := setInsert b t.fl.retired } } : State) = u)
    (hv : (u.bumpSat .flsChStatus fFlsChStatusRetired ch).noteFree = v) :
    s.doRetire ch b dst = (v.postDev {
      code := codeSpareSwitched
      detail := [BitVec.ofNat 8 ch, BitVec.ofNat 8 ((blockLo b / 2 ^ 35 % 8) * 16 + blockLo b / 2 ^ 31 % 16)] ++
        leBytes 2 (blockLo b / 2 ^ 12 % 2 ^ 19) }).flKick := by
  subst hu hv
  have hmay : ¬ (!s.flashOn || !s.fl.marked.contains b || s.fl.progs.any (fun j => blockKey j.grp == b) || !s.channelUp ch) = true := by
    simp only [hon, hup, hidle, hmarked]
    decide
  simp only [State.doRetire, if_neg hmay, ht]

/-- R591: a block read too often, or read with a retry, or whose erases lag, is emptied and erased. -/
theorem State.doDisturb_of_due {ch b : Nat} {retried : Bool} {dst : List Nat} {t u : State} (hon : s.flashOn = true)
    (hup : s.channelUp ch = true) (hidle : s.fl.progs.any (fun j => blockKey j.grp == b) = false)
    (hdue : retried = true ∨ s.fld .flsCfg fFlsCfgDisturbReads < tabGet 0 s.fl.reads b ∨ s.wearLags ch b = true)
    (herases : s.fl.erases.any (fun e => e.blk == b) = false) (hused : s.fl.retired.contains b = false)
    (ht : s.relocate ch b dst = some t) (hu : t.when retried (fun t => t.count 6 ch 1) = u) :
    s.doDisturb ch b retried dst = (u.addErase ch b u.flashReads).flKick := by
  subst hu
  have hdue' : (retried || decide (s.fld .flsCfg fFlsCfgDisturbReads < tabGet 0 s.fl.reads b) || s.wearLags ch b) = true := by
    simpa [or_assoc] using hdue
  simp only [State.doDisturb, hon, hup, hidle, hdue', herases, hused, ht, Bool.not_true, Bool.or_self, Bool.false_eq_true, if_false]

end Sys2Proof.Machine

namespace Sys2Proof
open Sys2Proof.Machine Sys2Proof.Claims

theorem flashRequestsStart : FlashRequestsStart := by
  intro s slot units op i g hclk hi u v w r hu hr hv hw
  subst hu hr hv hw
  have hwrite (h : op = 1) : exec i s = .next (s.flGo 1 slot units.toNat (fun s r => s.flNext slot r g)) := by
    rcases hi with ⟨_, rfl⟩ | ⟨h', _⟩ | ⟨h', _⟩ | ⟨h', _⟩
    · rfl
    all_goals omega
  have hexec : ∃ go, exec i s = .next (s.flGo op slot units.toNat go) ∧ ((op = 2 ∨ op = 3) → ∀ t r, go t r = some t) ∧
      (op = 4 → ∀ t r, go t r = some (t.formatReq slot r)) := by
    rcases hi with ⟨rfl, rfl⟩ | ⟨rfl, rfl⟩ | ⟨rfl, rfl⟩ | ⟨rfl, rfl⟩
    · exact ⟨_, rfl, by omega, by omega⟩
    · exact ⟨_, rfl, fun _ _ _ => rfl, by omega⟩
    · exact ⟨_, rfl, fun _ _ _ => rfl, by omega⟩
    · exact ⟨_, rfl, by omega, fun _ _ _ => rfl⟩
  obtain ⟨go, hgo, hkeeps, hformats⟩ := hexec
  refine ⟨fun hbusy => hgo.trans (congrArg Host.Outcome.next (State.flGo_of_busy hclk hbusy ..)), fun hidle =>
    ⟨fun c hbar => hgo.trans (congrArg Host.Outcome.next (State.flGo_of_bar hclk hidle hbar _)), fun hbar => ?starts⟩⟩
  case starts =>
    refine ⟨fun hop => hgo.trans (congrArg Host.Outcome.next (State.flGo_of_start hclk hidle hbar (hkeeps hop _ _))),
      fun hop => hgo.trans (congrArg Host.Outcome.next (State.flGo_of_start hclk hidle hbar (hformats hop _ _))), fun t hop ht => ?next,
      fun un ch data hop hunits hun hch hbar' hunmapped hnone herased hdata hfresh => ?first⟩
    case next =>
      subst hop
      exact (hwrite rfl).trans (congrArg Host.Outcome.next (State.flGo_of_start hclk hidle hbar ht))
    case first =>
      subst hop
      have hmore : 0 ≠ units.toNat := fun h => hunits (BitVec.eq_of_toNat_eq h.symm)
      exact (hwrite rfl).trans (congrArg Host.Outcome.next (State.flGo_of_start hclk hidle hbar
        (State.flNext_of_group (r := s.newFlReq 1 slot units.toNat) rfl hmore hun hch hbar' hunmapped hnone herased hdata hfresh _)))

theorem flashProgramsErasesAndRetires : FlashProgramsErasesAndRetires := by
  intro s ch
  refine ⟨fun j g hj => ⟨fun hout res => congrArg Host.Outcome.next (State.doProgramDone_of_out hj hout res g), fun hin => ?programs⟩,
    fun e u he hwarn hrun hfw hu => ⟨congrArg Host.Outcome.next (State.doEraseDone_of_blank he hwarn hrun hfw hu),
      congrArg Host.Outcome.next (s.doEraseDone_of_notBlank ch)⟩, fun blk gs b hb hon hup hidle => ?blocks⟩
  case programs =>
    refine ⟨fun t ht => congrArg Host.Outcome.next (State.doProgramDone_of_verified hj hin ht), fun slot q q' hwho hq habort hlast hq' => ?last,
      fun res hres hspent => congrArg Host.Outcome.next (State.doProgramDone_of_spent hj hin hres hspent g),
      fun res u v hres hleft hu herased hopen hfresh hv j' hj' => ?retry⟩
    case last =>
      subst hq'
      exact congrArg Host.Outcome.next
        (State.doProgramDone_of_verified hj hin (State.programNext_of_lastUnit hwho hq habort hlast g))
    case retry =>
      subst hj'
      exact congrArg Host.Outcome.next (State.doProgramDone_of_retry hj hin hres hleft hu herased hopen hfresh hv)
  case blocks =>
    subst hb
    exact ⟨fun t u v hmarked ht hu hv => congrArg Host.Outcome.next (State.doRetire_of_emptied hon hup hidle hmarked ht hu hv),
      fun retried t u hdue herases hused ht hu => congrArg Host.Outcome.next (State.doDisturb_of_due hon hup hidle hdue herases hused ht hu),
      fun live dst t hlive hdst ht hlength hdistinct hfresh hleft => by
        subst hlive hdst ht
        exact if_pos ⟨hlength, hdistinct, hfresh, hleft⟩⟩

/-- Settles O51, from the request port and from the channels' programs, erases and blocks. -/
theorem flashWorks : Obligations.FlashWorks := ⟨flashRequestsStart, flashProgramsErasesAndRetires⟩

end Sys2Proof
end

section
/-! The parcel port: the steps of Table 14-7, removal on request, and loss (R600 to R603, R750). -/

namespace Sys2Proof.Machine

variable {s : State}

/-! ## Insertion -/

/-- The registers that an identified parcel shows: its identity and capacity, or BLANK without a valid header. -/
def State.showHeader (s : State) : Option ParcelHeader → State
  | some h => ((s.setReg .pclId 0 0 h.id).setFld .pclStatus fPclStatusCapacity 0 h.capacityMiB.toNat).setFld .pclStatus fPclStatusBlank 0 0
  | none => ((s.setReg .pclId 0 0 0).setFld .pclStatus fPclStatusCapacity 0 0).setFld .pclStatus fPclStatusBlank 0 1

/-- The parcel is open, and PCL_STATUS shows ON. -/
def State.openParcel (s : State) : State :=
  ((({ s with fl := { s.fl with parcelStep := 0, parcelOpen := true } } : State).setPcl 2).pclChange).noteParcel

/-- The last step of Table 14-7: the parcel is ON, and a removal recorded meanwhile is acted on (R506). -/
theorem State.parcelOn_eq (s : State) (h : Option ParcelHeader) :
    s.parcelOn h = if (s.showHeader h).openParcel.fld .pclStatus fPclStatusPending = 1 then
      ((s.showHeader h).openParcel.setFld .pclStatus fPclStatusPending 0 0).pclRequest else (s.showHeader h).openParcel := by
  cases h <;> rfl

theorem exec_parcelIdentified (hstep : s.fl.parcelStep = 5) (h : Option ParcelHeader) :
    exec (.parcelIdentified h) s = .next (s.parcelOn h) :=
  congrArg Host.Outcome.next (if_pos hstep)

/-! ## Removal -/

/-- R602: a parcel that is ON drains, unless DEFER holds the removal. -/
theorem State.pclRequest_of_on (hclk : s.clocked = true) (hon : s.pclState = 2) :
    s.pclRequest = if (s.setPcl 3).fld .pclCfg fPclCfgDefer = 1 then
      { s.setPcl 3 with fl := { (s.setPcl 3).fl with drainStep := 1 } } else (s.setPcl 3).beginDrain :=
  (if_neg (by simp [hclk])).trans (if_pos hon)

/-- What the end of the parcel's reads brings about, where `abort` ends a slot's request: the requests end and the journal is flushed. -/
def State.parcelReadsEnd (s : State) (abort : State → Nat → State) : State :=
  let u := (s.endParcelReads.1.abortFlReqs (fun r => (s.region r).home == 2)).each (List.range 4) abort
  { u with fl := { u.fl with drainStep := 3, flushing := (rangeFrom 12 4).foldl (fun l c => setInsert c l) u.fl.flushing } }

theorem State.parcelReadsEnd_congr {f g : State → Nat → State} (h : ∀ t i, f t i = g t i) : s.parcelReadsEnd f = s.parcelReadsEnd g :=
  congrArg s.parcelReadsEnd (funext fun t => funext fun i => h t i)

end Sys2Proof.Machine

namespace Sys2Proof
open Sys2Proof.Machine Sys2Proof.Claims

theorem parcelsStart : ParcelsStart := by
  intro s
  refine ⟨fun hreleased hclk habsent => congrArg Host.Outcome.next (if_neg (by simp [hreleased, hclk, habsent])),
    fun hstep => congrArg Host.Outcome.next (if_pos hstep), fun hstep => congrArg Host.Outcome.next (if_pos hstep),
    fun hstep h u v hu hv => ?identified, fun hstep u hu => ?fails⟩
  case identified =>
    have hshown : (s.showHeader h).openParcel = v := by
      subst hu hv
      cases h <;> rfl
    have hon := exec_parcelIdentified hstep h
    rw [State.parcelOn_eq, hshown] at hon
    exact ⟨fun hquiet => hon.trans (congrArg Host.Outcome.next (if_neg hquiet)),
      fun hpending => hon.trans (congrArg Host.Outcome.next (if_pos hpending))⟩
  case fails =>
    subst hu
    exact congrArg Host.Outcome.next ((if_neg (by omega)).trans (if_pos hstep))

theorem parcelsLeave : ParcelsLeave := by
  intro s
  refine ⟨fun hclk hon => ⟨fun hdefer => congrArg Host.Outcome.next ((State.pclRequest_of_on hclk hon).trans (if_pos hdefer)),
      fun hdefer => congrArg Host.Outcome.next ((State.pclRequest_of_on hclk hon).trans (if_neg hdefer))⟩,
    fun hreleased => congrArg Host.Outcome.next (if_pos hreleased),
    fun hclk hheld => congrArg Host.Outcome.next (if_pos (by simp [hclk, hheld])), fun hdrain u v hv hu => ?drained,
    fun hpulse => congrArg Host.Outcome.next (if_neg (by simp [hpulse])), fun hreleased hthere => ?lost, fun hreleased hoff => ?withdrawn,
    fun hpower => congrArg Host.Outcome.next (if_pos hpower)⟩
  case drained =>
    subst hv hu
    refine congrArg Host.Outcome.next ((if_neg (not_not.mpr hdrain)).trans (State.parcelReadsEnd_congr (s := s) fun t i => ?_))
    cases t.flReq i <;> rfl
  case lost =>
    refine congrArg Host.Outcome.next ((if_neg (by simp [hreleased])).trans ?_)
    rw [if_neg hthere]
  case withdrawn =>
    refine congrArg Host.Outcome.next ((if_neg (by simp [hreleased])).trans ?_)
    rw [if_pos hoff]

/-- Settles O54, from the insertion and from the removal and loss. -/
theorem parcelsComeAndGo : Obligations.ParcelsComeAndGo := ⟨parcelsStart, parcelsLeave⟩

end Sys2Proof
end

section
/-! Power control and the I3C target (R630 to R641, R752), and the monitors, the cold stop and resume (R642 to R650). -/

namespace Sys2Proof.Machine

variable {s : State}

/-! ## The limiter and the throttles -/

theorem nextFloor_of_above {floor power limit : Nat} (h : limit < power) : nextFloor floor power limit = min 60 (floor + 4) := if_pos h

theorem nextFloor_of_below {floor power limit : Nat} (h : 100 * power < 95 * limit) : nextFloor floor power limit = floor - 1 :=
  (if_neg (by omega)).trans (if_pos h)

theorem nextFloor_of_between {floor power limit : Nat} (hle : power ≤ limit) (hge : 95 * limit ≤ 100 * power) :
    nextFloor floor power limit = floor :=
  (if_neg (by omega)).trans (if_neg (by omega))

theorem exec_limiterCompare (hclk : s.clocked = true) (power : BitVec 12) :
    exec (.limiterCompare power .none) s =
      let n := nextFloor s.pw.floor power.toNat s.limit
      .next ((({ s with pw := { s.pw with floor := n } } : State).setFld .pwrStatus fPwrStatusPower 0 power.toNat).setFld
        .pwrStatus fPwrStatusLimiter 0 (if n = 0 then 0 else 1)) :=
  congrArg Host.Outcome.next ((if_neg (by simp [hclk])).trans (if_neg (by decide)))

/-- One frame of a cluster's ramp towards the level it should have. -/
theorem exec_throttleRampFrame (hclk : s.clocked = true) (cl : Fin 16) :
    exec (.throttleRampFrame cl) s = .next (s.setLevel cl (if s.level cl < s.wantLevel cl then min (s.wantLevel cl) (s.level cl + 4)
      else max (s.wantLevel cl) (s.level cl - 4))) :=
  congrArg Host.Outcome.next (if_neg (by simp [hclk]))

/-! ## The I3C target -/

theorem State.i3cOn_iff (s : State) : s.i3cOn = true ↔ 2 ≤ s.start.step := decide_eq_true_iff

theorem State.hottest_of_measured (h : s.start.sensors ≠ []) : s.hottest = ((s.start.sensors.map (·.toNat)).foldl max 0, s) :=
  if_neg (by simpa using h)

/-! ## The thermal monitor -/

/-- The sensors above THERM_TRIP. -/
def State.hotSensors (s : State) (temps : List (BitVec 16)) : List Nat :=
  (List.range 96).filter (fun i => decide (s.fld .pwrThermCfg fPwrThermCfgThermTrip < (temps.getD i 0).toNat))

/-- A conversion is taken; `trip` says that a sensor was above THERM_TRIP for the second time in a row. -/
theorem exec_thermalConversion {temps : List (BitVec 16)} (hstep : 2 ≤ s.start.step) (hall : temps.length = 96) {hot : List Nat} {trip : Bool}
    (hhot : s.hotSensors temps = hot) (htrip : hot.any (fun i => s.start.hotOnce.contains i) = trip) :
    exec (.thermalConversion temps) s =
      let u := { s with start := { s.start with sensors := temps, hotOnce := hot, tripped := s.start.tripped || trip } }
      .next (if (trip && !s.start.tripped) = true then u.beginStop 2 else u) := by
  subst hhot htrip
  exact congrArg Host.Outcome.next (if_neg (by omega))

/-! ## Cold stop and resume -/

/-- A stopped die that its function has left in D3hot. -/
theorem State.hostBack_of_other (h : s.fld .pwrState fPwrStateState ≠ 3 ∨ s.fld .pwrState fPwrStateCause ≠ 3) : s.hostBack = s :=
  if_pos (h.elim .inl (fun h => .inr (.inl h)))

theorem State.hostBack_of_cool (hstate : s.fld .pwrState fPwrStateState = 3) (hcause : s.fld .pwrState fPwrStateCause = 3)
    (hd0 : s.start.d3hot = false) (hcoolant : s.start.coolant = true) (hcool : s.cool = true) : s.hostBack = s.beginResume :=
  (if_neg (by simp [hstate, hcause, hd0])).trans (if_pos ⟨hcoolant, hcool⟩)

theorem State.hostBack_of_hot (hstate : s.fld .pwrState fPwrStateState = 3) (hcause : s.fld .pwrState fPwrStateCause = 3)
    (hd0 : s.start.d3hot = false) (hhot : s.start.coolant = false ∨ s.cool = false) :
    s.hostBack = s.setFld .pwrState fPwrStateCause 0 1 :=
  (if_neg (by simp [hstate, hcause, hd0])).trans (if_neg (by rcases hhot with h | h <;> simp [h]))

/-- A stage of the stop has ended. -/
def State.stopAt (s : State) (k : Nat) : State := { s with pw := { s.pw with stopStage := k } }

theorem State.stopStageDone_one (h : s.pw.stopStage = 1) : s.stopStageDone = s.coresDrain.stopAt 2 := by
  simp only [State.stopStageDone, h, State.stopAt]

theorem State.stopStageDone_two (h : s.pw.stopStage = 2) :
    s.stopStageDone = (s.each (List.range 12) (fun s p => s.portStops p)).stopAt 3 := by
  simp only [State.stopStageDone, h, State.stopAt]

/-- The third stage waits until every request has returned, unless the stop is that of a fault. -/
theorem State.stopStageDone_three (h : s.pw.stopStage = 3) : s.stopStageDone =
    if s.mv.reqs.any (fun r => !s.hostReq r) = true ∧ s.fld .fltDieStatus fFltDieStatusFatal = 0 then s else s.stopAt 4 := by
  simp only [State.stopStageDone, h, State.stopAt]
  rfl

theorem State.stopStageDone_four (h : s.pw.stopStage = 4) : s.stopStageDone = s.postStop.stopAt 5 := by
  simp only [State.stopStageDone, h, State.stopAt]

theorem State.stopStageDone_five (h : s.pw.stopStage = 5) : s.stopStageDone = (s.gateClocks.stopAt 0).hostBack := by
  simp only [State.stopStageDone, h, State.stopAt]

/-- R649: the conditions of a resume by command. -/
def State.mayResume (s : State) : Prop :=
  s.fld .pwrState fPwrStateState = 3 ∧ s.start.coolant = true ∧ s.cool = true ∧ s.fld .fltDieStatus fFltDieStatusFatal = 0 ∧
    (s.fld .pwrState fPwrStateCause = 1 ∨ s.fld .pwrState fPwrStateCause = 2 → s.fld .cfgStatus fCfgStatusFlags / 8 = 1)

theorem exec_pwrStateResume_of_may (h : s.mayResume) : exec .pwrStateResume s = .next s.beginResume :=
  congrArg Host.Outcome.next (if_pos h)

theorem exec_pwrStateResume_of_refused (h : ¬ s.mayResume) : exec .pwrStateResume s = .next (s.setFld .pwrState fPwrStateRefused 0 1) :=
  congrArg Host.Outcome.next (if_neg h)

end Sys2Proof.Machine

namespace Sys2Proof
open Sys2Proof.Machine Sys2Proof.Claims

theorem powerIsShared : PowerIsShared := by
  intro s u v m hclk hfw hu hv
  subst hu hv
  exact congrArg Host.Outcome.next (if_neg (by simp [hclk, hfw]))

theorem throttlesFollowTheLimiter : ThrottlesFollowTheLimiter := by
  intro s hclk
  have hrun : ¬ (!s.clocked) = true := by simp [hclk]
  refine ⟨fun power n hn => ⟨?floor, congrArg Host.Outcome.next ((if_neg hrun).trans (if_pos rfl))⟩, fun cl w hw => ?levels⟩
  case floor =>
    have hfloor : nextFloor s.pw.floor power.toNat s.limit = n := by
      rcases hn with ⟨h, rfl⟩ | ⟨h, rfl⟩ | ⟨hle, hge, rfl⟩
      · exact nextFloor_of_above h
      · exact nextFloor_of_below h
      · exact nextFloor_of_between hle hge
    rw [exec_limiterCompare hclk, hfloor]
  case levels =>
    have hwant : s.wantLevel cl = w := hw.symm
    have hramp := exec_throttleRampFrame hclk cl
    rw [hwant] at hramp
    refine ⟨fun hbelow => by rw [hramp, if_pos hbelow], fun habove => by rw [hramp, if_neg (Nat.not_lt.mpr habove)], fun u hu => ?trip,
      congrArg Host.Outcome.next (if_pos hclk)⟩
    case trip =>
      subst hu
      exact congrArg Host.Outcome.next (if_neg hrun)

theorem targetAnswersFromStep2 : TargetAnswersFromStep2 := by
  intro s hstep
  have hon : s.i3cOn = true := s.i3cOn_iff.mpr hstep
  refine ⟨fun addr => congrArg Host.Outcome.next (if_pos hon), congrArg Host.Outcome.next (if_pos hon), fun hsensors => ?temperature,
    fun w => congrArg Host.Outcome.next (if_pos hon), congrArg Host.Outcome.next (if_pos hon)⟩
  case temperature =>
    refine congrArg Host.Outcome.next ((if_pos hon).trans ?_)
    rw [State.hottest_of_measured hsensors]

/-- Settles O56, from the control period, the limiter and the ramp, and the I3C target. -/
theorem powerIsControlled : Obligations.PowerIsControlled := ⟨powerIsShared, throttlesFollowTheLimiter, targetAnswersFromStep2⟩

theorem monitorsMeasure : MonitorsMeasure := by
  intro s
  refine ⟨fun need u hclk hfw hu => ?ageing, fun temps hot hstep hall hhot => ⟨fun hcool => ?cool, fun htwice hfirst => ?trips⟩⟩
  case ageing =>
    subst hu
    have hmay : ¬ ((!s.clocked) = true ∨ (!s.fwOn 1) = true) := by simp [hclk, hfw]
    exact ⟨fun hsec => congrArg Host.Outcome.next ((if_neg hmay).trans (if_pos hsec)),
      fun hsec => congrArg Host.Outcome.next ((if_neg hmay).trans (if_neg (Bool.eq_false_iff.mp hsec)))⟩
  case cool =>
    rw [exec_thermalConversion hstep hall hhot hcool]
    simp only [Bool.or_false, Bool.false_and, Bool.false_eq_true, if_false]
  case trips =>
    rw [exec_thermalConversion hstep hall hhot htwice]
    simp only [hfirst, Bool.or_true, Bool.not_false, Bool.and_self, if_true]

theorem dieStopsAndResumesByStages : DieStopsAndResumesByStages := by
  intro s
  refine ⟨rfl, fun u hu => ?coolantLost, fun u hu => ?sleeps, fun u hu => ?wakes, fun at' hat => ?stages,
    fun hstate hcoolant hcool hfatal hcause => exec_pwrStateResume_of_may ⟨hstate, hcoolant, hcool, hfatal, fun h => ?resumes⟩,
    fun hbar => exec_pwrStateResume_of_refused (fun hmay => ?refused), fun hstate hfw => congrArg Host.Outcome.next (if_pos ⟨hstate, hfw⟩)⟩
  case coolantLost =>
    subst hu
    exact ⟨fun hwas hstep => congrArg Host.Outcome.next (if_pos ⟨hwas, hstep⟩),
      fun h => congrArg Host.Outcome.next (if_neg (fun ⟨hwas, hstep⟩ => h.elim (by simp [hwas]) (Nat.not_lt.mpr hstep)))⟩
  case sleeps =>
    subst hu
    exact ⟨fun hrun => congrArg Host.Outcome.next (if_pos hrun),
      fun hrun => congrArg Host.Outcome.next (if_neg (Bool.eq_false_iff.mp hrun))⟩
  case wakes =>
    subst hu
    exact ⟨fun hstate hcause hcoolant hcool => congrArg Host.Outcome.next (State.hostBack_of_cool hstate hcause rfl hcoolant hcool),
      fun hstate hcause hhot => congrArg Host.Outcome.next (State.hostBack_of_hot hstate hcause rfl hhot),
      fun h => congrArg Host.Outcome.next (State.hostBack_of_other h)⟩
  case stages =>
    obtain rfl : at' = State.stopAt := funext fun t => funext fun k => hat t k
    exact ⟨fun h => congrArg Host.Outcome.next (State.stopStageDone_one h), fun h => congrArg Host.Outcome.next (State.stopStageDone_two h),
      fun h hback => congrArg Host.Outcome.next ((State.stopStageDone_three h).trans
        (if_neg (fun ⟨hout, hfatal⟩ => hback.elim (by simp [hout]) (· hfatal)))),
      fun h hout hfatal => congrArg Host.Outcome.next ((State.stopStageDone_three h).trans (if_pos ⟨hout, hfatal⟩)),
      fun h => congrArg Host.Outcome.next (State.stopStageDone_four h), fun h => congrArg Host.Outcome.next (State.stopStageDone_five h)⟩
  case resumes => exact hcause.resolve_left (by omega)
  case refused =>
    obtain ⟨hstate, hcoolant, hcool, hfatal, hflags⟩ := hmay
    rcases hbar with h | h | h | h | ⟨hcause, hunset⟩
    · exact h hstate
    · simp [hcoolant] at h
    · simp [hcool] at h
    · exact h hfatal
    · exact hunset (hflags hcause)

/-- Settles O57, from the monitors and from the stages of the stop. -/
theorem dieStopsAndResumes : Obligations.DieStopsAndResumes := ⟨monitorsMeasure, dieStopsAndResumesByStages⟩

end Sys2Proof
end

section
/-! Scrubs, clock monitors, timeouts and spares (R656 to R688). -/

namespace Sys2Proof.Machine

variable {s : State}

/-! ## Scrubs -/

theorem exec_scrubRead (hclk : s.clocked = true) (t : ScrubTarget) (rd : ReadRes) : exec (.scrubRead t rd) s = .next (s.scrub t rd) :=
  congrArg Host.Outcome.next (if_pos hclk)

/-- R656: an uncorrectable line that was not poisoned before is poisoned, with its event. -/
theorem State.poisons_of_new {store line : Nat} {known : Bool} (h : (known && !s.test.fresh.contains (store, line)) = false)
    (bad post : State → State) :
    s.poisons store line known bad post = post (bad ((s.noFresh store line).mend store (fun l => l == line))) :=
  if_neg (by rw [h]; decide)

theorem State.scrubBench_of_clean {c line : Nat} {rd : ReadRes} {u : State} (hu : s.newPeriod line (c * 16) 16 = u)
    (h : u.benchSees c line rd = .clean) : s.scrubBench c line rd = u := by
  subst hu
  simp only [State.scrubBench, h]

theorem State.scrubBench_of_corrected {c line : Nat} {rd : ReadRes} {u : State} (hu : s.newPeriod line (c * 16) 16 = u)
    (h : u.benchSees c line rd = .corrected) :
    s.scrubBench c line rd = ((u.count 0 c 17).mend 0 (fun l => l == benchKey c line)).sramCorrected (benchRow c line) := by
  subst hu
  simp only [State.scrubBench, h]

/-- A line of a bench is poisoned. -/
def State.poisonBench (s : State) (c line : Nat) : State :=
  { s with mem := { s.mem with benchBad := setInsert (benchKey c line) s.mem.benchBad } }

theorem State.scrubBench_of_uncorrectable {c line : Nat} {rd : ReadRes} {u v : State} (hu : s.newPeriod line (c * 16) 16 = u)
    (h : u.benchSees c line rd = .uncorrectable)
    (hnew : (u.mem.benchBad.contains (benchKey c line) && !u.test.fresh.contains (0, benchKey c line)) = false)
    (hv : (u.noFresh 0 (benchKey c line)).mend 0 (fun l => l == benchKey c line) = v) :
    s.scrubBench c line rd =
      ((v.poisonBench c line).benchUe c).postOwner ((v.poisonBench c line).resident (c / 17)) { code := codeBenchUncorrectable } := by
  subst hu hv
  simp only [State.scrubBench, h]
  exact State.poisons_of_new hnew _ _

theorem State.scrubStore_of_clean {cl line : Nat} {rd : ReadRes} {u : State} (hu : s.newPeriod line (5000 + cl * 16) 16 = u)
    (h : u.storeSees cl line rd = .clean) : s.scrubStore cl line rd = u := by
  subst hu
  simp only [State.scrubStore, h]

theorem State.scrubStore_of_corrected {cl line : Nat} {rd : ReadRes} {u : State} (hu : s.newPeriod line (5000 + cl * 16) 16 = u)
    (h : u.storeSees cl line rd = .corrected) :
    s.scrubStore cl line rd = (u.storeCorrected cl line).mend 1 (fun l => l == cl * 65536 + line) := by
  subst hu
  simp only [State.scrubStore, h]

/-- An uncorrectable line of a hub structure: the structure is lost (Table 16-8). -/
theorem State.scrubHub_of_uncorrectable {hub : HubStruct} {line : Nat} {rd : ReadRes} {u v : State} (hu : s.newPeriod line 6000 24 = u)
    (hnew : u.mem.hubBad.contains line = false) (h : u.flipSees 2 line rd = .uncorrectable)
    (hv : (u.noFresh 2 line).mend 2 (fun l => l == line) = v) :
    s.scrubHub hub line rd = ((({ v with mem := { v.mem with hubBad := setInsert line v.mem.hubBad } } : State).postDev
      { code := codeSramUncorrectable, detail := sramDetail 1 0 line 1 }).hubLost hub) := by
  subst hu hv
  simp only [State.scrubHub, hnew, Bool.false_eq_true, if_false, h]
  exact State.poisons_of_new (by rw [Bool.false_and]) _ _

/-- A sync object's line, in a slab that is in service. -/
theorem State.scrubObj_of_slab {k : ObjKey} {home slab : Nat} {m : State} (hslab : s.slabOf k = some (home, slab))
    (hcopy : s.copying home slab = false) (hin : s.sync.failed.contains (slabKey home slab) = false)
    (hm : s.mend 3 (fun l => l == syncLine home slab k.idx) = m) (rd : ReadRes) :
    (s.flipSees 3 (syncLine home slab k.idx) rd = .clean → s.scrubObj k rd = m) ∧
    (s.flipSees 3 (syncLine home slab k.idx) rd = .corrected → s.scrubObj k rd = m.objCorrected home slab) ∧
    (s.flipSees 3 (syncLine home slab k.idx) rd = .uncorrectable → s.scrubObj k rd = m.objFails k home slab k.cl 0 k.ref 1) := by
  subst hm
  have hserves : ¬ (s.copying home slab || s.sync.failed.contains (slabKey home slab)) = true := by
    rw [hcopy, hin]
    decide
  refine ⟨fun h => ?_, fun h => ?_, fun h => ?_⟩
  all_goals simp only [State.scrubObj, hslab, if_neg hserves, h]

/-! ## Clock monitors -/

/-- The count of failing windows in a row of a monitor. -/
def State.failedWindows (s : State) (d : ClockDom) (inst n : Nat) : State :=
  { s with flt := { s.flt with windows := tabSet 0 s.flt.windows (clkBit d * 16 + inst) n } }

theorem exec_clockMonitorWindow_good {d : ClockDom} {inst : Nat} (h : s.watched d inst = true) :
    exec (.clockMonitorWindow d inst .good) s = .next (s.failedWindows d inst 0) :=
  congrArg Host.Outcome.next (if_neg (by simp [h]))

/-- The third failing window in a row is a fault. -/
theorem exec_clockMonitorWindow_bad {d : ClockDom} {inst : Nat} (h : s.watched d inst = true) {obs : ClockObs} (hbad : obs ≠ .good) :
    exec (.clockMonitorWindow d inst obs) s =
      let n := tabGet 0 s.flt.windows (clkBit d * 16 + inst) + 1
      .next (if n = 3 then (s.failedWindows d inst 0).clockFault d inst (if obs = .stopped then 1 else 2) else s.failedWindows d inst n) := by
  refine congrArg Host.Outcome.next ((if_neg (by simp [h])).trans ?_)
  cases obs with
  | good => exact absurd rfl hbad
  | stopped => rfl
  | offFrequency => rfl

/-! ## Response timeouts -/

/-- A local request without a response is a control detection. -/
theorem exec_responseTimeout_of_local {tag : Nat} {r : Req} (hclk : s.clocked = true) (hlocal : s.localReq r = true)
    (hr : s.mv.reqs.find? (fun r => r.tag == tag) = some r) : exec (.responseTimeout tag) s = .next (s.controlDetect agentTimeout) := by
  refine congrArg Host.Outcome.next ?_
  simp only [hr, hclk, hlocal, Bool.and_self, if_true]

end Sys2Proof.Machine

namespace Sys2Proof
open Sys2Proof.Machine Sys2Proof.Claims

theorem scrubsCorrectAndPoison : ScrubsCorrectAndPoison := by
  intro s rd hclk
  have hscrub {t : ScrubTarget} {u : State} (h : s.scrub t rd = u) : exec (.scrubRead t rd) s = .next u :=
    (exec_scrubRead hclk t rd).trans (congrArg _ h)
  refine ⟨fun c line u hu => ⟨fun h => hscrub (State.scrubBench_of_clean hu h), fun h => hscrub (State.scrubBench_of_corrected hu h),
      fun v h hnew hv => hscrub (State.scrubBench_of_uncorrectable hu h hnew hv)⟩,
    fun cl line u hu => ⟨fun h => hscrub (State.scrubStore_of_clean hu h), fun h => hscrub (State.scrubStore_of_corrected hu h)⟩,
    fun h line u v hu hnew hbad hv => hscrub (State.scrubHub_of_uncorrectable hu hnew hbad hv), fun x idx => hscrub rfl,
    fun cl idx x hx => hscrub ?syncCluster, fun line => hscrub rfl,
    fun k home slab hslab hcopy hin m hm => State.scrubObj_of_slab hslab hcopy hin hm rd⟩
  case syncCluster => simp only [State.scrub, hx]

theorem hardwareFaultsAreActedOn : HardwareFaultsAreActedOn := by
  intro s
  refine ⟨fun d inst hwatched => ⟨exec_clockMonitorWindow_good hwatched, fun obs hbad hcount => ?early, fun obs hbad hcount => ?third⟩,
    fun tag r hr hclk hlocal => exec_responseTimeout_of_local hclk hlocal hr,
    fun r hclk hcopied => congrArg Host.Outcome.next (if_pos (by rw [hclk, hcopied]; rfl)),
    fun bank u hclk hcopied hu => ?bank⟩
  case early => exact (exec_clockMonitorWindow_bad hwatched hbad).trans (congrArg Host.Outcome.next (if_neg (by omega)))
  case third => exact (exec_clockMonitorWindow_bad hwatched hbad).trans (congrArg Host.Outcome.next (if_pos (by omega)))
  case bank =>
    subst hu
    exact congrArg Host.Outcome.next (if_pos (by rw [hclk, hcopied]; rfl))

/-- Settles O58, from the scrubs and from the monitors, timeouts and spares. -/
theorem faultsAreFoundAndSpared : Obligations.FaultsAreFoundAndSpared := ⟨scrubsCorrectAndPoison, hardwareFaultsAreActedOn⟩

end Sys2Proof
end

section
/-! Entropy, attestation and bandwidth windows (R690, R695 to R700, R715), the awl (R717 to R725), and the test access port (R753). -/

namespace Sys2Proof.Machine

variable {s : State}

/-! ## Attestation -/

/-- R697: the report is signed and shown, and BUSY ends. -/
theorem exec_attestationDone {b sig : List Byte} (hb : s.sec.building = some b) (hfw : s.fwOn 0 = true)
    (hentropy : s.fld .secStatus fSecStatusEntFail ≠ 1) (hsig : padBytes 3309 (Config.mldsaSign (ascii "SV2-ATT") b s.sec.signs) = sig) :
    exec .attestationDone s = .next
      ((({ s with sec := { s.sec with building := none, report := b ++ sig ++ [0, 0, 0], signs := s.sec.signs + 1 } } : State).setFld
        .secAttCtl fSecAttCtlCode 0 codeOk.toNat).setFld .secAttCtl fSecAttCtlBusy 0 0) := by
  subst hsig
  have hmay : ¬ ((!s.fwOn 0) = true ∨ s.fld .secStatus fSecStatusEntFail = 1) := by simp [hfw, hentropy]
  refine congrArg Host.Outcome.next ?_
  simp only [hb, if_neg hmay]

/-! ## The awl -/

theorem State.awlWrite_of_enabled (hclk : s.clocked = true) (htest : s.testEnable = true) (f : State → State) :
    s.awlWrite f = (f s).setFld .awlStatus fAwlStatusCode 0 codeOk.toNat :=
  (if_neg (by simp [hclk])).trans (if_pos htest)

/-- R717: without TEST_ENABLE the awl refuses. -/
theorem State.awlWrite_of_denied (hclk : s.clocked = true) (htest : s.testEnable = false) (f : State → State) :
    s.awlWrite f = s.setFld .awlStatus fAwlStatusCode 0 codeTestDenied.toNat :=
  (if_neg (by simp [hclk])).trans (if_neg (by simp [htest]))

theorem exec_awlInjGo_of_denied (htest : s.testEnable = false) (store : BitVec 4) (bits : BitVec 2) :
    exec (.awlInjGo store bits) s = .next (s.awlWrite (fun s => s)) :=
  congrArg Host.Outcome.next (if_pos (.inr (by simp [htest])))

theorem exec_awlInjGo_of_on {store : BitVec 4} {bits : BitVec 2} {u : State} (hclk : s.clocked = true) (htest : s.testEnable = true)
    (hu : s.awlWrite (fun s => (s.setFld .awlInjCtl fAwlInjCtlStore 0 store.toNat).setFld .awlInjCtl fAwlInjCtlBits 0 bits.toNat) = u)
    (hon : u.awlState = 2) (hstore : store.toNat < 5) (hbits : bits = 1 ∨ bits = 2) :
    exec (.awlInjGo store bits) s = .next (u.inject store.toNat bits.toNat) := by
  subst hu
  exact congrArg Host.Outcome.next ((if_neg (by simp [hclk, htest])).trans (if_pos ⟨hon, hstore, hbits⟩))

/-- The word that AWL_INJ_ADDR names in a store. -/
def State.injTarget (s : State) (store : Nat) : Option (Nat × Nat) :=
  injPlace store (s.fld .awlInjAddr fAwlInjAddrInstance) (s.fld .awlInjAddr fAwlInjAddrWord) (s.fld .awlInjAddr fAwlInjAddrBit)

theorem State.inject_of_noPlace {store : Nat} (h : s.injTarget store = none) (bits : Nat) :
    s.inject store bits = s.setFld .awlStatus fAwlStatusCode 0 codeAddressInvalid.toNat := by
  unfold State.injTarget at h
  simp only [State.inject, h]

/-- R722: one bit is inverted. -/
theorem State.inject_one {store line w : Nat} (h : s.injTarget store = some (line, w)) :
    s.inject store 1 = ((s.flipBit ⟨store, line, w, s.fld .awlInjAddr fAwlInjAddrBit⟩).settleFlips store line).bump .awlStatus
      fAwlStatusInjected 0 := by
  unfold State.injTarget at h
  simp only [State.inject, h, Nat.reduceEqDiff, if_false]

/-- R722: two bits, eight apart, are inverted. -/
theorem State.inject_two {store line w : Nat} (h : s.injTarget store = some (line, w)) :
    s.inject store 2 =
      (((s.flipBit ⟨store, line, w, s.fld .awlInjAddr fAwlInjAddrBit⟩).flipBit
        ⟨store, line, w, (s.fld .awlInjAddr fAwlInjAddrBit + 8) % (if store = 4 then 512 else 72)⟩).settleFlips store line).bump .awlStatus
          fAwlStatusInjected 0 := by
  unfold State.injTarget at h
  simp only [State.inject, h, if_true]

/-- R719: a request without one recorded acts at once from a state at rest, and is recorded in a state on its way. -/
theorem State.awlRequest_on (hnone : s.fld .awlCtl fAwlCtlPending ≠ 1) :
    s.awlRequest true = if s.awlState = 0 then s.setAwl 1 else if s.awlState = 3 then s.awlPending 1 else s :=
  (if_neg hnone).trans (if_pos rfl)

theorem State.awlRequest_off (hnone : s.fld .awlCtl fAwlCtlPending ≠ 1) :
    s.awlRequest false = if s.awlState = 2 then s.setAwl 3 else if s.awlState = 1 then s.awlPending 1 else s :=
  (if_neg hnone).trans (if_neg Bool.false_ne_true)

end Sys2Proof.Machine

namespace Sys2Proof
open Sys2Proof.Machine Sys2Proof.Claims

theorem entropyAttestationAndWindows : EntropyAttestationAndWindows := by
  intro s
  refine ⟨rfl, fun u hu => ?passes, fun hclk hidle => congrArg Host.Outcome.next (if_neg (by simp [hclk, hidle])),
    fun hbusy => congrArg Host.Outcome.next (if_pos (.inr hbusy)), fun b sig hb hfw hentropy hsig => exec_attestationDone hb hfw hentropy hsig,
    fun p u hclk hu => ?window⟩
  case passes =>
    subst hu
    exact ⟨fun hkeying => congrArg Host.Outcome.next (if_pos hkeying),
      fun hkeying => congrArg Host.Outcome.next (if_neg (Bool.eq_false_iff.mp hkeying))⟩
  case window =>
    subst hu
    exact congrArg Host.Outcome.next (if_neg (by simp [hclk]))

theorem awlStartsDrainsAndInjects : AwlStartsDrainsAndInjects := by
  intro s hclk
  refine ⟨fun htest => ⟨congrArg Host.Outcome.next (State.awlWrite_of_enabled hclk htest _),
      congrArg Host.Outcome.next (State.awlWrite_of_enabled hclk htest _)⟩,
    fun htest store bits => ⟨congrArg Host.Outcome.next (State.awlWrite_of_denied hclk htest _),
      congrArg Host.Outcome.next (State.awlWrite_of_denied hclk htest _),
      (exec_awlInjGo_of_denied htest store bits).trans (congrArg _ (State.awlWrite_of_denied hclk htest _))⟩,
    fun hnone => ?requests, fun hstate => ⟨fun h => ?_, fun h => ?_⟩, fun hstate => ⟨fun h => ?_, fun h => ?_⟩,
    fun store bits u htest hu hon hstore hbits inst word bit hinst hword hbit => ?injects⟩
  case requests =>
    exact ⟨fun h => (State.awlRequest_on hnone).trans (if_pos h), fun h => (State.awlRequest_off hnone).trans (if_pos h),
      fun h => (State.awlRequest_on hnone).trans ((if_neg (by omega)).trans (if_pos h)),
      fun h => (State.awlRequest_off hnone).trans ((if_neg (by omega)).trans (if_pos h))⟩
  case injects =>
    subst hinst hword hbit
    have hexec := exec_awlInjGo_of_on hclk htest hu hon hstore hbits
    refine ⟨fun hplace => hexec.trans (congrArg Host.Outcome.next (State.inject_of_noPlace hplace _)), fun line w hplace hone => ?one,
      fun line w hplace htwo => ?two⟩
    case one =>
      subst hone
      exact hexec.trans (congrArg Host.Outcome.next (State.inject_one hplace))
    case two =>
      subst htwo
      exact hexec.trans (congrArg Host.Outcome.next (State.inject_two hplace))
  all_goals refine congrArg Host.Outcome.next ((if_pos ⟨hclk, hstate⟩).trans ?_)
  · exact if_neg h
  · exact if_pos h
  · exact if_neg h
  · exact if_pos h

theorem testPortActs : TestPortActs := by
  intro s
  refine ⟨rfl, fun p d u hdraw => ?boundary, fun dg u hu => ?fuse⟩
  case boundary =>
    obtain rfl : s.draw.1 = d := congrArg Prod.fst hdraw
    obtain rfl : s.draw.2 = u := congrArg Prod.snd hdraw
    exact ⟨rfl, rfl⟩
  case fuse =>
    subst hu
    refine ⟨fun hreset hblank => congrArg Host.Outcome.next (if_pos ⟨hreset, rfl, hblank⟩), fun vpp hbar =>
      congrArg Host.Outcome.next (if_neg (fun ⟨hreset, hvpp, hblank⟩ => ?barred))⟩
    case barred =>
      rcases hbar with h | h | h
      · exact h hreset
      · simp [h] at hvpp
      · exact h hblank

/-- Settles O59, from attestation, the awl and the test port. -/
theorem securityAndTest : Obligations.SecurityAndTest := ⟨entropyAttestationAndWindows, awlStartsDrainsAndInjects, testPortActs⟩

end Sys2Proof
end
